-- ==== Sys2Proof/Word.lean ====
section
/-! DEFINITION. The words of the machine and their plainest arithmetic (00:R4). -/

namespace Sys2Proof

/-- A register word of 64 bits (04:R75). -/
abbrev Word := BitVec 64

/-- A byte of memory. -/
abbrev Byte := BitVec 8

/-- A 56-bit virtual address (04:R92). -/
abbrev Addr := BitVec 56

/-- One bit per seat lane of a gang; bit L is seat lane L (06:R120). -/
abbrev Mask := BitVec 32

/-- One value per seat lane of a gang. -/
abbrev Lanes (α : Type) := Vector α 32

/-- Bits `lo + w - 1 : lo` of a word, as a number (00:R4). -/
def bits (x : Word) (lo w : Nat) : Nat := (x.toNat >>> lo) % 2 ^ w

/-- Word `n` placed at bit `lo`. -/
def field (lo n : Nat) : Nat := n <<< lo

/-- A condition as one bit. -/
def bit (b : Bool) : Nat := if b then 1 else 0

end Sys2Proof
end

