-- ==== Sys2Proof/Config.lean ====
section
/-! DEFINITION. What an implementation fixes, and the free values (00:R6): constants with no body, so that a
statement about one holds for every value. -/

namespace Sys2Proof

/-- The `n`-th undefined value handed out (00:R6; log 3). -/
opaque Config.freeWord : Nat → Word

/-- The undefined byte at `off` of the allotment of the `n`-th brick started (08:R166, 00:R6; log 18). -/
opaque Config.freeByte : Nat → Nat → Byte

/-- The private side of the device's LMS identity (22:R426; log 14): the identifier of its tree, the private element `i` of one-time
key `q`, the randomizer of a signature with key `q`, the node with number `r` of the tree. -/
opaque Config.identityId : Vector Byte 16

opaque Config.identitySecret : Nat → Nat → Vector Byte 32

opaque Config.identityRandom : Nat → Vector Byte 32

opaque Config.identityNode : Nat → Vector Byte 32

/-- The fused digest of the public key (22:R425; log 14). -/
opaque Config.bootKey : Vector Byte 32

/-- The security version that a firmware image carries (22:R425; log 14). -/
opaque Config.imageVersion : List Byte → Nat

/-- The fuse words, FUSEMAP and PARTCFG, as the digest of a quote takes them (22:R426; log 14). -/
opaque Config.fuseWords : Nat → Nat → List Byte

/-- The channel, 0 to 31 of each stack of its footing, of a 64 KiB frame (22:R428 gives no map; log 21). -/
opaque Config.channel : Nat → Nat

/-- The stepping in DEVID (22:R413; log 21). -/
opaque Config.stepping : BitVec 8

end Sys2Proof
end

