-- ==== Sys2Proof/Syntax.lean ====
section
/-! DEFINITION. The instructions and the events of the device, one constructor of `Instr` for every row of the
opcode table, with their operand fields (03:R54-R71 and the chapters named there; events: file 95). -/

namespace Sys2Proof

/-- Operand and element types (03:R61). -/
inductive Ty
  | z32 | s32 | s64 | a56 | z8 | s8 | z16 | s16 | f32 | f16 | bf16 | e4m3 | e5m2
deriving DecidableEq, Repr

/-- Float types of class 1 (03:R62). -/
inductive FTy
  | f32 | f16 | bf16
deriving DecidableEq, Repr

/-- Rounding modes (03:R62, 05:R104). -/
inductive Rnd
  | rne | rz | ru | rd
deriving DecidableEq, Repr

/-- Integer compare conditions (04:R95). -/
inductive ICond
  | eq | ne | lt | le | gt | ge | tst | ntst
deriving DecidableEq, Repr

/-- Float compare conditions (05:R109). -/
inductive FCond
  | eq | ne | lt | le | gt | ge | un | ord
deriving DecidableEq, Repr

/-- The guard of a word: a predicate, negated when `neg` (03:R54 bits 51:48). -/
structure Guard where
  neg : Bool
  p : BitVec 3
deriving DecidableEq, Repr

/-- A predicate named with a negate bit (06:R130, 04:R93, 06:R128). -/
structure PRef where
  neg : Bool
  p : BitVec 3
deriving DecidableEq, Repr

/-- A named destination of forms V, K and L (03:R56). -/
inductive Dest
  | none
  | n (i : BitVec 6)
  | k (i : BitVec 5)
deriving DecidableEq, Repr

/-- Operands (03:R57, R58): `q i` is `q(i+1)`, `cst` one of the eight small constants. -/
inductive Opnd
  | q (i : BitVec 4)
  | n (i : BitVec 6)
  | k (i : BitVec 5)
  | g (i : BitVec 4)
  | cst (i : BitVec 3)
  | imms | immz | immh | seatlane | oid | ones | lanebit
deriving DecidableEq, Repr

/-- Scopes (08:R180). -/
inductive Scope
  | gang | brick | course | footing | device | system
deriving DecidableEq, Repr

/-- Orderings of an atomic (08:R180). -/
inductive Ord
  | relaxed | acquire | release | acqRel
deriving DecidableEq, Repr

/-- The modifiers of an atomic or reduction (08:R180). -/
structure AtMod where
  sc : Scope
  ord : Ord
  off : BitVec 11
deriving DecidableEq, Repr

/-- The modifiers of CVT and CVT.X2 (05:R111). -/
structure CvtMod where
  dst : Ty
  src : Ty
  rnd : Rnd
  sat : Bool
deriving DecidableEq, Repr

/-- The strides and spaces of a matrix product (07:R149). -/
structure MmaMod where
  sa : BitVec 10
  sb : BitVec 10
  asp : Bool
  bsp : Bool
deriving DecidableEq, Repr

/-- The semirings of MMA.SR (07:R155). -/
inductive Semiring
  | minplusF32 | minplusF16 | minplusS32 | maxtimesF32 | maxtimesF16 | orand
deriving DecidableEq, Repr

/-- Output formats of QUANT (12:R255). -/
inductive QFmt
  | e4m3 | s8 | bp
deriving DecidableEq, Repr

/-- Source spaces of a copy (09:R201). -/
inductive CopySpace
  | global | course | window
deriving DecidableEq, Repr

/-- A barrier of the brick or of the course (11:R225). -/
inductive BarRef
  | brick (i : BitVec 4)
  | course (i : BitVec 2)
deriving DecidableEq, Repr

/-- An optional token (03:R55, form E). -/
abbrev Tok := Option (BitVec 3)

/-- Every instruction of the opcode map, then every event of the opcode table (file 95), in the table's order.
Common fields: `g` guard, `t` type, `d` destination, `a b c` operands, `imm` the immediate that IMMS, IMMZ and IMMH
read, `m` modifiers, `tok` token, `w` watermark. -/
inductive Instr
  -- class 0 (03:R63, file 04; VOTE, PLOP, MOVEM file 06)
  | add (g : Guard) (t : Ty) (d : Dest) (a b : Opnd) (imm : BitVec 16)
  | sub (g : Guard) (t : Ty) (d : Dest) (a b : Opnd) (imm : BitVec 16)
  | mul (g : Guard) (t : Ty) (d : Dest) (a b : Opnd) (imm : BitVec 16)
  | mulhi (g : Guard) (t : Ty) (d : Dest) (a b : Opnd) (imm : BitVec 16)
  | mulw (g : Guard) (t : Ty) (d : Dest) (a b : Opnd) (imm : BitVec 16)
  | mad (g : Guard) (t : Ty) (d : Dest) (a b c : Opnd) (imm : BitVec 16)
  | addSat (g : Guard) (t : Ty) (d : Dest) (a b : Opnd) (imm : BitVec 16)
  | subSat (g : Guard) (t : Ty) (d : Dest) (a b : Opnd) (imm : BitVec 16)
  | min (g : Guard) (t : Ty) (d : Dest) (a b : Opnd) (imm : BitVec 16)
  | max (g : Guard) (t : Ty) (d : Dest) (a b : Opnd) (imm : BitVec 16)
  | abs (g : Guard) (t : Ty) (d : Dest) (a : Opnd) (imm : BitVec 16)
  | and (g : Guard) (t : Ty) (d : Dest) (a b : Opnd) (imm : BitVec 16)
  | or (g : Guard) (t : Ty) (d : Dest) (a b : Opnd) (imm : BitVec 16)
  | xor (g : Guard) (t : Ty) (d : Dest) (a b : Opnd) (imm : BitVec 16)
  | not (g : Guard) (t : Ty) (d : Dest) (a : Opnd) (imm : BitVec 16)
  | shl (g : Guard) (t : Ty) (d : Dest) (a b : Opnd) (imm : BitVec 16)
  | shr (g : Guard) (t : Ty) (d : Dest) (a b : Opnd) (imm : BitVec 16)
  | sar (g : Guard) (t : Ty) (d : Dest) (a b : Opnd) (imm : BitVec 16)
  | rotl (g : Guard) (t : Ty) (d : Dest) (a b : Opnd) (imm : BitVec 16)
  | bfx (g : Guard) (t : Ty) (d : Dest) (a b : Opnd) (imm : BitVec 16)
  | bfi (g : Guard) (t : Ty) (d : Dest) (a b c : Opnd) (imm : BitVec 16)
  | popc (g : Guard) (t : Ty) (d : Dest) (a : Opnd) (imm : BitVec 16)
  | clz (g : Guard) (t : Ty) (d : Dest) (a : Opnd) (imm : BitVec 16)
  | brev (g : Guard) (t : Ty) (d : Dest) (a : Opnd) (imm : BitVec 16)
  | sel (g : Guard) (t : Ty) (d : Dest) (a b : Opnd) (p : PRef)
  | cmp (g : Guard) (t : Ty) (cc : ICond) (pd : BitVec 3) (a b : Opnd) (imm : BitVec 16)
  | mov (g : Guard) (t : Ty) (d : Dest) (a : Opnd) (imm : BitVec 16)
  | movi (g : Guard) (t : Ty) (d : Dest) (v : BitVec 40)
  | addsc (g : Guard) (d : Dest) (a b : Opnd) (s : BitVec 3)
  | addscW (g : Guard) (d : Dest) (a b : Opnd) (s : BitVec 3)
  | voteBallot (g : Guard) (d : Dest) (pa : PRef)
  | voteAny (g : Guard) (pd : BitVec 3) (pa : PRef)
  | voteAll (g : Guard) (pd : BitVec 3) (pa : PRef)
  | voteLeadeq (g : Guard) (pd : BitVec 3) (a : Opnd)
  | plopAnd (g : Guard) (pd : BitVec 3) (pa pb : PRef)
  | plopOr (g : Guard) (pd : BitVec 3) (pa pb : PRef)
  | plopXor (g : Guard) (pd : BitVec 3) (pa pb : PRef)
  | plopAndn (g : Guard) (pd : BitVec 3) (pa pb : PRef)
  | movemGet (g : Guard) (d : Dest)
  | movemSet (g : Guard) (d : Dest) (a : Opnd)
  | movemGetfm (g : Guard) (d : Dest)
  | movemGetp (g : Guard) (d : Dest)
  | movemSetp (g : Guard) (a : Opnd)
  -- class 1 (03:R64, file 05)
  | addF (g : Guard) (t : FTy) (r : Rnd) (d : Dest) (a b : Opnd) (imm : BitVec 16)
  | subF (g : Guard) (t : FTy) (r : Rnd) (d : Dest) (a b : Opnd) (imm : BitVec 16)
  | mulF (g : Guard) (t : FTy) (r : Rnd) (d : Dest) (a b : Opnd) (imm : BitVec 16)
  | fma (g : Guard) (t : FTy) (r : Rnd) (d : Dest) (a b c : Opnd) (imm : BitVec 16)
  | minF (g : Guard) (t : FTy) (d : Dest) (a b : Opnd) (imm : BitVec 16)
  | maxF (g : Guard) (t : FTy) (d : Dest) (a b : Opnd) (imm : BitVec 16)
  | absF (g : Guard) (t : FTy) (d : Dest) (a : Opnd) (imm : BitVec 16)
  | neg (g : Guard) (t : FTy) (d : Dest) (a : Opnd) (imm : BitVec 16)
  | cmpF (g : Guard) (t : FTy) (cc : FCond) (pd : BitVec 3) (a b : Opnd) (imm : BitVec 16)
  | rcp (g : Guard) (t : FTy) (d : Dest) (a : Opnd) (imm : BitVec 16)
  | rsq (g : Guard) (t : FTy) (d : Dest) (a : Opnd) (imm : BitVec 16)
  | sqrt (g : Guard) (t : FTy) (d : Dest) (a : Opnd) (imm : BitVec 16)
  | ex2 (g : Guard) (t : FTy) (d : Dest) (a : Opnd) (imm : BitVec 16)
  | lg2 (g : Guard) (t : FTy) (d : Dest) (a : Opnd) (imm : BitVec 16)
  | rint (g : Guard) (t : FTy) (r : Rnd) (d : Dest) (a : Opnd) (imm : BitVec 16)
  | frc (g : Guard) (t : FTy) (d : Dest) (a : Opnd) (imm : BitVec 16)
  | cvt (g : Guard) (d : Dest) (a : Opnd) (m : CvtMod)
  | cvtX2 (g : Guard) (d : Dest) (a b : Opnd) (m : CvtMod)
  | packB16X2 (g : Guard) (d : Dest) (a b : Opnd) (imm : BitVec 16)
  | packB32X2 (g : Guard) (d : Dest) (a b : Opnd) (imm : BitVec 16)
  | unpkLo16 (g : Guard) (d : Dest) (a : Opnd) (imm : BitVec 16)
  | unpkHi16 (g : Guard) (d : Dest) (a : Opnd) (imm : BitVec 16)
  | unpkHi32 (g : Guard) (d : Dest) (a : Opnd) (imm : BitVec 16)
  | swzb (g : Guard) (d : Dest) (a b c : Opnd) (imm : BitVec 16)
  | bpack (g : Guard) (d : Dest) (a : Opnd)
  | bpext (g : Guard) (d : Dest) (a : Opnd) (p : BitVec 4)
  -- class 2 (03:R65, file 08; RED file 12)
  | ld (g : Guard) (t : Ty) (d : Dest) (a : Opnd) (off : BitVec 11)
  | ldRo (g : Guard) (t : Ty) (d : Dest) (a : Opnd) (off : BitVec 11)
  | ldAcq (g : Guard) (t : Ty) (d : Dest) (a : Opnd) (sc : Scope) (off : BitVec 11)
  | st (g : Guard) (t : Ty) (a b : Opnd) (off : BitVec 11)
  | stRel (g : Guard) (t : Ty) (a b : Opnd) (sc : Scope) (off : BitVec 11)
  | stP (g : Guard) (t : Ty) (d : Dest) (a b : Opnd) (off : BitVec 11)
  | stMc (g : Guard) (t : Ty) (a b : Opnd) (off : BitVec 11)
  | lds (g : Guard) (t : Ty) (d : Dest) (a : Opnd) (imm : BitVec 24)
  | sts (g : Guard) (t : Ty) (a b : Opnd) (imm : BitVec 24)
  | ldc (g : Guard) (t : Ty) (d : Dest) (a : Opnd) (imm : BitVec 24)
  | stc (g : Guard) (t : Ty) (a b : Opnd) (imm : BitVec 24)
  | fenceAcq (g : Guard) (sc : Scope)
  | fenceRel (g : Guard) (sc : Scope)
  | fenceFull (g : Guard) (sc : Scope)
  | fenceAck (g : Guard)
  | pref (g : Guard) (a : Opnd) (l2 : Bool)
  | cctlInv (g : Guard)
  | cctlInvro (g : Guard)
  | cctlLine (g : Guard) (a : Opnd)
  | mirrorSync (g : Guard) (a : Opnd)
  | atomAdd (g : Guard) (t : Ty) (d : Dest) (a b : Opnd) (m : AtMod)
  | atomMin (g : Guard) (t : Ty) (d : Dest) (a b : Opnd) (m : AtMod)
  | atomMax (g : Guard) (t : Ty) (d : Dest) (a b : Opnd) (m : AtMod)
  | atomAnd (g : Guard) (t : Ty) (d : Dest) (a b : Opnd) (m : AtMod)
  | atomOr (g : Guard) (t : Ty) (d : Dest) (a b : Opnd) (m : AtMod)
  | atomXor (g : Guard) (t : Ty) (d : Dest) (a b : Opnd) (m : AtMod)
  | atomXchg (g : Guard) (t : Ty) (d : Dest) (a b : Opnd) (m : AtMod)
  | atomCas (g : Guard) (t : Ty) (d : Dest) (a b c : Opnd) (m : AtMod)
  | atomInc (g : Guard) (d : Dest) (a b : Opnd) (m : AtMod)
  | atomPush (g : Guard) (d : Dest) (a b : Opnd) (sc : Scope) (ord : Ord)
  | atomPop (g : Guard) (d : Dest) (a : Opnd) (sc : Scope) (ord : Ord)
  | atomSteal (g : Guard) (d : Dest) (a : Opnd) (sc : Scope) (ord : Ord)
  | redAdd (g : Guard) (t : Ty) (a b : Opnd) (m : AtMod)
  | redMin (g : Guard) (t : Ty) (a b : Opnd) (m : AtMod)
  | redMax (g : Guard) (t : Ty) (a b : Opnd) (m : AtMod)
  -- class 3 (03:R66, files 09, 11, 12, 16, 18)
  | copy (g : Guard) (tok : Tok) (w : BitVec 3) (sp : CopySpace) (dims : BitVec 4) (a b : Opnd) (base : BitVec 19)
  | copyl (g : Guard) (tok : Tok) (w : BitVec 3) (sp : CopySpace) (dims : BitVec 4) (a b : Opnd) (base : BitVec 19)
  | wmarkRel (g : Guard) (w : BitVec 3)
  | wmarkWaitg (g : Guard) (w : BitVec 3) (a : Opnd)
  | wmarkGet (g : Guard) (w : BitVec 3)
  | wmarkGen (g : Guard) (w : BitVec 3)
  | mcJoin (g : Guard) (tok : Tok) (a b : Opnd)
  | mcLeave (g : Guard) (tok : Tok) (a : Opnd)
  | mcLd (g : Guard) (tok : Tok) (w : BitVec 3) (dims : BitVec 4) (a b : Opnd) (base : BitVec 14) (grp : BitVec 6)
  | gather (g : Guard) (t : Ty) (tok : Tok) (w : BitVec 3) (a b : Opnd) (base : BitVec 19) (sh : BitVec 3) (m : Bool)
  | scatter (g : Guard) (t : Ty) (tok : Tok) (a b : Opnd) (src : BitVec 19) (sh : BitVec 3) (m : Bool)
  | scatterAdd (g : Guard) (t : Ty) (tok : Tok) (a b : Opnd) (src : BitVec 19) (sh : BitVec 3) (m : Bool)
  | quant (g : Guard) (f : QFmt) (tok : Tok) (a : Opnd) (src : FTy)
  | waitt (g : Guard) (j : BitVec 3)
  | lrecNew (g : Guard) (a b : Opnd)
  | lrecSetGrid (g : Guard) (a b c : Opnd)
  | lrecSetCourse (g : Guard) (a b c : Opnd)
  | lrecSetClass (g : Guard) (a : Opnd)
  | lrecSetCounter (g : Guard) (a : Opnd)
  | lrecWait (g : Guard) (a b : Opnd)
  | launch (g : Guard) (tok : Tok)
  | joinc (g : Guard) (a b : Opnd)
  | strmStat (g : Guard) (d : Dest) (a : Opnd)
  | strmCommit (g : Guard) (d : Dest) (a b : Opnd)
  | strmReserve (g : Guard) (d : Dest) (a b : Opnd)
  | strmPage (g : Guard) (d : Dest) (a b : Opnd)
  | strmPageW (g : Guard) (d : Dest) (a b c : Opnd)
  | strmPageC (g : Guard) (d : Dest) (a b c : Opnd)
  | pgalloc (g : Guard) (a : Opnd)
  | pgfree (g : Guard) (tok : Tok) (a b : Opnd)
  | topk (g : Guard) (t : FTy) (tok : Tok) (a : Opnd)
  | rhist (g : Guard) (t : FTy) (tok : Tok) (a : Opnd)
  | biasadd (g : Guard) (t : FTy) (tok : Tok) (a : Opnd)
  -- class 4 (03:R67, file 07)
  | mma (g : Guard) (t : Ty) (tok : Tok) (c : BitVec 3) (a b : Opnd) (m : MmaMod)
  | mmaSr (g : Guard) (s : Semiring) (tok : Tok) (c : BitVec 3) (a b : Opnd) (m : MmaMod)
  | mmaSp (g : Guard) (t : Ty) (tok : Tok) (c : BitVec 3) (a b : Opnd) (m : MmaMod)
  | mmaBp (g : Guard) (p : BitVec 4) (tok : Tok) (c : BitVec 3) (a b : Opnd) (m : MmaMod)
  | accZero (g : Guard) (tok : Tok) (c : BitVec 3)
  | accMov (g : Guard) (tok : Tok) (c s : BitVec 3)
  | accCvtS32F32 (g : Guard) (tok : Tok) (c s : BitVec 3)
  | accCvtF32S32 (g : Guard) (tok : Tok) (c s : BitVec 3)
  | accScale (g : Guard) (t : Ty) (tok : Tok) (c s : BitVec 3) (a b : Opnd) (asp bsp : Bool)
  | accLd (g : Guard) (t : Ty) (tok : Tok) (c : BitVec 3) (a : Opnd) (stride : BitVec 10) (asp : Bool)
  | accSt (g : Guard) (t : Ty) (tok : Tok) (c : BitVec 3) (a : Opnd) (stride : BitVec 10) (asp : Bool)
  | accGet (g : Guard) (t : Ty) (c : BitVec 3) (a : Opnd)
  | accPut (g : Guard) (t : Ty) (c : BitVec 3) (a b : Opnd)
  | accPutAdd (g : Guard) (t : Ty) (c : BitVec 3) (a b : Opnd)
  -- class 5 (03:R68, file 13)
  | reorderPack (g : Guard) (key : Opnd) (base : BitVec 6) (mask : BitVec 16)
  | reorderAlign (g : Guard) (key : Opnd) (base : BitVec 6) (mask : BitVec 16)
  | reorderCount (g : Guard) (d : Dest) (key : Opnd)
  | riddleStat (g : Guard) (d : Dest)
  | seatmap (g : Guard) (d : Dest)
  -- class 6 (03:R69, files 03, 06, 11, 14)
  | nop (g : Guard)
  | nopCode
  | bra (g : Guard) (off : BitVec 40)
  | brx (g : Guard) (a : Opnd)
  | call (g : Guard) (d : Dest) (off : BitVec 40)
  | callx (g : Guard) (d : Dest) (a : Opnd)
  | ret (g : Guard) (a : Opnd)
  | split (g : Guard) (p : PRef) (off : BitVec 40)
  | join (g : Guard)
  | exit (g : Guard)
  | kill (g : Guard)
  | yield (g : Guard)
  | trap (g : Guard) (n : BitVec 16)
  | sysc (g : Guard) (n : BitVec 16)
  | brk (g : Guard) (n : BitVec 16)
  | eret (g : Guard)
  | eretSkip (g : Guard)
  | barInit (g : Guard) (x : BarRef) (a : Opnd)
  | barArrive (g : Guard) (x : BarRef) (d : Dest)
  | barWait (g : Guard) (x : BarRef) (a : Opnd)
  | barSync (g : Guard) (x : BarRef)
  | barPeek (g : Guard) (x : BarRef) (d : Dest)
  | phase (g : Guard)
  | monitor (g : Guard) (d : Dest) (a b : Opnd)
  | leadRd (g : Guard) (d : Dest)
  -- class 7 (03:R70, files 06, 14)
  | movs (g : Guard) (d : Dest) (x : BitVec 10)
  | movsRx (g : Guard) (d : Dest) (r : BitVec 2)
  | movsp (g : Guard) (x : BitVec 10) (a : Opnd)
  | movspTx (g : Guard) (r : BitVec 2) (a : Opnd)
  | csrr (g : Guard) (d : Dest) (n : BitVec 12)
  | csrw (g : Guard) (n : BitVec 12) (a : Opnd)
  | csrx (g : Guard) (d : Dest) (n : BitVec 12) (a : Opnd)
  | scrubSt (g : Guard) (d : Dest) (u : BitVec 4)
  | txbind (g : Guard) (r : BitVec 2) (a : Opnd)
  | txunbind (g : Guard) (r : BitVec 2)
  | rxpoll (g : Guard) (d : Dest) (r : BitVec 2)
  -- events (file 95); the arguments name the unit of work the event concerns
  | clauseDecode (core seat : Nat)
  | lateValueArrival (req : Nat)
  | splitStackTransfer (core seat : Nat)
  | monitorTimeout (core seat : Nat)
  | trapEntry (core seat : Nat)
  | engineFaultTaken (core seat : Nat)
  | sliceAccess (req entry : Nat)
  | sliceMissFill (slice line : Nat)
  | translationWalkDone (walk : Nat)
  | scrubberRead (core unit : Nat) (double : Bool) (mark : Option (Nat × Nat × Nat))
  | matrixStepComplete (core : Nat)
  | matrixRemoteArrival (core : Nat)
  | copyPieceLand (copy : Nat)
  | mcRequest (req : Nat)
  | mcHoldExpiry (footing slice grp : Nat)
  | gatherElementReturn (op elem : Nat)
  | scatterElementAck (op elem : Nat)
  | quantBlockDone (group : Nat)
  | sampleComplete (req : Nat)
  | leadUpdate (i : Nat)
  | flitDeparture (core tx : Nat)
  | flitArrival (i : Nat)
  | reorderCommit (wall course : Nat)
  | reorderRebuildDone (wall course : Nat)
  | preemptRequest (wall set : Nat)
  | parkMoveDone (gang : Nat)
  | contextToMemory (wall set : Nat)
  | restore (wall set : Nat)
  | swapOut (wall set : Nat)
  | swapConditionEnd (wall set : Nat)
  | highDelayExpiry (wall set : Nat)
  | placeSet (wall set : Nat)
  | brickRetire (wall brick : Nat)
  | packetTake (queue : Nat)
  | queueReread (queue : Nat)
  | wallReady (wall : Nat)
  | pendingLaunchTake (wall brick : Nat)
  | overflowClaim (req : Nat)
  | unitAccessRetry (hold : Nat)
  | streamClose (stream : Nat)
  | streamStepLaunch (stream : Nat)
  | ptmExchange (ns : Int)
  | epochEnd (footing : Nat)
  | remoteWriteApply (write dst : Nat)
  | peerFlitReceive (port : Nat) (flit : List Nat)
  | peerNak (port seq : Nat)
  | peerRetrain (port : Nat)
  | peerTrained (port : Nat)
  | hostWrite (link addr : Nat) (data : List Nat) (relaxed : Bool)
  | hostRead (link addr len : Nat)
  | hostAtomic (link addr op width b c : Nat)
  | partcfgWrite (v : Nat)
  | tlbinvPage (v : Nat)
  | tlbinvAsid (v : Nat)
  | tlbinvAll (v : Nat)
  | tlbinvReserved (v : Nat)
  | invalidationComplete
  | faultcmdResume (v : Nat)
  | faultcmdResumeSkip (v : Nat)
  | faultcmdUnresolvable (v : Nat)
  | faultcmdDeliver (v : Nat)
  | faultcmdTerminate (v : Nat)
  | faultcmdReserved (v : Nat)
  | qregRegister (v : Nat)
  | qregRemove (v : Nat)
  | tickcmdAdmit (v : Nat)
  | tickcmdRetire (v : Nat)
  | tickcmdNone (v : Nat)
  | tickcmdReserved (v : Nat)
  | fqheadWrite (part v : Nat)
  | fqReconfigure (part size base : Nat)
  | slicectlWrite (slice v : Nat)
  | slicectlRead (slice : Nat)
  | attestQuote
  | attestSignDone
  | registerWrite (off v : Nat)
  | deviceReset (image : List Nat) (signed : List Nat × List Nat)
  | thermalThrottle (group temp droop proc : Nat) (overPower : Bool)
  | thermalStop
  | peerWrite (port v : Nat)
  | monitorEarlyWake (core seat : Nat)
  | powerFailure
deriving DecidableEq, Repr

end Sys2Proof
end

