-- ==== Sys2Proof/WellFormed.lean ====
section
/-! DEFINITION. Which terms of `Instr` are instructions the encoding admits (03:R55-R71 and the chapters' own
rules on fields). An event row has no encoding; its arguments are unrestricted. -/

namespace Sys2Proof

/-- IMMS, IMMZ and IMMH (03:R58, R59). -/
def Opnd.isImm : Opnd → Bool
  | .imms | .immz | .immh => true
  | _ => false

/-- An instruction whose IMM holds an immediate: IMM is zero unless an operand names it (03:R59, 04:R88). -/
def immOk (os : List Opnd) (imm : BitVec 16) : Bool := os.any Opnd.isImm || imm == 0

/-- An instruction that may name no immediate operand (03:R59). -/
def noImm (os : List Opnd) : Bool := os.all fun o => !o.isImm

/-- An atomic's modifiers: no scope without an order (08:R180). -/
def AtMod.ok (m : AtMod) : Bool := m.ord != .relaxed || m.sc == .gang

/-- A deque operation's scope and order (08:R180, R190). -/
def scOrdOk (sc : Scope) (o : Ord) : Bool := o != .relaxed || sc == .gang

/-- A reduction is relaxed or a release (12:R251). -/
def AtMod.redOk (m : AtMod) : Bool := m.ok && (m.ord == .relaxed || m.ord == .release)

/-- Integer formats (05:R101). -/
def Ty.isInt : Ty → Bool
  | .z32 | .s32 | .s64 | .z8 | .s8 | .z16 | .s16 => true
  | _ => false

/-- The width in bits of a format. -/
def Ty.width : Ty → Nat
  | .z32 | .s32 | .f32 => 32
  | .s64 => 64
  | .a56 => 56
  | .z8 | .s8 | .e4m3 | .e5m2 => 8
  | .z16 | .s16 | .f16 | .bf16 => 16

/-- The width in bytes of a memory element. -/
def Ty.bytes (t : Ty) : Nat := t.width / 8

/-- The formats CVT admits together (05:R111, R114). -/
def CvtMod.ok (m : CvtMod) : Bool :=
  m.dst != .a56 && m.src != .a56 && !(m.sat && !m.src.isInt && m.dst.isInt)
    && !(m.rnd != .rne && m.src.isInt && m.dst.isInt)

/-- The special registers MOVS reads by number (06:R135); `%rx` is its own row. -/
def movsOk (x : BitVec 10) : Bool := x.toNat ≤ 0x15 || (0x20 ≤ x.toNat && x.toNat ≤ 0x2F)

/-- The special registers MOVSP writes by number (06:R135); `%tx` is its own row. -/
def movspOk (x : BitVec 10) : Bool := x.toNat == 0x14 || (0x20 ≤ x.toNat && x.toNat ≤ 0x2F)

/-- Types of the loads (03:R65). -/
def ldTys : List Ty := [.z32, .s32, .s64, .z8, .s8, .z16, .s16]

/-- Types of the stores (03:R65). -/
def stTys : List Ty := [.z32, .s64, .z8, .z16]

/-- Well-formed instructions: exactly the terms that some word encodes. -/
def Instr.wf : Instr → Bool
  | .add _ t _ a b imm | .sub _ t _ a b imm => [.z32, .s32, .s64, .a56].contains t && immOk [a, b] imm
  | .mul _ t _ a b imm | .mulhi _ t _ a b imm | .addSat _ t _ a b imm | .subSat _ t _ a b imm
  | .min _ t _ a b imm | .max _ t _ a b imm | .bfx _ t _ a b imm =>
    [Ty.z32, .s32, .s64].contains t && immOk [a, b] imm
  | .mulw _ t _ a b imm => [Ty.z32, .s32].contains t && immOk [a, b] imm
  | .mad _ t _ a b c imm => [Ty.z32, .s32, .s64].contains t && immOk [a, b, c] imm
  | .abs _ t _ a imm => [Ty.s32, .s64].contains t && immOk [a] imm
  | .and _ t _ a b imm | .or _ t _ a b imm | .xor _ t _ a b imm | .shl _ t _ a b imm | .shr _ t _ a b imm
  | .rotl _ t _ a b imm => [Ty.z32, .s64].contains t && immOk [a, b] imm
  | .sar _ t _ a b imm => [Ty.s32, .s64].contains t && immOk [a, b] imm
  | .bfi _ t _ a b c imm => [Ty.z32, .s64].contains t && immOk [a, b, c] imm
  | .not _ t _ a imm | .popc _ t _ a imm | .clz _ t _ a imm | .brev _ t _ a imm | .mov _ t _ a imm =>
    [Ty.z32, .s64].contains t && immOk [a] imm
  | .sel _ t _ a b _ => [Ty.z32, .s64].contains t && noImm [a, b]
  | .cmp _ t _ _ a b imm => [Ty.z32, .s32, .s64, .a56].contains t && immOk [a, b] imm
  | .movi _ t _ v =>
    [Ty.s64, .a56].contains t || ([Ty.z32, .s32].contains t && v.toNat < 2 ^ 32)
  | .addsc _ _ a b _ | .addscW _ _ a b _ => noImm [a, b]
  | .voteBallot .. | .voteAny .. | .voteAll .. => true
  | .voteLeadeq _ _ a => noImm [a]
  | .plopAnd .. | .plopOr .. | .plopXor .. | .plopAndn .. => true
  | .movemGet .. | .movemGetfm .. | .movemGetp .. => true
  | .movemSet _ _ a | .movemSetp _ a => noImm [a]
  | .addF _ _ _ _ a b imm | .subF _ _ _ _ a b imm | .mulF _ _ _ _ a b imm => immOk [a, b] imm
  | .fma _ _ _ _ a b c imm => immOk [a, b, c] imm
  | .minF _ _ _ a b imm | .maxF _ _ _ a b imm => immOk [a, b] imm
  | .absF _ _ _ a imm | .neg _ _ _ a imm | .rcp _ _ _ a imm | .rsq _ _ _ a imm | .sqrt _ _ _ a imm
  | .ex2 _ _ _ a imm | .lg2 _ _ _ a imm | .frc _ _ _ a imm => immOk [a] imm
  | .cmpF _ _ _ _ a b imm => immOk [a, b] imm
  | .rint _ _ _ _ a imm => immOk [a] imm
  | .cvt _ _ a m => m.ok && noImm [a]
  | .cvtX2 _ _ a b m => m.ok && noImm [a, b] && m.dst.width ≤ 16
  | .packB16X2 _ _ a b imm | .packB32X2 _ _ a b imm => immOk [a, b] imm
  | .unpkLo16 _ _ a imm | .unpkHi16 _ _ a imm | .unpkHi32 _ _ a imm => immOk [a] imm
  | .swzb _ _ a b c imm => immOk [a, b, c] imm
  | .bpack _ _ a => noImm [a]
  | .bpext _ _ a p => noImm [a] && 2 ≤ p.toNat && p.toNat ≤ 8
  | .ld _ t _ a _ | .ldRo _ t _ a _ | .ldAcq _ t _ a _ _ => ldTys.contains t && noImm [a]
  | .st _ t a b _ | .stRel _ t a b _ _ | .stP _ t _ a b _ | .stMc _ t a b _ => stTys.contains t && noImm [a, b]
  | .lds _ t _ a _ | .ldc _ t _ a _ => ldTys.contains t && noImm [a]
  | .sts _ t a b _ | .stc _ t a b _ => stTys.contains t && noImm [a, b]
  | .fenceAcq .. | .fenceRel .. | .fenceFull .. | .fenceAck .. => true
  | .pref _ a _ | .cctlLine _ a | .mirrorSync _ a => noImm [a]
  | .cctlInv .. | .cctlInvro .. => true
  | .atomAdd _ t _ a b m =>
    [Ty.z32, .s32, .s64, .f32, .f16, .bf16].contains t && noImm [a, b] && m.ok
  | .atomMin _ t _ a b m | .atomMax _ t _ a b m =>
    [Ty.z32, .s32, .s64, .f32].contains t && noImm [a, b] && m.ok
  | .atomAnd _ t _ a b m | .atomOr _ t _ a b m | .atomXor _ t _ a b m | .atomXchg _ t _ a b m =>
    [Ty.z32, .s64].contains t && noImm [a, b] && m.ok
  | .atomCas _ t _ a b c m => [Ty.z32, .s64].contains t && noImm [a, b, c] && m.ok
  | .atomInc _ _ a b m => noImm [a, b] && m.ok
  | .atomPush _ _ a b sc o => noImm [a, b] && scOrdOk sc o
  | .atomPop _ _ a sc o | .atomSteal _ _ a sc o => noImm [a] && scOrdOk sc o
  | .redAdd _ t a b m => [Ty.z32, .s32, .s64, .f32, .bf16].contains t && noImm [a, b] && m.redOk
  | .redMin _ t a b m | .redMax _ t a b m =>
    [Ty.z32, .s32, .s64, .f32].contains t && noImm [a, b] && m.redOk
  | .copy _ _ _ _ n a b _ | .copyl _ _ _ _ n a b _ => n.toNat < 10 && noImm [a, b]
  | .wmarkRel .. | .wmarkGet .. | .wmarkGen .. => true
  | .wmarkWaitg _ _ a => noImm [a]
  | .mcJoin _ _ a b => noImm [a, b]
  | .mcLeave _ _ a => noImm [a]
  | .mcLd _ _ _ n a b _ _ => n.toNat < 10 && noImm [a, b]
  | .gather _ t _ _ a b _ _ _ | .scatter _ t _ a b _ _ _ => stTys.contains t && noImm [a, b]
  | .scatterAdd _ t _ a b _ _ _ => [Ty.z32, .s64].contains t && noImm [a, b]
  | .quant _ _ _ a _ => noImm [a]
  | .waitt .. | .launch .. => true
  | .lrecNew _ a b | .lrecWait _ a b | .joinc _ a b => noImm [a, b]
  | .lrecSetGrid _ a b c | .lrecSetCourse _ a b c => noImm [a, b, c]
  | .lrecSetClass _ a | .lrecSetCounter _ a => noImm [a]
  | .strmStat _ _ a | .pgalloc _ a => noImm [a]
  | .strmCommit _ _ a b | .strmReserve _ _ a b | .strmPage _ _ a b | .pgfree _ _ a b => noImm [a, b]
  | .strmPageW _ _ a b c | .strmPageC _ _ a b c => noImm [a, b, c]
  | .topk _ _ _ a | .rhist _ _ _ a | .biasadd _ _ _ a => noImm [a]
  | .mma _ t _ _ a b _ => [Ty.s8, .f32, .f16, .bf16, .e4m3, .e5m2].contains t && noImm [a, b]
  | .mmaSr _ _ _ _ a b _ => noImm [a, b]
  | .mmaSp _ t _ _ a b _ => [Ty.s8, .f16, .bf16, .e4m3, .e5m2].contains t && noImm [a, b]
  | .mmaBp _ p _ _ a b m => 2 ≤ p.toNat && p.toNat ≤ 8 && noImm [a, b] && m.sa.toNat % 8 == 0
  | .accZero .. | .accMov .. | .accCvtS32F32 .. | .accCvtF32S32 .. => true
  | .accScale _ t _ _ _ a b _ _ => [Ty.s32, .f32].contains t && noImm [a, b]
  | .accLd _ t _ _ a _ _ | .accSt _ t _ _ a _ _ => [Ty.s32, .f32, .f16, .bf16].contains t && noImm [a]
  | .accGet _ t _ a => [Ty.s32, .f32].contains t && noImm [a]
  | .accPut _ t _ a b | .accPutAdd _ t _ a b => [Ty.s32, .f32].contains t && noImm [a, b]
  | .reorderPack _ key base mask | .reorderAlign _ key base mask => noImm [key] && (mask != 0 || base == 0)
  | .reorderCount _ _ key => noImm [key]
  | .riddleStat .. | .seatmap .. | .nop .. | .nopCode => true
  | .bra .. | .call .. | .split .. | .join .. | .exit .. | .kill .. | .yield .. => true
  | .brx _ a | .callx _ _ a | .ret _ a => noImm [a]
  | .trap .. | .sysc .. | .brk .. | .eret .. | .eretSkip .. => true
  | .barInit _ _ a | .barWait _ _ a => noImm [a]
  | .barArrive .. | .barSync .. | .barPeek .. | .phase .. | .leadRd .. => true
  | .monitor _ _ a b => noImm [a, b]
  | .movs _ _ x => movsOk x
  | .movsRx .. | .csrr .. | .txunbind .. | .rxpoll .. => true
  | .movsp _ x a => movspOk x && noImm [a]
  | .movspTx _ _ a | .csrw _ _ a | .csrx _ _ _ a | .txbind _ _ a => noImm [a]
  | .scrubSt _ _ u => u.toNat ≤ 5
  | .clauseDecode .. | .lateValueArrival .. | .splitStackTransfer .. | .monitorTimeout .. | .trapEntry ..
  | .engineFaultTaken .. | .sliceAccess .. | .sliceMissFill .. | .translationWalkDone .. | .scrubberRead ..
  | .matrixStepComplete .. | .matrixRemoteArrival .. | .copyPieceLand .. | .mcRequest .. | .mcHoldExpiry ..
  | .gatherElementReturn .. | .scatterElementAck .. | .quantBlockDone .. | .sampleComplete .. | .leadUpdate ..
  | .flitDeparture .. | .flitArrival .. | .reorderCommit .. | .reorderRebuildDone .. | .preemptRequest ..
  | .parkMoveDone .. | .contextToMemory .. | .restore .. | .swapOut .. | .swapConditionEnd ..
  | .highDelayExpiry .. | .placeSet .. | .brickRetire .. | .packetTake .. | .queueReread .. | .wallReady ..
  | .pendingLaunchTake .. | .overflowClaim .. | .unitAccessRetry .. | .streamClose .. | .streamStepLaunch ..
  | .ptmExchange .. | .epochEnd .. | .remoteWriteApply .. | .peerFlitReceive .. | .peerNak .. | .peerRetrain ..
  | .peerTrained .. | .hostWrite .. | .hostRead .. | .hostAtomic .. | .partcfgWrite .. | .tlbinvPage ..
  | .tlbinvAsid .. | .tlbinvAll .. | .tlbinvReserved .. | .invalidationComplete | .faultcmdResume ..
  | .faultcmdResumeSkip .. | .faultcmdUnresolvable .. | .faultcmdDeliver .. | .faultcmdTerminate ..
  | .faultcmdReserved .. | .qregRegister .. | .qregRemove .. | .tickcmdAdmit .. | .tickcmdRetire ..
  | .tickcmdNone .. | .tickcmdReserved .. | .fqheadWrite .. | .fqReconfigure .. | .slicectlWrite ..
  | .slicectlRead .. | .attestQuote | .attestSignDone | .registerWrite .. | .deviceReset ..
  | .thermalThrottle .. | .thermalStop | .peerWrite .. | .monitorEarlyWake .. | .powerFailure => true

end Sys2Proof
end

