-- ==== Sys2Proof/Decode.lean ====
section
/-! DEFINITION. Reading and writing instruction words, codes and clauses (file 03). Decoding is total: a word is an
instruction or is refused by name. -/

namespace Sys2Proof

/-- The ways a word is refused (03:R73). -/
inductive DecErr
  | illegalOpcode | illegalForm
deriving DecidableEq, Repr

/-- The fields of a full instruction word, high to low (03:R54). -/
structure Raw where
  maj : BitVec 8
  var : BitVec 4
  gd : BitVec 4
  dest : BitVec 8
  a : BitVec 8
  b : BitVec 8
  c : BitVec 8
  imm : BitVec 16
deriving DecidableEq, Repr

/-- The fields of a word. -/
def Raw.ofWord (w : BitVec 64) : Raw where
  maj := w.extractLsb' 56 8
  var := w.extractLsb' 52 4
  gd := w.extractLsb' 48 4
  dest := w.extractLsb' 40 8
  a := w.extractLsb' 32 8
  b := w.extractLsb' 24 8
  c := w.extractLsb' 16 8
  imm := w.extractLsb' 0 16

/-- The word of the fields. -/
def Raw.toWord (r : Raw) : BitVec 64 :=
  r.maj ++ (r.var ++ (r.gd ++ (r.dest ++ (r.a ++ (r.b ++ (r.c ++ r.imm))))))

/-- The 24-bit immediate of forms K and E (03:R55). -/
def Raw.imm24 (r : Raw) : BitVec 24 := r.c ++ r.imm

/-- The 40-bit immediate of form L (03:R55). -/
def Raw.imm40 (r : Raw) : BitVec 40 := r.a ++ (r.b ++ (r.c ++ r.imm))

/-! ### Field codes -/

/-- Type codes (03:R61). -/
def Ty.code : Ty → BitVec 4
  | .z32 => 0x0 | .s32 => 0x1 | .s64 => 0x2 | .a56 => 0x3 | .z8 => 0x4 | .s8 => 0x5 | .z16 => 0x6 | .s16 => 0x7
  | .f32 => 0x8 | .f16 => 0x9 | .bf16 => 0xA | .e4m3 => 0xB | .e5m2 => 0xC

/-- The type of a code (03:R61); `0xD` to `0xF` are unassigned. -/
def Ty.parse (v : BitVec 4) : Option Ty :=
  match v.toNat with
  | 0 => some .z32 | 1 => some .s32 | 2 => some .s64 | 3 => some .a56 | 4 => some .z8 | 5 => some .s8
  | 6 => some .z16 | 7 => some .s16 | 8 => some .f32 | 9 => some .f16 | 10 => some .bf16 | 11 => some .e4m3
  | 12 => some .e5m2 | _ => none

/-- A type of a major's row (03:R61). -/
def Ty.parseIn (v : BitVec 4) (ts : List Ty) : Option Ty :=
  match Ty.parse v with
  | some t => if ts.contains t then some t else none
  | none => none

/-- Type bits 53:52 of class 1 (03:R62). -/
def FTy.code : FTy → BitVec 2
  | .f32 => 0 | .f16 => 1 | .bf16 => 2

def FTy.parse (v : BitVec 2) : Option FTy :=
  match v.toNat with
  | 0 => some .f32 | 1 => some .f16 | 2 => some .bf16 | _ => none

/-- The float types among the codes of R61. -/
def FTy.ty : FTy → Ty
  | .f32 => .f32 | .f16 => .f16 | .bf16 => .bf16

def FTy.parseTy (v : BitVec 4) : Option FTy :=
  match v.toNat with
  | 8 => some .f32 | 9 => some .f16 | 10 => some .bf16 | _ => none

/-- Rounding bits (03:R62). -/
def Rnd.code : Rnd → BitVec 2
  | .rne => 0 | .rz => 1 | .ru => 2 | .rd => 3

def Rnd.parse (v : BitVec 2) : Rnd :=
  match v.toNat with
  | 0 => .rne | 1 => .rz | 2 => .ru | _ => .rd

/-- Conditions of form P (03:R55). -/
def ICond.code : ICond → BitVec 3
  | .eq => 0 | .ne => 1 | .lt => 2 | .le => 3 | .gt => 4 | .ge => 5 | .tst => 6 | .ntst => 7

def ICond.parse (v : BitVec 3) : ICond :=
  match v.toNat with
  | 0 => .eq | 1 => .ne | 2 => .lt | 3 => .le | 4 => .gt | 5 => .ge | 6 => .tst | _ => .ntst

def FCond.code : FCond → BitVec 3
  | .eq => 0 | .ne => 1 | .lt => 2 | .le => 3 | .gt => 4 | .ge => 5 | .un => 6 | .ord => 7

def FCond.parse (v : BitVec 3) : FCond :=
  match v.toNat with
  | 0 => .eq | 1 => .ne | 2 => .lt | 3 => .le | 4 => .gt | 5 => .ge | 6 => .un | _ => .ord

/-- One bit. -/
def bv1 (b : Bool) : BitVec 1 := if b then 1 else 0

/-- A predicate and its negate bit above it. -/
def PRef.code (p : PRef) : BitVec 4 := bv1 p.neg ++ p.p

def PRef.parse (v : BitVec 4) : PRef := ⟨v.getLsbD 3, v.extractLsb' 0 3⟩

/-- Guard bits 51:48 (03:R54). -/
def Guard.code (g : Guard) : BitVec 4 := bv1 g.neg ++ g.p

def Guard.parse (v : BitVec 4) : Guard := ⟨v.getLsbD 3, v.extractLsb' 0 3⟩

/-- The named-destination byte (03:R56). -/
def Dest.code : Dest → BitVec 8
  | .none => 0
  | .n i => (2 : BitVec 2) ++ i
  | .k i => (6 : BitVec 3) ++ i

def Dest.parse (v : BitVec 8) : Option Dest :=
  if v.getLsbD 7 then
    if v.getLsbD 6 then
      if v.getLsbD 5 then Option.none else some (.k (v.extractLsb' 0 5))
    else some (.n (v.extractLsb' 0 6))
  else if v = 0 then some .none else Option.none

/-- The operand byte (03:R57, R58). -/
def Opnd.code : Opnd → BitVec 8
  | .q i => if i = 0 then 0 else (4 : BitVec 4) ++ i
  | .n i => (2 : BitVec 2) ++ i
  | .k i => (6 : BitVec 3) ++ i
  | .g i => (14 : BitVec 4) ++ i
  | .cst i => (30 : BitVec 5) ++ i
  | .imms => 0xF8 | .immz => 0xF9 | .immh => 0xFA | .seatlane => 0xFB | .oid => 0xFC | .ones => 0xFD
  | .lanebit => 0xFE

def Opnd.parse (v : BitVec 8) : Option Opnd :=
  match (v.extractLsb' 6 2).toNat with
  | 0 => if v = 0 then some (.q 0) else none
  | 1 =>
    if v.getLsbD 5 || v.getLsbD 4 || v.extractLsb' 0 4 = 0 then none else some (.q (v.extractLsb' 0 4))
  | 2 => some (.n (v.extractLsb' 0 6))
  | _ =>
    if !v.getLsbD 5 then some (.k (v.extractLsb' 0 5))
    else if !v.getLsbD 4 then some (.g (v.extractLsb' 0 4))
    else if !v.getLsbD 3 then some (.cst (v.extractLsb' 0 3))
    else match (v.extractLsb' 0 3).toNat with
      | 0 => some .imms | 1 => some .immz | 2 => some .immh | 3 => some .seatlane | 4 => some .oid
      | 5 => some .ones | 6 => some .lanebit | _ => none

/-- Scope bits (08:R180). -/
def Scope.code : Scope → BitVec 3
  | .gang => 0 | .brick => 1 | .course => 2 | .footing => 3 | .device => 4 | .system => 5

def Scope.parse (v : BitVec 3) : Option Scope :=
  match v.toNat with
  | 0 => some .gang | 1 => some .brick | 2 => some .course | 3 => some .footing | 4 => some .device
  | 5 => some .system | _ => none

/-- Order bits (08:R180). -/
def Ord.code : Ord → BitVec 2
  | .relaxed => 0 | .acquire => 1 | .release => 2 | .acqRel => 3

def Ord.parse (v : BitVec 2) : Ord :=
  match v.toNat with
  | 0 => .relaxed | 1 => .acquire | 2 => .release | _ => .acqRel

/-- IMM of an atomic (08:R180). -/
def AtMod.code (m : AtMod) : BitVec 16 := m.off ++ (m.ord.code ++ m.sc.code)

def AtMod.parse (v : BitVec 16) : Option AtMod :=
  (Scope.parse (v.extractLsb' 0 3)).map fun sc => ⟨sc, Ord.parse (v.extractLsb' 3 2), v.extractLsb' 5 11⟩

/-- IMM of CVT (05:R111). -/
def CvtMod.code (m : CvtMod) : BitVec 16 :=
  (0 : BitVec 5) ++ (bv1 m.sat ++ (m.rnd.code ++ (m.src.code ++ m.dst.code)))

def CvtMod.parse (v : BitVec 16) : Option CvtMod :=
  match Ty.parse (v.extractLsb' 0 4), Ty.parse (v.extractLsb' 4 4) with
  | some d, some s =>
    let m : CvtMod := ⟨d, s, Rnd.parse (v.extractLsb' 8 2), v.getLsbD 10⟩
    if v.extractLsb' 11 5 = 0 ∧ m.ok then some m else none
  | _, _ => none

/-- The immediate of MMA (07:R149). -/
def MmaMod.code (m : MmaMod) : BitVec 24 := (0 : BitVec 2) ++ (bv1 m.bsp ++ (bv1 m.asp ++ (m.sb ++ m.sa)))

def MmaMod.parse (v : BitVec 24) : Option MmaMod :=
  if v.extractLsb' 22 2 = 0 then
    some ⟨v.extractLsb' 0 10, v.extractLsb' 10 10, v.getLsbD 20, v.getLsbD 21⟩
  else none

/-- Variants of MMA.SR (07:R155). -/
def Semiring.code : Semiring → BitVec 4
  | .minplusF32 => 0 | .minplusF16 => 1 | .minplusS32 => 2 | .maxtimesF32 => 3 | .maxtimesF16 => 4 | .orand => 5

def Semiring.parse (v : BitVec 4) : Option Semiring :=
  match v.toNat with
  | 0 => some .minplusF32 | 1 => some .minplusF16 | 2 => some .minplusS32 | 3 => some .maxtimesF32
  | 4 => some .maxtimesF16 | 5 => some .orand | _ => none

/-- Variants of QUANT (12:R255). -/
def QFmt.code : QFmt → BitVec 4
  | .e4m3 => 0 | .s8 => 1 | .bp => 2

def QFmt.parse (v : BitVec 4) : Option QFmt :=
  match v.toNat with
  | 0 => some .e4m3 | 1 => some .s8 | 2 => some .bp | _ => none

/-- Source spaces of a copy (09:R201). -/
def CopySpace.code : CopySpace → BitVec 2
  | .global => 0 | .course => 1 | .window => 2

def CopySpace.parse (v : BitVec 2) : Option CopySpace :=
  match v.toNat with
  | 0 => some .global | 1 => some .course | 2 => some .window | _ => none

/-- A token field of form E, with its use bit above it (03:R55). -/
def Tok.code : Tok → BitVec 4
  | none => 0
  | some j => (1 : BitVec 1) ++ j

def Tok.parse (v : BitVec 4) : Option Tok :=
  if v.getLsbD 3 then some (some (v.extractLsb' 0 3)) else if v = 0 then some none else none

/-- DEST of form E: a token and a resource (03:R55). -/
def edest (tok res : Tok) : BitVec 8 := tok.code ++ res.code

/-! ### Parsers of one form -/

/-- Form E with the resource required. -/
def eRes (r : Raw) : Option (Tok × BitVec 3) :=
  match Tok.parse (r.dest.extractLsb' 4 4), Tok.parse (r.dest.extractLsb' 0 4) with
  | some t, some (some w) => some (t, w)
  | _, _ => none

/-- Form E with no resource. -/
def eTok (r : Raw) : Option Tok := if r.dest.extractLsb' 0 4 = 0 then Tok.parse (r.dest.extractLsb' 4 4) else none

/-- Form P: condition and predicate (03:R55). -/
def pDest (r : Raw) : Option (BitVec 3 × BitVec 3) :=
  if r.dest.extractLsb' 6 2 = 0 then some (r.dest.extractLsb' 3 3, r.dest.extractLsb' 0 3) else none

/-- Form P with condition 000 (03:R55). -/
def pDest0 (r : Raw) : Option (BitVec 3) := if r.dest.extractLsb' 3 5 = 0 then some (r.dest.extractLsb' 0 3) else none

/-- The guard of a word. -/
def Raw.guard (r : Raw) : Guard := Guard.parse r.gd

/-- An operand that may not name an immediate (03:R59). -/
def opndM (v : BitVec 8) : Option Opnd := (Opnd.parse v).filter fun o => !o.isImm

/-- One operand under an immediate IMM (form V). -/
def v1 (k : Guard → Dest → Opnd → BitVec 16 → Instr) (r : Raw) : Option Instr :=
  match Dest.parse r.dest, Opnd.parse r.a with
  | some d, some a => if r.b = 0 ∧ r.c = 0 ∧ immOk [a] r.imm then some (k r.guard d a r.imm) else none
  | _, _ => none

/-- Two operands under an immediate IMM (form V). -/
def v2 (k : Guard → Dest → Opnd → Opnd → BitVec 16 → Instr) (r : Raw) : Option Instr :=
  match Dest.parse r.dest, Opnd.parse r.a, Opnd.parse r.b with
  | some d, some a, some b => if r.c = 0 ∧ immOk [a, b] r.imm then some (k r.guard d a b r.imm) else none
  | _, _, _ => none

/-- Three operands under an immediate IMM (form V). -/
def v3 (k : Guard → Dest → Opnd → Opnd → Opnd → BitVec 16 → Instr) (r : Raw) : Option Instr :=
  match Dest.parse r.dest, Opnd.parse r.a, Opnd.parse r.b, Opnd.parse r.c with
  | some d, some a, some b, some c => if immOk [a, b, c] r.imm then some (k r.guard d a b c r.imm) else none
  | _, _, _, _ => none

/-- No operand, IMM held to `f`, with a named destination. -/
def d0 (f : BitVec 16 → Option α) (k : Guard → Dest → α → Instr) (r : Raw) : Option Instr :=
  match Dest.parse r.dest, f r.imm with
  | some d, some m => if r.a = 0 ∧ r.b = 0 ∧ r.c = 0 then some (k r.guard d m) else none
  | _, _ => none

/-- One operand, IMM read by `f` as modifiers, with a named destination. -/
def d1 (f : BitVec 16 → Option α) (k : Guard → Dest → Opnd → α → Instr) (r : Raw) : Option Instr :=
  match Dest.parse r.dest, opndM r.a, f r.imm with
  | some d, some a, some m => if r.b = 0 ∧ r.c = 0 then some (k r.guard d a m) else none
  | _, _, _ => none

/-- Two operands, IMM read by `f` as modifiers, with a named destination. -/
def d2 (f : BitVec 16 → Option α) (k : Guard → Dest → Opnd → Opnd → α → Instr) (r : Raw) : Option Instr :=
  match Dest.parse r.dest, opndM r.a, opndM r.b, f r.imm with
  | some d, some a, some b, some m => if r.c = 0 then some (k r.guard d a b m) else none
  | _, _, _, _ => none

/-- Three operands, IMM read by `f` as modifiers, with a named destination. -/
def d3 (f : BitVec 16 → Option α) (k : Guard → Dest → Opnd → Opnd → Opnd → α → Instr) (r : Raw) : Option Instr :=
  match Dest.parse r.dest, opndM r.a, opndM r.b, opndM r.c, f r.imm with
  | some d, some a, some b, some c, some m => some (k r.guard d a b c m)
  | _, _, _, _, _ => none

/-- The same with no destination. -/
def s0 (f : BitVec 16 → Option α) (k : Guard → α → Instr) (r : Raw) : Option Instr :=
  if r.dest = 0 then d0 f (fun g _ m => k g m) r else none

def s1 (f : BitVec 16 → Option α) (k : Guard → Opnd → α → Instr) (r : Raw) : Option Instr :=
  if r.dest = 0 then d1 f (fun g _ a m => k g a m) r else none

def s2 (f : BitVec 16 → Option α) (k : Guard → Opnd → Opnd → α → Instr) (r : Raw) : Option Instr :=
  if r.dest = 0 then d2 f (fun g _ a b m => k g a b m) r else none

def s3 (f : BitVec 16 → Option α) (k : Guard → Opnd → Opnd → Opnd → α → Instr) (r : Raw) : Option Instr :=
  if r.dest = 0 then d3 f (fun g _ a b c m => k g a b c m) r else none

/-- IMM zero. -/
def immZero (v : BitVec 16) : Option Unit := if v = 0 then some () else none

/-- IMM holding an offset only: scope and order zero (08:R180). -/
def immOff (v : BitVec 16) : Option (BitVec 11) := if v.extractLsb' 0 5 = 0 then some (v.extractLsb' 5 11) else none

/-- IMM holding scope and offset, order zero (08:R180). -/
def immScOff (v : BitVec 16) : Option (Scope × BitVec 11) :=
  if v.extractLsb' 3 2 = 0 then (Scope.parse (v.extractLsb' 0 3)).map fun s => (s, v.extractLsb' 5 11) else none

/-- IMM holding scope only (08:R187). -/
def immSc (v : BitVec 16) : Option Scope :=
  if v.extractLsb' 3 13 = 0 then Scope.parse (v.extractLsb' 0 3) else none

/-- IMM of a value atomic (08:R180). -/
def immAt (v : BitVec 16) : Option AtMod := (AtMod.parse v).filter AtMod.ok

/-- IMM of a reduction (12:R251). -/
def immRed (v : BitVec 16) : Option AtMod := (AtMod.parse v).filter AtMod.redOk

/-- IMM of a deque operation (08:R190). -/
def immDq (v : BitVec 16) : Option (Scope × Ord) :=
  (AtMod.parse v).bind fun m => if m.ok ∧ m.off = 0 then some (m.sc, m.ord) else none

/-- IMM below a width, the bits above zero. -/
def immLow (n : Nat) (v : BitVec 16) : Option (BitVec n) :=
  if v.toNat < 2 ^ n then some (v.extractLsb' 0 n) else none

/-- A type list's parser of a variant, or ILLEGAL_OPCODE. -/
def byTy (v : BitVec 4) (ts : List Ty) (p : Ty → Raw → Option Instr) : Option (Raw → Option Instr) :=
  (Ty.parseIn v ts).map p

/-- Variant 0 only. -/
def var0 (v : BitVec 4) (p : Raw → Option Instr) : Option (Raw → Option Instr) := if v = 0 then some p else none

/-- A class-1 row with a rounding mode. -/
def byF (v : BitVec 4) (p : FTy → Rnd → Raw → Option Instr) : Option (Raw → Option Instr) :=
  (FTy.parse (v.extractLsb' 0 2)).map fun t => p t (Rnd.parse (v.extractLsb' 2 2))

/-- A class-1 row without one: bits 55:54 must be zero (03:R62). -/
def byF0 (v : BitVec 4) (p : FTy → Raw → Option Instr) : Option (Raw → Option Instr) :=
  (FTy.parse (v.extractLsb' 0 2)).map fun t r => if v.extractLsb' 2 2 = 0 then p t r else none

/-- A compare of form P. -/
def pCmp (k : Guard → BitVec 3 → BitVec 3 → Opnd → Opnd → BitVec 16 → Instr) (r : Raw) : Option Instr :=
  match pDest r, Opnd.parse r.a, Opnd.parse r.b with
  | some (cc, pd), some a, some b =>
    if r.c = 0 ∧ immOk [a, b] r.imm then some (k r.guard cc pd a b r.imm) else none
  | _, _, _ => none

/-- VOTE.ANY and VOTE.ALL. -/
def pVote (k : Guard → BitVec 3 → PRef → Instr) (r : Raw) : Option Instr :=
  match pDest0 r, immLow 4 r.imm with
  | some pd, some v => if r.a = 0 ∧ r.b = 0 ∧ r.c = 0 then some (k r.guard pd (PRef.parse v)) else none
  | _, _ => none

/-- VOTE.LEADEQ. -/
def pLeadeq (r : Raw) : Option Instr :=
  match pDest0 r, opndM r.a with
  | some pd, some a => if r.b = 0 ∧ r.c = 0 ∧ r.imm = 0 then some (.voteLeadeq r.guard pd a) else none
  | _, _ => none

/-- PLOP. -/
def pPlop (k : Guard → BitVec 3 → PRef → PRef → Instr) (r : Raw) : Option Instr :=
  match pDest0 r, immLow 8 r.imm with
  | some pd, some v =>
    if r.a = 0 ∧ r.b = 0 ∧ r.c = 0 then
      some (k r.guard pd (PRef.parse (v.extractLsb' 0 4)) (PRef.parse (v.extractLsb' 4 4))) else none
  | _, _ => none

/-- MOVI (04:R94). -/
def lMovi (t : Ty) (r : Raw) : Option Instr :=
  match Dest.parse r.dest with
  | some d => if (Instr.movi r.guard t d r.imm40).wf then some (.movi r.guard t d r.imm40) else none
  | none => none

/-- A load of form K. -/
def kLd (k : Guard → Dest → Opnd → BitVec 24 → Instr) (r : Raw) : Option Instr :=
  match Dest.parse r.dest, opndM r.a with
  | some d, some a => if r.b = 0 then some (k r.guard d a r.imm24) else none
  | _, _ => none

/-- A store of form K. -/
def kSt (k : Guard → Opnd → Opnd → BitVec 24 → Instr) (r : Raw) : Option Instr :=
  match opndM r.a, opndM r.b with
  | some a, some b => if r.dest = 0 then some (k r.guard a b r.imm24) else none
  | _, _ => none

/-- Form E with a token, no resource, two operands and the immediate read by `f`. -/
def e2 (f : BitVec 24 → Option α) (k : Guard → Tok → Opnd → Opnd → α → Instr) (r : Raw) : Option Instr :=
  match eTok r, opndM r.a, opndM r.b, f r.imm24 with
  | some t, some a, some b, some m => some (k r.guard t a b m)
  | _, _, _, _ => none

/-- The same with operand A only. -/
def e1 (f : BitVec 24 → Option α) (k : Guard → Tok → Opnd → α → Instr) (r : Raw) : Option Instr :=
  match eTok r, opndM r.a, f r.imm24 with
  | some t, some a, some m => if r.b = 0 then some (k r.guard t a m) else none
  | _, _, _ => none

/-- The same with no operand. -/
def e0 (k : Guard → Tok → Instr) (r : Raw) : Option Instr :=
  match eTok r with
  | some t => if r.a = 0 ∧ r.b = 0 ∧ r.imm24 = 0 then some (k r.guard t) else none
  | none => none

/-- Form E with a token and a resource, two operands and the immediate read by `f`. -/
def r2 (f : BitVec 24 → Option α) (k : Guard → Tok → BitVec 3 → Opnd → Opnd → α → Instr) (r : Raw) :
    Option Instr :=
  match eRes r, opndM r.a, opndM r.b, f r.imm24 with
  | some (t, w), some a, some b, some m => some (k r.guard t w a b m)
  | _, _, _, _ => none

/-- The same with operand A only. -/
def r1 (f : BitVec 24 → Option α) (k : Guard → Tok → BitVec 3 → Opnd → α → Instr) (r : Raw) : Option Instr :=
  match eRes r, opndM r.a, f r.imm24 with
  | some (t, w), some a, some m => if r.b = 0 then some (k r.guard t w a m) else none
  | _, _, _ => none

/-- The same with no operand. -/
def r0 (f : BitVec 24 → Option α) (k : Guard → Tok → BitVec 3 → α → Instr) (r : Raw) : Option Instr :=
  match eRes r, f r.imm24 with
  | some (t, w), some m => if r.a = 0 ∧ r.b = 0 then some (k r.guard t w m) else none
  | _, _ => none

/-- No token allowed beside the resource. -/
def noTok (p : Raw → Option Instr) (r : Raw) : Option Instr := if r.dest.getLsbD 7 then none else p r

def i24Zero (v : BitVec 24) : Option Unit := if v = 0 then some () else none

/-- COPY's immediate: base and space (09:R216). -/
def i24Copy (v : BitVec 24) : Option (CopySpace × BitVec 19) :=
  if v.extractLsb' 21 3 = 0 then (CopySpace.parse (v.extractLsb' 19 2)).map fun s => (s, v.extractLsb' 0 19)
  else none

/-- MC.LD's immediate: base and group (09:R216). -/
def i24Mc (v : BitVec 24) : Option (BitVec 14 × BitVec 6) :=
  if v.extractLsb' 20 4 = 0 then some (v.extractLsb' 0 14, v.extractLsb' 14 6) else none

/-- GATHER's and SCATTER's immediate: base, SH, M, with bit 23 given (12:R243). -/
def i24Idx (op : Bool) (v : BitVec 24) : Option (BitVec 19 × BitVec 3 × Bool) :=
  if v.getLsbD 23 = op then some (v.extractLsb' 0 19, v.extractLsb' 19 3, v.getLsbD 22) else none

/-- A source tile (07:R157). -/
def i24Src (hi : Nat) (v : BitVec 24) : Option (BitVec 3) :=
  if v.extractLsb' 3 21 = BitVec.ofNat 21 hi then some (v.extractLsb' 0 3) else none

/-- ACC.SCALE's immediate (07:R158). -/
def i24Scale (v : BitVec 24) : Option (BitVec 3 × Bool × Bool) :=
  if v.extractLsb' 3 17 = 0 ∧ v.extractLsb' 22 2 = 0 then
    some (v.extractLsb' 0 3, v.getLsbD 20, v.getLsbD 21) else none

/-- ACC.LD's and ACC.ST's immediate (07:R159). -/
def i24Acc (v : BitVec 24) : Option (BitVec 10 × Bool) :=
  if v.extractLsb' 10 10 = 0 ∧ v.extractLsb' 21 3 = 0 then some (v.extractLsb' 0 10, v.getLsbD 20) else none

/-- QUANT's source format (12:R255). -/
def i24Q (v : BitVec 24) : Option FTy :=
  if v.extractLsb' 2 22 = 0 then FTy.parse (v.extractLsb' 0 2) else none

/-- SCATTER: bit 23 chooses the write and the add (12:R243, R244). -/
def eScatter (t : Ty) (r : Raw) : Option Instr :=
  if r.imm24.getLsbD 23 then
    if t == .z32 || t == .s64 then
      e2 (i24Idx true) (fun g tk a b m => .scatterAdd g t tk a b m.1 m.2.1 m.2.2) r else none
  else e2 (i24Idx false) (fun g tk a b m => .scatter g t tk a b m.1 m.2.1 m.2.2) r

/-- REORDER (13:R266). -/
def vReorder (k : Guard → Opnd → BitVec 6 → BitVec 16 → Instr) (r : Raw) : Option Instr :=
  match opndM r.a with
  | some key =>
    if r.dest = 0 ∧ r.c = 0 then
      if r.imm = 0 then (if r.b = 0 then some (k r.guard key 0 0) else none)
      else if r.b.extractLsb' 6 2 = 2 then some (k r.guard key (r.b.extractLsb' 0 6) r.imm) else none
    else none
  | none => none

/-- Form L with no destination. -/
def l0 (k : Guard → BitVec 40 → Instr) (r : Raw) : Option Instr :=
  if r.dest = 0 then some (k r.guard r.imm40) else none

/-- TRAP, SYSC, BRK (06:R128). -/
def lTrap (k : Guard → BitVec 16 → Instr) (r : Raw) : Option Instr :=
  if r.dest = 0 ∧ r.a = 0 ∧ r.b = 0 ∧ r.c = 0 then some (k r.guard r.imm) else none

/-- A barrier named by variant and IMM (11:R225). -/
def barRef (course : Bool) (v : BitVec 16) : Option BarRef :=
  if course then (immLow 2 v).map .course else (immLow 4 v).map .brick

/-- Variants 0 and 1 of the barrier instructions. -/
def byBar (v : BitVec 4) (p : (BitVec 16 → Option BarRef) → Raw → Option Instr) : Option (Raw → Option Instr) :=
  match v.toNat with
  | 0 => some (p (barRef false))
  | 1 => some (p (barRef true))
  | _ => none

/-- A special-register number in IMM 9:0 (06:R135). -/
def immSr (lo hi : Nat) (v : BitVec 16) : Option (BitVec 2) :=
  if lo ≤ v.toNat ∧ v.toNat ≤ hi then some (BitVec.ofNat 2 (v.toNat - lo)) else none

/-- MOVS of any readable register (06:R135). -/
def vMovs (r : Raw) : Option Instr :=
  match d0 (immSr 0x34 0x37) Instr.movsRx r with
  | some i => some i
  | none => d0 (fun v => (immLow 10 v).filter movsOk) Instr.movs r

/-- MOVSP to any writable register (06:R135). -/
def vMovsp (r : Raw) : Option Instr :=
  match s1 (immSr 0x30 0x33) (fun g a x => .movspTx g x a) r with
  | some i => some i
  | none => s1 (fun v => (immLow 10 v).filter movspOk) (fun g a x => .movsp g x a) r

/-- Vote, mask and predicate rows (06:R130). -/
def vBallot (r : Raw) : Option Instr := d0 (fun v => (immLow 4 v).map PRef.parse) Instr.voteBallot r

/-! ### The opcode map: the parser of a listed variant, `none` where R73 gives ILLEGAL_OPCODE -/

/-- Class 0 (03:R63). -/
def class0 (maj : Nat) (v : BitVec 4) : Option (Raw → Option Instr) :=
  match maj with
  | 0x00 => byTy v [.z32, .s32, .s64, .a56] fun t => v2 fun g => .add g t
  | 0x01 => byTy v [.z32, .s32, .s64, .a56] fun t => v2 fun g => .sub g t
  | 0x02 => byTy v [.z32, .s32, .s64] fun t => v2 fun g => .mul g t
  | 0x03 => byTy v [.z32, .s32, .s64] fun t => v2 fun g => .mulhi g t
  | 0x04 => byTy v [.z32, .s32] fun t => v2 fun g => .mulw g t
  | 0x05 => byTy v [.z32, .s32, .s64] fun t => v3 fun g => .mad g t
  | 0x06 => byTy v [.z32, .s32, .s64] fun t => v2 fun g => .addSat g t
  | 0x07 => byTy v [.z32, .s32, .s64] fun t => v2 fun g => .subSat g t
  | 0x08 => byTy v [.z32, .s32, .s64] fun t => v2 fun g => .min g t
  | 0x09 => byTy v [.z32, .s32, .s64] fun t => v2 fun g => .max g t
  | 0x0A => byTy v [.s32, .s64] fun t => v1 fun g => .abs g t
  | 0x0B => byTy v [.z32, .s64] fun t => v2 fun g => .and g t
  | 0x0C => byTy v [.z32, .s64] fun t => v2 fun g => .or g t
  | 0x0D => byTy v [.z32, .s64] fun t => v2 fun g => .xor g t
  | 0x0E => byTy v [.z32, .s64] fun t => v1 fun g => .not g t
  | 0x0F => byTy v [.z32, .s64] fun t => v2 fun g => .shl g t
  | 0x10 => byTy v [.z32, .s64] fun t => v2 fun g => .shr g t
  | 0x11 => byTy v [.s32, .s64] fun t => v2 fun g => .sar g t
  | 0x12 => byTy v [.z32, .s64] fun t => v2 fun g => .rotl g t
  | 0x13 => byTy v [.z32, .s32, .s64] fun t => v2 fun g => .bfx g t
  | 0x14 => byTy v [.z32, .s64] fun t => v3 fun g => .bfi g t
  | 0x15 => byTy v [.z32, .s64] fun t => v1 fun g => .popc g t
  | 0x16 => byTy v [.z32, .s64] fun t => v1 fun g => .clz g t
  | 0x17 => byTy v [.z32, .s64] fun t => v1 fun g => .brev g t
  | 0x18 => byTy v [.z32, .s64] fun t => d2 (fun v => (immLow 4 v).map PRef.parse) fun g => .sel g t
  | 0x19 => byTy v [.z32, .s32, .s64, .a56] fun t => pCmp fun g cc => .cmp g t (ICond.parse cc)
  | 0x1A => byTy v [.z32, .s64] fun t => v1 fun g => .mov g t
  | 0x1B => byTy v [.z32, .s32, .s64, .a56] lMovi
  | 0x1C => byTy v [.a56] fun _ => d2 (immLow 4) fun g d a b m =>
      if m.getLsbD 3 then .addscW g d a b (m.extractLsb' 0 3) else .addsc g d a b (m.extractLsb' 0 3)
  | 0x1D =>
    match v.toNat with
    | 0 => some vBallot
    | 1 => some (pVote .voteAny)
    | 2 => some (pVote .voteAll)
    | 3 => some pLeadeq
    | _ => none
  | 0x1E =>
    match v.toNat with
    | 0 => some (pPlop .plopAnd)
    | 1 => some (pPlop .plopOr)
    | 2 => some (pPlop .plopXor)
    | 3 => some (pPlop .plopAndn)
    | _ => none
  | 0x1F =>
    match v.toNat with
    | 0 => some (d0 immZero fun g d _ => .movemGet g d)
    | 1 => some (d1 immZero fun g d a _ => .movemSet g d a)
    | 2 => some (d0 immZero fun g d _ => .movemGetfm g d)
    | 3 => some (d0 immZero fun g d _ => .movemGetp g d)
    | 4 => some (s1 immZero fun g a _ => .movemSetp g a)
    | _ => none
  | _ => none

/-- Class 1 (03:R64). -/
def class1 (maj : Nat) (v : BitVec 4) : Option (Raw → Option Instr) :=
  match maj with
  | 0x20 => byF v fun t m => v2 fun g => .addF g t m
  | 0x21 => byF v fun t m => v2 fun g => .subF g t m
  | 0x22 => byF v fun t m => v2 fun g => .mulF g t m
  | 0x23 => byF v fun t m => v3 fun g => .fma g t m
  | 0x24 => byF0 v fun t => v2 fun g => .minF g t
  | 0x25 => byF0 v fun t => v2 fun g => .maxF g t
  | 0x26 => byF0 v fun t => v1 fun g => .absF g t
  | 0x27 => byF0 v fun t => v1 fun g => .neg g t
  | 0x28 => byF0 v fun t => pCmp fun g cc => .cmpF g t (FCond.parse cc)
  | 0x29 => byF0 v fun t => v1 fun g => .rcp g t
  | 0x2A => byF0 v fun t => v1 fun g => .rsq g t
  | 0x2B => byF0 v fun t => v1 fun g => .sqrt g t
  | 0x2C => byF0 v fun t => v1 fun g => .ex2 g t
  | 0x2D => byF0 v fun t => v1 fun g => .lg2 g t
  | 0x2E => byF v fun t m => v1 fun g => .rint g t m
  | 0x2F => byF0 v fun t => v1 fun g => .frc g t
  | 0x34 => var0 v (d1 CvtMod.parse .cvt)
  | 0x35 => var0 v (d2 (fun v => (CvtMod.parse v).filter fun m => m.dst.width ≤ 16) .cvtX2)
  | 0x36 =>
    match v.toNat with
    | 0 => some (v2 .packB16X2)
    | 1 => some (v2 .packB32X2)
    | _ => none
  | 0x37 =>
    match v.toNat with
    | 0 => some (v1 .unpkLo16)
    | 1 => some (v1 .unpkHi16)
    | 2 => some (v1 .unpkHi32)
    | _ => none
  | 0x38 => var0 v (v3 .swzb)
  | 0x39 => var0 v (d1 immZero fun g d a _ => .bpack g d a)
  | 0x3A => var0 v (d1 (fun v => (immLow 4 v).filter fun p => 2 ≤ p.toNat && p.toNat ≤ 8) .bpext)
  | _ => none

/-- Class 2 (03:R65). -/
def class2 (maj : Nat) (v : BitVec 4) : Option (Raw → Option Instr) :=
  match maj with
  | 0x40 => byTy v ldTys fun t => d1 immOff fun g => .ld g t
  | 0x41 => byTy v ldTys fun t => d1 immOff fun g => .ldRo g t
  | 0x42 => byTy v ldTys fun t => d1 immScOff fun g d a m => .ldAcq g t d a m.1 m.2
  | 0x43 => byTy v stTys fun t => s2 immOff fun g => .st g t
  | 0x44 => byTy v stTys fun t => s2 immScOff fun g a b m => .stRel g t a b m.1 m.2
  | 0x45 => byTy v stTys fun t => d2 immOff fun g => .stP g t
  | 0x46 => byTy v stTys fun t => s2 immOff fun g => .stMc g t
  | 0x47 => byTy v ldTys fun t => kLd fun g => .lds g t
  | 0x48 => byTy v stTys fun t => kSt fun g => .sts g t
  | 0x49 => byTy v ldTys fun t => kLd fun g => .ldc g t
  | 0x4A => byTy v stTys fun t => kSt fun g => .stc g t
  | 0x4B =>
    match v.toNat with
    | 0 => some (s0 immSc .fenceAcq)
    | 1 => some (s0 immSc .fenceRel)
    | 2 => some (s0 immSc .fenceFull)
    | 3 => some (s0 immZero fun g _ => .fenceAck g)
    | _ => none
  | 0x4C => var0 v (s1 (fun v => if v = 0 then some false else if v = 0x20 then some true else none) .pref)
  | 0x4D => var0 v fun r =>
      match r.imm.toNat with
      | 0x00 => s0 some (fun g _ => .cctlInv g) r
      | 0x20 => s0 some (fun g _ => .cctlInvro g) r
      | 0x40 => s1 some (fun g a _ => .cctlLine g a) r
      | _ => none
  | 0x4E => var0 v (s1 immZero fun g a _ => .mirrorSync g a)
  | 0x50 => byTy v [.z32, .s32, .s64, .f32, .f16, .bf16] fun t => d2 immAt fun g => .atomAdd g t
  | 0x51 => byTy v [.z32, .s32, .s64, .f32] fun t => d2 immAt fun g => .atomMin g t
  | 0x52 => byTy v [.z32, .s32, .s64, .f32] fun t => d2 immAt fun g => .atomMax g t
  | 0x53 => byTy v [.z32, .s64] fun t => d2 immAt fun g => .atomAnd g t
  | 0x54 => byTy v [.z32, .s64] fun t => d2 immAt fun g => .atomOr g t
  | 0x55 => byTy v [.z32, .s64] fun t => d2 immAt fun g => .atomXor g t
  | 0x56 => byTy v [.z32, .s64] fun t => d2 immAt fun g => .atomXchg g t
  | 0x57 => byTy v [.z32, .s64] fun t => d3 immAt fun g => .atomCas g t
  | 0x58 => byTy v [.z32] fun _ => d2 immAt .atomInc
  | 0x59 => byTy v [.s64] fun _ => d2 immDq fun g d a b m => .atomPush g d a b m.1 m.2
  | 0x5A => byTy v [.s64] fun _ => d1 immDq fun g d a m => .atomPop g d a m.1 m.2
  | 0x5B => byTy v [.s64] fun _ => d1 immDq fun g d a m => .atomSteal g d a m.1 m.2
  | 0x5C => byTy v [.z32, .s32, .s64, .f32, .bf16] fun t => s2 immRed fun g => .redAdd g t
  | 0x5D => byTy v [.z32, .s32, .s64, .f32] fun t => s2 immRed fun g => .redMin g t
  | 0x5E => byTy v [.z32, .s32, .s64, .f32] fun t => s2 immRed fun g => .redMax g t
  | _ => none

/-- Class 3 (03:R66). -/
def class3 (maj : Nat) (v : BitVec 4) : Option (Raw → Option Instr) :=
  match maj with
  | 0x60 => if v.toNat < 10 then some (r2 i24Copy fun g t w a b m => .copy g t w m.1 v a b m.2) else none
  | 0x61 => if v.toNat < 10 then some (r2 i24Copy fun g t w a b m => .copyl g t w m.1 v a b m.2) else none
  | 0x62 =>
    match v.toNat with
    | 0 => some (noTok (r0 i24Zero fun g _ w _ => .wmarkRel g w))
    | 1 => some (noTok (r1 i24Zero fun g _ w a _ => .wmarkWaitg g w a))
    | 2 => some (noTok (r0 i24Zero fun g _ w _ => .wmarkGet g w))
    | 3 => some (noTok (r0 i24Zero fun g _ w _ => .wmarkGen g w))
    | _ => none
  | 0x63 => var0 v (e2 i24Zero fun g t a b _ => .mcJoin g t a b)
  | 0x64 => var0 v (e1 i24Zero fun g t a _ => .mcLeave g t a)
  | 0x65 => if v.toNat < 10 then some (r2 i24Mc fun g t w a b m => .mcLd g t w v a b m.1 m.2) else none
  | 0x66 => byTy v stTys fun t => r2 (i24Idx false) fun g tk w a b m => .gather g t tk w a b m.1 m.2.1 m.2.2
  | 0x67 => byTy v stTys eScatter
  | 0x68 => (QFmt.parse v).map fun f => e1 i24Q fun g t a s => .quant g f t a s
  | 0x69 => var0 v fun r =>
      match eTok r with
      | some (some j) => if r.a = 0 ∧ r.b = 0 ∧ r.imm24 = 0 then some (.waitt r.guard j) else none
      | _ => none
  | 0x6A =>
    match v.toNat with
    | 0 => some (s2 immZero fun g a b _ => .lrecNew g a b)
    | 1 => some fun r =>
        match r.imm.toNat with
        | 0 => s3 some (fun g a b c _ => .lrecSetGrid g a b c) r
        | 1 => s3 some (fun g a b c _ => .lrecSetCourse g a b c) r
        | 2 => s1 some (fun g a _ => .lrecSetClass g a) r
        | 3 => s1 some (fun g a _ => .lrecSetCounter g a) r
        | _ => none
    | 2 => some (s2 immZero fun g a b _ => .lrecWait g a b)
    | _ => none
  | 0x6B => var0 v (e0 .launch)
  | 0x6C => var0 v fun r => if r.dest = 0 then e2 i24Zero (fun g _ a b _ => .joinc g a b) r else none
  | 0x6D =>
    match v.toNat with
    | 0 => some (d1 immZero fun g d a _ => .strmStat g d a)
    | 1 => some (d2 immZero fun g d a b _ => .strmCommit g d a b)
    | 2 => some (d2 immZero fun g d a b _ => .strmReserve g d a b)
    | 3 => some fun r =>
        match r.imm.toNat with
        | 0 => d2 some (fun g d a b _ => .strmPage g d a b) r
        | 1 => d3 some (fun g d a b c _ => .strmPageW g d a b c) r
        | 2 => d3 some (fun g d a b c _ => .strmPageC g d a b c) r
        | _ => none
    | _ => none
  | 0x6E => var0 v fun r => if r.dest = 0 then e1 i24Zero (fun g _ a _ => .pgalloc g a) r else none
  | 0x6F => var0 v (e2 i24Zero fun g t a b _ => .pgfree g t a b)
  | 0x70 => (FTy.parseTy v).map fun t => e1 i24Zero fun g tk a _ => .topk g t tk a
  | 0x71 => (FTy.parseTy v).map fun t => e1 i24Zero fun g tk a _ => .rhist g t tk a
  | 0x72 => (FTy.parseTy v).map fun t => e1 i24Zero fun g tk a _ => .biasadd g t tk a
  | _ => none

/-- Class 4 (03:R67). -/
def class4 (maj : Nat) (v : BitVec 4) : Option (Raw → Option Instr) :=
  match maj with
  | 0x80 => byTy v [.s8, .f32, .f16, .bf16, .e4m3, .e5m2] fun t => r2 MmaMod.parse fun g => .mma g t
  | 0x81 => (Semiring.parse v).map fun s => r2 MmaMod.parse fun g => .mmaSr g s
  | 0x82 => byTy v [.s8, .f16, .bf16, .e4m3, .e5m2] fun t => r2 MmaMod.parse fun g => .mmaSp g t
  | 0x83 =>
    if 2 ≤ v.toNat ∧ v.toNat ≤ 8 then
      some (r2 (fun i => (MmaMod.parse i).filter fun m => m.sa.toNat % 8 == 0) fun g => .mmaBp g v) else none
  | 0x84 => var0 v (r0 i24Zero fun g t c _ => .accZero g t c)
  | 0x85 => byTy v [.s32, .f32, .f16, .bf16] fun t => r1 i24Acc fun g tk c a m => .accLd g t tk c a m.1 m.2
  | 0x86 => byTy v [.s32, .f32, .f16, .bf16] fun t => r1 i24Acc fun g tk c a m => .accSt g t tk c a m.1 m.2
  | 0x87 => byTy v [.s32, .f32] fun t => r2 i24Scale fun g tk c a b m => .accScale g t tk c m.1 a b m.2.1 m.2.2
  | 0x88 => var0 v (r0 (i24Src 0) .accMov)
  | 0x89 => var0 v fun r => if r.imm24.getLsbD 3 then r0 (i24Src 1) .accCvtF32S32 r else r0 (i24Src 0) .accCvtS32F32 r
  | 0x8A => byTy v [.s32, .f32] fun t => noTok (r1 i24Zero fun g _ c a _ => .accGet g t c a)
  | 0x8B => byTy v [.s32, .f32] fun t => noTok fun r =>
      if r.imm24 = 1 then r2 some (fun g _ c a b _ => .accPutAdd g t c a b) r
      else r2 i24Zero (fun g _ c a b _ => .accPut g t c a b) r
  | _ => none

/-- Class 5 (03:R68). -/
def class5 (maj : Nat) (v : BitVec 4) : Option (Raw → Option Instr) :=
  match maj with
  | 0xA0 =>
    match v.toNat with
    | 0 => some (vReorder .reorderPack)
    | 1 => some (vReorder .reorderAlign)
    | _ => none
  | 0xA1 => var0 v (d1 immZero fun g d a _ => .reorderCount g d a)
  | 0xA2 => var0 v (d0 immZero fun g d _ => .riddleStat g d)
  | 0xA3 => var0 v (d0 immZero fun g d _ => .seatmap g d)
  | _ => none

/-- Class 6 (03:R69). -/
def class6 (maj : Nat) (v : BitVec 4) : Option (Raw → Option Instr) :=
  match maj with
  | 0xC0 => var0 v (s0 immZero fun g _ => .nop g)
  | 0xC1 => var0 v (l0 .bra)
  | 0xC2 => var0 v (s1 immZero fun g a _ => .brx g a)
  | 0xC3 => var0 v fun r => (Dest.parse r.dest).map fun d => .call r.guard d r.imm40
  | 0xC4 => var0 v (d1 immZero fun g d a _ => .callx g d a)
  | 0xC5 => var0 v (s1 immZero fun g a _ => .ret g a)
  | 0xC6 => var0 v fun r =>
      if r.dest.extractLsb' 4 4 = 0 then some (.split r.guard (PRef.parse (r.dest.extractLsb' 0 4)) r.imm40)
      else none
  | 0xC7 => var0 v fun r => if r.imm40 = 0 then l0 (fun g _ => .join g) r else none
  | 0xC8 => var0 v (s0 immZero fun g _ => .exit g)
  | 0xC9 => var0 v (s0 immZero fun g _ => .kill g)
  | 0xCA => var0 v (s0 immZero fun g _ => .yield g)
  | 0xCB => var0 v (lTrap .trap)
  | 0xCC => var0 v (lTrap .sysc)
  | 0xCD => var0 v (lTrap .brk)
  | 0xCE => var0 v (s0 (immLow 1) fun g m => if m = 0 then .eret g else .eretSkip g)
  | 0xD0 => byBar v fun f => s1 f fun g a x => .barInit g x a
  | 0xD1 => byBar v fun f => d0 f fun g d x => .barArrive g x d
  | 0xD2 => byBar v fun f => s1 f fun g a x => .barWait g x a
  | 0xD3 => byBar v fun f => s0 f .barSync
  | 0xD4 => byBar v fun f => d0 f fun g d x => .barPeek g x d
  | 0xD5 => var0 v (s0 immZero fun g _ => .phase g)
  | 0xD6 => var0 v (d2 immZero fun g d a b _ => .monitor g d a b)
  | 0xD7 => var0 v (d0 immZero fun g d _ => .leadRd g d)
  | _ => none

/-- Class 7 (03:R70). -/
def class7 (maj : Nat) (v : BitVec 4) : Option (Raw → Option Instr) :=
  match maj with
  | 0xE0 => var0 v vMovs
  | 0xE1 => var0 v vMovsp
  | 0xE2 => var0 v (d0 (immLow 12) .csrr)
  | 0xE3 => var0 v (s1 (immLow 12) fun g a n => .csrw g n a)
  | 0xE4 => var0 v (d1 (immLow 12) fun g d a n => .csrx g d n a)
  | 0xE5 => var0 v (d0 (fun v => (immLow 4 v).filter fun u => u.toNat ≤ 5) .scrubSt)
  | 0xE6 => var0 v (s1 (immLow 2) fun g a x => .txbind g x a)
  | 0xE7 => var0 v (s0 (immLow 2) .txunbind)
  | 0xE8 => var0 v (d0 (immLow 2) .rxpoll)
  | _ => none

/-- The opcode map (03:R63-R70). -/
def opcodeMap (maj : BitVec 8) (v : BitVec 4) : Option (Raw → Option Instr) :=
  match (maj.extractLsb' 5 3).toNat with
  | 0 => class0 maj.toNat v
  | 1 => class1 maj.toNat v
  | 2 => class2 maj.toNat v
  | 3 => class3 maj.toNat v
  | 4 => class4 maj.toNat v
  | 5 => class5 maj.toNat v
  | 6 => class6 maj.toNat v
  | _ => class7 maj.toNat v

/-- Decode the fields of a word, in the order of R74. -/
def decodeRaw (r : Raw) : Except DecErr Instr :=
  match opcodeMap r.maj r.var with
  | none => .error .illegalOpcode
  | some p =>
    match p r with
    | some i => .ok i
    | none => .error .illegalForm

/-- Decode a full word (03:R73). -/
def decodeWord (w : BitVec 64) : Except DecErr Instr := decodeRaw (Raw.ofWord w)

/-- Decode a 16-bit code that names no dictionary entry: `0xFFFF` (03:R51). -/
def decodeCode (c : BitVec 16) : Option Instr := if c = 0xFFFF then some .nopCode else none

/-- The forms of the majors (03:R55), as far as they say where `n` indices stand. -/
inductive Form
  | v | p | k | l | e
deriving DecidableEq, Repr

/-- The form of a major (03:R63-R70); VOTE's P variants name no destination either way. -/
def formOf (maj : Nat) : Form :=
  if maj = 0x19 ∨ maj = 0x1D ∨ maj = 0x1E ∨ maj = 0x28 then .p
  else if maj = 0x1B ∨ maj = 0xC1 ∨ maj = 0xC3 ∨ maj = 0xC6 ∨ maj = 0xC7 ∨ maj = 0xCB ∨ maj = 0xCC ∨ maj = 0xCD
    then .l
  else if 0x47 ≤ maj ∧ maj ≤ 0x4A then .k
  else if (0x60 ≤ maj ∧ maj ≤ 0x69) ∨ maj = 0x6B ∨ maj = 0x6C ∨ (0x6E ≤ maj ∧ maj ≤ 0x72)
      ∨ (0x80 ≤ maj ∧ maj ≤ 0x9F) then .e
  else .v

/-- An operand byte names no `n` register at or above the allotment (03:R57). -/
def nOpndOk (named : Nat) (b : BitVec 8) : Bool := (b.extractLsb' 6 2).toNat != 2 || (b.extractLsb' 0 6).toNat < named

/-- A destination byte names no `n` register at or above the allotment (03:R56). -/
def nDestOk (named : Nat) (b : BitVec 8) : Bool := (b.extractLsb' 6 2).toNat != 2 || (b.extractLsb' 0 6).toNat < named

/-- The `n` indices of a word lie within the role's allotment (03:R56, R57, 04:R84). -/
def Raw.nOk (named : Nat) (r : Raw) : Bool :=
  match formOf r.maj.toNat with
  | .l => r.maj.toNat == 0xC6 || nDestOk named r.dest
  | .k => nDestOk named r.dest && nOpndOk named r.a && nOpndOk named r.b
  | .e => nOpndOk named r.a && nOpndOk named r.b
  | .p => nOpndOk named r.a && nOpndOk named r.b && (r.maj.toNat != 0x1D || r.var != 0 || nDestOk named r.dest)
  | .v => nDestOk named r.dest && nOpndOk named r.a && nOpndOk named r.b && nOpndOk named r.c

/-- The decode checks that depend on the gang's role and brick (04:R84, 07:R148, 13:R266). -/
def Instr.ctxOk (named acct : Nat) : Instr → Bool
  | .reorderPack _ _ base mask | .reorderAlign _ _ base mask =>
    (List.range 16).all fun i => !mask.getLsbD i || base.toNat + i < named
  | .mma _ _ _ c _ _ _ | .mmaSr _ _ _ c _ _ _ | .mmaSp _ _ _ c _ _ _ | .mmaBp _ _ _ c _ _ _
  | .accZero _ _ c | .accLd _ _ _ c _ _ _ | .accSt _ _ _ c _ _ _ | .accGet _ _ c _ | .accPut _ _ c _ _
  | .accPutAdd _ _ c _ _ => c.toNat < acct
  | .accMov _ _ c s | .accCvtS32F32 _ _ c s | .accCvtF32S32 _ _ c s | .accScale _ _ _ c s _ _ _ _ =>
    c.toNat < acct && s.toNat < acct
  | _ => true

/-- Decode a word for a gang whose role has `named` registers and whose brick has `acct` tiles (03:R73, R74). -/
def decodeFor (named acct : Nat) (w : BitVec 64) : Except DecErr Instr :=
  match decodeWord w with
  | .error e => .error e
  | .ok i => if (Raw.ofWord w).nOk named && i.ctxOk named acct then .ok i else .error .illegalForm

/-- The class of a word: bits 63:61 (03:R54). -/
def classOfWord (w : BitVec 64) : Nat := (w.extractLsb' 61 3).toNat

/-- Control transfers are the majors `0xC1` to `0xCE` (03:R50). -/
def isTransferWord (w : BitVec 64) : Bool :=
  0xC1 ≤ (w.extractLsb' 56 8).toNat && (w.extractLsb' 56 8).toNat ≤ 0xCE

/-- A NOP word (03:R71). -/
def isNopWord (w : BitVec 64) : Bool := (w.extractLsb' 56 8).toNat == 0xC0

/-! ### Clauses -/

/-- The fields of a clause header (03:R47). -/
structure Header where
  cls : Nat
  count : Nat
  packed : BitVec 16
  wait : BitVec 8
  yield : Nat
deriving DecidableEq, Repr

/-- Decode faults (03:R73), by cause code (14:R290). -/
inductive ClauseErr
  | clauseForm | illegalOpcode | illegalForm | dictMiss
deriving DecidableEq, Repr

/-- Cause codes of the decode faults (14:R290). -/
def ClauseErr.cause : ClauseErr → Nat
  | .clauseForm => 0x01 | .illegalOpcode => 0x02 | .illegalForm => 0x03 | .dictMiss => 0x04

/-- Read a header: SIG first, then the other fields (03:R47, R73, R74). -/
def parseHeader (w : BitVec 64) : Except ClauseErr Header :=
  if w.extractLsb' 60 4 ≠ 0xA then .error .clauseForm
  else
    let h : Header := { cls := (w.extractLsb' 57 3).toNat, count := (w.extractLsb' 52 4).toNat + 1,
                        packed := w.extractLsb' 36 16, wait := w.extractLsb' 28 8,
                        yield := (w.extractLsb' 26 2).toNat }
    if w.getLsbD 56 || h.packed.toNat ≥ 2 ^ h.count || h.yield == 3 || w.extractLsb' 0 26 ≠ 0 then
      .error .illegalForm
    else .ok h

/-- What a position holds before decoding: a full word, a code's entry with its guard, an invalid entry, a code
with a reserved bit set, or the code `0xFFFF` (03:R51). -/
inductive Slot
  | word (w : BitVec 64)
  | miss
  | badCode (w : BitVec 64)
  | nop
deriving DecidableEq, Repr

/-- A code under a dictionary (03:R51, R52): the entry with its guard bits replaced. -/
def readCode (dict : List (BitVec 64)) (c : BitVec 16) : Slot :=
  if c = 0xFFFF then .nop
  else match dict[(c.extractLsb' 0 10).toNat]? with
    | none => .miss
    | some e =>
      let w := ({ Raw.ofWord e with gd := c.extractLsb' 10 4 }).toWord
      if c.extractLsb' 14 2 = 0 then .word w else .badCode w

/-- The positions of one slot, with their numbers (03:R49). -/
def slotPositions (dict : List (BitVec 64)) (packed : Bool) (i : Nat) (w : BitVec 64) : List (Nat × Slot) :=
  if packed then
    (List.range 4).map fun k => (4 * i + k, readCode dict (w.extractLsb' (16 * k) 16))
  else [(4 * i, .word w)]

/-- All positions of a clause in order. -/
def clausePositions (dict : List (BitVec 64)) (h : Header) (slots : List (BitVec 64)) : List (Nat × Slot) :=
  (slots.zipIdx.map fun (w, i) => slotPositions dict (h.packed.getLsbD i) i w).flatten

/-- The last position that counts (03:R50). -/
def lastCounted : List (Nat × Slot) → Option Nat
  | [] => none
  | (p, s) :: rest =>
    match lastCounted rest with
    | some q => some q
    | none => if s = .nop then none else some p

/-- The check that one word stands where it may (03:R50). -/
def placeOk (cls : Nat) (last : Option Nat) (p : Nat) (w : BitVec 64) : Bool :=
  if isNopWord w then true
  else if isTransferWord w then last == some p
  else classOfWord w == cls

/-- Decode one position, in the order DICT_MISS, ILLEGAL_OPCODE, ILLEGAL_FORM, CLAUSE_FORM (03:R74). -/
def decodePosition (named acct cls : Nat) (last : Option Nat) (p : Nat) (s : Slot) : Except ClauseErr Instr :=
  match s with
  | .nop => .ok .nopCode
  | .miss => .error .dictMiss
  | .badCode w =>
    match decodeWord w with
    | .error .illegalOpcode => .error .illegalOpcode
    | _ => .error .illegalForm
  | .word w =>
    match decodeFor named acct w with
    | .error .illegalOpcode => .error .illegalOpcode
    | .error .illegalForm => .error .illegalForm
    | .ok i => if placeOk cls last p w then .ok i else .error .clauseForm

/-- Decode positions in order; the first fault found is the one raised (03:R74). -/
def decodePositions (named acct cls : Nat) (last : Option Nat) :
    List (Nat × Slot) → Except (ClauseErr × Nat) (List (Nat × Instr))
  | [] => .ok []
  | (p, s) :: rest =>
    match decodePosition named acct cls last p s with
    | .error e => .error (e, p)
    | .ok i =>
      match decodePositions named acct cls last rest with
      | .error e => .error e
      | .ok is => .ok ((p, i) :: is)

/-- Decode a clause whose header and slots have been read (03:R72, R74). A fault names the failing position. -/
def decodeClause (named acct : Nat) (dict : List (BitVec 64)) (h : Header) (slots : List (BitVec 64)) :
    Except (ClauseErr × Nat) (List (Nat × Instr)) :=
  let ps := clausePositions dict h slots
  decodePositions named acct h.cls (lastCounted ps) ps

/-- The valid entries of a dictionary image (03:R52), given its words in order. -/
def imageEntries (head : BitVec 64) (entries : List (BitVec 64)) : List (BitVec 64) :=
  if head.extractLsb' 11 53 ≠ 0 ∨ (head.extractLsb' 0 11).toNat > 1024 then []
  else entries.take (head.extractLsb' 0 11).toNat

/-- The next instruction position after `p` in a clause of this header (14:R291): the lowest above it. -/
def nextPosition (h : Header) (p : Nat) : Option Nat :=
  ((List.range 64).filter fun q =>
    q > p && q / 4 < h.count && (h.packed.getLsbD (q / 4) || q % 4 == 0)).head?

/-! ### The encoder -/

/-- Form V fields. -/
def mkV (maj var : Nat) (g : Guard) (d : Dest) (a b c : BitVec 8) (imm : BitVec 16) : Raw :=
  ⟨BitVec.ofNat 8 maj, BitVec.ofNat 4 var, g.code, d.code, a, b, c, imm⟩

/-- Form P fields. -/
def mkP (maj var : Nat) (g : Guard) (cc pd : BitVec 3) (a b : BitVec 8) (imm : BitVec 16) : Raw :=
  ⟨BitVec.ofNat 8 maj, BitVec.ofNat 4 var, g.code, (0 : BitVec 2) ++ (cc ++ pd), a, b, 0, imm⟩

/-- Forms K and E fields. -/
def mkE (maj var : Nat) (g : Guard) (dest a b : BitVec 8) (imm : BitVec 24) : Raw :=
  ⟨BitVec.ofNat 8 maj, BitVec.ofNat 4 var, g.code, dest, a, b, imm.extractLsb' 16 8, imm.extractLsb' 0 16⟩

/-- Form L fields. -/
def mkL (maj var : Nat) (g : Guard) (dest : BitVec 8) (imm : BitVec 40) : Raw :=
  ⟨BitVec.ofNat 8 maj, BitVec.ofNat 4 var, g.code, dest, imm.extractLsb' 32 8, imm.extractLsb' 24 8,
    imm.extractLsb' 16 8, imm.extractLsb' 0 16⟩

/-- Class-1 variant bits (03:R62). -/
def fvar (r : Rnd) (t : FTy) : Nat := 4 * r.code.toNat + t.code.toNat

/-- An offset in IMM (08:R180). -/
def offImm (off : BitVec 11) : BitVec 16 := off ++ (0 : BitVec 5)

/-- A scope and offset in IMM. -/
def scOffImm (sc : Scope) (off : BitVec 11) : BitVec 16 := off ++ ((0 : BitVec 2) ++ sc.code)

/-- A predicate reference in IMM. -/
def pImm (p : PRef) : BitVec 16 := (0 : BitVec 12) ++ p.code

/-- Two predicate references in IMM. -/
def ppImm (a b : PRef) : BitVec 16 := (0 : BitVec 8) ++ (b.code ++ a.code)

/-- The base and space of COPY. -/
def copyImm (sp : CopySpace) (base : BitVec 19) : BitVec 24 := (0 : BitVec 3) ++ (sp.code ++ base)

/-- The immediate of GATHER and SCATTER. -/
def idxImm (op : Bool) (base : BitVec 19) (sh : BitVec 3) (m : Bool) : BitVec 24 := bv1 op ++ (bv1 m ++ (sh ++ base))

/-- The immediate of ACC.LD and ACC.ST. -/
def accImm (stride : BitVec 10) (sp : Bool) : BitVec 24 := (0 : BitVec 3) ++ (bv1 sp ++ ((0 : BitVec 10) ++ stride))

/-- The immediate of ACC.SCALE. -/
def scaleImm (s : BitVec 3) (asp bsp : Bool) : BitVec 24 :=
  (0 : BitVec 2) ++ (bv1 bsp ++ (bv1 asp ++ ((0 : BitVec 17) ++ s)))

/-- The barrier index and variant. -/
def BarRef.imm : BarRef → BitVec 16
  | .brick i => (0 : BitVec 12) ++ i
  | .course i => (0 : BitVec 14) ++ i

def BarRef.var : BarRef → Nat
  | .brick _ => 0
  | .course _ => 1

/-- Zero-extended IMM. -/
def zx (v : BitVec w) : BitVec 16 := v.setWidth 16

/-- The fields of an instruction's word (03:R54-R71); an event and the code NOP have none. -/
def encodeRaw : Instr → Option Raw
  | .add g t d a b i => some (mkV 0x00 t.code.toNat g d a.code b.code 0 i)
  | .sub g t d a b i => some (mkV 0x01 t.code.toNat g d a.code b.code 0 i)
  | .mul g t d a b i => some (mkV 0x02 t.code.toNat g d a.code b.code 0 i)
  | .mulhi g t d a b i => some (mkV 0x03 t.code.toNat g d a.code b.code 0 i)
  | .mulw g t d a b i => some (mkV 0x04 t.code.toNat g d a.code b.code 0 i)
  | .mad g t d a b c i => some (mkV 0x05 t.code.toNat g d a.code b.code c.code i)
  | .addSat g t d a b i => some (mkV 0x06 t.code.toNat g d a.code b.code 0 i)
  | .subSat g t d a b i => some (mkV 0x07 t.code.toNat g d a.code b.code 0 i)
  | .min g t d a b i => some (mkV 0x08 t.code.toNat g d a.code b.code 0 i)
  | .max g t d a b i => some (mkV 0x09 t.code.toNat g d a.code b.code 0 i)
  | .abs g t d a i => some (mkV 0x0A t.code.toNat g d a.code 0 0 i)
  | .and g t d a b i => some (mkV 0x0B t.code.toNat g d a.code b.code 0 i)
  | .or g t d a b i => some (mkV 0x0C t.code.toNat g d a.code b.code 0 i)
  | .xor g t d a b i => some (mkV 0x0D t.code.toNat g d a.code b.code 0 i)
  | .not g t d a i => some (mkV 0x0E t.code.toNat g d a.code 0 0 i)
  | .shl g t d a b i => some (mkV 0x0F t.code.toNat g d a.code b.code 0 i)
  | .shr g t d a b i => some (mkV 0x10 t.code.toNat g d a.code b.code 0 i)
  | .sar g t d a b i => some (mkV 0x11 t.code.toNat g d a.code b.code 0 i)
  | .rotl g t d a b i => some (mkV 0x12 t.code.toNat g d a.code b.code 0 i)
  | .bfx g t d a b i => some (mkV 0x13 t.code.toNat g d a.code b.code 0 i)
  | .bfi g t d a b c i => some (mkV 0x14 t.code.toNat g d a.code b.code c.code i)
  | .popc g t d a i => some (mkV 0x15 t.code.toNat g d a.code 0 0 i)
  | .clz g t d a i => some (mkV 0x16 t.code.toNat g d a.code 0 0 i)
  | .brev g t d a i => some (mkV 0x17 t.code.toNat g d a.code 0 0 i)
  | .sel g t d a b p => some (mkV 0x18 t.code.toNat g d a.code b.code 0 (pImm p))
  | .cmp g t cc pd a b i => some (mkP 0x19 t.code.toNat g cc.code pd a.code b.code i)
  | .mov g t d a i => some (mkV 0x1A t.code.toNat g d a.code 0 0 i)
  | .movi g t d v => some (mkL 0x1B t.code.toNat g d.code v)
  | .addsc g d a b s => some (mkV 0x1C 3 g d a.code b.code 0 (zx s))
  | .addscW g d a b s => some (mkV 0x1C 3 g d a.code b.code 0 (zx ((1 : BitVec 1) ++ s)))
  | .voteBallot g d p => some (mkV 0x1D 0 g d 0 0 0 (pImm p))
  | .voteAny g pd p => some (mkP 0x1D 1 g 0 pd 0 0 (pImm p))
  | .voteAll g pd p => some (mkP 0x1D 2 g 0 pd 0 0 (pImm p))
  | .voteLeadeq g pd a => some (mkP 0x1D 3 g 0 pd a.code 0 0)
  | .plopAnd g pd a b => some (mkP 0x1E 0 g 0 pd 0 0 (ppImm a b))
  | .plopOr g pd a b => some (mkP 0x1E 1 g 0 pd 0 0 (ppImm a b))
  | .plopXor g pd a b => some (mkP 0x1E 2 g 0 pd 0 0 (ppImm a b))
  | .plopAndn g pd a b => some (mkP 0x1E 3 g 0 pd 0 0 (ppImm a b))
  | .movemGet g d => some (mkV 0x1F 0 g d 0 0 0 0)
  | .movemSet g d a => some (mkV 0x1F 1 g d a.code 0 0 0)
  | .movemGetfm g d => some (mkV 0x1F 2 g d 0 0 0 0)
  | .movemGetp g d => some (mkV 0x1F 3 g d 0 0 0 0)
  | .movemSetp g a => some (mkV 0x1F 4 g .none a.code 0 0 0)
  | .addF g t r d a b i => some (mkV 0x20 (fvar r t) g d a.code b.code 0 i)
  | .subF g t r d a b i => some (mkV 0x21 (fvar r t) g d a.code b.code 0 i)
  | .mulF g t r d a b i => some (mkV 0x22 (fvar r t) g d a.code b.code 0 i)
  | .fma g t r d a b c i => some (mkV 0x23 (fvar r t) g d a.code b.code c.code i)
  | .minF g t d a b i => some (mkV 0x24 (fvar .rne t) g d a.code b.code 0 i)
  | .maxF g t d a b i => some (mkV 0x25 (fvar .rne t) g d a.code b.code 0 i)
  | .absF g t d a i => some (mkV 0x26 (fvar .rne t) g d a.code 0 0 i)
  | .neg g t d a i => some (mkV 0x27 (fvar .rne t) g d a.code 0 0 i)
  | .cmpF g t cc pd a b i => some (mkP 0x28 (fvar .rne t) g cc.code pd a.code b.code i)
  | .rcp g t d a i => some (mkV 0x29 (fvar .rne t) g d a.code 0 0 i)
  | .rsq g t d a i => some (mkV 0x2A (fvar .rne t) g d a.code 0 0 i)
  | .sqrt g t d a i => some (mkV 0x2B (fvar .rne t) g d a.code 0 0 i)
  | .ex2 g t d a i => some (mkV 0x2C (fvar .rne t) g d a.code 0 0 i)
  | .lg2 g t d a i => some (mkV 0x2D (fvar .rne t) g d a.code 0 0 i)
  | .rint g t r d a i => some (mkV 0x2E (fvar r t) g d a.code 0 0 i)
  | .frc g t d a i => some (mkV 0x2F (fvar .rne t) g d a.code 0 0 i)
  | .cvt g d a m => some (mkV 0x34 0 g d a.code 0 0 m.code)
  | .cvtX2 g d a b m => some (mkV 0x35 0 g d a.code b.code 0 m.code)
  | .packB16X2 g d a b i => some (mkV 0x36 0 g d a.code b.code 0 i)
  | .packB32X2 g d a b i => some (mkV 0x36 1 g d a.code b.code 0 i)
  | .unpkLo16 g d a i => some (mkV 0x37 0 g d a.code 0 0 i)
  | .unpkHi16 g d a i => some (mkV 0x37 1 g d a.code 0 0 i)
  | .unpkHi32 g d a i => some (mkV 0x37 2 g d a.code 0 0 i)
  | .swzb g d a b c i => some (mkV 0x38 0 g d a.code b.code c.code i)
  | .bpack g d a => some (mkV 0x39 0 g d a.code 0 0 0)
  | .bpext g d a p => some (mkV 0x3A 0 g d a.code 0 0 (zx p))
  | .ld g t d a o => some (mkV 0x40 t.code.toNat g d a.code 0 0 (offImm o))
  | .ldRo g t d a o => some (mkV 0x41 t.code.toNat g d a.code 0 0 (offImm o))
  | .ldAcq g t d a s o => some (mkV 0x42 t.code.toNat g d a.code 0 0 (scOffImm s o))
  | .st g t a b o => some (mkV 0x43 t.code.toNat g .none a.code b.code 0 (offImm o))
  | .stRel g t a b s o => some (mkV 0x44 t.code.toNat g .none a.code b.code 0 (scOffImm s o))
  | .stP g t d a b o => some (mkV 0x45 t.code.toNat g d a.code b.code 0 (offImm o))
  | .stMc g t a b o => some (mkV 0x46 t.code.toNat g .none a.code b.code 0 (offImm o))
  | .lds g t d a i => some (mkE 0x47 t.code.toNat g d.code a.code 0 i)
  | .sts g t a b i => some (mkE 0x48 t.code.toNat g 0 a.code b.code i)
  | .ldc g t d a i => some (mkE 0x49 t.code.toNat g d.code a.code 0 i)
  | .stc g t a b i => some (mkE 0x4A t.code.toNat g 0 a.code b.code i)
  | .fenceAcq g s => some (mkV 0x4B 0 g .none 0 0 0 (zx s.code))
  | .fenceRel g s => some (mkV 0x4B 1 g .none 0 0 0 (zx s.code))
  | .fenceFull g s => some (mkV 0x4B 2 g .none 0 0 0 (zx s.code))
  | .fenceAck g => some (mkV 0x4B 3 g .none 0 0 0 0)
  | .pref g a l => some (mkV 0x4C 0 g .none a.code 0 0 (if l then 0x20 else 0))
  | .cctlInv g => some (mkV 0x4D 0 g .none 0 0 0 0)
  | .cctlInvro g => some (mkV 0x4D 0 g .none 0 0 0 0x20)
  | .cctlLine g a => some (mkV 0x4D 0 g .none a.code 0 0 0x40)
  | .mirrorSync g a => some (mkV 0x4E 0 g .none a.code 0 0 0)
  | .atomAdd g t d a b m => some (mkV 0x50 t.code.toNat g d a.code b.code 0 m.code)
  | .atomMin g t d a b m => some (mkV 0x51 t.code.toNat g d a.code b.code 0 m.code)
  | .atomMax g t d a b m => some (mkV 0x52 t.code.toNat g d a.code b.code 0 m.code)
  | .atomAnd g t d a b m => some (mkV 0x53 t.code.toNat g d a.code b.code 0 m.code)
  | .atomOr g t d a b m => some (mkV 0x54 t.code.toNat g d a.code b.code 0 m.code)
  | .atomXor g t d a b m => some (mkV 0x55 t.code.toNat g d a.code b.code 0 m.code)
  | .atomXchg g t d a b m => some (mkV 0x56 t.code.toNat g d a.code b.code 0 m.code)
  | .atomCas g t d a b c m => some (mkV 0x57 t.code.toNat g d a.code b.code c.code m.code)
  | .atomInc g d a b m => some (mkV 0x58 0 g d a.code b.code 0 m.code)
  | .atomPush g d a b s o => some (mkV 0x59 2 g d a.code b.code 0 (AtMod.code ⟨s, o, 0⟩))
  | .atomPop g d a s o => some (mkV 0x5A 2 g d a.code 0 0 (AtMod.code ⟨s, o, 0⟩))
  | .atomSteal g d a s o => some (mkV 0x5B 2 g d a.code 0 0 (AtMod.code ⟨s, o, 0⟩))
  | .redAdd g t a b m => some (mkV 0x5C t.code.toNat g .none a.code b.code 0 m.code)
  | .redMin g t a b m => some (mkV 0x5D t.code.toNat g .none a.code b.code 0 m.code)
  | .redMax g t a b m => some (mkV 0x5E t.code.toNat g .none a.code b.code 0 m.code)
  | .copy g t w sp n a b base => some (mkE 0x60 n.toNat g (edest t (some w)) a.code b.code (copyImm sp base))
  | .copyl g t w sp n a b base => some (mkE 0x61 n.toNat g (edest t (some w)) a.code b.code (copyImm sp base))
  | .wmarkRel g w => some (mkE 0x62 0 g (edest none (some w)) 0 0 0)
  | .wmarkWaitg g w a => some (mkE 0x62 1 g (edest none (some w)) a.code 0 0)
  | .wmarkGet g w => some (mkE 0x62 2 g (edest none (some w)) 0 0 0)
  | .wmarkGen g w => some (mkE 0x62 3 g (edest none (some w)) 0 0 0)
  | .mcJoin g t a b => some (mkE 0x63 0 g (edest t none) a.code b.code 0)
  | .mcLeave g t a => some (mkE 0x64 0 g (edest t none) a.code 0 0)
  | .mcLd g t w n a b base grp =>
    some (mkE 0x65 n.toNat g (edest t (some w)) a.code b.code ((0 : BitVec 4) ++ (grp ++ base)))
  | .gather g t tk w a b base sh m =>
    some (mkE 0x66 t.code.toNat g (edest tk (some w)) a.code b.code (idxImm false base sh m))
  | .scatter g t tk a b base sh m =>
    some (mkE 0x67 t.code.toNat g (edest tk none) a.code b.code (idxImm false base sh m))
  | .scatterAdd g t tk a b base sh m =>
    some (mkE 0x67 t.code.toNat g (edest tk none) a.code b.code (idxImm true base sh m))
  | .quant g f t a s => some (mkE 0x68 f.code.toNat g (edest t none) a.code 0 (s.code.setWidth 24))
  | .waitt g j => some (mkE 0x69 0 g (edest (some j) none) 0 0 0)
  | .lrecNew g a b => some (mkV 0x6A 0 g .none a.code b.code 0 0)
  | .lrecSetGrid g a b c => some (mkV 0x6A 1 g .none a.code b.code c.code 0)
  | .lrecSetCourse g a b c => some (mkV 0x6A 1 g .none a.code b.code c.code 1)
  | .lrecSetClass g a => some (mkV 0x6A 1 g .none a.code 0 0 2)
  | .lrecSetCounter g a => some (mkV 0x6A 1 g .none a.code 0 0 3)
  | .lrecWait g a b => some (mkV 0x6A 2 g .none a.code b.code 0 0)
  | .launch g t => some (mkE 0x6B 0 g (edest t none) 0 0 0)
  | .joinc g a b => some (mkE 0x6C 0 g 0 a.code b.code 0)
  | .strmStat g d a => some (mkV 0x6D 0 g d a.code 0 0 0)
  | .strmCommit g d a b => some (mkV 0x6D 1 g d a.code b.code 0 0)
  | .strmReserve g d a b => some (mkV 0x6D 2 g d a.code b.code 0 0)
  | .strmPage g d a b => some (mkV 0x6D 3 g d a.code b.code 0 0)
  | .strmPageW g d a b c => some (mkV 0x6D 3 g d a.code b.code c.code 1)
  | .strmPageC g d a b c => some (mkV 0x6D 3 g d a.code b.code c.code 2)
  | .pgalloc g a => some (mkE 0x6E 0 g 0 a.code 0 0)
  | .pgfree g t a b => some (mkE 0x6F 0 g (edest t none) a.code b.code 0)
  | .topk g t tk a => some (mkE 0x70 t.ty.code.toNat g (edest tk none) a.code 0 0)
  | .rhist g t tk a => some (mkE 0x71 t.ty.code.toNat g (edest tk none) a.code 0 0)
  | .biasadd g t tk a => some (mkE 0x72 t.ty.code.toNat g (edest tk none) a.code 0 0)
  | .mma g t tk c a b m => some (mkE 0x80 t.code.toNat g (edest tk (some c)) a.code b.code m.code)
  | .mmaSr g s tk c a b m => some (mkE 0x81 s.code.toNat g (edest tk (some c)) a.code b.code m.code)
  | .mmaSp g t tk c a b m => some (mkE 0x82 t.code.toNat g (edest tk (some c)) a.code b.code m.code)
  | .mmaBp g p tk c a b m => some (mkE 0x83 p.toNat g (edest tk (some c)) a.code b.code m.code)
  | .accZero g tk c => some (mkE 0x84 0 g (edest tk (some c)) 0 0 0)
  | .accLd g t tk c a st sp => some (mkE 0x85 t.code.toNat g (edest tk (some c)) a.code 0 (accImm st sp))
  | .accSt g t tk c a st sp => some (mkE 0x86 t.code.toNat g (edest tk (some c)) a.code 0 (accImm st sp))
  | .accScale g t tk c s a b x y =>
    some (mkE 0x87 t.code.toNat g (edest tk (some c)) a.code b.code (scaleImm s x y))
  | .accMov g tk c s => some (mkE 0x88 0 g (edest tk (some c)) 0 0 (s.setWidth 24))
  | .accCvtS32F32 g tk c s => some (mkE 0x89 0 g (edest tk (some c)) 0 0 (s.setWidth 24))
  | .accCvtF32S32 g tk c s => some (mkE 0x89 0 g (edest tk (some c)) 0 0 ((1 : BitVec 21) ++ s))
  | .accGet g t c a => some (mkE 0x8A t.code.toNat g (edest none (some c)) a.code 0 0)
  | .accPut g t c a b => some (mkE 0x8B t.code.toNat g (edest none (some c)) a.code b.code 0)
  | .accPutAdd g t c a b => some (mkE 0x8B t.code.toNat g (edest none (some c)) a.code b.code 1)
  | .reorderPack g k b m => some (mkV 0xA0 0 g .none k.code (if m = 0 then 0 else (2 : BitVec 2) ++ b) 0 m)
  | .reorderAlign g k b m => some (mkV 0xA0 1 g .none k.code (if m = 0 then 0 else (2 : BitVec 2) ++ b) 0 m)
  | .reorderCount g d k => some (mkV 0xA1 0 g d k.code 0 0 0)
  | .riddleStat g d => some (mkV 0xA2 0 g d 0 0 0 0)
  | .seatmap g d => some (mkV 0xA3 0 g d 0 0 0 0)
  | .nop g => some (mkV 0xC0 0 g .none 0 0 0 0)
  | .bra g o => some (mkL 0xC1 0 g 0 o)
  | .brx g a => some (mkV 0xC2 0 g .none a.code 0 0 0)
  | .call g d o => some (mkL 0xC3 0 g d.code o)
  | .callx g d a => some (mkV 0xC4 0 g d a.code 0 0 0)
  | .ret g a => some (mkV 0xC5 0 g .none a.code 0 0 0)
  | .split g p o => some (mkL 0xC6 0 g ((0 : BitVec 4) ++ p.code) o)
  | .join g => some (mkL 0xC7 0 g 0 0)
  | .exit g => some (mkV 0xC8 0 g .none 0 0 0 0)
  | .kill g => some (mkV 0xC9 0 g .none 0 0 0 0)
  | .yield g => some (mkV 0xCA 0 g .none 0 0 0 0)
  | .trap g n => some (mkL 0xCB 0 g 0 (n.setWidth 40))
  | .sysc g n => some (mkL 0xCC 0 g 0 (n.setWidth 40))
  | .brk g n => some (mkL 0xCD 0 g 0 (n.setWidth 40))
  | .eret g => some (mkV 0xCE 0 g .none 0 0 0 0)
  | .eretSkip g => some (mkV 0xCE 0 g .none 0 0 0 1)
  | .barInit g x a => some (mkV 0xD0 x.var g .none a.code 0 0 x.imm)
  | .barArrive g x d => some (mkV 0xD1 x.var g d 0 0 0 x.imm)
  | .barWait g x a => some (mkV 0xD2 x.var g .none a.code 0 0 x.imm)
  | .barSync g x => some (mkV 0xD3 x.var g .none 0 0 0 x.imm)
  | .barPeek g x d => some (mkV 0xD4 x.var g d 0 0 0 x.imm)
  | .phase g => some (mkV 0xD5 0 g .none 0 0 0 0)
  | .monitor g d a b => some (mkV 0xD6 0 g d a.code b.code 0 0)
  | .leadRd g d => some (mkV 0xD7 0 g d 0 0 0 0)
  | .movs g d x => some (mkV 0xE0 0 g d 0 0 0 (zx x))
  | .movsRx g d r => some (mkV 0xE0 0 g d 0 0 0 (0x34 + zx r))
  | .movsp g x a => some (mkV 0xE1 0 g .none a.code 0 0 (zx x))
  | .movspTx g r a => some (mkV 0xE1 0 g .none a.code 0 0 (0x30 + zx r))
  | .csrr g d n => some (mkV 0xE2 0 g d 0 0 0 (zx n))
  | .csrw g n a => some (mkV 0xE3 0 g .none a.code 0 0 (zx n))
  | .csrx g d n a => some (mkV 0xE4 0 g d a.code 0 0 (zx n))
  | .scrubSt g d u => some (mkV 0xE5 0 g d 0 0 0 (zx u))
  | .txbind g r a => some (mkV 0xE6 0 g .none a.code 0 0 (zx r))
  | .txunbind g r => some (mkV 0xE7 0 g .none 0 0 0 (zx r))
  | .rxpoll g d r => some (mkV 0xE8 0 g d 0 0 0 (zx r))
  | _ => none

/-- The words of an instruction: its number of bits and their value (03:R51, R54). -/
def encode (i : Instr) : Option (Nat × Nat) :=
  match i with
  | .nopCode => some (16, 0xFFFF)
  | _ => (encodeRaw i).map fun r => (64, r.toWord.toNat)

/-- The instruction the decoder reads from the bits `w` of an opcode-table row of `nbits` bits: a code or a full
word (03:R51, R54). -/
def decodeTableWord (nbits w : Nat) : Option Instr :=
  if nbits ≤ 16 then decodeCode (BitVec.ofNat 16 w) else (decodeWord (BitVec.ofNat 64 w)).toOption

end Sys2Proof
end

