-- ==== Sys2Proof/Machine/State.lean ====
section
/-! DEFINITION. The state of the device as plain data: everything INVENTORY.md lists under '## State', the state
after reset, and the reasons a step can stop. -/

namespace Sys2Proof.Machine

open Sys2Proof

/-- Bytes by address in canonical form: addresses strictly rising, no entry equal to the default byte 0
(log 4: memory that nothing has written reads as 0). -/
abbrev Memory := List Host.Cell

/-- What an address with no entry reads as (log 4). -/
def Memory.default : Byte := 0

/-- A brick by its wall and its linear index (02:R21). -/
structure BKey where
  wall : Nat
  idx : Nat
deriving DecidableEq, Repr

/-- A course by its wall and its course index (02:R21). -/
structure CKey where
  wall : Nat
  course : Nat
deriving DecidableEq, Repr

/-- One entry of a result queue (04:R75) with the request that fills it, when it is pending (04:R81); `bad` marks an
uncorrectable word (04:R86, R87). -/
structure QCell where
  val : Word
  valid : Bool
  pend : Option Nat
  bad : Bool
deriving DecidableEq, Repr

/-- One `n` or `k` register with the request that fills it, when it is pending (04:R81, R82); `bad` as in `QCell`. -/
structure NCell where
  val : Word
  pend : Option Nat
  bad : Bool
deriving DecidableEq, Repr

/-- The registers and the identity of a lane (04:R75, 02:R22, 13:R265). -/
structure Lane where
  q : Vector QCell 16
  n : Vector NCell 64
  p : BitVec 7
  /-- The word of the predicates and validity bits is uncorrectable (04:R86, R87). -/
  pbad : Bool
  oid : BitVec 9
  obrick : BitVec 3
  brick : BKey
  role : BitVec 2
  key : BitVec 16
  rank : BitVec 12
  binbase : BitVec 12
deriving DecidableEq, Repr

/-- An entry of the split stack (06:R123). -/
structure SSEntry where
  rejoin : Mask
  pend : Mask
  arr : Mask
  cont : Addr
  jpc : Addr
  jv : Bool
deriving DecidableEq, Repr

/-- A split-stack transfer that has not completed (06:R124): the lowest resident entry out, or the highest stored
entry in. -/
inductive Xfer
  | spill (e : SSEntry) (depth : Nat)
  | fill (depth : Nat)
deriving DecidableEq, Repr

/-- What a write or a message carries of what happens before it (20:R390, R391): the gang that made it, on its core, with the
origin bricks of its lanes; the scope it releases at, `none` when it is no release; the requests that happen before it, but for
a release of device or system scope, whose epoch has ended (20:R389). -/
structure RelInfo where
  gid : Nat
  core : Nat
  bricks : List BKey
  rel : Option Scope
  ids : List Nat
deriving DecidableEq, Repr

/-- What a flit carries of its sender's fences (06:R142): epochs of the footings, counted from 1, and releases of narrow
scope. -/
structure MsgInfo where
  seen : Vector Nat 4
  rels : List RelInfo
deriving DecidableEq, Repr

/-- A trap about to be taken or delivered (14:R292). -/
structure TrapInfo where
  cause : Nat
  tval : Word
  lanes : Mask
  num : Nat
  field : Nat
  clause : Addr
  pos : Nat
  lost : Nat
  /-- System software has handed the cause to the handler (14:R295). -/
  forced : Bool
deriving DecidableEq, Repr

/-- Why system software holds a gang (14:R294). -/
structure Hold where
  cause : Nat
  tval : Word
  tepc : Word
  /-- What Deliver hands to the handler. -/
  trap : Option TrapInfo
deriving DecidableEq, Repr

/-- A monitor in wait (06:R137): the line, the word's address, when it parked, whether a wake has come, and
whether spin detection placed it. -/
structure MonWait where
  line : Nat
  pa : Nat
  since : Nat
  woken : Bool
  spin : Bool
deriving DecidableEq, Repr

/-- What a gang in a seat waits for (02:R34, R35). `stalled` marks an instruction that met an interlock or a wait
and is tried again at the gang's next issue; `reaching` one whose lanes on other cores are reached over the mortar in the cycle
`due`, a load or not, with what its other lanes have got: the lane, the cause that struck it or 0, the value (13:R276). -/
inductive Wait
  | ready
  | stalled
  | reaching (due : Nat) (load : Bool) (got : List (Nat × Nat × Word))
  | joinc (addr : Addr) (val : Word) (since : Nat)
  | syncing (x : BarRef) (phc : Lanes (BitVec 16)) (lanes : Mask)
  | monitor (m : MonWait)
  | walk (id : Nat)
  | posted (id : Nat)
  | gathered
  | trapping (t : TrapInfo) (fault : Bool)
deriving DecidableEq, Repr

/-- Where a gang's context is (02:R34, R37). A retired gang stays in its seat's record until its brick retires. -/
inductive Place
  | seat (core seat : Nat)
  | park (core seat : Nat) (since : Nat)
  | memory (core seat : Nat)
  | retired (core seat : Nat)
deriving DecidableEq, Repr

/-- What spin detection keeps of one iteration of a backward branch (06:R138). -/
structure SpinIter where
  positions : List (Nat × Nat)
  values : List Nat
  clean : Bool
  line : Option Nat
  regs : List (List Word × BitVec 7)
  em : Mask
deriving DecidableEq, Repr

/-- The spin-detection history of one backward branch of a gang: the clause and position of the branch, the iteration
that ended at its previous taken arrival, the open one (06:R138). -/
structure SpinHist where
  branch : Addr × Nat
  last : Option SpinIter
  cur : SpinIter
deriving DecidableEq, Repr

/-- A gang whose record is in memory: its tokens and lanes as they were written, and whether an engine fault was pending.
What happens to them meanwhile is applied to the record read back (11:R233, 14:R296). -/
structure Away where
  out : Vector (BitVec 8) 8
  live : Mask
  pend : Bool
deriving DecidableEq, Repr

/-- A gang (06:R120, 11:R224, 14:R291, 16:R328, R336). -/
structure Gang where
  gid : Nat
  brick : BKey
  gno : Nat
  role : BitVec 2
  named : Nat
  reord : Bool
  dict : Addr
  cls : Nat
  place : Place
  lanes : Lanes Lane
  em : Mask
  live : Mask
  fm : Mask
  k : Vector NCell 32
  stack : List SSEntry
  depth : Nat
  xfer : Option Xfer
  spins : BitVec 32
  pc : Addr
  pos : Nat
  clause : List (Nat × Instr)
  header : Option Header
  waited : Bool
  readyT : Nat
  inherited : Bool
  hint : Nat
  /-- The cycle in which it last issued or became Ready; none while it waits (16:R336). -/
  since : Option Nat
  out : Vector (BitVec 8) 8
  tvec : Addr
  tcause : Word
  tepc : Word
  tval : Word
  tlanes : Mask
  tmode : Bool
  pendfault : Option (Nat × Word)
  lost : Nat
  /-- Stops of accesses it had sent that it takes at its next issue: the cause, TVAL, the lanes (14:R295, 22:R422). -/
  owed : List (Nat × Word × Mask)
  wait : Wait
  /-- Held for system software (14:R294), besides its wait. -/
  hold : Option Hold
  lr : Vector Word 8
  lrv : Bool
  spin : List SpinHist
  /-- Requests that every later access of the gang follows (acquires; 20:R385). -/
  after : List Nat
  /-- Requests that every later store and atomic follows (FENCE.REL, FENCE.FULL; 08:R187). -/
  afterSt : List Nat
  /-- Requests of other gangs that happen before this gang's next access (20:R391). -/
  hb : List Nat
  /-- What its plain reads and its messages have shown it, for a later FENCE.ACQ (20:R389-R391): epochs of the footings, counted
  from 1; releases and other writes, each with the origin bricks of the lanes that read it; the requests whose writes, read at
  another footing's slice, may not have reached its own. -/
  seen : Vector Nat 4
  seenRel : List (RelInfo × List BKey)
  seenIds : List Nat
  /-- The scopes of its release fences, each with the requests that the last one of it covers (08:R187, 20:R390). -/
  fences : List (Scope × List Nat)
  /-- What the device had of it when its record went to memory (14:R303). -/
  away : Option Away
deriving DecidableEq, Repr

/-- A WMARK.REL done (09:R210): the iteration it freed a stage for, the gang, and the id above those of all the gang
issued before it. -/
structure Release where
  iter : Nat
  gid : Nat
  upTo : Nat
deriving DecidableEq, Repr

/-- A watermark register (09:R195) with COPYL's iteration count (09:R199) and the number of the operation that armed it
last. -/
structure Wmark where
  value : BitVec 20
  base : BitVec 20
  limit : BitVec 20
  armed : Bool
  frozen : Bool
  loop : Bool
  failed : Bool
  gen : BitVec 16
  landed : BitVec 20
  released : BitVec 20
  nstg : BitVec 4
  late : Bool
  iters : BitVec 20
  armer : Nat
  rels : List Release
deriving DecidableEq, Repr

/-- A barrier of a brick or a course (11:R224). `ids` are the requests its open phase's arrivals follow, `done`
those of the phases completed (20:R391). -/
structure Bar (w : Nat) where
  phc : BitVec 16
  arr : BitVec 13
  expect : BitVec 13
  amask : BitVec w
  ids : List Nat
  done : List Nat
deriving DecidableEq, Repr

/-- A record in a brick's pending-launch queue (16:R331). -/
structure PendRec where
  words : Vector Word 8
  entered : Nat
  gid : Nat
  tok : Tok
  core : Nat
  seat : Nat
  deps : List Nat
deriving DecidableEq, Repr

/-- What a scratchpad store after a release fence leaves on its bytes (20:R390). -/
structure STag where
  off : Nat
  len : Nat
  info : RelInfo
deriving DecidableEq, Repr

/-- Where a brick's state lies (14:R300). -/
inductive BrickPlace
  | core
  | memory
deriving DecidableEq, Repr

/-- A brick (02:R23, R40, 06:R120, 07:R144, 08:R166, 09:R195, 11:R224, 16:R331). -/
structure Brick where
  key : BKey
  serial : Nat
  course : Nat
  obrick : Nat
  core : Nat
  seats : List Nat
  place : BrickPlace
  retired : Bool
  spadk : Nat
  spad : List (Nat × Byte)
  stags : List STag
  written : BitVec 16384
  g : Vector Word 16
  w : Vector Wmark 8
  bars : Vector (Bar 512) 16
  phase : BitVec 32
  lowph : BitVec 32
  highph : BitVec 32
  phys : List Nat
  tiles : Vector (List (Nat × BitVec 32)) 8
  mp : Word
  quar : Bool
  killed : Bool
  qcause : BitVec 8
  qoid : BitVec 9
  qtime : Nat
  qcore : Nat
  qmask : BitVec 512
  pendq : List PendRec
  enrolled : BitVec 64
  savedTx : List (Nat × BitVec 11 × Option (Word × MsgInfo))
  /-- Saved bindings on cores of other bricks of its course, by the brick: the register, the destination, the flit (06:R142). -/
  farTx : List (BKey × Nat × (Nat × Nat) × Option (Word × MsgInfo))
  /-- Watermarks whose copy's fault was resolved or declared unresolvable while the record is in memory (09:R206). -/
  awayW : List (Nat × Bool)
deriving DecidableEq, Repr

/-- States of a reorder record (13:R265). -/
inductive RState
  | idle | gathering | queued | binning | frozen | rebuilding
deriving DecidableEq, Repr

/-- A tag entry with the seat and lane it arrived from, its payload, and the virtual and physical address of a spilled one
(13:R265, R273). -/
structure Tag where
  key : BitVec 16
  obrick : BitVec 3
  oid : BitVec 9
  pred : BitVec 7
  pos : BitVec 12
  gid : Nat
  lane : Nat
  payload : List Word
  spill : Option (Nat × Nat)
deriving DecidableEq, Repr

/-- What a participating seat held before the commit point (13:R265, R278). -/
structure Undo where
  gid : Nat
  lanes : Lanes Lane
  em : Mask
  live : Mask
  fm : Mask
deriving DecidableEq, Repr

/-- A course and its reorder record (02:R23, 11:R224, 13:R265). `merged`: the keys that shared a gang, until STAT takes
them; `undo`: the seats before the commit point, while the rebuild may meet an uncorrectable word. -/
structure Course where
  key : CKey
  group : Nat
  cbars : Vector (Bar 4096) 4
  state : RState
  word : Option Instr
  clause : Addr
  posn : Nat
  expected : List Nat
  arrived : List Nat
  tags : List Tag
  share : Nat
  stat : Word
  regrouped : Bool
  qorder : Nat
  fault : Option (Nat × Word)
  merged : Nat
  undo : List Undo
deriving DecidableEq, Repr

/-- A launch header as read (02:R25, R26): the words from word 0 on. -/
structure RoleDesc where
  entry : Addr
  named : Nat
  gangs : Nat
  reord : Bool
  dict : Nat
  dictaddr : Addr
deriving DecidableEq, Repr

structure LHeader where
  stages : Nat
  lead : Nat
  spadk : Nat
  acct : Nat
  rshare : Nat
  spillbase : Addr
  ovfq : Addr
  ssovf : Addr
  ctxbase : Addr
  crecbase : Addr
  roles : List RoleDesc
deriving DecidableEq, Repr

/-- Where a wall's packet came from (16:R325): a registered queue by its address space and descriptor, a brick's
pending queue, an overflow ring, or a stream's step. -/
inductive Source
  | queue (asid desc : Nat)
  | pending (core seat : Nat)
  | overflow (asid desc : Nat)
  | stream (n : Nat)
deriving DecidableEq, Repr

/-- A wall's progress (16:R318, R322, 02:R41). -/
inductive WState
  | waiting | ready | complete
deriving DecidableEq, Repr

/-- A wall that has been taken (16:R318-R325). -/
structure Wall where
  id : Nat
  asid : Nat
  cls : Nat
  words : Vector Word 8
  src : Source
  foot : Nat
  state : WState
  readyAt : Nat
  header : Option LHeader
  args : Vector Word 8
  nextSet : Nat
  /-- The slot the packet was taken from; 0 for a record (16:R320). -/
  slot : Nat
  /-- Epochs of the footings that happen before the wall's bricks start (16:R323), and before its end (11:R238). -/
  seen : Vector Nat 4
  ends : Vector Nat 4
  /-- The wall-end increment has been made, or is declared unperformable (11:R238). -/
  ended : Bool
deriving DecidableEq, Repr

/-- The phases of a placement set (02:R34, R36, R37). -/
inductive SetPhase
  | resident | halted | parked | stored
deriving DecidableEq, Repr

/-- A placement set that has been placed (02:R29, 16:R324, R334). -/
structure PSet where
  wall : Nat
  num : Nat
  foot : Nat
  phase : SetPhase
  restorable : Bool
  swapped : Bool
  placedAt : Nat
  parkedAt : Nat
  joins : List (Addr × Word)
deriving DecidableEq, Repr

/-- The set a wall waits to place, and since when it has found no footing (16:R326). -/
structure NoFit where
  wall : Nat
  num : Nat
  since : Nat
  asked : Bool
deriving DecidableEq, Repr

/-- A translation held in a TLB (08:R177): the page, its frame and its permissions. -/
structure TlbEntry where
  asid : Nat
  va : Nat
  size : Nat
  pa : Nat
  w : Bool
  x : Bool
  mirror : Bool
deriving DecidableEq, Repr

/-- What an access needs of a page. -/
inductive Need
  | read | write | fetch
deriving DecidableEq, Repr

/-- A page walk in flight (08:R177): the gangs that asked, each with its address and what it needs. -/
structure Walk where
  id : Nat
  foot : Nat
  group : Nat
  asid : Nat
  va : Nat
  gids : List (Nat × Nat × Need)
deriving DecidableEq, Repr

/-- What a footing's copy of some bytes was last written by, as far as an acquire may observe it: the write's own releases
first, then those that a chain of atomics reaches back to (20:R389-R391). -/
structure WTag where
  foot : Nat
  pa : Nat
  len : Nat
  src : Nat
  epoch : Nat
  chain : List RelInfo
deriving DecidableEq, Repr

/-- A line of an L1 (08:R166); `prio`: it has the replacement priority of a read-only line (07:R151); `bad`: its
uncorrectable 32-bit words (14:R297); `old`: a write that some gang of the core must see has passed the line by, so that it
serves no further load (11:R233, 20:R391, R393); `tags`: what its bytes were last written by (20:R390). -/
structure L1Line where
  core : Nat
  asid : Nat
  line : Nat
  ro : Bool
  data : List Byte
  prio : Bool
  bad : List Nat
  old : Bool
  tags : List WTag
deriving DecidableEq, Repr

/-- A dictionary image in a core's store, the one used last first (03:R53). -/
structure Image where
  core : Nat
  asid : Nat
  addr : Addr
  words : List (BitVec 64)
deriving DecidableEq, Repr

/-- The operations of atomics and reductions (08:R189, 12:R252). -/
inductive AtomOp
  | add | min | max | and | or | xor | xchg | cas | inc
deriving DecidableEq, Repr

/-- The deque operations (08:R190). -/
inductive DequeOp
  | push | pop | steal
deriving DecidableEq, Repr

/-- The operations a slice performs (08:R181-R191, 12:R252). -/
inductive AccKind
  | load (t : Ty) (acq : Option Scope) (ro : Bool)
  | store (rel : Option Scope)
  | posted
  | storeMc
  | mirrorSync
  | atom (op : AtomOp) (t : Ty) (sc : Scope) (ord : Ord)
  | deque (op : DequeOp) (sc : Scope) (ord : Ord)
  | red (op : AtomOp) (t : Ty) (sc : Scope) (ord : Ord)
  | fence (rel acq : Bool) (sc : Scope)
  | prefetch (l2 : Bool)
  | joinc
deriving DecidableEq, Repr

/-- One lane's part of a request: where it goes, its data, whether it has been performed, and what it returned. `arr` is
the cycle, counted from 1, in which it reached its slice (02:R17, 08:R188); `reply` numbers
what it returned among all replies, in the order in which they were sent (02:R17). -/
structure Access where
  lane : Nat
  va : Nat
  pa : Nat
  bytes : Nat
  b : Word
  c : Word
  mirror : Bool
  /-- The size of the page it was translated with; 0 for a fence (08:R177, R179). -/
  page : Nat
  arr : Nat
  done : Bool
  reply : Nat
  val : Word
  /-- A held access: the cause and the address reported (08:R190, 14:R297, 22:R422). -/
  fault : Option (Nat × Word)
  /-- The line a MIRROR.SYNC carries once it is read (08:R185). -/
  data : List Byte
deriving DecidableEq, Repr

/-- A memory request of a gang (08:R181). `bricks` are its lanes with their origin bricks (20:R383); `deps` are requests it
follows; `needs` those whose writes its returned value rests on (20:R391); `rels` the scopes its writes release at, by its own
attribute and the fences before it, each with the requests covered, or `none` with those that happen before a write that
is no release; `ended` says that its release has ended the footing's epoch (20:R389); `early` that its core's store path has
accepted it at its issue, when it updated the L1 (08:R175, 20:R388). -/
structure MemReq where
  id : Nat
  gid : Nat
  core : Nat
  brick : BKey
  bricks : List (Nat × BKey)
  asid : Nat
  kind : AccKind
  dest : Dest
  push : Bool
  accs : List Access
  deps : List Nat
  needs : List Nat
  rels : List (Option Scope × List Nat)
  ended : Bool
  arrived : Bool
  early : Bool := false
deriving DecidableEq, Repr

/-- A value that arrives late without a slice (04:R81): the value of each lane. -/
structure LateVal where
  id : Nat
  gid : Nat
  dest : Dest
  lanes : Mask
  vals : Lanes Word
  ready : Bool
deriving DecidableEq, Repr

/-- A write travelling between footings (20:R389): its bytes, its stamp (how many epochs of each footing must have
been applied first), and the footings that have not applied it. `order` is its place in the location order once the
home slice has performed it; `chain` what a reader of it meets (20:R390); `req` the request or engine operation that made it,
and `core` that one's core, 384 for none. -/
structure RWrite where
  id : Nat
  req : Nat
  gid : Nat
  core : Nat
  src : Nat
  home : Nat
  bytes : List (Nat × Byte)
  stamp : List Nat
  order : Option Nat
  waits : List Nat
  chain : List RelInfo
deriving DecidableEq, Repr

/-- A dimension of a box (09:R199). -/
structure Dim where
  e : Nat
  d : Nat
  s : Int
deriving DecidableEq, Repr

/-- A copy, a loop copy or a member's part of a multicast fill (09:R196-R215), numbered as it enters a pipe. `e0`,
`dims`, `row`, `x`: the box and the next piece. A finished one stays while an earlier one of its brick runs (09:R203). -/
structure CopyOp where
  id : Nat
  gid : Nat
  core : Nat
  tok : Tok
  brick : BKey
  w : Nat
  space : CopySpace
  asid : Nat
  src : Word
  base : Nat
  e0 : Nat
  dims : List Dim
  loop : Bool
  iters : Nat
  nstg : Nat
  step : Int
  row : Nat
  x : Nat
  iter : Nat
  frozen : Option (Nat × Word)
  deps : List Nat
  /-- A fill that its hold entry has not granted does not land (09:R214). -/
  waiting : Bool
  /-- The fill it is a part of; 0 for none. -/
  fill : Nat
  finished : Bool
deriving DecidableEq, Repr

/-- The source bytes that a multicast fill has read, by their offset in the source; each is read once (09:R215). -/
structure Fill where
  id : Nat
  bytes : List (Int × Byte)
deriving DecidableEq, Repr

/-- A multicast request on its way to its hold entry, or waiting at the slice input (09:R213, R214): the copy it is
for, whether it has reached the slice (02:R17), its brick, group and key. -/
structure McReq where
  copy : Nat
  here : Bool
  brick : BKey
  grp : Nat
  key : Word × Nat × List (Nat × Int)
deriving DecidableEq, Repr

/-- A hold entry in use (09:R214). -/
structure McHold where
  foot : Nat
  slice : Nat
  grp : Nat
  key : Word × Nat × List (Nat × Int)
  asked : List BKey
  copies : List Nat
  expiry : Nat
  tail : Bool
deriving DecidableEq, Repr

/-- A multicast group record (09:R195). -/
structure McGroup where
  owner : Nat
  members : List BKey
  timer : Nat
deriving DecidableEq, Repr

/-- A gather or scatter (12:R243-R250). `read`: the index list and the mask as the pipe read them; `got`: the elements
returned, faulted or acknowledged, with whether they were performed; `landed`: bytes of the window passed. A finished
gather stays while an earlier copy of its brick runs (09:R203). -/
structure IdxOp where
  id : Nat
  gid : Nat
  core : Nat
  tok : Tok
  brick : BKey
  asid : Nat
  gather : Bool
  add : Bool
  t : Ty
  w : Nat
  a : Nat
  list : Nat
  n : Nat
  base : Nat
  sh : Nat
  m : Bool
  read : Option (List Nat × List Bool)
  got : List (Nat × Bool × List Byte)
  landed : Nat
  deps : List Nat
  finished : Bool
deriving DecidableEq, Repr

/-- A quantisation request (12:R255, R256). -/
structure QuantReq where
  id : Nat
  gid : Nat
  tok : Tok
  core : Nat
  brick : BKey
  asid : Nat
  fmt : QFmt
  src : FTy
  words : List Word
  block : Nat
  frozen : Option (Nat × Word)
  deps : List Nat
deriving DecidableEq, Repr

/-- The sampling instructions (18:R363). -/
inductive SampOp
  | topk | rhist | biasadd
deriving DecidableEq, Repr

/-- A sampling request (18:R363-R367). -/
structure SampReq where
  id : Nat
  gid : Nat
  core : Nat
  tok : Tok
  brick : BKey
  asid : Nat
  op : SampOp
  t : FTy
  lanes : Mask
  words : List Word
  /-- BIASADD's progress: the next pair, the pairs skipped, the NaN results. -/
  next : Nat
  skipped : Nat
  nans : Nat
  frozen : Option (Nat × Word)
  deps : List Nat
deriving DecidableEq, Repr

/-- An entry of a matrix engine's queue (07:R147): the instruction, and the operand values of the lowest acting
lane; for ACC.GET and ACC.PUT the values of every lane. -/
structure MatEntry where
  id : Nat
  gid : Nat
  seat : Nat
  tok : Tok
  brick : BKey
  asid : Nat
  instr : Instr
  a : Word
  b : Word
  avals : Lanes Word
  bvals : Lanes Word
  lanes : Mask
  lane0 : Nat
  step : Nat
  frozen : Option (Nat × Word)
  scales : Option (List Nat × List Nat)
  deps : List Nat
deriving DecidableEq, Repr

/-- A matrix entry that travels over the mortar (13:R275): it reaches `core` in `cycle`, and waits there from then on. -/
structure MatArrival where
  core : Nat
  fromCore : Nat
  cycle : Nat
  entry : MatEntry
deriving DecidableEq, Repr

/-- A send register of a core (06:R139, R140). -/
structure Tx where
  bound : Option (Nat × Nat)
  owner : Option BKey
  flit : Option (Word × MsgInfo)
deriving DecidableEq, Repr

/-- A core (06:R120, 07:R144, 04:R87). `stop`: the receive queue has signalled stop and not yet go (06:R140). `mqAt`: one
above the cycle in which the engine queue last took an entry (13:R275). -/
structure Core where
  mp : Word
  mq : List MatEntry
  mqAt : Nat
  tx : Vector Tx 4
  rx : Vector (List (Word × MsgInfo)) 4
  stop : Vector Bool 4
  scrub : Vector (BitVec 32 × BitVec 32) 6
deriving DecidableEq, Repr

/-- A flit in the mesh (06:R140); `src` is its send register, `4 × core + tx`. -/
structure Flit where
  dstCore : Nat
  rx : Nat
  src : Nat
  val : Word
  info : MsgInfo
deriving DecidableEq, Repr

/-- A phase on its way from a core to a stage neighbour, with the cycle in which it was sent (11:R236). -/
structure LeadMsg where
  sent : Nat
  src : Nat
  dst : BKey
  low : Bool
  phase : BitVec 32
deriving DecidableEq, Repr

/-- A mark the scrubber or a read leaves on an uncorrectable word (04:R87, 14:R297): the store, its owner, the
register or word. -/
structure Mark where
  unit : Nat
  owner : Nat
  word : Nat
deriving DecidableEq, Repr

/-- A core group (12:R255, 13:R274, 22:R427). -/
structure Group where
  sorter : Option CKey
  quants : List QuantReq
  temp : BitVec 12
  droop : BitVec 8
  proc : BitVec 16
  scrub : BitVec 32 × BitVec 32
deriving DecidableEq, Repr

/-- A rejection that a launch queue's descriptor takes: its address space and address, ECAUSE and ESEQ (16:R316, R320). -/
structure DescMark where
  asid : Nat
  desc : Nat
  cause : Nat
  seq : Nat
deriving DecidableEq, Repr

/-- A footing (02:R31, 09:R195, 11:R224, 18:R349, 20:R389, 22:R413). -/
structure Footing where
  skipen : Bool
  tmargin : BitVec 8
  dmargin : BitVec 8
  ptr : Nat
  skipcnt : BitVec 24
  ratecap : Word
  mc : Vector McGroup 64
  mem : Memory
  epoch : Nat
  epochAt : Nat
  observed : Vector Nat 4
  gtsc : Nat
  ptp : Nat
  taken : Nat
  /-- Rejections whose descriptors are still to take ECAUSE and ESEQ, oldest first (16:R320). -/
  owedMarks : List DescMark
deriving DecidableEq, Repr

/-- A slice's registers and cache bookkeeping (08:R166, R176). `dq` is the cycle of the
last deque operation, with the highest rank performed in it on each descriptor (08:R191). -/
structure Slice where
  seq : BitVec 32
  rways : Nat
  misshi : Nat
  bypass : BitVec 32
  misses : List Nat
  lines : List (Nat × Bool)
  wb : List Nat
  dq : Nat × List (Nat × Nat)
deriving DecidableEq, Repr

/-- A registered launch queue (16:R316, 22:R418). -/
structure Queue where
  desc : Nat
  asid : Nat
  maxcls : Nat
  home : Nat
  served : Bool
  wall : Option Nat
deriving DecidableEq, Repr

/-- What a close still has to do (18:R355): read and land a frame, clear its record, write a token, count a late
frame. -/
inductive CloseItem
  | frame (b : Nat) (now : Bool)
  | clear (b : Nat)
  | token (bytes : List Byte)
  | late
  | filler
deriving DecidableEq, Repr

/-- A close in progress: the records read so far, `none` for one that cannot be read; the work left once all are read;
WPOS at its start; the epochs its reads observed. -/
structure CloseProg where
  recs : List (Option (Word × Word))
  items : Option (List CloseItem)
  w0 : Nat
  seen : Vector Nat 4
deriving DecidableEq, Repr

/-- An entry of PT or SPT: the pool page and VALID (18:R347). -/
structure PtEntry where
  page : Nat
  valid : Bool
deriving DecidableEq, Repr

/-- A stream's state on the device (18:R347). -/
structure Stream where
  num : Nat
  ctx : Addr
  asid : Nat
  state : Nat
  cfg0 : Word
  tick0 : Word
  cfg2 : Word
  hdr : Addr
  filler : Addr
  arrbase : Addr
  arg : Vector Word 4
  step : Nat
  wslot : Nat
  woff : Nat
  held : Nat
  specheld : Nat
  rsv : Nat
  owed : Bool
  wpos : Nat
  status : Word
  lates : BitVec 32
  drops : BitVec 32
  spt : List PtEntry
  pt : List PtEntry
  running : Option BKey
  /-- The clock had passed the next close when the step before ended (18:R352). -/
  overrun : Bool
  /-- The launch of the step before was rejected (18:R355). -/
  stepfail : Bool
  retiring : Bool
  /-- The close in progress, while a fault holds it (18:R444). -/
  close : Option CloseProg
  /-- The 64 KiB pages the close in progress may not reach any more: declared unresolvable (18:R444). -/
  dead : List Nat
deriving DecidableEq, Repr

/-- The page pool (18:R358). -/
structure Pool where
  free : List Nat
  owner : List (Nat × Nat)
deriving DecidableEq, Repr

/-- What a unit's held access was for (14:R445). -/
inductive UnitWork
  | queueRead (asid desc : Nat)
  | counter (wall : Nat)
  | header (wall : Nat)
  | completion (b : BKey)
  | increment (wall : Nat)
  | context (wall set : Nat)
  | close (stream : Nat)
deriving DecidableEq, Repr

/-- A held access of the dispatcher's units or the tick unit (14:R445). `faulted`: a record has been appended; without
it the work only waits its turn. `dead`: it has been declared unresolvable. -/
structure UnitHold where
  asid : Nat
  seat : Nat
  work : UnitWork
  addr : Nat
  faulted : Bool
  dead : Bool
deriving DecidableEq, Repr

/-- An engine held for system software (14:R294, R295). The members of a multicast fill are held as one (09:R215). -/
inductive Engine
  | matrix (core : Nat)
  | copy (id : Nat)
  | fill (id : Nat)
  | quant (group : Nat)
  | sample (id : Nat)
  | riddle (c : CKey)
deriving DecidableEq, Repr

/-- An engine's hold, under the address space, core and seat of its record (14:R294, 22:R413). -/
structure EngineHold where
  eng : Engine
  asid : Nat
  core : Nat
  seat : Nat
  cause : Nat
  tval : Word
deriving DecidableEq, Repr

/-- A launch the launch writer holds (16:R330, R332). -/
structure OvfReq where
  id : Nat
  wall : Nat
  gid : Nat
  core : Nat
  seat : Nat
  tok : Tok
  words : Vector Word 8
  deps : List Nat
deriving DecidableEq, Repr

/-- A fault queue's registers (22:R413, R414). `recent`: the records appended last, newest first, each with its GTSC
reading and its source (11:R240). -/
structure FaultQ where
  base : Nat
  size : Nat
  head : Nat
  tail : Nat
  lost : BitVec 32
  recent : List (Nat × Nat × List Byte)
deriving DecidableEq, Repr

/-- A peer port (22:R419-R422). `outq`: what waits for the window to go out; `inq`: the input queue, with flits delivered in order
and not yet performed; `inStop`: the other end has been told to stop; `mustTrain`: a hold has overflowed, or eight NAKs have not been
answered, so that the link must retrain; `asked`: the flit the other end sent its last NAK for, and how many. -/
structure Peer where
  up : Bool
  enable : Bool
  disc : BitVec 8
  retrain : BitVec 16
  replay : BitVec 32
  expect : Nat
  held : List (Nat × List Nat)
  nextseq : Nat
  ack : Nat
  buffer : List (Nat × List Nat)
  naks : Nat
  stop : Bool
  outq : List (List Nat)
  inq : List (List Nat)
  inStop : Bool
  mustTrain : Bool
  asked : Nat × Nat
deriving DecidableEq, Repr

/-- The system registers and the state behind them (22:R413). -/
structure Sys where
  partcfg : Nat
  ss4 : Nat
  asidbase : Nat
  /-- Invalidations not complete, in the order written, each with the number that the next request had then (08:R179). -/
  tlbinv : List (Nat × Nat)
  tlbinvReg : Nat
  tlbBusy : Bool
  tlbBad : Bool
  winbase : Nat
  /-- The size of each function's BAR2 as a power of two (22:R411). -/
  bar2 : Vector Nat 2
  fq : Vector FaultQ 4
  faultcmd : Nat
  faultIgn : Bool
  qreg : Nat
  qstat : Nat
  swapth : Nat
  highdelay : Nat
  tickcmd : Nat
  tickctx : Nat
  tickstat : Nat
  /-- Tick-unit commands that wait behind the one that runs (22:R423). -/
  tickq : List Nat
  ptmctl : Nat
  /-- The time, in ns, of the next PTM exchange (22:R423). -/
  ptmAt : Nat
  /-- The stream clock; the footings' copies run at most 50 ns ahead (18:R349). -/
  ptp : Nat
  /-- What a correction of the stream clock still has to slew, in ns (18:R349). -/
  slew : Int
  poolva : Nat
  npool : Nat
  fusemap : BitVec 1024
  /-- MSI-X messages sent: the footing of the link and the vector; those masked, and those pending (22:R412). -/
  msix : List (Nat × Nat)
  msixOff : List (Nat × Nat)
  msixPend : List (Nat × Nat)
  attState : Nat
  attNonce : Vector Byte 32
  attNext : Nat
  attMsg : List Byte
  attSig : List Byte
  firmware : Bool
  /-- The bytes of the running firmware image (22:R425, R426). -/
  image : List Byte
  secver : Fin 65
  clock : Nat
  stopped : Bool
deriving DecidableEq, Repr

/-- What the host does on its own side (22:R410-R412): it or a peer writes its own memory, the MSI-X table's mask bit of a
function's vector, the size of a function's BAR2. A function is named by the footing of its link. -/
inductive Outside
  | memory (pa : Nat) (bytes : List Byte)
  | mask (link vector : Nat) (on : Bool)
  | bar2 (link size : Nat)
deriving DecidableEq, Repr

/-- A write of a `g` register on its way: the cycle at whose end it takes effect, the (core, seat) it comes from, the register
and the value (06:R133, 13:R276). -/
structure GWrite where
  due : Nat
  rank : Nat
  brick : BKey
  reg : Nat
  val : Word
deriving DecidableEq, Repr

/-- One item of the schedule (log 1): the issue of a seat's gang, an event of the opcode table, what the host does on its
own side (log 25), or the passing of time (log 2), with how far each footing's clocks run ahead. -/
inductive Action
  | issue (core seat : Nat)
  | event (i : Instr)
  | outside (x : Outside)
  | pass (cycles ns skew pskew : Nat)
deriving DecidableEq, Repr

/-- The device. -/
structure State where
  agenda : List Action
  cur : Nat × Nat
  /-- Nanoseconds since reset; the footings' GTSC run at most 2 ahead (11:R239). -/
  time : Nat
  cycle : Nat
  /-- The seats that the cores chose for this cycle and that have not issued, ascending (core, seat); none while the
  choice is open (16:R336). -/
  picks : Option (List (Nat × Nat))
  /-- The cores that have issued a class-4 instruction in this cycle (07:R147, 16:R336). -/
  fours : List Nat
  /-- Writes of `g` registers that have not taken effect (06:R133). -/
  gnext : List GWrite
  /-- What has acted on each core group in this cycle: 1 pre-emption, 2 retirement, 3 restore, 4 placement (02:R33). -/
  acted : List (Nat × Nat)
  free : Nat
  nextId : Nat
  gangs : List Gang
  bricks : List Brick
  courses : List Course
  walls : List Wall
  sets : List PSet
  nofit : List NoFit
  cores : Vector Core 384
  groups : Vector Group 96
  foots : Vector Footing 4
  slices : Vector Slice 96
  tlb : List (Nat × TlbEntry)
  gtlb : List (Nat × TlbEntry)
  walks : List Walk
  l1 : List L1Line
  images : List Image
  reqs : List MemReq
  lates : List LateVal
  writes : List RWrite
  wtags : List WTag
  orders : Nat
  copies : List CopyOp
  mcreqs : List McReq
  mcholds : List McHold
  /-- Footing, slice and group of the hold entries whose timer or members have been tested in this cycle (09:R214). -/
  mctests : List (Nat × Nat × Nat)
  fills : List Fill
  idxops : List IdxOp
  samples : List SampReq
  matArrivals : List MatArrival
  /-- Matrix entries and quantisation requests of halted sets (07:R162, 12:R260; log 16). -/
  savedMat : List MatEntry
  savedQuant : List QuantReq
  flits : List Flit
  leads : List LeadMsg
  queues : List Queue
  ovf : List OvfReq
  unitHolds : List UnitHold
  engines : List EngineHold
  streams : List Stream
  pool : Pool
  peers : Vector Peer 8
  marks : List Mark
  sent : List (Nat × List Nat)
  sys : Sys
deriving DecidableEq, Repr

/-! ### Reset -/

def QCell.empty : QCell := ⟨0, false, none, false⟩

def NCell.zero : NCell := ⟨0, none, false⟩

/-- A watermark register at brick start (09:R195). -/
def Wmark.zero : Wmark := ⟨0, 0, 0, false, false, false, false, 0, 0, 0, 0, false, 0, 0, []⟩

/-- A barrier at brick or course start (11:R224). -/
def Bar.zero (w : Nat) : Bar w := ⟨0, 0, 0, 0, [], []⟩

def Core.reset : Core :=
  { mp := 0, mq := [], mqAt := 0, tx := Vector.replicate 4 ⟨none, none, none⟩, rx := Vector.replicate 4 [], stop := Vector.replicate 4 false,
    scrub := Vector.replicate 6 (0, 0) }

def Group.reset : Group := { sorter := none, quants := [], temp := 0, droop := 0, proc := 0, scrub := (0, 0) }

def Footing.reset : Footing :=
  { skipen := false, tmargin := 0x14, dmargin := 0x0A, ptr := 0, skipcnt := 0, ratecap := 0x0800,
    mc := Vector.replicate 64 ⟨0, [], 0⟩, mem := [], epoch := 0, epochAt := 0, observed := Vector.replicate 4 0,
    gtsc := 0, ptp := 0, taken := 0, owedMarks := [] }

def Slice.reset : Slice :=
  { seq := 0, rways := 4, misshi := 0, bypass := 0, misses := [], lines := [], wb := [], dq := (0, []) }

def Peer.reset : Peer :=
  { up := false, enable := false, disc := 0, retrain := 0, replay := 0, expect := 0, held := [], nextseq := 0,
    ack := 0, buffer := [], naks := 0, stop := false, outq := [], inq := [], inStop := false, mustTrain := false, asked := (0, 0) }

def Sys.reset : Sys :=
  { partcfg := 0, ss4 := 0, asidbase := 0, tlbinv := [], tlbinvReg := 0, tlbBusy := false, tlbBad := false,
    winbase := 0, bar2 := Vector.replicate 2 36, fq := Vector.replicate 4 ⟨0, 0, 0, 0, 0, []⟩, faultcmd := 0, faultIgn := false, qreg := 0, qstat := 0,
    swapth := 0x40, highdelay := 0x10, tickcmd := 0, tickctx := 0, tickstat := 0, tickq := [], ptmctl := 0, ptmAt := 0, ptp := 0, slew := 0, poolva := 0,
    npool := 0, fusemap := 0, msix := [], msixOff := [], msixPend := [], attState := 0, attNonce := Vector.replicate 32 0, attNext := 0,
    attMsg := [], attSig := [], firmware := true, image := [], secver := 0, clock := 1300, stopped := false }

/-- The device right after reset (INVENTORY.md, '## State'; log 17 where the spec gives no value). -/
def State.reset : State :=
  { agenda := [], cur := (0, 0), time := 0, cycle := 0, picks := none, fours := [], gnext := [], acted := [], free := 0, nextId := 1, gangs := [], bricks := [],
    courses := [], walls := [], sets := [], nofit := [], cores := Vector.replicate 384 Core.reset,
    groups := Vector.replicate 96 Group.reset, foots := Vector.replicate 4 Footing.reset,
    slices := Vector.replicate 96 Slice.reset, tlb := [], gtlb := [], walks := [], l1 := [], images := [],
    reqs := [], lates := [], writes := [], wtags := [], orders := 0, copies := [], mcreqs := [], mcholds := [], mctests := [], fills := [],
    idxops := [], samples := [], matArrivals := [], savedMat := [], savedQuant := [], flits := [], leads := [], queues := [], ovf := [],
    unitHolds := [], engines := [], streams := [], pool := ⟨[], []⟩, peers := Vector.replicate 8 Peer.reset,
    marks := [], sent := [], sys := Sys.reset }

/-- Why the device itself stops. -/
inductive Fault
  /-- The device has stopped at 115 °C (22:R427) or for want of power (22:R426), until a reset. Raised by `step`. Safe:
  nothing runs on the hardware either. -/
  | deviceStopped
deriving DecidableEq, Repr

/-- Why a step is refused. -/
inductive Refusal
  /-- An instruction whose arm has no meaning yet. Safe. -/
  | notModelled (mnemonic : String)
  /-- `exec` of an instruction with no gang in the seat `State.cur`: there is nothing to issue it. Raised by every
  instruction's meaning. Safe: no hardware step corresponds to it. -/
  | noGang
  /-- An event whose conditions do not hold, so that it does not occur (log 19). Raised by the events' meanings.
  Safe: the hardware has no such step. -/
  | cannotOccur
deriving DecidableEq, Repr

end Sys2Proof.Machine
end

