-- ==== Sys2Proof/Machine/Ops.lean ====
section
/-! DEFINITION. The named operations over memory, registers, gangs and units that the meanings share, with taking a
trap and returning from one. -/

namespace Sys2Proof.Machine

open Sys2Proof

/-- The outcome of a step. -/
abbrev Out := Host.Outcome State Fault Refusal

/-- A next state's state. -/
def orKeep (s : State) : Out → State
  | .next s => s
  | _ => s

/-! ### Masks -/

/-- The number whose bit `i`, for `i` below `n`, is `f i`. -/
def maskNat (f : Nat → Bool) : Nat → Nat
  | 0 => 0
  | n + 1 => maskNat f n + if f n then 2 ^ n else 0

/-- A mask of seat lanes. -/
def maskOf (f : Nat → Bool) : Mask := BitVec.ofNat 32 (maskNat f 32)

/-- The seat lanes of a mask, ascending. -/
def lanesOf (m : Mask) : List Nat := (List.range 32).filter m.getLsbD

/-- The lowest seat lane of a mask. -/
def lowest (m : Mask) : Option Nat := (lanesOf m).head?

/-- A lane of a `Lanes`, by a number below 32. -/
def Lanes.at (v : Lanes α) (i : Nat) : α := v[i % 32]'(Nat.mod_lt _ (by decide))

/-- An element of a vector of positive size, by a number taken modulo that size. -/
def vget {n : Nat} (v : Vector α (n + 1)) (i : Nat) : α := v[i % (n + 1)]'(Nat.mod_lt _ (Nat.succ_pos n))

/-- The same element replaced. -/
def vset {n : Nat} (v : Vector α (n + 1)) (i : Nat) (x : α) : Vector α (n + 1) :=
  v.set (i % (n + 1)) x (Nat.mod_lt _ (Nat.succ_pos n))

/-! ### Where a gang is -/

/-- The group and the footing of a core (06:R135). -/
def groupOf (core : Nat) : Nat := core / 4

def footOf (core : Nat) : Nat := core / 96

/-- The core a gang issues on, or left. -/
def Gang.core (g : Gang) : Nat :=
  match g.place with
  | .seat c _ | .park c _ _ | .memory c _ | .retired c _ => c

def Gang.seat (g : Gang) : Nat :=
  match g.place with
  | .seat _ p | .park _ p _ | .memory _ p | .retired _ p => p

def Gang.seated (g : Gang) : Bool :=
  match g.place with
  | .seat .. => true
  | _ => false

/-! ### Memory (08:R172, 22:R409) -/

/-- One byte. -/
def Memory.read : Memory → Nat → Byte
  | [], _ => Memory.default
  | (x, b) :: r, a => if x = a then b else Memory.read r a

/-- The entries of a run of bytes from address `a`. -/
def Memory.cells : Nat → List Byte → Memory
  | _, [] => []
  | a, b :: r => if b = Memory.default then cells (a + 1) r else (a, b) :: cells (a + 1) r

/-- A run of bytes written from address `a`. -/
def Memory.write (m : Memory) (a : Nat) (bs : List Byte) : Memory :=
  m.filter (fun c => decide (c.1 < a)) ++ (Memory.cells a bs ++ m.filter fun c => decide (a + bs.length ≤ c.1))

/-- The canonical form: addresses strictly rising, no entry equal to the default. -/
def Memory.wf (m : Memory) : Bool :=
  decide (m.Pairwise fun x y => x.1 < y.1) && m.all fun c => c.2 != Memory.default

/-- `n` bytes from address `a`. -/
def Memory.readN (m : Memory) (a n : Nat) : List Byte := (List.range n).map fun i => m.read (a + i)

/-- Bytes as a number, least significant first (00:R4). -/
def leNat : List Byte → Nat
  | [] => 0
  | b :: r => b.toNat + 256 * leNat r

/-- The `n` low bytes of a number, least significant first (00:R4). -/
def natLe : Nat → Nat → List Byte
  | 0, _ => []
  | n + 1, x => BitVec.ofNat 8 x :: natLe n (x / 256)

/-- A 64-bit word at an address. -/
def Memory.word (m : Memory) (a : Nat) : Word := BitVec.ofNat 64 (leNat (m.readN a 8))

/-- What a physical address reaches (22:R409). -/
inductive Target
  | hbm (foot off : Nat)
  | host (off : Nat)
  | peer (port off : Nat)
  | absent
deriving DecidableEq, Repr

/-- A frame of device memory has a fused channel (22:R428). Its lines lie in the three stacks of its footing (02:R16);
FUSEMAP numbers a footing's channels stack by stack (DEDUCED, log 21). -/
def State.fused (s : State) (pa : Nat) : Bool :=
  s.sys.fusemap != 0 && (List.range 3).any fun t =>
    s.sys.fusemap.getLsbD (640 + 96 * (pa / 2 ^ 38) + 32 * t + Config.channel (pa / 65536) % 32)

/-- The physical map (22:R409); a frame of a fused channel is absent (22:R428). -/
def State.target (s : State) (pa : Nat) : Target :=
  if pa < 2 ^ 40 then
    if pa % 2 ^ 38 < 192 * 10 ^ 9 && !s.fused pa then .hbm (pa / 2 ^ 38) (pa % 2 ^ 38) else .absent
  else if pa < 2 ^ 48 then .host (pa - 2 ^ 40)
  else if pa < 2 ^ 48 + 8 * 2 ^ 44 then .peer ((pa - 2 ^ 48) / 2 ^ 44) ((pa - 2 ^ 48) % 2 ^ 44)
  else .absent

/-- The partition of a footing (22:R416). -/
def State.partOf (s : State) (foot : Nat) : Nat :=
  match s.sys.partcfg with
  | 1 => foot / 2
  | 2 => foot
  | _ => 0

/-- The footings of a partition (22:R416). -/
def State.partFoots (s : State) (part : Nat) : List Nat := (List.range 4).filter fun f => s.partOf f == part

/-- The footing of the host link that serves a partition (22:R416). -/
def State.linkOf (s : State) (part : Nat) : Nat :=
  match s.partFoots part with
  | f :: _ => if f ≤ 1 then 0 else 2
  | [] => 0

/-- The home footing of a physical address, for an access of the partition (02:R16, 22:R409, R410). -/
def State.homeFoot (s : State) (part pa : Nat) : Nat :=
  match s.target pa with
  | .hbm f _ => f
  | .host _ => s.linkOf part
  | .peer p _ => p / 2
  | .absent => 0

/-- The working slices of a footing (22:R428). -/
def State.workSlices (s : State) (foot : Nat) : List Nat :=
  (List.range 24).filter fun k => !s.sys.fusemap.getLsbD (512 + 24 * foot + k)

/-- The slice, within a footing, of a physical address (02:R16, 22:R428). -/
def State.sliceOf (s : State) (foot pa : Nat) : Nat :=
  let ws := s.workSlices foot
  ws.getD ((pa / 128) % ws.length) 0

/-- A physical line may be cached (22:R410). -/
def State.cachable (s : State) (pa : Nat) : Bool :=
  match s.target pa with
  | .hbm .. => true
  | _ => false

/-- The peer port of an access (22:R409). -/
def State.portOf (s : State) (pa : Nat) : Option Nat :=
  match s.target pa with
  | .peer p _ => some p
  | _ => none

/-- Memory as a footing sees it (20:R387, R389). -/
def State.mem (s : State) (foot : Nat) : Memory := (vget s.foots foot).mem

def State.setFoot (s : State) (foot : Nat) (f : Footing) : State := { s with foots := vset s.foots foot f }

def State.setMem (s : State) (foot : Nat) (m : Memory) : State := s.setFoot foot { vget s.foots foot with mem := m }

/-! ### The cache bookkeeping of the slices (08:R176; log 10): miss tables, dirty lines, write-backs -/

/-- The line is homed on the slice's footing. -/
def State.isLocal (s : State) (slice line : Nat) : Bool := s.homeFoot 0 (128 * line) == slice / 24

/-- A slice has the line or passes it: uncached memory, and a remote line with no remote way. -/
def State.holdsLine (s : State) (slice line : Nat) : Bool :=
  let x := vget s.slices slice
  !s.cachable (128 * line) || x.lines.any (fun l => l.1 == line) || (x.rways == 0 && !s.isLocal slice line)

/-- The set of a line: 16 ways of 4 MiB are 2,048 sets of 128-byte lines (08:R176 gives no index; DESIGN CHOICE, log 10). -/
def setOfLine (line : Nat) : Nat := line / 24 % 2048

/-- A dirty line leaves for the write-back buffer, or past it when it is full. -/
def Slice.writeBack (x : Slice) (line : Nat) : Slice :=
  if x.wb.length < 64 then { x with wb := x.wb ++ [line] } else { x with bypass := x.bypass + 1 }

/-- One line displaced. -/
def Slice.evict (x : Slice) (l : Nat × Bool) : Slice :=
  let x := { x with lines := x.lines.erase l }
  if l.2 then x.writeBack l.1 else x

/-- A line filled; its set keeps at most RWAYS remote lines and as many local ones as it has other ways, and with no remote way a
remote line passes. After a change of RWAYS a line of the kind that has lost ways leaves first. -/
def State.slicePut (s : State) (slice line : Nat) : State :=
  let x := vget s.slices slice
  let inSet := x.lines.filter fun l => setOfLine l.1 == setOfLine line
  let same := inSet.filter fun l => s.isLocal slice l.1 == s.isLocal slice line
  let cap := if s.isLocal slice line then 16 - x.rways else x.rways
  if cap = 0 then { s with slices := vset s.slices slice { x with misses := x.misses.filter (· != line) } }
  else
  let x := if same.length < cap then x
    else match same.getLast? with
      | some l => x.evict l
      | none => x
  let full := x.lines.filter fun l => setOfLine l.1 == setOfLine line
  let x := if full.length < 16 then x
    else match (full.filter fun l => s.isLocal slice l.1 != s.isLocal slice line).getLast? with
      | some l => x.evict l
      | none => x
  { s with slices := vset s.slices slice { x with lines := (line, false) :: x.lines,
                                                   misses := x.misses.filter (· != line) } }

/-- A line written in a slice becomes dirty. -/
def State.dirty (s : State) (slice line : Nat) : State :=
  let x := vget s.slices slice
  { s with slices := vset s.slices slice { x with lines := x.lines.map fun l => if l.1 = line then (line, true) else l } }

/-- A miss enters the table. -/
def State.miss (s : State) (slice line : Nat) : State :=
  let x := vget s.slices slice
  let ms := x.misses ++ [line]
  { s with slices := vset s.slices slice { x with misses := ms, misshi := Nat.max x.misshi ms.length } }

/-- The slice, of 96, of a line on a footing. -/
def State.sliceAt (s : State) (foot pa : Nat) : Nat := 24 * foot + s.sliceOf foot pa

/-- An access to the line need not wait for room in the miss table. -/
def State.missRoom (s : State) (foot pa : Nat) : Bool :=
  let k := s.sliceAt foot pa
  s.holdsLine k (pa / 128) || (vget s.slices k).misses.contains (pa / 128) || decide ((vget s.slices k).misses.length < 256)

/-- The same of every line of a run of bytes. -/
def State.room (s : State) (foot pa n : Nat) : Bool :=
  (List.range ((pa % 128 + n + 127) / 128)).all fun i => s.missRoom foot (pa + 128 * i)

/-- Room for one more miss: in a full table the oldest miss is filled before (log 10). -/
def State.makeRoom (s : State) (slice : Nat) : State :=
  let ms := (vget s.slices slice).misses
  match ms with
  | l :: _ => if ms.length < 256 then s else s.slicePut slice l
  | [] => s

/-- A line passes through the miss table when the slice does not hold it, and is dirty once written. -/
def State.touchLine (s : State) (foot pa : Nat) (write : Bool) : State :=
  let k := s.sliceAt foot pa
  let line := pa / 128
  let s := if s.holdsLine k line then s
    else if (vget s.slices k).misses.contains line then s.slicePut k line
    else ((s.makeRoom k).miss k line).slicePut k line
  if write then s.dirty k line else s

/-- Every line of a run of bytes. -/
def State.touch (s : State) (foot pa n : Nat) (write : Bool) : State :=
  (List.range ((pa % 128 + n + 127) / 128)).foldl (fun s i => s.touchLine foot (pa + 128 * i) write) s

/-! ### Bytes that every footing sees at once (log 13) -/

/-- A write of `len` bytes at `pa` wakes the monitors on its lines, of one footing or of all (06:R137). -/
def State.wakeLines (s : State) (foot : Option Nat) (pa len : Nat) : State :=
  { s with gangs := s.gangs.map fun g =>
      match g.wait with
      | .monitor m =>
        if decide (pa / 128 ≤ m.line) && decide (m.line ≤ (pa + len - 1) / 128) && (foot.all fun f => footOf g.core == f)
        then { g with wait := .monitor { m with woken := true } } else g
      | _ => g }

/-- Lines written whole are poisoned no more (14:R297). -/
def State.clean (s : State) (pa n : Nat) : State :=
  { s with marks := s.marks.filter fun m =>
      !(m.unit == 6 && decide (pa ≤ 128 * m.word) && decide (128 * m.word + 128 ≤ pa + n)) }

/-- Bytes that every footing's view takes at once, behind every write already ordered (log 13). The monitors on their lines are
woken. -/
def State.putAll (s : State) (pa : Nat) (bs : List Byte) : State :=
  let hit := fun (a : Nat) => decide (pa ≤ a) && decide (a < pa + bs.length)
  let s := (s.clean pa bs.length).wakeLines none pa bs.length
  { s with
    foots := s.foots.map fun (f : Footing) => { f with mem := f.mem.write pa bs }
    writes := s.writes.map fun (w : RWrite) =>
      if w.order.isSome then { w with bytes := w.bytes.filter fun b => !hit b.1 } else w }

/-! ### Ports and links (22:R410, R419, R422) -/

/-- The free window of a peer port, from the last ACK (22:R419). -/
def Peer.window (p : Peer) : Nat := 256 - (p.nextseq + 65536 - p.ack) % 65536

/-- A flit can go out: the link is up, the other end takes flits, and window and retry buffer have room (22:R419). -/
def Peer.open (p : Peer) : Bool := p.up && !p.stop && decide (0 < p.window) && decide (p.buffer.length < 512)

/-- An access may go out over the port: a flit can, and none waits before it (22:R419, R422). -/
def Peer.ready (p : Peer) : Bool := p.open && p.outq.isEmpty

def State.setPeer (s : State) (port : Nat) (p : Peer) : State := { s with peers := vset s.peers port p }

/-- What leaves the device over port `n`, or over a host link for `n` = 8 + link (22:R411). -/
def State.send (s : State) (n : Nat) (xs : List Nat) : State := { s with sent := s.sent ++ [(n, xs)] }

/-- What the departure of a flit writes: a write is performed once it has gone out (22:R410), and one that is discarded before leaves
nothing (22:R422). -/
def State.flitWrites (s : State) (port : Nat) : List Nat → State
  | 1 :: off :: bs => s.putAll (2 ^ 48 + 2 ^ 44 * port + off) (bs.map (BitVec.ofNat 8))
  | _ => s

/-- A flit goes out with its SEQ and the ACK, and into the retry buffer (22:R419; log 25). -/
def State.putFlit (s : State) (port : Nat) (payload : List Nat) : State :=
  let s := s.flitWrites port payload
  let p := vget s.peers port
  (s.setPeer port { p with nextseq := (p.nextseq + 1) % 65536, buffer := p.buffer ++ [(p.nextseq, payload)] }).send port
    (p.nextseq :: p.expect :: payload)

/-- The parts of `n` bytes from an address that lie in one line each: offset and length. -/
def lineParts (va n : Nat) : List (Nat × Nat) :=
  (List.range ((va % 128 + n + 127) / 128)).map fun j =>
    let lo := if j = 0 then 0 else 128 * j - va % 128
    (lo, Nat.min n (128 * (j + 1) - va % 128) - lo)

/-- A write to the window of a port that is not enabled is discarded and counted (22:R422). -/
def State.discard (s : State) (port : Nat) : State :=
  let p := vget s.peers port
  s.setPeer port { p with disc := p.disc + 1 }

/-- A flit goes out, or waits for the window behind those that wait (22:R419). -/
def State.sendFlit (s : State) (port : Nat) (payload : List Nat) : State :=
  let p := vget s.peers port
  if p.ready then s.putFlit port payload else s.setPeer port { p with outq := p.outq ++ [payload] }

/-- What waits goes out as far as the window allows. -/
def State.flushPort (s : State) (port : Nat) : Nat → State
  | 0 => s
  | n + 1 =>
    let p := vget s.peers port
    match p.outq with
    | [] => s
    | x :: r => if p.open then ((s.setPeer port { p with outq := r }).putFlit port x).flushPort port n else s

/-- What waits goes out, all of it where it can. -/
def State.flush (s : State) (port : Nat) : State := s.flushPort port (vget s.peers port).outq.length

/-- What a slice sends on for an access to memory beyond the device (22:R410): over the port, or over a host link (log 25). -/
def State.goOut (s : State) (link pa : Nat) (msg : Nat → List Nat) : State :=
  match s.target pa with
  | .peer p off => s.sendFlit p (msg off)
  | .host off => { s with sent := s.sent ++ [(8 + link, msg off)] }
  | _ => s

/-- A write goes out (1), or a read (3). A flit has 256 bytes (22:R419): one carries bytes of one line (log 25). -/
def State.writeOut (s : State) (part pa : Nat) (bs : List Byte) : State :=
  (lineParts pa bs.length).foldl (fun s x =>
    s.goOut (s.linkOf part) (pa + x.1) fun off => 1 :: off :: ((bs.drop x.1).take x.2).map BitVec.toNat) s

def State.readOut (s : State) (part pa n : Nat) : State :=
  (lineParts pa n).foldl (fun s x => s.goOut (s.linkOf part) (pa + x.1) fun off => [3, off, x.2]) s

/-- A write to memory beyond the device, which has one copy: the host has it at once, a peer with each flit that goes out
(22:R410, R422). -/
def State.writeBeyond (s : State) (part pa : Nat) (bs : List Byte) : State :=
  (if (s.portOf pa).isSome then s else s.putAll pa bs).writeOut part pa bs

/-- The port of an address is not enabled: accesses end at once (22:R422). -/
def State.portShut (s : State) (pa : Nat) : Bool := (s.portOf pa).any fun p => !(vget s.peers p).enable

/-- The port of an address is enabled, and its accesses wait for it (22:R419, R422). -/
def State.portBusy (s : State) (pa : Nat) : Bool :=
  (s.portOf pa).any fun p => (vget s.peers p).enable && !(vget s.peers p).ready

/-- A write that every footing sees at once, through the home slices of its lines: trap frames, contexts and fault records
(log 13). To a port that is not enabled it is discarded (22:R422). -/
def State.writeAll (s : State) (part pa : Nat) (bs : List Byte) : State :=
  if s.portShut pa then (lineParts pa bs.length).foldl (fun s _ => s.discard ((s.portOf pa).getD 0)) s
  else if s.cachable pa then (s.putAll pa bs).touch (s.homeFoot part pa) pa bs.length true
  else s.writeBeyond part pa bs

/-- The footing at whose slice a load is performed: the issuing one, or the home of memory that no slice caches
(20:R387, 22:R410). -/
def State.viewFoot (s : State) (part foot pa : Nat) : Nat := if s.cachable pa then foot else s.homeFoot part pa

/-- A read of bytes for a footing, at the slice that performs it, which sends it on where the memory is beyond the device (08:R172,
22:R410). -/
def State.readBy (s : State) (part foot pa n : Nat) : State := (s.touch (s.viewFoot part foot pa) pa n false).readOut part pa n

/-! ### Units -/

def State.core (s : State) (c : Nat) : Core := vget s.cores c

def State.setCore (s : State) (c : Nat) (x : Core) : State := { s with cores := vset s.cores c x }

def State.group (s : State) (g : Nat) : Group := vget s.groups g

def State.setGroup (s : State) (g : Nat) (x : Group) : State := { s with groups := vset s.groups g x }

/-- The gang in a seat. -/
def State.gangAt (s : State) (core seat : Nat) : Option Gang := s.gangs.find? fun g => g.place == .seat core seat

/-- The gang that issues. -/
def State.curGang (s : State) : Option Gang := s.gangAt s.cur.1 s.cur.2

def State.gang? (s : State) (gid : Nat) : Option Gang := s.gangs.find? fun g => g.gid == gid

/-- A gang's record replaced. -/
def State.setGang (s : State) (g : Gang) : State :=
  { s with gangs := s.gangs.map fun h => if h.gid = g.gid then g else h }

def State.brick? (s : State) (k : BKey) : Option Brick := s.bricks.find? fun b => b.key == k

def State.setBrick (s : State) (b : Brick) : State :=
  { s with bricks := s.bricks.map fun x => if x.key = b.key then b else x }

def State.course? (s : State) (k : CKey) : Option Course := s.courses.find? fun c => c.key == k

def State.setCourse (s : State) (c : Course) : State :=
  { s with courses := s.courses.map fun x => if x.key = c.key then c else x }

def State.wall? (s : State) (id : Nat) : Option Wall := s.walls.find? fun w => w.id == id

def State.setWall (s : State) (w : Wall) : State :=
  { s with walls := s.walls.map fun x => if x.id = w.id then w else x }

def State.set? (s : State) (wall num : Nat) : Option PSet := s.sets.find? fun p => p.wall == wall && p.num == num

def State.setPSet (s : State) (p : PSet) : State :=
  { s with sets := s.sets.map fun x => if x.wall = p.wall ∧ x.num = p.num then p else x }

def State.stream? (s : State) (n : Nat) : Option Stream := s.streams.find? fun x => x.num == n

def State.setStream (s : State) (x : Stream) : State :=
  { s with streams := s.streams.map fun y => if y.num = x.num then x else y }

/-- The address space of a wall. -/
def State.asidOf (s : State) (wall : Nat) : Nat := ((s.wall? wall).map Wall.asid).getD 0

/-- A wall's header, once read. -/
def State.header? (s : State) (wall : Nat) : Option LHeader := (s.wall? wall).bind Wall.header

/-- The course a brick belongs to. -/
def State.courseOf (s : State) (k : BKey) : Option Course :=
  (s.brick? k).bind fun b => s.course? ⟨k.wall, b.course⟩

/-- The bricks of a course, ascending `%obrick`. -/
def State.courseBricks (s : State) (c : CKey) : List Brick :=
  (s.bricks.filter fun b => b.key.wall == c.wall && b.course == c.course).insertionSort fun x y => x.obrick ≤ y.obrick

/-- The brick of a course with a given `%obrick`. -/
def State.brickU (s : State) (c : CKey) (u : Nat) : Option Brick :=
  s.bricks.find? fun b => b.key.wall == c.wall && b.course == c.course && b.obrick == u

def Gang.lane (g : Gang) (l : Nat) : Lane := Lanes.at g.lanes l

/-- The free values: each is handed out once (log 3). -/
def State.fresh (s : State) : Word × State := (Config.freeWord s.free, { s with free := s.free + 1 })

/-- A request number. -/
def State.newId (s : State) : Nat × State := (s.nextId, { s with nextId := s.nextId + 1 })

/-! ### Predicates and guards (03:R60, 04:R85) -/

/-- A predicate in a lane; `p7` is 1. -/
def Lane.pred (l : Lane) (p : BitVec 3) : Bool := p == 7 || l.p.getLsbD p.toNat

/-- A predicate reference in a lane. -/
def Lane.pref (l : Lane) (p : PRef) : Bool := l.pred p.p != p.neg

/-- The lanes where a per-lane instruction acts (03:R60). -/
def Gang.acts (g : Gang) (gd : Guard) : Mask :=
  maskOf fun l => g.em.getLsbD l && ((g.lane l).pred gd.p != gd.neg)

/-- A predicate written in the lanes of a mask; `p7` is never written (03:R55, 04:R85). -/
def Lane.setPred (l : Lane) (p : BitVec 3) (v : Bool) : Lane :=
  if p = 7 then l
  else { l with p := if v then l.p ||| (BitVec.ofNat 7 (2 ^ p.toNat)) else l.p &&& ~~~(BitVec.ofNat 7 (2 ^ p.toNat)) }

def Gang.setPreds (g : Gang) (acts : Mask) (pd : BitVec 3) (f : Nat → Bool) : Gang :=
  { g with lanes := g.lanes.mapIdx fun i l => if acts.getLsbD i then l.setPred pd (f i) else l }

/-! ### The queue and destinations (04:R77, R81, R82, 03:R56) -/

/-- One lane's queue after a push: shifted, with a new `q1` where the instruction acts. -/
def Lane.shift (l : Lane) (x : Option QCell) : Lane :=
  { l with q := Vector.ofFn fun i : Fin 16 =>
      if i.val = 0 then x.getD (vget l.q 0) else vget l.q (i.val - 1) }

/-- A register that holds a value. -/
def NCell.of (v : Word) : NCell := ⟨v, none, false⟩

/-- The named destination of one lane. -/
def Lane.writeN (l : Lane) (i : BitVec 6) (c : NCell) : Lane := { l with n := vset l.n i.toNat c }

/-- Push a cell in every lane of the gang and write the named destination in the acting lanes; a `k` destination
takes the value of the lowest (03:R56, 04:R77). -/
def Gang.pushCells (g : Gang) (acts : Mask) (d : Dest) (f : Nat → NCell) : Gang :=
  let ls := g.lanes.mapIdx fun i l =>
    if acts.getLsbD i then
      let c := f i
      let l := l.shift (some ⟨c.val, true, c.pend, false⟩)
      match d with
      | .n j => l.writeN j c
      | _ => l
    else l.shift none
  let g := { g with lanes := ls }
  match d, lowest acts with
  | .k j, some l => { g with k := vset g.k j.toNat (f l) }
  | _, _ => g

/-- Push values known at issue. -/
def Gang.push (g : Gang) (acts : Mask) (d : Dest) (f : Nat → Word) : Gang := g.pushCells acts d fun l => NCell.of (f l)

/-- Push entries that the request `id` fills later (04:R81). -/
def Gang.pushPending (g : Gang) (acts : Mask) (d : Dest) (id : Nat) : Gang := g.pushCells acts d fun _ => ⟨0, some id, false⟩

/-- Write a named destination with no push (06:R128 CALL). -/
def Gang.writeDest (g : Gang) (acts : Mask) (d : Dest) (v : Word) : Gang :=
  match d with
  | .none => g
  | .n j => { g with lanes := g.lanes.mapIdx fun i l => if acts.getLsbD i then l.writeN j (NCell.of v) else l }
  | .k j => if acts = 0 then g else { g with k := vset g.k j.toNat (NCell.of v) }

/-- Every queue entry of every lane unreadable (04:R79). -/
def Gang.invalidate (g : Gang) : Gang :=
  { g with lanes := g.lanes.map fun l => { l with q := l.q.map fun c => { c with valid := false } } }

/-- Deliver the value of request `id` wherever its entries have moved (04:R81, R82). -/
def Gang.deliver (g : Gang) (id : Nat) (vals : Nat → Word) (lanes : Mask) : Gang :=
  { g with
    lanes := g.lanes.mapIdx fun i l =>
      { l with q := l.q.map fun c => if c.pend = some id then { c with val := vals i, pend := none } else c,
               n := l.n.map fun c => if c.pend = some id then NCell.of (vals i) else c },
    k := g.k.map fun c => if c.pend = some id then NCell.of (vals ((lowest lanes).getD 0)) else c }

/-- The gang waits for values it requested (04:R81). -/
def State.lateOpen (s : State) (gid : Nat) : Bool :=
  (s.reqs.any fun r => r.gid == gid && r.push && !r.arrived) || s.lates.any fun l => l.gid == gid

/-! ### Moving through the program (03:R49, R50, 14:R291, 16:R336) -/

/-- The address of the clause after this one (03:R46). -/
def Gang.next (g : Gang) : Addr :=
  g.pc + BitVec.ofNat 56 (8 * (((g.header.map Header.count).getD 1) + 1))

/-- Go to a clause, under a YIELD hint (16:R336). -/
def Gang.goto (g : Gang) (pc : Addr) (hint : Nat) : Gang :=
  { g with pc := pc, pos := 0, clause := [], header := none, waited := false, hint := hint, wait := .ready }

/-- Go to a clause with the hint of the clause that ends. -/
def Gang.jump (g : Gang) (pc : Addr) : Gang := g.goto pc ((g.header.map Header.yield).getD 0)

/-- Go to the next position of the clause, or to the next clause. -/
def Gang.advance (g : Gang) : Gang :=
  match (g.clause.map Prod.fst).find? (· > g.pos) with
  | some p => { g with pos := p, wait := .ready }
  | none => g.jump g.next

/-- The instruction meets a wait or an interlock: the gang tries it again at its next issue (02:R35, 04:R81). -/
def State.stall (s : State) (g : Gang) (w : Wait := .stalled) : Out := .next (s.setGang { g with wait := w })

/-- The instruction is done: the gang's record, advanced. -/
def State.done (s : State) (g : Gang) : Out := .next (s.setGang g.advance)

/-! ### System software's record of a stop (14:R294, 22:R412, R414) -/

/-- A message of one function's vector, or its pending bit while it is masked (22:R412). -/
def Sys.raise (y : Sys) (x : Nat × Nat) : Sys :=
  if y.msixOff.contains x then { y with msixPend := y.msixPend.filter (· != x) ++ [x] }
  else { y with msix := y.msix ++ [x] }

/-- A vector's mask bit set or cleared; a pending message leaves when it is cleared (22:R412). -/
def Sys.setMask (y : Sys) (x : Nat × Nat) (on : Bool) : Sys :=
  let off := y.msixOff.filter (· != x)
  if on then { y with msixOff := x :: off }
  else if y.msixPend.contains x then
    { y with msixOff := off, msixPend := y.msixPend.filter (· != x), msix := y.msix ++ [x] }
  else { y with msixOff := off }

/-- Raise an MSI-X vector for a partition, or on both functions (22:R412). -/
def State.msix (s : State) (part : Option Nat) (v : Nat) : State :=
  let fs := match part with
    | some p => [s.linkOf p]
    | none => [0, 2]
  { s with sys := fs.foldl (fun y f => y.raise (f, v)) s.sys }

/-- The words of a fault record (14:R294). -/
structure FaultRec where
  cause : Nat
  nohandler : Bool := false
  replay : Bool := false
  engine : Bool := false
  asid : Nat
  core : Nat
  seat : Nat
  lost : Nat := 0
  tval : Word
  tepc : Word := 0
  /-- The source, where it is no core that CORE names (11:R240). -/
  src : Option Nat := none
deriving DecidableEq, Repr

def FaultRec.word0 (r : FaultRec) : Nat :=
  r.cause % 256 + 2 ^ 8 * (bit r.nohandler) + 2 ^ 9 * (bit r.replay) + 2 ^ 10 * (bit r.engine)
    + 2 ^ 11 * (r.asid % 2048) + 2 ^ 22 * (r.core % 512) + 2 ^ 31 * (r.seat % 16) + 2 ^ 35 * Nat.min r.lost 255

/-- The source of a record (11:R240). -/
def FaultRec.source (r : FaultRec) (foot : Nat) : Nat :=
  r.src.getD (if r.core < 384 then r.core else if r.seat = 1 then 484 else 480 + foot)

/-- A record appended behind the unread records of earlier stops: those of later ones move up (22:R414, 11:R240). -/
def State.append (s : State) (part now src : Nat) (bytes : List Byte) : State :=
  let q := vget s.sys.fq part
  let later := (q.recent.takeWhile fun r => decide (now < r.1 ∨ now = r.1 ∧ src < r.2.1)).take (q.tail - q.head)
  let recs := (now, src, bytes) :: later.reverse
  let s := recs.zipIdx.foldl (fun s (r, j) =>
    s.writeAll part (q.base + 32 * ((q.tail - later.length + j) % 2 ^ q.size)) r.2.2) s
  let recent := (recs.reverse ++ q.recent.drop later.length).filter fun r => decide (now ≤ r.1 + 4)
  { s with sys := { s.sys with fq := vset s.sys.fq part { q with tail := q.tail + 1, recent := recent } } }

/-- Append a record to a partition's fault queue (22:R414). -/
def State.report (s : State) (part : Nat) (foot : Nat) (r : FaultRec) : State :=
  let q := vget s.sys.fq part
  if q.tail - q.head ≥ 2 ^ q.size then
    let s := { s with sys := { s.sys with fq := vset s.sys.fq part { q with lost := q.lost + 1 } } }
    s.msix (some part) (5 + part)
  else
    let now := (vget s.foots foot).gtsc
    let bytes := natLe 8 r.word0 ++ natLe 8 now ++ natLe 8 r.tval.toNat ++ natLe 8 r.tepc.toNat
    let s := s.append part now (r.source foot) bytes
    if q.head == q.tail then s.msix (some part) (1 + part) else s

/-- TEPC's layout (14:R291). -/
def epcWord (clause : Addr) (pos : Nat) : Word := BitVec.ofNat 64 (clause.toNat + 2 ^ 56 * (pos % 64))

/-- The partition a gang runs in. -/
def State.gangPart (s : State) (g : Gang) : Nat := s.partOf (footOf g.core)

/-- The record of a stop of a gang. -/
def State.reportGang (s : State) (g : Gang) (cause : Nat) (tval : Word) (tepc : Word) (replay nohandler : Bool)
    (lost : Nat) : State :=
  s.report (s.gangPart g) (footOf g.core)
    { cause := cause, nohandler := nohandler, replay := replay, asid := s.asidOf g.brick.wall, core := g.core,
      seat := g.seat, lost := lost, tval := tval, tepc := tepc }

/-- A wait for a walk ends: the access is made again. -/
def Wait.unwalked : Wait → Wait
  | .walk _ => .stalled
  | w => w

/-- Hold a gang for system software on a replayable fault or a machine error (14:R289, R294). A wait for a walk ends:
the access is made again on resolution. -/
def State.holdGang (s : State) (g : Gang) (cause : Nat) (tval : Word) (replay : Bool) : State :=
  let epc := epcWord g.pc g.pos
  (s.reportGang g cause tval epc replay false 0).setGang { g with wait := g.wait.unwalked, hold := some ⟨cause, tval, epc, some ⟨cause, tval, g.em, 0, 0, g.pc, g.pos, 0, true⟩⟩ }

/-! ### Translation (08:R177, R178, 22:R415) -/

/-- A level of the walk: the index, the size of a leaf, whether a leaf may stand there, whether it must (22:R415). -/
structure Level where
  idx : Nat
  size : Nat
  leafOk : Bool
  mustLeaf : Bool

/-- What an entry says: invalid, a leaf, or the next table. -/
inductive TableEntry
  | invalid
  | leaf
  | table (pa : Nat)

/-- An entry read at `pa`, with `left` levels below its own; the tables of levels 1 and 2 are aligned to 4 KiB (22:R415). -/
def State.tableEntry (s : State) (x : Level) (left pa : Nat) (e : Word) : TableEntry :=
  let addr := bits e 8 44 * 256
  if !e.getLsbD 0 || bits e 5 3 != 0 || bits e 52 12 != 0 || s.target pa == .absent then .invalid
  else if !e.getLsbD 1 && decide (2 ≤ left) && addr % 4096 != 0 then .invalid
  else if e.getLsbD 1 then if x.leafOk && addr % x.size == 0 then .leaf else .invalid
  else if x.mustLeaf then .invalid
  else .table addr

/-- The page-table walk (22:R415): entries read at their home slices. The leaf, and the addresses read. -/
def State.walkLevels (s : State) (part : Nat) : List Level → Nat → Option (Word × Nat) × List Nat
  | [], _ => (none, [])
  | x :: rest, table =>
    let pa := table + 8 * x.idx
    let e := (s.mem (s.homeFoot part pa)).word pa
    match s.tableEntry x rest.length pa e with
    | .invalid => (none, [pa])
    | .leaf => (some (e, x.size), [pa])
    | .table t =>
      let (r, ps) := s.walkLevels part rest t
      (r, pa :: ps)

/-- Every byte of a page of device memory exists (22:R409). -/
def State.present (s : State) (pa size : Nat) : Bool :=
  decide (pa % 2 ^ 38 + size ≤ 192 * 10 ^ 9) &&
    (s.sys.fusemap == 0 || (List.range (size / 65536)).all fun i => !s.fused (pa + 65536 * i))

/-- A walk from the table of address spaces: the leaf, and the addresses read (22:R415). -/
def State.walkRead (s : State) (part asid va : Nat) : Option (Word × Nat) × List Nat :=
  let t := s.sys.asidbase + 16 * asid
  let w0 := (s.mem (s.homeFoot part t)).word t
  let w1 := (s.mem (s.homeFoot part (t + 8))).word (t + 8)
  if !w0.getLsbD 0 || bits w0 3 17 != 0 || bits w0 52 12 != 0 || w1 != 0 then (none, [t, t + 8])
  else
    let (r, ps) := s.walkLevels part
      [⟨(va / 2 ^ 39) % 2 ^ 17, 0, false, false⟩, ⟨(va / 2 ^ 30) % 512, 2 ^ 30, true, false⟩,
       ⟨(va / 2 ^ 21) % 512, 2 ^ 21, true, false⟩, ⟨(va / 2 ^ 16) % 32, 2 ^ 16, true, true⟩] (bits w0 20 32 * 2 ^ 20)
    (r, t :: (t + 8) :: ps)

/-- The line of an address is poisoned (14:R297). -/
def State.poisoned (s : State) (pa : Nat) : Bool := s.marks.any fun m => m.unit == 6 && m.word == pa / 128

/-- Some line of a run of bytes is. -/
def State.poisonedIn (s : State) (pa n : Nat) : Bool :=
  s.marks.any fun m => m.unit == 6 && decide (pa / 128 ≤ m.word) && decide (m.word ≤ (pa + n - 1) / 128)

/-- The first address at which a walk stops: over a port that is not ready (22:R422), or on a poisoned line (14:R297). -/
def State.walkMeets (s : State) (part asid va : Nat) : Option Nat :=
  (s.walkRead part asid va).2.find? fun pa => s.portShut pa || s.portBusy pa || s.poisoned pa

/-- A walk waits for a port (22:R422). -/
def State.walkHeld (s : State) (part asid va : Nat) : Bool := (s.walkMeets part asid va).any s.portBusy

/-- A walk meets a port that is not enabled, or a poisoned line, which ends it (22:R422, 14:R297; log 25). -/
def State.walkShut (s : State) (part asid va : Nat) : Bool :=
  (s.walkMeets part asid va).any fun pa => s.portShut pa || !s.portBusy pa

/-- The cause of a walk that finds no page: PEER_DOWN where a port ended it, MEM_POISON where a poisoned line did. -/
def State.walkCause (s : State) (part asid va : Nat) : Nat :=
  match s.walkMeets part asid va with
  | some pa => if s.portShut pa then 0x4E else if s.portBusy pa then 0x40 else 0x4D
  | none => 0x40

/-- What the reads of a walk do at their home slices, and those that leave the device (08:R176, 22:R410, R415). -/
def State.walkOut (s : State) (part asid va : Nat) : State :=
  (s.walkRead part asid va).2.foldl (fun s pa => (s.touchLine (s.homeFoot part pa) pa false).readOut part pa 8) s

/-- Translate by a walk: the page's entry, or none on a translation fault (22:R415, R409, R410). -/
def State.walkPage (s : State) (part asid va : Nat) : Option TlbEntry :=
  match (s.walkRead part asid va).1 with
  | none => none
  | some (e, size) =>
    let pa := bits e 8 44 * 256
    let mirror := e.getLsbD 4
    match s.target pa with
    | .absent => none
    | .hbm _ _ =>
      if !(if mirror then (List.range 4).all fun f => s.present (f * 2 ^ 38 + pa % 2 ^ 38) size else s.present pa size)
      then none else some ⟨asid, va / size * size, size, pa, e.getLsbD 2, e.getLsbD 3, mirror⟩
    | _ => if mirror then none else some ⟨asid, va / size * size, size, pa, e.getLsbD 2, e.getLsbD 3, false⟩

def TlbEntry.allows (e : TlbEntry) : Need → Bool
  | .read => true
  | .write => e.w
  | .fetch => e.x

/-- An entry covers an address of an address space. -/
def TlbEntry.covers (e : TlbEntry) (asid va : Nat) : Bool := e.asid == asid && e.va ≤ va && va < e.va + e.size

/-- The physical address; on a mirror page, of the footing's replica (08:R173, 22:R415). -/
def TlbEntry.phys (e : TlbEntry) (foot va : Nat) : Nat :=
  let pa := e.pa + (va - e.va)
  if e.mirror then foot * 2 ^ 38 + pa % 2 ^ 38 else pa

/-- Look a page up in a core's TLB, then in its group's (08:R177). -/
def State.lookup (s : State) (core asid va : Nat) (n : Need) : Option TlbEntry :=
  let ok := fun (e : TlbEntry) => e.covers asid va && e.allows n
  match s.tlb.find? fun (c, e) => c == core && ok e with
  | some (_, e) => some e
  | none => (s.gtlb.find? fun (g, e) => g == groupOf core && ok e).map Prod.snd

/-- What the reads of `n` words of code or of an image do at the slices of the view (08:R172, 22:R410). -/
def State.fetchOut (s : State) (g : Gang) (va n : Nat) : State :=
  (lineParts va (8 * n)).foldl (fun s x =>
    match s.lookup g.core (s.asidOf g.brick.wall) ((va + x.1) % 2 ^ 56) .fetch with
    | some e => s.readBy (s.gangPart g) (footOf g.core) (e.phys (footOf g.core) ((va + x.1) % 2 ^ 56)) x.2
    | none => s) s

/-- Insert an entry, displacing the oldest beyond a capacity (log 9). -/
def tlbInsert (cap : Nat) (l : List (Nat × TlbEntry)) (k : Nat) (e : TlbEntry) : List (Nat × TlbEntry) :=
  let l := l.filter fun (k', e') => !(k' == k && e'.asid == e.asid && e'.covers e.asid e.va)
  let mine := l.filter fun (k', _) => k' == k
  let l := if mine.length < cap then l
    else match mine.getLast? with
      | some x => l.erase x
      | none => l
  (k, e) :: l

def State.fillTlb (s : State) (core : Option Nat) (group : Nat) (e : TlbEntry) : State :=
  let s := { s with gtlb := tlbInsert 4096 s.gtlb group e }
  match core with
  | some c => { s with tlb := tlbInsert 256 s.tlb c e }
  | none => s

/-- Two addresses lie in one page of an address space (08:R177). -/
def State.samePage (s : State) (part asid va vb : Nat) : Bool :=
  match s.walkPage part asid va with
  | some e => e.covers asid vb
  | none => va / 65536 == vb / 65536

/-- The walk of a page that a core group has asked for: misses to one page merge into one walk (08:R177). -/
def State.walkOf (s : State) (group part asid va : Nat) : Option Walk :=
  s.walks.find? fun w => w.group == group && w.asid == asid && s.samePage part asid w.va va

/-- The walker of a footing has no free slot (08:R177). -/
def State.walksFull (s : State) (foot : Nat) : Bool := decide (512 ≤ (s.walks.filter fun w => w.foot == foot).length)

/-- An engine's translation waits: for a walk of the page that its group has asked for, for a slot of the walker (08:R177), or for
the port of a table (22:R422). -/
def State.walkWaits (s : State) (group part asid va : Nat) (n : Need) : Bool :=
  !(s.gtlb.any fun x => x.1 == group && x.2.covers asid va && x.2.allows n) &&
    ((s.walkOf group part asid va).isSome || s.walksFull (group / 24) || s.walkHeld part asid va)

/-- An engine's or a unit's translation, through the group TLB port where there is one (08:R177): the page and the
state, or none on a fault. -/
def State.translate (s : State) (group : Nat) (part asid va : Nat) (n : Need) : Option (TlbEntry × State) :=
  match s.gtlb.find? fun (g, e) => g == group && e.covers asid va && e.allows n with
  | some (_, e) => some (e, s)
  | none =>
    if s.walkShut part asid va then none
    else match s.walkPage part asid va with
      | some e => if e.allows n then some (e, (s.walkOut part asid va).fillTlb none group e) else none
      | none => none

/-- An instruction that waits at its place keeps its wait through a stall or a walk (06:R137, 11:R227, 16:R333, 14:R292). -/
def Gang.waitOr (g : Gang) (w : Wait) : Wait :=
  match g.wait with
  | .reaching .. | .joinc .. | .monitor _ | .syncing .. | .trapping .. => g.wait
  | _ => w

/-- Ask for a walk for a gang, once; a full walker makes the gang wait for a slot (08:R177). -/
def State.askWalk (s : State) (g : Gang) (va : Nat) (n : Need) : Out :=
  let foot := footOf g.core
  let grp := groupOf g.core
  let asid := s.asidOf g.brick.wall
  match s.walkOf grp (s.partOf foot) asid va with
  | some w =>
    let ask := (g.gid, va, n)
    let ws := s.walks.map fun x => if x.id = w.id ∧ !x.gids.contains ask then { x with gids := x.gids ++ [ask] } else x
    .next ({ s with walks := ws }.setGang { g with wait := g.waitOr (.walk w.id) })
  | none =>
    if s.walksFull foot then s.stall g (g.waitOr .stalled)
    else
      let (id, s) := s.newId
      .next ({ s with walks := ⟨id, foot, grp, asid, va, [(g.gid, va, n)]⟩ :: s.walks }.setGang
        { g with wait := g.waitOr (.walk id) })

/-- The lanes' addresses translated, or the first that misses (08:R178). -/
def State.lookupAll (s : State) (core asid : Nat) (n : Need) : List Nat → Except Nat (List TlbEntry)
  | [] => .ok []
  | va :: r =>
    match s.lookup core asid va n with
    | none => .error va
    | some e =>
      match s.lookupAll core asid n r with
      | .error v => .error v
      | .ok es => .ok (e :: es)

/-! ### Trap frames and traps (14:R291-R293, R303) -/

/-- The context area of a brick (14:R302). -/
def State.ctxVa (s : State) (k : BKey) : Nat :=
  match s.header? k.wall with
  | some h => (h.ctxbase.toNat + 2 ^ 21 * k.idx) % 2 ^ 56
  | none => 0

/-- The address of a gang's record in its brick's context area (14:R302, R303). -/
def State.recordVa (s : State) (g : Gang) : Nat :=
  match s.header? g.brick.wall with
  | some h => (h.ctxbase.toNat + 2 ^ 21 * g.brick.idx + 0x20000 + 0x8000 * g.gno) % 2 ^ 56
  | none => 0

/-- The validity bits of `q(a)` over the lanes. -/
def Gang.qv (g : Gang) (a : Nat) : Nat := (maskOf fun l => (vget (g.lane l).q (a - 1)).valid).toNat

/-- The bytes of a trap frame, from offset `0x6000` of the gang record (14:R303). -/
def Gang.frame (g : Gang) : List Byte :=
  ((List.range 16).flatMap fun a => (List.range 32).flatMap fun l => natLe 8 (vget (g.lane l).q a).val.toNat)
    ++ ((List.range 16).flatMap fun a => natLe 4 (g.qv (a + 1)))
    ++ ((List.range 32).flatMap fun l => natLe 1 (g.lane l).p.toNat)
    ++ natLe 8 (g.em.toNat + 2 ^ 32 * g.depth)
    ++ ((List.range 4).flatMap fun j => natLe 8 (vget g.k (28 + j)).val.toNat)

/-- The gang's registers restored from a frame in memory (14:R293). -/
def Gang.restoreFrame (g : Gang) (m : Memory) (pa : Nat) : Gang :=
  { g with
    lanes := g.lanes.mapIdx fun l x =>
      { x with q := Vector.ofFn fun a : Fin 16 =>
                 ⟨m.word (pa + 256 * a.val + 8 * l),
                  (leNat (m.readN (pa + 0x1000 + 4 * a.val) 4)).testBit l, none, false⟩,
               p := BitVec.ofNat 7 (m.read (pa + 0x1040 + l)).toNat },
    k := g.k.mapIdx fun j c => if j < 28 then c else NCell.of (m.word (pa + 0x1068 + 8 * (j - 28))),
    em := BitVec.ofNat 32 (leNat (m.readN (pa + 0x1060) 4)) &&& g.live }

/-- The split-stack depth a frame holds. -/
def frameDepth (m : Memory) (pa : Nat) : Nat := (m.read (pa + 0x1064)).toNat % 128

/-- The causes delivered to system software (14:R290). -/
def causeToSystem (c : Nat) : Bool := c == 0x11 || c == 0x12 || (0x40 ≤ c && c ≤ 0x4E)

/-- TCAUSE (14:R291). -/
def TrapInfo.tcause (t : TrapInfo) : Word := BitVec.ofNat 64 (t.cause % 256 + 256 * (t.field % 4) + 65536 * (t.num % 65536))

/-- The resume point of a trap (14:R291). -/
def TrapInfo.tepc (t : TrapInfo) : Word := epcWord t.clause t.pos

/-- The engine fault pending on a gang (14:R296), at the position about to issue. -/
def Gang.pendTrap (g : Gang) (c : Nat) (v : Word) : TrapInfo := ⟨c, v, g.em, 0, 0, g.pc, g.pos, g.lost, false⟩

/-- A stop of an access already sent, at the position about to issue. -/
def Gang.owedTrap (g : Gang) (x : Nat × Word × Mask) : TrapInfo :=
  ⟨x.1, x.2.1, x.2.2, 0, 0, g.pc, g.pos, 0, causeToSystem x.1⟩

/-- The trap is the gang's pending engine fault. -/
def Gang.pends (g : Gang) (t : TrapInfo) : Bool := g.pendfault.any fun x => x.1 == t.cause

/-- A gang that takes its pending engine fault, or the first stop it owes. -/
def Gang.took (g : Gang) (t : TrapInfo) : Gang :=
  if g.pends t then { g with pendfault := none, lost := 0 } else { g with owed := g.owed.drop 1 }

/-- Deliver a stop to system software and hold the gang (14:R292, R294). -/
def State.deliverTrap (s : State) (g : Gang) (t : TrapInfo) : State :=
  let dbl := g.tmode
  let nohandler := g.tvec = 0 && !causeToSystem t.cause
  let cause := if dbl then 0x41 else t.cause
  let tval := if dbl then BitVec.ofNat 64 t.cause else t.tval
  (s.reportGang g cause tval t.tepc false nohandler t.lost).setGang
    { g with wait := .stalled, hold := some ⟨cause, tval, t.tepc, if dbl then none else some { t with forced := true }⟩ }

/-- Enter the handler (14:R292): write the frame, set the trap registers, go to TVEC. -/
def State.enterHandler (s : State) (g : Gang) (pa : Nat) (t : TrapInfo) : State :=
  let s := s.writeAll (s.gangPart g) pa g.frame
  let g' := { g with tcause := t.tcause, tepc := t.tepc, tval := t.tval, tlanes := t.lanes, tmode := true }
  s.setGang (g'.goto g.tvec 0)

/-- An uncorrectable word of the frame (14:R297), by the register's operand field value, or 256 for the predicates (log 11). -/
def Gang.frameBad (g : Gang) : Option Nat :=
  let lane := fun (f : Lane → Bool) => (List.range 32).any fun l => f (g.lane l)
  if lane Lane.pbad then some 256
  else match (List.range 16).find? fun a => lane fun x => (vget x.q a).bad with
    | some a => some (Opnd.q (BitVec.ofNat 4 a)).code.toNat
    | none => ((List.range 4).find? fun j => (vget g.k (28 + j)).bad).map fun j => (Opnd.k (BitVec.ofNat 5 (28 + j))).code.toNat

/-- Take a trap, or with `fault` a pending engine fault or a stop owed (14:R292). An uncorrectable word of the frame holds the gang at the entry (14:R297,
log 11). The gang waits at the interlock while late values are open or the
frame's page has no translation for writing; TRAP_ENTRY or the gang's next issue tries again. -/
def State.takeTrap (s : State) (g : Gang) (t : TrapInfo) (fault : Bool) : Out :=
  if s.lateOpen g.gid then s.stall g (.trapping t fault)
  else
    let g' := if fault then g.took t else g
    let s' := if fault then s.setGang g' else s
    let va := s.recordVa g + 0x6000
    match s.lookup g.core (s.asidOf g.brick.wall) va .write with
    | none =>
      match s.walks.find? fun w => w.gids.any fun x => x.1 == g.gid with
      | some _ => s.stall g (.trapping t fault)
      | none => s.askWalk { g with wait := .trapping t fault } va .write
    | some e =>
      if (causeToSystem t.cause && !t.forced) || g.tvec = 0 || g.tmode then
        .next (s'.deliverTrap g' (if fault then { t with lost := if g.pends t then g.lost else 0 } else t))
      else match g.frameBad with
      | some r => .next (s.holdGang { g with wait := .trapping t fault } 0x48 (BitVec.ofNat 64 r) false)
      | none =>
        if s.portBusy (e.phys (footOf g.core) va) then s.stall g (.trapping t fault)
        else .next (s'.enterHandler g' (e.phys (footOf g.core) va) t)

/-- A precise trap at the gang's position (14:R291). -/
def State.trap (s : State) (g : Gang) (cause : Nat) (tval : Word) (lanes : Mask) : Out :=
  s.takeTrap g ⟨cause, tval, lanes, 0, 0, g.pc, g.pos, 0, false⟩ false

/-- A precise trap not tied to lanes: TLANES is `em` (14:R291). -/
def State.trapEm (s : State) (g : Gang) (cause : Nat) (tval : Word) : Out := s.trap g cause tval g.em

/-- QUEUE_INVALID names the failing operand field (04:R80). -/
def State.trapQueue (s : State) (g : Gang) (field : Nat) (lanes : Mask) : Out :=
  s.takeTrap g ⟨0x08, 0, lanes, 0, field, g.pc, g.pos, 0, false⟩ false

/-- TRAP, SYSC and BRK resume at the next position (14:R291). -/
def State.trapUser (s : State) (g : Gang) (cause num : Nat) : Out :=
  let a := g.advance
  s.takeTrap g ⟨cause, 0, g.em, num, 0, a.pc, a.pos, 0, false⟩ false

/-- The gang that issues, or a refusal when the seat is empty. -/
def State.withGang (s : State) (k : Gang → Out) : Out :=
  match s.curGang with
  | some g => k g
  | none => .refused .noGang

/-! ### Tokens (11:R233) -/

/-- A token's count. -/
def Gang.outOf (g : Gang) (j : BitVec 3) : BitVec 8 := vget g.out j.toNat

/-- A token at 255 holds the instruction that would arm it. -/
def Gang.tokFull (g : Gang) : Tok → Bool
  | some j => g.outOf j == 255
  | none => false

def Gang.arm (g : Gang) : Tok → Gang
  | some j => { g with out := vset g.out j.toNat (g.outOf j + 1) }
  | none => g

/-- An operation of a gang completes its token (11:R233). -/
def State.complete (s : State) (gid : Nat) : Tok → State
  | some j =>
    match s.gang? gid with
    | some g => s.setGang { g with out := vset g.out j.toNat (g.outOf j - 1) }
    | none => s
  | none => s

end Sys2Proof.Machine
end

