-- ==== Sys2Proof/Machine/Grid.lean ====
section
/-! DEFINITION. The fields of a launch packet (16:R319) and the numbering of bricks and courses (02:R20, R21, R29). -/

namespace Sys2Proof.Machine

open Sys2Proof

/-- The eight words of a packet or a launch record. -/
abbrev Packet := Vector Word 8

def Packet.x (p : Packet) : Nat := bits (vget p 2) 0 16
def Packet.y (p : Packet) : Nat := bits (vget p 2) 16 16
def Packet.z (p : Packet) : Nat := bits (vget p 2) 32 16
def Packet.cx (p : Packet) : Nat := bits (vget p 2) 48 3 + 1
def Packet.cy (p : Packet) : Nat := bits (vget p 2) 51 3 + 1
def Packet.cz (p : Packet) : Nat := bits (vget p 2) 54 3 + 1
def Packet.cls (p : Packet) : Nat := bits (vget p 2) 57 2
def Packet.nwait (p : Packet) : Nat := bits (vget p 2) 59 2
def Packet.inc (p : Packet) : Bool := (vget p 2).getLsbD 61
def Packet.hdr (p : Packet) : Nat := bits (vget p 1) 0 56
def Packet.args (p : Packet) : Nat := bits (vget p 0) 16 48 * 256
def Packet.seq (p : Packet) : Nat := bits (vget p 0) 0 16
def Packet.cnt (p : Packet) : Nat := bits (vget p 7) 0 56

/-- The waits the packet names: counter and value. -/
def Packet.waits (p : Packet) : List (Nat × Word) :=
  [(bits (vget p 3) 0 56, vget p 4), (bits (vget p 5) 0 56, vget p 6)].take p.nwait

/-- `ceil (a / b)`. -/
def ceilDiv (a b : Nat) : Nat := (a + b - 1) / b

/-- Courses per dimension (02:R21). -/
def Packet.ux (p : Packet) : Nat := ceilDiv p.x p.cx
def Packet.uy (p : Packet) : Nat := ceilDiv p.y p.cy
def Packet.uz (p : Packet) : Nat := ceilDiv p.z p.cz

/-- A brick's coordinate. -/
structure Coord where
  x : Nat
  y : Nat
  z : Nat
  s : Nat
deriving DecidableEq, Repr

/-- The coordinate of a linear index (02:R21). -/
def Packet.coord (p : Packet) (i : Nat) : Coord :=
  ⟨i % p.x, i / p.x % p.y, i / (p.x * p.y) % p.z, i / (p.x * p.y * p.z)⟩

/-- The linear index of a coordinate (02:R21). -/
def Packet.linear (p : Packet) (c : Coord) : Nat := c.x + p.x * (c.y + p.y * (c.z + p.z * c.s))

/-- The number of the placement set of a coordinate (02:R29). -/
def Packet.setOf (p : Packet) (c : Coord) : Nat := c.x / p.cx + p.ux * (c.y / p.cy + p.uy * (c.z / p.cz))

/-- The course index of a coordinate (02:R21). -/
def Packet.courseOf (p : Packet) (c : Coord) : Nat :=
  c.x / p.cx + p.ux * (c.y / p.cy + p.uy * (c.z / p.cz + p.uz * c.s))

/-- A box's extent along one dimension, clipped to the grid. -/
def clipped (n c u : Nat) : Nat := Nat.min c (n - c * u)

/-- The index within the course: `%obrick` (02:R21). -/
def Packet.obrick (p : Packet) (c : Coord) : Nat :=
  c.x % p.cx + clipped p.x p.cx (c.x / p.cx) * (c.y % p.cy + clipped p.y p.cy (c.y / p.cy) * (c.z % p.cz))

/-- The bricks of the course of set `n` at stage `st`, by ascending `%obrick` (02:R21, R29). -/
def Packet.box (p : Packet) (n st : Nat) : List Coord :=
  let ux := n % p.ux
  let uy := n / p.ux % p.uy
  let uz := n / (p.ux * p.uy)
  (List.range (clipped p.z p.cz uz)).flatMap fun z => (List.range (clipped p.y p.cy uy)).flatMap fun y =>
    (List.range (clipped p.x p.cx ux)).map fun x => ⟨p.cx * ux + x, p.cy * uy + y, p.cz * uz + z, st⟩

/-- The placement sets of a wall. -/
def Packet.sets (p : Packet) : Nat := p.ux * p.uy * p.uz

/-- The packet of a wall. -/
def State.packet (s : State) (wall : Nat) : Packet := ((s.wall? wall).map Wall.words).getD (Vector.replicate 8 0)

/-- The coordinate of a brick. -/
def State.coord (s : State) (k : BKey) : Coord := (s.packet k.wall).coord k.idx

/-- The class of a wall. -/
def State.classOf (s : State) (wall : Nat) : Nat := ((s.wall? wall).map Wall.cls).getD 0

end Sys2Proof.Machine
end

