-- ==== Sys2Proof/Machine/Mortar.lean ====
section
/-! DEFINITION. What reaches another core over the mortar (06:R133, R134, 08:R170, 11:R226, 13:R275, R276): writes of `g` registers,
and the lanes of scratchpad accesses and barrier arrivals whose brick is on another core. -/

namespace Sys2Proof.Machine

open Sys2Proof

/-! ### Writes of `g` registers (06:R133) -/

/-- A write of a brick's `g` register on its way: it takes effect at the end of its cycle, and from another core 3 cycles
later (06:R133, R134, 13:R276; log 38). -/
def State.setG (s : State) (g : Gang) (k : BKey) (i : Nat) (v : Word) : State :=
  let far := (s.brick? k).any fun b => b.core != g.core
  { s with gnext := s.gnext ++ [⟨s.cycle + if far then 3 else 0, 16 * g.core + g.seat, k, i, v⟩] }

/-- Some writes of `g` registers take effect: in one cycle the last in (core, seat) survives (06:R133). -/
def State.landG (s : State) (which : GWrite → Bool) : State :=
  let due := (s.gnext.filter which).insertionSort fun x y => x.due < y.due || x.due == y.due && decide (x.rank ≤ y.rank)
  due.foldl (fun s x =>
    match s.brick? x.brick with
    | some b => s.setBrick { b with g := vset b.g x.reg x.val }
    | none => s) { s with gnext := s.gnext.filter fun x => !which x }

/-- Some write of a `g` register by the gang has not taken effect. -/
def State.gOpen (s : State) (g : Gang) : Bool := s.gnext.any fun x => x.rank == 16 * g.core + g.seat

/-! ### Accesses with lanes whose brick is on another core (08:R170, 11:R226; log 38) -/

/-- The brick is on another core than the gang's. -/
def Brick.away (b : Brick) (g : Gang) : Bool := b.core != g.core

/-- What the lanes of the gang's access have got already: the lane, the cause that struck it or 0, its value. -/
def Gang.got (g : Gang) : List (Nat × Nat × Word) :=
  match g.wait with
  | .reaching _ _ got => got
  | _ => []

/-- The access is on its way to other cores. -/
def Gang.reaching (g : Gang) : Bool :=
  match g.wait with
  | .reaching .. => true
  | _ => false

/-- The lanes of an access that act in this cycle: at its issue those whose brick is on the gang's core, and the others once it
has reached their cores; none while it is on its way. -/
def State.lanesNow (s : State) (g : Gang) (m : Mask) (far : Nat → Bool) : Option (List Nat) :=
  match g.wait with
  | .reaching due _ got => if s.cycle < due then none else some ((lanesOf m).filter fun l => !got.any fun x => x.1 == l)
  | _ => some ((lanesOf m).filter fun l => !far l)

/-- Some lane is still to be reached after those that act in this cycle. -/
def Gang.goesFar (g : Gang) (m : Mask) (far : Nat → Bool) : Bool := !g.reaching && (lanesOf m).any far

/-- The access goes to the other cores with what its lanes have got: it is there 3 cycles after its issue. -/
def State.goFar (s : State) (g : Gang) (load : Bool) (got : List (Nat × Nat × Word)) : Out :=
  s.stall g (.reaching (s.cycle + 3) load got)

/-- The value a lane has got. -/
def valueOf (got : List (Nat × Nat × Word)) (l : Nat) : Word := ((got.find? fun x => x.1 == l).map fun x => x.2.2).getD 0

/-- The lanes struck, with their causes. -/
def struckOf (got : List (Nat × Nat × Word)) : List (Nat × Nat) :=
  (got.filter fun x => x.2.1 != 0).map fun x => (x.1, x.2.1)

end Sys2Proof.Machine
end

