-- ==== Sys2Proof/Machine/Operands.lean ====
section
/-! DEFINITION. Operand forms (03:R57, R58), the interlock on pending operands (04:R81), QUEUE_INVALID (04:R80), and
the two ways an instruction acts: per lane or once for the gang (03:R60, 06:R127). -/

namespace Sys2Proof.Machine

open Sys2Proof

/-- The small constants (03:R58). -/
def constInt (i : BitVec 3) : Int :=
  match i.toNat with
  | 0 => 0 | 1 => 1 | 2 => 2 | 3 => 3 | 4 => 4 | 5 => 8 | 6 => 16 | _ => -1

def constWord (i : BitVec 3) : Word := BitVec.ofInt 64 (constInt i)

/-- A `g` register of a lane's origin brick (06:R134). -/
def State.gReg (s : State) (l : Lane) (i : BitVec 4) : Word :=
  match s.brick? l.brick with
  | some b => vget b.g i.toNat
  | none => 0

/-- The 64 bits an operand reads in a lane (03:R57, R58). A small constant reads as its integer pattern; the float instructions and
CVT read it as a number of their format (05:R103, R112), and 03:R58 names no reading for the bit moves PACK, UNPK, SWZB, BPACK and
BPEXT, which take the integer pattern too (DESIGN CHOICE, log 57). -/
def State.opnd (s : State) (g : Gang) (imm : BitVec 16) (o : Opnd) (l : Nat) : Word :=
  match o with
  | .q i => (vget (g.lane l).q i.toNat).val
  | .n i => (vget (g.lane l).n i.toNat).val
  | .k i => (vget g.k i.toNat).val
  | .g i => s.gReg (g.lane l) i
  | .cst i => constWord i
  | .imms => imm.signExtend 64
  | .immz => imm.setWidth 64
  | .immh => imm.setWidth 64 <<< 16
  | .seatlane => BitVec.ofNat 64 l
  | .oid => (g.lane l).oid.setWidth 64
  | .ones => BitVec.allOnes 64
  | .lanebit => (1 : Word) <<< l

/-- The operand's register is pending in a lane (04:R81). -/
def Gang.opndPending (g : Gang) (o : Opnd) (l : Nat) : Bool :=
  match o with
  | .q i => (vget (g.lane l).q i.toNat).pend.isSome
  | .n i => (vget (g.lane l).n i.toNat).pend.isSome
  | .k i => (vget g.k i.toNat).pend.isSome
  | _ => false

/-- The operand is a queue entry that is not valid in a lane (04:R80). -/
def Gang.opndInvalid (g : Gang) (o : Opnd) (l : Nat) : Bool :=
  match o with
  | .q i => !(vget (g.lane l).q i.toNat).valid
  | _ => false

/-- Some operand is pending in some acting lane. -/
def Gang.anyPending (g : Gang) (acts : Mask) (os : List Opnd) : Bool :=
  (lanesOf acts).any fun l => os.any fun o => g.opndPending o l

/-- The lowest operand field that is not valid in an acting lane, with those lanes. -/
def Gang.firstInvalid (g : Gang) (acts : Mask) : List Opnd → Nat → Option (Nat × Mask)
  | [], _ => none
  | o :: r, i =>
    let bad := maskOf fun l => acts.getLsbD l && g.opndInvalid o l
    if bad = 0 then g.firstInvalid acts r (i + 1) else some (i, bad)

/-- An uncorrectable word the instruction reads (04:R86, 14:R297): an operand register in an acting lane, reported by
its field value (03:R57), or a predicate word, reported as 256 (log 11): of a lane of `em` when the guard reads a predicate, of
an acting lane when a queue entry's validity or a predicate operand is read. A register has one mark for its two halves, so that
either half stops a read of any of its bits (DESIGN CHOICE, log 11). -/
def Gang.badRead (g : Gang) (gd : Guard) (acts : Mask) (os : List Opnd) (preds : Bool) : Option Nat :=
  let isQ := fun (o : Opnd) => match o with
    | .q _ => true
    | _ => false
  let bad := fun (m : Mask) => (lanesOf m).any fun l => (g.lane l).pbad
  if gd.p != 7 && bad g.em || (preds || os.any isQ) && bad acts then some 256
  else (os.find? fun o => (lanesOf acts).any fun l =>
    match o with
    | .q i => (vget (g.lane l).q i.toNat).bad
    | .n i => (vget (g.lane l).n i.toNat).bad
    | .k i => (vget g.k i.toNat).bad
    | _ => false).map fun o => o.code.toNat

/-- Run `k` once no operand is pending, none is uncorrectable, and every queue operand is valid in the lanes where the
instruction acts. Of an uncorrectable word and an invalid operand in one instruction the word is reported (DESIGN CHOICE,
log 11). -/
def State.gate (s : State) (g : Gang) (gd : Guard) (acts : Mask) (os : List Opnd) (preds : Bool) (k : Out) : Out :=
  if g.anyPending acts os then s.stall g
  else match g.badRead gd acts os preds with
    | some r => .next (s.holdGang g 0x48 (BitVec.ofNat 64 r) false)
    | none =>
      match g.firstInvalid acts os 0 with
      | some (f, lanes) => s.trapQueue g f lanes
      | none => k

/-- An instruction that acts per lane. `preds` says that it reads predicates besides its guard. -/
def State.perLane (s : State) (gd : Guard) (os : List Opnd) (k : Gang → Mask → Out) (preds : Bool := false) : Out :=
  s.withGang fun g => let m := g.acts gd; s.gate g gd m os preds (k g m)

/-- An instruction that acts once for the gang: skipped whole when its guard holds in no lane of `em`, the queue
shifting all the same when it produces a value (03:R60, 04:R77). `k` takes the lowest acting lane. -/
def State.once (s : State) (gd : Guard) (os : List Opnd) (produces : Bool) (k : Gang → Mask → Nat → Out) : Out :=
  s.withGang fun g =>
    let m := g.acts gd
    match lowest m with
    | none => s.gate g gd m [] false (s.done (if produces then g.push 0 .none fun _ => 0 else g))
    | some l => s.gate g gd m os false (k g m l)

/-- A control transfer that acts once for the gang (06:R127). `os` are operands that must agree in every lane of
`em`, in all 64 bits, bits 63:56 of an address (06:R126) among them (DESIGN CHOICE, log 52). -/
def State.transfer (s : State) (gd : Guard) (os : List Opnd) (k : Gang → Nat → Out) (preds : Bool := false) : Out :=
  s.withGang fun g =>
    let m := g.acts gd
    match lowest m with
    | none => s.gate g gd m [] false (s.done g)
    | some l =>
      s.gate g gd m os preds
        (if m ≠ g.em then s.trapEm g 0x09 0
         else if os.all fun o => (lanesOf m).all fun j => s.opnd g 0 o j == s.opnd g 0 o l then k g l
         else s.trapEm g 0x09 0)

/-- A per-lane instruction that pushes a value known at issue and writes its destination (04:R88). -/
def State.value (s : State) (gd : Guard) (d : Dest) (os : List Opnd) (f : Gang → Nat → Word) (preds : Bool := false) :
    Out :=
  s.perLane gd os (fun g m => s.done (g.push m d (f g))) preds

end Sys2Proof.Machine
end

