-- ==== Sys2Proof/Machine/Flags.lean ====
section
/-! DEFINITION. Conditions, clamps and the numeric readings of registers: every predicate an instruction computes
(04:R95), and the reductions of exact results (04:R88-R92). -/

namespace Sys2Proof.Machine

open Sys2Proof

/-- Bits of a class-0 type: N (04:R88). -/
def nbits : Ty → Nat
  | .z32 | .s32 => 32
  | _ => 64

/-- A register's low `n` bits as an unsigned number. -/
def uval (n : Nat) (x : Word) : Nat := x.toNat % 2 ^ n

/-- A register's low `n` bits as a signed number. -/
def sval (n : Nat) (x : Word) : Int :=
  let u := uval n x
  if u < 2 ^ (n - 1) then u else (u : Int) - 2 ^ n

/-- The number an operand reads as under a type: unsigned for Z32 and A56, signed otherwise (04:R89, R95). -/
def tval (t : Ty) (x : Word) : Int :=
  match t with
  | .z32 => uval 32 x
  | .s32 => sval 32 x
  | .a56 => uval 56 x
  | _ => sval 64 x

/-- An exact result reduced to the low `n` bits, the bits above zero (04:R76). -/
def red (n : Nat) (x : Int) : Word := BitVec.ofNat 64 (x % 2 ^ n).toNat

/-- The range of a type (04:R89). -/
def tyMin : Ty → Int
  | .z32 => 0
  | .s32 => -2 ^ 31
  | _ => -2 ^ 63

def tyMax : Ty → Int
  | .z32 => 2 ^ 32 - 1
  | .s32 => 2 ^ 31 - 1
  | _ => 2 ^ 63 - 1

/-- Clamped to a range. -/
def clamp (lo hi x : Int) : Int := if x < lo then lo else if hi < x then hi else x

/-- The compared bits of an operand (04:R95). -/
def cmpBits (t : Ty) (x : Word) : Word :=
  match t with
  | .z32 | .s32 => x &&& 0xFFFF_FFFF
  | .a56 => x &&& 0x00FF_FFFF_FFFF_FFFF
  | _ => x

/-- An integer condition (04:R95). -/
def ICond.eval (c : ICond) (t : Ty) (a b : Word) : Bool :=
  match c with
  | .eq => tval t a == tval t b
  | .ne => tval t a != tval t b
  | .lt => decide (tval t a < tval t b)
  | .le => decide (tval t a ≤ tval t b)
  | .gt => decide (tval t b < tval t a)
  | .ge => decide (tval t b ≤ tval t a)
  | .tst => cmpBits t a &&& cmpBits t b != 0
  | .ntst => cmpBits t a &&& cmpBits t b == 0

end Sys2Proof.Machine
end

