-- ==== Sys2Proof/Machine/Lanes.lean ====
section
/-! DEFINITION. Lanes that leave a gang, the split stack, and what their departure completes: barrier phases and the
gathering of a REORDER (06:R121-R125, 11:R226, 13:R269, R270, R278). -/

namespace Sys2Proof.Machine

open Sys2Proof

/-! ### The split stack (06:R123, R124) -/

/-- The resident entries a gang holds: H (06:R124, 22:R416). -/
def State.stackH (s : State) (g : Gang) : Nat := if s.sys.ss4.testBit (s.gangPart g) then 4 else 8

/-- An entry's masks within the live lanes (06:R121, R124). -/
def SSEntry.within (e : SSEntry) (live : Mask) : SSEntry :=
  { e with rejoin := e.rejoin &&& live, pend := e.pend &&& live, arr := e.arr &&& live }

/-- What the resumption of 06:R123 leaves: `em`, LIVE, the resident stack, SSDEPTH, where the gang goes on. -/
structure Settled where
  em : Mask
  live : Mask
  stack : List SSEntry
  depth : Nat
  pc : Option Addr
deriving DecidableEq, Repr

/-- The loop of 06:R123 when `em` has become 0, over the resident entries, top first. It stops with `em` 0 and a
nonzero depth when the next entry lies in the overflow area. -/
def settle (live : Mask) : List SSEntry → Nat → Settled
  | [], depth => if depth = 0 then ⟨0, 0, [], 0, none⟩ else ⟨0, live, [], depth, none⟩
  | e :: r, depth =>
    let e := e.within live
    if e.pend ≠ 0 then ⟨e.pend, live, { e with pend := 0 } :: r, depth, some e.cont⟩
    else if e.jv ∧ e.rejoin ≠ 0 then ⟨e.rejoin, live, r, depth - 1, some e.jpc⟩
    else settle (live &&& ~~~(e.rejoin &&& ~~~e.arr)) r (depth - 1)

/-- The entry the next pop or fill needs from the overflow area, when resident ones run below H (06:R124). -/
def Gang.fillNeeded (g : Gang) (h : Nat) : Option Xfer :=
  if g.stack.length < h ∧ g.stack.length < g.depth then some (.fill (g.depth - g.stack.length - 1)) else none

/-- A gang with no live lane retires (02:R39). -/
def Gang.retireIfEmpty (g : Gang) : Gang := if g.live = 0 then { g with place := .retired g.core g.seat } else g

/-- Resume by 06:R123 when `em` is 0. -/
def Gang.resume (g : Gang) (h : Nat) : Gang :=
  if g.em ≠ 0 then g
  else
    let r := settle g.live g.stack g.depth
    let g := { g with em := r.em, live := r.live, stack := r.stack.map (SSEntry.within · r.live), depth := r.depth }
    let g := { g with xfer := g.fillNeeded h }
    let g := match r.pc with
      | some pc => g.jump pc
      | none => g
    g.retireIfEmpty

/-- A fill has come: the gang goes on resuming where its `em` is 0, and the next entry follows while fewer than H are resident: one is
read back for each pop that left fewer (06:R124). -/
def Gang.filled (g : Gang) (h : Nat) : Gang :=
  let g := ({ g with xfer := none } : Gang).resume h
  if g.xfer.isSome then g else { g with xfer := g.fillNeeded h }

/-- Seat lanes leave LIVE, `em` and every entry (06:R121), and the gang resumes when `em` becomes 0. -/
def Gang.depart (g : Gang) (lanes : Mask) (h : Nat) : Gang :=
  let live := g.live &&& ~~~lanes
  ({ g with live := live, em := g.em &&& live, stack := g.stack.map fun e => e.within live } : Gang).resume h

/-! ### Barriers (11:R226) -/

/-- A mask with the bits of a list of numbers. -/
def maskBits (w : Nat) (l : List Nat) : BitVec w := l.foldl (fun m i => m ||| BitVec.ofNat w (2 ^ i)) 0

/-- Every live lane of the device. -/
def State.liveLanes (s : State) : List Lane := s.gangs.flatMap fun g => (lanesOf g.live).map g.lane

/-- The live lanes a brick barrier counts, by `%oid`. -/
def State.liveOids (s : State) (k : BKey) : BitVec 512 :=
  maskBits 512 ((s.liveLanes.filter fun l => l.brick == k).map fun l => l.oid.toNat)

/-- The live lanes a course barrier counts, by `%obrick` and `%oid`. -/
def State.liveCourse (s : State) (c : CKey) : BitVec 4096 :=
  maskBits 4096 ((s.liveLanes.filter fun l => (s.brick? l.brick).any fun b => b.key.wall == c.wall && b.course == c.course).map
    fun l => 512 * l.obrick.toNat + l.oid.toNat)

/-- `check(bar)` of 11:R226. -/
def Bar.check {w : Nat} (b : Bar w) (live : BitVec w) : Bar w :=
  let fin := if b.expect ≠ 0 then b.arr == b.expect else b.amask != 0 && live &&& ~~~b.amask == 0
  if fin then { b with phc := b.phc + 1, arr := 0, amask := 0, done := b.done ++ b.ids, ids := [] } else b

/-- `check` over every barrier that counts lanes of a brick. -/
def State.checkBars (s : State) (k : BKey) : State :=
  match s.brick? k with
  | none => s
  | some b =>
    let live := s.liveOids k
    let s := s.setBrick { b with bars := b.bars.map fun x => x.check live }
    match s.course? ⟨k.wall, b.course⟩ with
    | none => s
    | some c =>
      let live := s.liveCourse c.key
      s.setCourse { c with cbars := c.cbars.map fun x => x.check live }

/-! ### The gathering of a REORDER (13:R269, R270, R274, R278) -/

/-- The gangs of a course's bricks. -/
def State.courseGangs (s : State) (c : CKey) : List Gang :=
  s.gangs.filter fun g => (s.brick? g.brick).any fun b => b.key.wall == c.wall && b.course == c.course

/-- The participating gangs (13:R269), ascending (core, seat). -/
def State.participants (s : State) (c : CKey) : List Gang :=
  ((s.courseGangs c).filter fun g => g.reord && g.live != 0).insertionSort fun x y =>
    x.core < y.core || x.core == y.core && x.seat ≤ y.seat

/-- The instruction a gang stands at. -/
def Gang.instr (g : Gang) : Option Instr := (g.clause.find? fun x => x.1 == g.pos).map Prod.snd

/-- An instruction of class 5 with its guard bits excluded (13:R265 WORD). -/
def unguarded : Instr → Instr
  | .reorderPack _ k b m => .reorderPack ⟨false, 7⟩ k b m
  | .reorderAlign _ k b m => .reorderAlign ⟨false, 7⟩ k b m
  | .reorderCount _ d k => .reorderCount ⟨false, 7⟩ d k
  | i => i

/-- The course's sorter is handed to the queued course whose gathering completed first (13:R274). -/
def State.nextSort (s : State) (group : Nat) : State :=
  let q := (s.courses.filter fun c => c.group == group && c.state == .queued).insertionSort fun x y => x.qorder ≤ y.qorder
  match q.head? with
  | none => s.setGroup group { s.group group with sorter := none }
  | some c => (s.setGroup group { s.group group with sorter := some c.key }).setCourse { c with state := .binning }

/-- A course as the owner of uncorrectable riddle words. -/
def CKey.code (k : CKey) : Nat := k.wall * 2 ^ 32 + k.course

/-- An episode of REORDER.COUNT. -/
def Course.counting (c : Course) : Bool :=
  match c.word with
  | some (.reorderCount ..) => true
  | _ => false

/-- The first byte of a course's spill area (13:R273). -/
def State.spillVa (s : State) (c : Course) : Nat :=
  (((s.header? c.key.wall).map fun h => h.spillbase.toNat).getD 0) + 2 ^ 18 * c.key.course

/-- The bytes of the spill area, four pages, are undefined after any REORDER (13:R273; log 3): those of each page that the
address space maps for writing. -/
def State.freeSpill (s : State) (c : Course) : State :=
  let foot := footOf (4 * c.group)
  (List.range 4).foldl (fun s i =>
    let va := (s.spillVa c + 65536 * i) % 2 ^ 56
    match s.walkPage (s.partOf foot) (s.asidOf c.key.wall) va with
    | some e =>
      if e.w then ({ s with free := s.free + 8192 } : State).putAll (e.phys foot va)
          ((List.range 8192).flatMap fun j => natLe 8 (Config.freeWord (s.free + j)).toNat)
      else s
    | none => s) s

/-- The record of an episode cleared with its marked words, and the sorter handed on when the course held it; the spill area
of a REORDER is undefined then. -/
def State.clearEpisode (s : State) (c : Course) : State :=
  let s := if c.counting then s else s.freeSpill c
  let s := { s with marks := s.marks.filter fun m => !(m.unit == 1 && m.owner == c.key.code) }
  let s := s.setCourse { c with state := .idle, word := none, clause := 0, posn := 0, expected := [], arrived := [],
                                 tags := [], fault := none, merged := 0, undo := [] }
  if (s.group c.group).sorter = some c.key then s.nextSort c.group else s

/-- Rollback (13:R278): the arrived gangs stand at their REORDER, taking `cause` if one is given; an engine fault that is pending
is taken first (14:R290, R296), and the REORDER issues anew after it. -/
def State.rollback (s : State) (c : Course) (cause : Option (Nat × Word)) : State :=
  let s := s.clearEpisode c
  { s with gangs := s.gangs.map fun g =>
      if c.arrived.contains g.gid && g.wait == .gathered then
        match cause with
        | some (code, v) =>
          if let some (c, x) := g.pendfault then { g with wait := .trapping (g.pendTrap c x) true }
          else { g with wait := .trapping ⟨code, v, g.em, 0, 0, g.pc, g.pos, 0, false⟩ false }
        | none => { g with wait := .ready }
      else g }

/-- The lowest barrier with arrivals, as REORDER_BARRIER_PENDING reports it (13:R270, 14:R290). -/
def State.pendingBar (s : State) (c : Course) : Option Nat :=
  match (List.range 4).find? fun i => (vget c.cbars i).arr != 0 with
  | some i => some (256 + i)
  | none =>
    (((s.courseBricks c.key).filter fun b => !b.retired).flatMap fun b =>
      ((List.range 16).filter fun i => (vget b.bars i).arr != 0).map fun i => i + 512 * b.obrick).head?

/-- The place of a course whose gathering completes now among those that wait for the sorter: by cycle, then by its lowest
participating (core, seat) (13:R274). -/
def State.sortRank (s : State) (ck : CKey) : Nat :=
  s.cycle * 8192 + (((s.participants ck).head?).map fun g => 16 * g.core + g.seat).getD 0

/-- A course whose gathering is complete takes its group's sorter, or waits for it; of those that complete in one cycle
the lowest is first (13:R274). -/
def State.toSorter (s : State) (c : Course) : State :=
  let rank := s.sortRank c.key
  let take := fun (s : State) =>
    (s.setGroup c.group { s.group c.group with sorter := some c.key }).setCourse { c with state := .binning, qorder := rank }
  match (s.group c.group).sorter.bind fun k => s.course? k with
  | none => take s
  | some d =>
    if d.state == .binning && decide (d.qorder / 8192 = s.cycle) && decide (rank < d.qorder) then
      take (s.setCourse { d with state := .queued })
    else s.setCourse { c with state := .queued, qorder := rank }

/-- Gathering completes when ARRIVED equals EXPECTED: the checks of 13:R270, then the sorter or its queue. -/
def State.gatherCheck (s : State) (ck : CKey) : State :=
  match s.course? ck with
  | none => s
  | some c =>
    if c.state ≠ .gathering ∨ !(c.expected.all fun x => c.arrived.contains x) then s
    else
      let gs := s.gangs.filter fun g => c.arrived.contains g.gid
      if gs.any fun g => g.pc != c.clause || g.pos != c.posn || g.instr.map unguarded != c.word then
        s.rollback c (some (0x33, 0))
      else match (if c.counting then none else s.pendingBar c) with
        | some v => s.rollback c (some (0x34, BitVec.ofNat 64 v))
        | none => s.toSorter c

/-- A gang that retires leaves EXPECTED (13:R269). -/
def State.leaveExpected (s : State) (g : Gang) : State :=
  match s.courseOf g.brick with
  | none => s
  | some c =>
    if c.expected.contains g.gid then
      let s := s.setCourse { c with expected := c.expected.filter (· != g.gid), arrived := c.arrived.filter (· != g.gid),
                                     tags := c.tags.filter fun t => t.gid != g.gid }
      let c' := (s.course? c.key).getD c
      if c'.expected.isEmpty && c'.state == .gathering then s.clearEpisode c' else s.gatherCheck c.key
    else s

/-! ### Departure -/

/-- The origin bricks of a set of lanes, each once. -/
def Gang.originsOf (g : Gang) (m : Mask) : List BKey := ((lanesOf m).map fun l => (g.lane l).brick).eraseDups

/-- What follows the departure of lanes of `g` once its record `g'` is stored: barriers, gathering. -/
def State.afterDepart (s : State) (g g' : Gang) : State :=
  let gone := g.live &&& ~~~g'.live
  let s := (g.originsOf gone).foldl (fun s k => s.checkBars k) (s.setGang g')
  if g'.live = 0 ∧ g.live ≠ 0 then s.leaveExpected g' else s

/-- Lanes leave as by EXIT (06:R121); the gang's record goes on as `adv` says when some lane stays in `em`. -/
def State.leave (s : State) (g : Gang) (lanes : Mask) (adv : Gang → Gang) : State :=
  let g' := g.depart lanes (s.stackH g)
  let g' := if g.em &&& ~~~lanes = 0 then g' else adv g'
  s.afterDepart g g'

/-- KILLED is set in the bricks the lanes started in (02:R40, 06:R128). -/
def State.markKilled (s : State) (ks : List BKey) : State :=
  { s with bricks := s.bricks.map fun b => if ks.contains b.key then { b with killed := true } else b }

/-- A quarantine recorded in the completion record of a lane's origin brick (02:R40, 08:R171); of those with one GTSC reading that
of the lowest core and then the lowest `%oid` comes first (11:R240). -/
def Brick.quarantine (b : Brick) (cause core : Nat) (oid : BitVec 9) (now : Nat) : Brick :=
  let first := !b.quar || (now == b.qtime && decide (core < b.qcore ∨ core = b.qcore ∧ oid.toNat < b.qoid.toNat))
  { b with quar := true, qmask := b.qmask ||| BitVec.ofNat 512 (2 ^ oid.toNat),
           qcause := if first then BitVec.ofNat 8 cause else b.qcause, qoid := if first then oid else b.qoid,
           qtime := if first then now else b.qtime, qcore := if first then core else b.qcore }

/-- The lanes struck by a quarantine cause, recorded in their bricks and in `fm` (06:R122, 08:R171). -/
def State.quarantine (s : State) (g : Gang) (bad : List (Nat × Nat)) : State × Gang :=
  let now := (vget s.foots (footOf g.core)).gtsc
  let s := bad.foldl (fun s (l, cause) =>
    match s.brick? (g.lane l).brick with
    | some b => s.setBrick (b.quarantine cause g.core (g.lane l).oid now)
    | none => s) s
  (s, { g with fm := g.fm ||| maskOf fun l => bad.any fun x => x.1 == l })

end Sys2Proof.Machine
end

