-- ==== Sys2Proof/Machine/Requests.lean ====
section
/-! DEFINITION. Which memory requests are still to be performed, and what an acquire takes over (20:R385, R390, R391;
log 7). -/

namespace Sys2Proof.Machine

open Sys2Proof

/-- Every lane's access has been performed. -/
def MemReq.performed (r : MemReq) : Bool := r.accs.all Access.done

/-- A write that a request or an engine operation made at another footing's slice has not reached a footing (20:R388). -/
def State.travels (s : State) (foot id : Nat) : Bool :=
  s.writes.any fun w => w.req == id && w.src != foot && w.waits.contains foot

/-- A request is open while some access is not performed, or a write its value rests on has not reached its
footing (20:R391). -/
def State.openReq (s : State) (r : MemReq) : Bool := !r.performed || r.needs.any (s.travels (footOf r.core))

def State.isOpen (s : State) (id : Nat) : Bool := s.reqs.any fun r => r.id == id && s.openReq r

/-- What follows a request or an engine operation on a footing still waits for it: it is open, or its write has not come
there (20:R388). -/
def State.hidden (s : State) (foot id : Nat) : Bool := s.isOpen id || s.travels foot id

/-- A request or an engine operation that something may have to wait for somewhere. -/
def State.live (s : State) (id : Nat) : Bool := s.isOpen id || s.writes.any fun w => w.req == id && !w.waits.isEmpty

/-- Those of a list that matter to some footing. -/
def State.openOf (s : State) (ids : List Nat) : List Nat := ids.filter s.live

/-- Those of a list that a gang's next access waits for, if it follows them. -/
def State.waitsFor (s : State) (g : Gang) (ids : List Nat) : List Nat := ids.filter (s.hidden (footOf g.core))

/-- A request waits for one that it follows. -/
def State.waitsOn (s : State) (r : MemReq) : Bool := r.deps.any (s.hidden (footOf r.core))

/-- The requests of a gang that have not been performed. -/
def State.undone (s : State) (gid : Nat) : List Nat := (s.reqs.filter fun r => r.gid == gid && !r.performed).map MemReq.id

/-- The requests and engine operations of a gang with a write on its way. -/
def State.onTheWay (s : State) (gid : Nat) : List Nat :=
  (s.writes.filter fun w => w.gid == gid && !w.waits.isEmpty).map RWrite.req

/-- Requests that write. -/
def AccKind.writes : AccKind → Bool
  | .store _ | .posted | .storeMc | .mirrorSync | .atom .. | .deque .. | .red .. => true
  | _ => false

/-- The writes of a gang that have not been performed. -/
def State.undoneWrites (s : State) (gid : Nat) : List Nat :=
  (s.reqs.filter fun r => r.gid == gid && r.kind.writes && !r.performed).map MemReq.id

/-- Every tag of the gang's posted stores has come (08:R187). -/
def State.tagsIn (s : State) (gid : Nat) : Bool := s.reqs.all fun r => r.gid != gid || r.kind != .posted || r.arrived

/-- Every write of the gang that a slice has performed is performed at its home slice (20:R388). -/
def State.atHome (s : State) (gid : Nat) : Bool := s.writes.all fun w => w.gid != gid || w.order.isSome

/-- What a release by a gang covers: its own requests and engine writes, and those that happen before them (20:R391). -/
def State.covered (s : State) (g : Gang) : List Nat :=
  (s.undone g.gid ++ s.onTheWay g.gid ++ s.openOf (g.after ++ g.hb)).eraseDups

/-- Every plain line of a core's L1 invalidated (08:R175). -/
def State.dropPlain (s : State) (core : Nat) : State :=
  { s with l1 := s.l1.filter fun x => x.core != core || x.ro }

/-- Scopes of course or wider, of device or system (08:R175, 20:R389). -/
def Scope.wide : Scope → Bool
  | .gang | .brick => false
  | _ => true

def Scope.far : Scope → Bool
  | .device | .system => true
  | _ => false

/-- The origin bricks of a gang's lanes (20:R383). -/
def Gang.origins (g : Gang) : List BKey := g.originsOf g.live

/-- Two bricks of one course (20:R383). -/
def State.sameCourse (s : State) (a b : BKey) : Bool :=
  a == b || a.wall == b.wall && match s.brick? a, s.brick? b with
    | some x, some y => x.course == y.course
    | _, _ => false

/-- The origin bricks of some lanes, each with its lane. -/
def Gang.laneBricks (g : Gang) (m : Mask) : List (Nat × BKey) := (lanesOf m).map fun l => (l, (g.lane l).brick)

/-- The gang, by its lanes of origin bricks `bs`, is within a scope of what carries `r`, and the gang of `r` within that scope
of those lanes (20:R383). -/
def State.within (s : State) (r : RelInfo) (g : Gang) (bs : List BKey) : Scope → Bool
  | .gang => r.gid == g.gid
  | .brick => r.bricks.any bs.contains
  | .course => r.bricks.any fun b => bs.any fun c => s.sameCourse b c
  | .footing => footOf r.core == footOf g.core
  | .device | .system => true

/-- What `r` stands for is ordered before an acquire at a scope by lanes of the gang that read it: a release synchronises with
it (20:R390), another write is observed by one of device or system scope (20:R391). -/
def State.syncs (s : State) (g : Gang) (bs : List BKey) (sc : Scope) (r : RelInfo) : Bool :=
  match r.rel with
  | some x => s.within r g bs x && s.within r g bs sc
  | none => Scope.far sc

/-- The requests that an acquire of a scope takes over from what the gang's lanes have read. -/
def State.taken (s : State) (g : Gang) (sc : Scope) (rs : List (RelInfo × List BKey)) : List Nat :=
  ((rs.filter fun r => s.syncs g r.2 sc r.1).flatMap fun r => r.1.ids).eraseDups

/-- An acquire of this scope by the gang makes its core's plain lines invalid (08:R175): at course scope or wider. At brick
scope gangs share one L1, but for those a REORDER has moved to another core (20:R391, log 28). -/
def State.clears (s : State) (g : Gang) (sc : Scope) : Bool :=
  Scope.wide sc || sc == .brick && (s.courseOf g.brick).any Course.regrouped

/-- What still matters to a reader: entries with requests that some footing may wait for. -/
def State.openRels (s : State) (rs : List RelInfo) : List RelInfo :=
  (rs.filterMap fun r =>
    let ids := s.openOf r.ids
    if ids.isEmpty then none else some { r with ids := ids }).eraseDups

/-- The same with the bricks of the lanes that read each. -/
def State.openSeen (s : State) (rs : List (RelInfo × List BKey)) : List (RelInfo × List BKey) :=
  (rs.filterMap fun r =>
    let ids := s.openOf r.1.ids
    if ids.isEmpty then none else some ({ r.1 with ids := ids }, r.2)).eraseDups

/-- What a release of a scope names of what it covers: nothing at device or system scope, where the epoch says it
(20:R389). -/
def State.relIds (s : State) (g : Gang) (sc : Scope) : List Nat := if Scope.far sc then [] else s.covered g

/-- The scopes at which a write of a gang releases, each with what it covers: its own attribute's and those of the fences before
it (20:R390). A write that is no release names what happens before it (20:R391). -/
def State.relsOf (s : State) (g : Gang) (own : Option Scope) : List (Option Scope × List Nat) :=
  let rs := (own.map fun sc => (some sc, s.relIds g sc)).toList ++ g.fences.map fun x => (some x.1, s.openOf x.2)
  if rs.isEmpty then [(none, s.openOf g.hb)] else rs

/-- What a scratchpad store by a lane carries (20:R390). -/
def State.storeInfo (s : State) (g : Gang) (l : Nat) : List RelInfo :=
  s.openRels ((s.relsOf g none).map fun x => ⟨g.gid, g.core, [(g.lane l).brick], x.1, x.2⟩)

/-- A gang's acquire of the requests `ids` at a scope (08:R175, 20:R391). -/
def State.acquire (s : State) (g : Gang) (ids : List Nat) (sc : Scope) : State × Gang :=
  (if s.clears g sc then s.dropPlain g.core else s, { g with hb := (s.openOf g.hb ++ s.openOf ids).eraseDups })

end Sys2Proof.Machine
end

