-- ==== Sys2Proof/Machine/Counters.lean ====
section
/-! DEFINITION. Barriers, phases and tokens (file 11). -/

namespace Sys2Proof.Machine

open Sys2Proof

/-! ### Barriers (11:R225-R230) -/

/-- The counts of a barrier, without its arrivals. -/
structure BarView where
  phc : BitVec 16
  arr : BitVec 13
  expect : BitVec 13
  done : List Nat
deriving DecidableEq, Repr

/-- Barrier `x` of a lane's origin brick or of its course (11:R225). -/
def State.barView (s : State) (ln : Lane) (x : BarRef) : BarView :=
  match x with
  | .brick i =>
    match s.brick? ln.brick with
    | some b => let r := vget b.bars i.toNat; ⟨r.phc, r.arr, r.expect, r.done⟩
    | none => ⟨0, 0, 0, []⟩
  | .course i =>
    match s.courseOf ln.brick with
    | some c => let r := vget c.cbars i.toNat; ⟨r.phc, r.arr, r.expect, r.done⟩
    | none => ⟨0, 0, 0, []⟩

/-- The lane has arrived in the open phase. -/
def State.arrived (s : State) (ln : Lane) (x : BarRef) : Bool :=
  match x with
  | .brick i => (s.brick? ln.brick).any fun b => (vget b.bars i.toNat).amask.getLsbD ln.oid.toNat
  | .course i =>
    (s.courseOf ln.brick).any fun c => (vget c.cbars i.toNat).amask.getLsbD (512 * ln.obrick.toNat + ln.oid.toNat)

/-- One arrival on a barrier, before `check`. -/
def Bar.arrive {w : Nat} (b : Bar w) (origin : Nat) (ids : List Nat) : Bar w :=
  { b with amask := b.amask ||| BitVec.ofNat w (2 ^ origin), arr := b.arr + 1, ids := (b.ids ++ ids).eraseDups }

/-- `arrive(lane, bar)` of 11:R226; the arrival releases the requests `ids` (11:R229). -/
def State.arrive (s : State) (ln : Lane) (x : BarRef) (ids : List Nat) : State :=
  match x with
  | .brick i =>
    match s.brick? ln.brick with
    | some b =>
      let r := ((vget b.bars i.toNat).arrive ln.oid.toNat ids).check (s.liveOids b.key)
      s.setBrick { b with bars := vset b.bars i.toNat r }
    | none => s
  | .course i =>
    match s.courseOf ln.brick with
    | some c =>
      let r := ((vget c.cbars i.toNat).arrive (512 * ln.obrick.toNat + ln.oid.toNat) ids).check (s.liveCourse c.key)
      s.setCourse { c with cbars := vset c.cbars i.toNat r }
    | none => s

/-- The arrivals of lanes in order, with the phase each arrived in. -/
def State.arriveAll (s : State) (g : Gang) (x : BarRef) (ids : List Nat) : List Nat → State × List (Nat × BitVec 16)
  | [] => (s, [])
  | l :: r =>
    let p := (s.barView (g.lane l) x).phc
    let (s', ps) := (s.arrive (g.lane l) x ids).arriveAll g x ids r
    (s', (l, p) :: ps)

/-- The phase a lane arrived in. -/
def phaseOf (ps : List (Nat × BitVec 16)) (l : Nat) : BitVec 16 := ((ps.find? fun x => x.1 == l).map Prod.snd).getD 0

/-- "Advanced past" (11:R227). -/
def advancedPast (phc a : BitVec 16) : Bool := 1 ≤ (phc - a).toNat && (phc - a).toNat ≤ 2 ^ 15 - 1

/-- Every lane's barrier has advanced past its phase. -/
def State.passed (s : State) (g : Gang) (x : BarRef) (lanes : List Nat) (a : Nat → BitVec 16) : Bool :=
  lanes.all fun l => advancedPast (s.barView (g.lane l) x).phc (a l)

/-- The barrier is a course barrier. -/
def BarRef.isCourse : BarRef → Bool
  | .course _ => true
  | .brick _ => false

def BarRef.index : BarRef → Nat
  | .brick i => i.toNat
  | .course i => i.toNat

/-- The acquire at the end of a barrier wait (11:R229). -/
def State.wakeBar (s : State) (g : Gang) (x : BarRef) (lanes : List Nat) : State × Gang :=
  s.acquire g (lanes.flatMap fun l => (s.barView (g.lane l) x).done) (if BarRef.isCourse x then .course else .brick)

/-- Gangs per brick of a wall (02:R26). -/
def LHeader.gangs (h : LHeader) : Nat := (h.roles.map RoleDesc.gangs).sum

/-- The lanes a barrier counts (11:R228). -/
def State.barLanes (s : State) (k : BKey) (x : BarRef) : Nat :=
  let n := 32 * ((s.header? k.wall).map LHeader.gangs).getD 0
  if BarRef.isCourse x then
    let p := s.packet k.wall
    let c := p.coord k.idx
    n * (p.box (p.setOf c) c.s).length
  else n

/-- EXPECT of a barrier set. -/
def State.setExpect (s : State) (ln : Lane) (x : BarRef) (e : BitVec 13) : State :=
  match x with
  | .brick i =>
    match s.brick? ln.brick with
    | some b => s.setBrick { b with bars := vset b.bars i.toNat { vget b.bars i.toNat with expect := e } }
    | none => s
  | .course i =>
    match s.courseOf ln.brick with
    | some c => s.setCourse { c with cbars := vset c.cbars i.toNat { vget c.cbars i.toNat with expect := e } }
    | none => s

/-- BAR.INIT (11:R227, R228). -/
def execBarInit (g : Guard) (x : BarRef) (a : Opnd) (s : State) : Out :=
  s.once g [a] false fun G _ l =>
    let e : BitVec 13 := (s.opnd G 0 a l).setWidth 13
    let ln := G.lane l
    if (s.barView ln x).arr ≠ 0 ∨ s.barLanes ln.brick x < e.toNat then
      s.trapEm G 0x28 (BitVec.ofNat 64 (BarRef.index x))
    else (s.setExpect ln x e).done G

/-- Some acting lane has already arrived in the open phase: the instruction is held (11:R226). -/
def State.reArrival (s : State) (g : Gang) (m : Mask) (x : BarRef) : Bool := (lanesOf m).any fun l => s.arrived (g.lane l) x

/-- A lane's barrier is on another core: a brick's. A course's is at the core group, as far from each of its cores
(11:R226, R227; log 38). -/
def State.farBar (s : State) (g : Gang) (x : BarRef) (l : Nat) : Bool :=
  !BarRef.isCourse x && (s.brick? (g.lane l).brick).any fun b => b.away g

/-- The arrivals of an instruction: `k` goes on with the phases once every lane has arrived, those on other cores when they are
reached. The gang's writes of `g` registers come before (11:R226, R229). -/
def State.arrives (s : State) (g : Gang) (m : Mask) (x : BarRef) (k : State → Gang → List (Nat × Nat × Word) → Out) : Out :=
  match s.lanesNow g m (s.farBar g x) with
  | none => s.stall g g.wait
  | some ls =>
    if !g.reaching && (s.reArrival g m x || s.gOpen g) then s.stall g
    else
      let (s, ps) := s.arriveAll g x (s.covered g) ls
      let got := g.got ++ ps.map fun p => (p.1, 0, p.2.setWidth 64)
      if g.goesFar m (s.farBar g x) then s.goFar g false got else k s g got

/-- BAR.ARRIVE (11:R226, R227). -/
def execBarArrive (g : Guard) (x : BarRef) (d : Dest) (s : State) : Out :=
  s.perLane g [] fun G m => s.arrives G m x fun s G got => s.done (G.push m d (valueOf got))

/-- BAR.WAIT (11:R227). -/
def execBarWait (g : Guard) (x : BarRef) (a : Opnd) (s : State) : Out :=
  s.perLane g [a] fun G m =>
    if m = 0 then s.done G
    else if s.passed G x (lanesOf m) fun l => (s.opnd G 0 a l).setWidth 16 then
      let (s, G) := s.wakeBar G x (lanesOf m)
      s.done G
    else s.stall G

/-- The wait of a BAR.SYNC ends, or goes on (11:R227, R230). -/
def State.syncWait (s : State) (g : Gang) (x : BarRef) (phc : Lanes (BitVec 16)) (m : Mask) : Out :=
  if s.passed g x (lanesOf m) fun l => Lanes.at phc l then
    let (s, g) := s.wakeBar g x (lanesOf m)
    s.done g
  else s.stall g (.syncing x phc m)

/-- BAR.SYNC (11:R227). -/
def execBarSync (g : Guard) (x : BarRef) (s : State) : Out :=
  s.perLane g [] fun G m =>
    if m = 0 then s.done G
    else s.arrives G m x fun s G got => s.syncWait G x (Vector.ofFn fun i => (valueOf got i.val).setWidth 16) m

/-- BAR.PEEK (11:R227). -/
def execBarPeek (g : Guard) (x : BarRef) (d : Dest) (s : State) : Out :=
  s.perLane g [] fun G m =>
    s.done (G.push m d fun l =>
      let b := s.barView (G.lane l) x
      BitVec.ofNat 64 (b.phc.toNat + field 16 b.arr.toNat + field 32 b.expect.toNat))

/-! ### Phases (02:R24, 11:R235-R237) -/

/-- The stage neighbours of a brick that have not retired: `true` with the stage below, `false` with the stage
above. -/
def State.neighbours (s : State) (k : BKey) : List (Bool × Brick) :=
  let p := s.packet k.wall
  let c := p.coord k.idx
  ([(true, c.s - 1), (false, c.s + 1)].filter fun x => x.1 == false || c.s != 0).filterMap fun x =>
    ((s.brick? ⟨k.wall, p.linear { c with s := x.2 }⟩).filter fun b => !b.retired).map fun b => (x.1, b)

/-- A phase sent to each stage neighbour (11:R236). -/
def State.sendPhase (s : State) (k : BKey) (n : BitVec 32) : State :=
  { s with leads := s.leads ++ (s.neighbours k).map fun x => ⟨s.cycle, ((s.brick? k).map Brick.core).getD 0, x.2.key, !x.1, n⟩ }

/-- The lead allowance lets the brick reach phase `n` (11:R235). -/
def leadOk (lead : Nat) (n h : BitVec 32) : Bool := h == 0xFFFFFFFF || decide ((n - h).toInt ≤ lead)

/-- PHASE (11:R235). -/
def execPhase (g : Guard) (s : State) : Out :=
  s.once g [] false fun G _ l =>
    match s.brick? (G.lane l).brick with
    | none => s.done G
    | some b =>
      let n := b.phase + 1
      let lead := ((s.header? b.key.wall).map LHeader.lead).getD 0
      if leadOk lead n b.lowph && leadOk lead n b.highph then
        ((s.setBrick { b with phase := n }).sendPhase b.key n).done G
      else s.stall G

/-- LEAD.RD (11:R237). -/
def execLeadRd (g : Guard) (d : Dest) (s : State) : Out :=
  s.perLane g [] fun G m =>
    s.done (G.push m d fun l =>
      match s.brick? (G.lane l).brick with
      | some b => b.highph ++ b.lowph
      | none => 0)

/-- The core groups a phase travels between. -/
def State.leadPath (s : State) (m : LeadMsg) : Nat × Nat :=
  (groupOf m.src, groupOf (((s.brick? m.dst).map Brick.core).getD 0))

/-- LEAD_UPDATE (11:R236): a phase reaches a neighbour; phases from one core group to one core group arrive in the order
sent (02:R17). -/
def execLeadUpdate (i : Nat) (s : State) : Out :=
  match s.leads[i]? with
  | none => .refused .cannotOccur
  | some m =>
    if (s.leads.take i).any fun x => x.dst == m.dst && x.low == m.low || s.leadPath x == s.leadPath m then
      .refused .cannotOccur else
    let s := { s with leads := s.leads.eraseIdx i }
    match s.brick? m.dst with
    | none => .next s
    | some b => .next (s.setBrick (if m.low then { b with lowph := m.phase } else { b with highph := m.phase }))

/-! ### Tokens (11:R233, R234) -/

/-- WAITT (11:R234). -/
def execWaitt (g : Guard) (j : BitVec 3) (s : State) : Out :=
  s.once g [] false fun G _ _ => if G.outOf j = 0 then s.done G else s.stall G

end Sys2Proof.Machine
end

