-- ==== Sys2Proof/Machine/Float.lean ====
section
/-! DEFINITION. The number formats and the class-1 instructions (file 05). -/

namespace Sys2Proof.Machine

open Sys2Proof

/-! ### Formats (05:R98-R100) -/

/-- A float format: widths of the exponent and the fraction, the bias, whether it has infinities. -/
structure Fmt where
  e : Nat
  f : Nat
  bias : Nat
  inf : Bool
deriving DecidableEq, Repr

def Fmt.f32 : Fmt := ⟨8, 23, 127, true⟩
def Fmt.f16 : Fmt := ⟨5, 10, 15, true⟩
def Fmt.bf16 : Fmt := ⟨8, 7, 127, true⟩
def Fmt.e5m2 : Fmt := ⟨5, 2, 15, true⟩
def Fmt.e4m3 : Fmt := ⟨4, 3, 7, false⟩

def Fmt.width (t : Fmt) : Nat := 1 + t.e + t.f

/-- The canonical NaN (05:R100). -/
def Fmt.nan (t : Fmt) : Nat := if t.inf then (2 ^ t.e - 1) * 2 ^ t.f + 2 ^ (t.f - 1) else 2 ^ (t.e + t.f) - 1

/-- The largest finite pattern. -/
def Fmt.maxPat (t : Fmt) : Nat := if t.inf then (2 ^ t.e - 1) * 2 ^ t.f - 1 else 2 ^ (t.e + t.f) - 2

/-- The exponent of the spacing of the subnormals. -/
def Fmt.qmin (t : Fmt) : Int := 1 - t.bias - t.f

/-- A pattern with its sign bit. -/
def Fmt.signed (t : Fmt) (neg : Bool) (mag : Nat) : Nat := mag + bit neg * 2 ^ (t.e + t.f)

/-- Infinity of a sign; a format without infinities gives NaN (05:R105). -/
def Fmt.infPat (t : Fmt) (neg : Bool) : Nat := if t.inf then t.signed neg ((2 ^ t.e - 1) * 2 ^ t.f) else t.nan

/-- What a pattern stands for: `num neg m e` is `(-1)^neg × m × 2^e`, a signed zero when `m` is 0. -/
inductive FVal
  | nan
  | inf (neg : Bool)
  | num (neg : Bool) (m : Nat) (e : Int)
deriving DecidableEq, Repr

/-- The value of a pattern (05:R99). -/
def Fmt.val (t : Fmt) (p : Nat) : FVal :=
  let neg := p.testBit (t.e + t.f)
  let mag := p % 2 ^ (t.e + t.f)
  let ex := mag / 2 ^ t.f
  let fr := mag % 2 ^ t.f
  if ex = 0 then .num neg fr t.qmin
  else if t.inf && ex == 2 ^ t.e - 1 then (if fr = 0 then .inf neg else .nan)
  else if !t.inf && mag == 2 ^ (t.e + t.f) - 1 then .nan
  else .num neg (2 ^ t.f + fr) (t.qmin + (ex - 1))

/-! ### Rounding (05:R104, R105) -/

/-- An overflowing result (05:R105). -/
def Fmt.overflow (t : Fmt) (m : Rnd) (sat neg : Bool) : Nat :=
  let max := t.signed neg t.maxPat
  if sat then max
  else match m, neg with
    | .rne, _ | .ru, false | .rd, true => t.infPat neg
    | .rz, _ | .ru, true | .rd, false => max

/-- Whether the rounding goes away from zero, past `k` with a remainder `rem` of `2^sh` and more below it (`sticky`). -/
def roundsUp (m : Rnd) (neg : Bool) (k rem sh : Nat) (sticky : Bool) : Bool :=
  match m with
  | .rne => decide (2 ^ sh < 2 * rem) || (2 * rem == 2 ^ sh && (sticky || k % 2 == 1))
  | .rz => false
  | .ru => !neg && (rem != 0 || sticky)
  | .rd => neg && (rem != 0 || sticky)

/-- `m × 2^e` as a whole number of `2^q`, for `q ≤ e`. -/
def scaleTo (m : Nat) (e q : Int) : Nat := m * 2 ^ (e - q).toNat

/-- A whole number of `2^q` by the mode, of a magnitude `m × 2^e` (a little more when `sticky`). -/
def roundAt (md : Rnd) (neg : Bool) (m : Nat) (e : Int) (sticky : Bool) (q : Int) : Nat :=
  if q ≤ e then scaleTo m e q + bit (roundsUp md neg 0 0 1 sticky)
  else
    let sh := (q - e).toNat
    let k := m / 2 ^ sh
    k + bit (roundsUp md neg k (m % 2 ^ sh) sh sticky)

/-- The magnitude overflows under the mode (05:R105). -/
def Fmt.tooBig (t : Fmt) (md : Rnd) (m : Nat) (e : Int) (sticky : Bool) : Bool :=
  let maxM := if t.inf then 2 ^ (t.f + 1) - 1 else 2 ^ (t.f + 1) - 2
  let q : Int := t.qmin + (t.maxPat / 2 ^ t.f) - 1
  let d := if e < q - 1 then e else q - 1
  let x := scaleTo m e d
  match md with
  | .rne => decide (scaleTo (2 * maxM + 1) (q - 1) d ≤ x)
  | _ => decide (scaleTo maxM q d < x) || (scaleTo maxM q d == x && sticky)

/-- `round_m_T` of a nonzero exact value `(-1)^neg × m × 2^e` (05:R104). With `sticky`, the magnitude is more than
`m × 2^e` and less than `(m + 1) × 2^e`, and `m` has more bits than the format's precision. -/
def Fmt.round (t : Fmt) (md : Rnd) (sat neg : Bool) (m : Nat) (e : Int) (sticky : Bool := false) : Nat :=
  if t.tooBig md m e sticky then t.overflow md sat neg
  else
    let top : Int := Nat.log2 m + e - t.f
    let q := if top < t.qmin then t.qmin else top
    t.signed neg ((q - t.qmin).toNat * 2 ^ t.f + roundAt md neg m e sticky q)

/-- An exact signed dyadic `x × 2^e`; a zero takes the sign given. -/
def Fmt.roundInt (t : Fmt) (md : Rnd) (sat : Bool) (zeroNeg : Bool) (x : Int) (e : Int) : Nat :=
  if x = 0 then t.signed zeroNeg 0 else t.round md sat (decide (x < 0)) x.natAbs e

/-- The signed numerator of a number. -/
def sgn (neg : Bool) (m : Nat) : Int := if neg then -(m : Int) else m

/-- `x × 2^ex + y × 2^ey`, exactly. -/
def dyAdd (x : Int) (ex : Int) (y : Int) (ey : Int) : Int × Int :=
  let d := if ex < ey then ex else ey
  (x * 2 ^ (ex - d).toNat + y * 2 ^ (ey - d).toNat, d)

/-- The rounded sum of two finite values (05:R104): an exact zero of unlike signs is +0, or -0 under RD. -/
def Fmt.sum (t : Fmt) (md : Rnd) (n1 : Bool) (m1 : Nat) (e1 : Int) (n2 : Bool) (m2 : Nat) (e2 : Int) : Nat :=
  let (x, e) := dyAdd (sgn n1 m1) e1 (sgn n2 m2) e2
  t.roundInt md false (if n1 = n2 then n1 else md == .rd) x e

/-! ### Arithmetic (05:R108) -/

/-- The pattern with its sign inverted. -/
def Fmt.neg (t : Fmt) (p : Nat) : Nat := if p.testBit (t.e + t.f) then p - 2 ^ (t.e + t.f) else p + 2 ^ (t.e + t.f)

def Fmt.isNan (t : Fmt) (p : Nat) : Bool := t.val p == .nan

def Fmt.add (t : Fmt) (md : Rnd) (a b : Nat) : Nat :=
  match t.val a, t.val b with
  | .nan, _ | _, .nan => t.nan
  | .inf x, .inf y => if x = y then t.infPat x else t.nan
  | .inf x, _ | _, .inf x => t.infPat x
  | .num n1 m1 e1, .num n2 m2 e2 => t.sum md n1 m1 e1 n2 m2 e2

def Fmt.sub (t : Fmt) (md : Rnd) (a b : Nat) : Nat := if t.isNan b then t.nan else t.add md a (t.neg b)

def Fmt.mul (t : Fmt) (md : Rnd) (a b : Nat) : Nat :=
  match t.val a, t.val b with
  | .nan, _ | _, .nan => t.nan
  | .inf x, .inf y => t.infPat (x != y)
  | .inf x, .num y m _ | .num y m _, .inf x => if m = 0 then t.nan else t.infPat (x != y)
  | .num n1 m1 e1, .num n2 m2 e2 => t.roundInt md false (n1 != n2) (sgn (n1 != n2) (m1 * m2)) (e1 + e2)

/-- a × b + c with one rounding. -/
def Fmt.fma (t : Fmt) (md : Rnd) (a b c : Nat) : Nat :=
  match t.val a, t.val b, t.val c with
  | .nan, _, _ | _, .nan, _ | _, _, .nan => t.nan
  | .num n1 m1 e1, .num n2 m2 e2, .num n3 m3 e3 => t.sum md (n1 != n2) (m1 * m2) (e1 + e2) n3 m3 e3
  | .num _ _ _, .num _ _ _, .inf z => t.infPat z
  | .inf x, .num y m _, z | .num y m _, .inf x, z =>
    if m = 0 then t.nan else if z = .inf (x == y) then t.nan else t.infPat (x != y)
  | .inf x, .inf y, z => if z = .inf (x == y) then t.nan else t.infPat (x != y)

/-- The place of a pattern in the order -∞ … -0, +0 … +∞. -/
def Fmt.ordinal (t : Fmt) (p : Nat) : Int :=
  if p.testBit (t.e + t.f) then -1 - ((p % 2 ^ (t.e + t.f) : Nat) : Int) else p

def Fmt.min (t : Fmt) (a b : Nat) : Nat :=
  if t.isNan a then (if t.isNan b then t.nan else b)
  else if t.isNan b then a else if t.ordinal b < t.ordinal a then b else a

def Fmt.max (t : Fmt) (a b : Nat) : Nat :=
  if t.isNan a then (if t.isNan b then t.nan else b)
  else if t.isNan b then a else if t.ordinal a < t.ordinal b then b else a

def Fmt.abs (t : Fmt) (a : Nat) : Nat := if t.isNan a then t.nan else a % 2 ^ (t.e + t.f)

def Fmt.negate (t : Fmt) (a : Nat) : Nat := if t.isNan a then t.nan else t.neg a

/-- Rounded to an integral value of the format (05:R108 RINT). -/
def Fmt.rint (t : Fmt) (md : Rnd) (a : Nat) : Nat :=
  match t.val a with
  | .nan => t.nan
  | .inf _ => a
  | .num n m e => t.roundInt .rne false n (sgn n (roundAt md n m e false 0)) 0

/-- a - floor(a), rounded to nearest (05:R108 FRC). -/
def Fmt.frc (t : Fmt) (a : Nat) : Nat :=
  match t.val a with
  | .nan | .inf _ => t.nan
  | .num n m e => if 0 ≤ e then 0 else t.roundInt .rne false false (sgn n m % 2 ^ (-e).toNat) e

/-- The relations of a compare (05:R109); -0 and +0 compare equal. -/
def Fmt.cmp (t : Fmt) (c : FCond) (a b : Nat) : Bool :=
  let un := t.isNan a || t.isNan b
  let key := fun p => if p % 2 ^ (t.e + t.f) = 0 then 0 else if p.testBit (t.e + t.f) then t.ordinal p + 1 else t.ordinal p
  match c with
  | .eq => !un && key a == key b
  | .ne => un || key a != key b
  | .lt => !un && decide (key a < key b)
  | .le => !un && decide (key a ≤ key b)
  | .gt => !un && decide (key b < key a)
  | .ge => !un && decide (key b ≤ key a)
  | .un => un
  | .ord => !un

/-! ### The function units (05:R110), correctly rounded -/

/-- The integer square root, by bits: `n` is the number of result bits. -/
def isqrt (x : Nat) : Nat → Nat → Nat
  | 0, r => r
  | n + 1, r => if (r + 2 ^ n) * (r + 2 ^ n) ≤ x then isqrt x n (r + 2 ^ n) else isqrt x n r

def Fmt.rcp (t : Fmt) (a : Nat) : Nat :=
  match t.val a with
  | .nan => t.nan
  | .inf n => t.signed n 0
  | .num n m e =>
    if m = 0 then t.infPat n
    else t.round .rne false n (2 ^ 96 / m) (-96 - e) (2 ^ 96 % m != 0)

def Fmt.sqrt (t : Fmt) (a : Nat) : Nat :=
  match t.val a with
  | .nan => t.nan
  | .inf n => if n then t.nan else a
  | .num n m e =>
    if m = 0 then a
    else if n then t.nan
    else
      let x := m * 2 ^ (100 + (e % 2).toNat)
      let r := isqrt x 64 0
      t.round .rne false false r (e / 2 - 50) (r * r != x)

def Fmt.rsq (t : Fmt) (a : Nat) : Nat :=
  match t.val a with
  | .nan => t.nan
  | .inf n => if n then t.nan else 0
  | .num n m e =>
    if m = 0 then t.infPat n
    else if n then t.nan
    else
      let d := m * 2 ^ (e % 2).toNat
      let x := 2 ^ 150 / d
      let r := isqrt x 76 0
      t.round .rne false false r (-(e / 2) - 75) (r * r != x || 2 ^ 150 % d != 0)

/-- ln 2 in units of 2^-200, rounded down. -/
def ln2 : Nat := 0xb17217f7d1cf79abc9e3b39803f2f6af40f343267298b62d8a

/-- The sum of `n` terms of the exponential series in units of 2^-200, from term number `k` of value `term`. -/
def expTerms (x : Nat) : Nat → Nat → Nat → Nat
  | 0, _, _ => 0
  | n + 1, k, term => term + expTerms x n (k + 1) (term * x / 2 ^ 200 / (k + 1))

/-- 2^a (log 12: the series with 60 terms, truncated at 2^-200). -/
def Fmt.ex2 (t : Fmt) (a : Nat) : Nat :=
  match t.val a with
  | .nan => t.nan
  | .inf n => if n then 0 else a
  | .num n m e =>
    let x := sgn n m
    let ip : Int := if 0 ≤ e then x * 2 ^ e.toNat else x / 2 ^ (-e).toNat
    let fr : Nat := if 0 ≤ e then 0 else (x % 2 ^ (-e).toNat).toNat * 2 ^ 200 / 2 ^ (-e).toNat
    let ip := clamp (-1000) 1000 ip
    if fr = 0 then t.round .rne false false 1 ip
    else t.round .rne false false (expTerms (fr * ln2 / 2 ^ 200) 60 0 (2 ^ 200)) (ip - 200) true

/-- The sum of `n` terms `z^(2k+1)/(2k+1)` in units of 2^-200, from `k`, `term` being `z^(2k+1)`. -/
def atanhTerms (zz : Nat) : Nat → Nat → Nat → Nat
  | 0, _, _ => 0
  | n + 1, k, term => term / (2 * k + 1) + atanhTerms zz n (k + 1) (term * zz / 2 ^ 200)

/-- log2 of a (log 12: ln x = 2 atanh((x - 1)/(x + 1)) with 70 terms, truncated at 2^-200). -/
def Fmt.lg2 (t : Fmt) (a : Nat) : Nat :=
  match t.val a with
  | .nan => t.nan
  | .inf n => if n then t.nan else a
  | .num n m e =>
    if m = 0 then t.infPat true
    else if n then t.nan
    else
      let lg := Nat.log2 m
      let one := 2 ^ lg
      if m = one then t.roundInt .rne false false (lg + e) 0
      else
        let z := (m - one) * 2 ^ 200 / (m + one)
        let l : Nat := 2 * atanhTerms (z * z / 2 ^ 200) 70 0 z * 2 ^ 200 / ln2
        let x : Int := (lg + e) * 2 ^ 200 + l
        t.round .rne false (decide (x < 0)) x.natAbs (-200) true

/-! ### Conversions (05:R111-R114) -/

/-- The float formats among the types. -/
def tyFmt : Ty → Option Fmt
  | .f32 => some .f32
  | .f16 => some .f16
  | .bf16 => some .bf16
  | .e4m3 => some .e4m3
  | .e5m2 => some .e5m2
  | _ => none

def ftyFmt : FTy → Fmt
  | .f32 => .f32
  | .f16 => .f16
  | .bf16 => .bf16

/-- A signed integer format. -/
def tySigned : Ty → Bool
  | .s8 | .s16 | .s32 | .s64 => true
  | _ => false

/-- The range of an integer format (05:R101). -/
def tyLo (t : Ty) : Int := if tySigned t then -2 ^ (t.width - 1) else 0

def tyHi (t : Ty) : Int := if tySigned t then 2 ^ (t.width - 1) - 1 else 2 ^ t.width - 1

/-- The integer a register's low bits hold in a format (05:R112). -/
def tyInt (t : Ty) (x : Word) : Int := if tySigned t then sval t.width x else uval t.width x

/-- The register form of an integer result (05:R112): narrow signed values are sign-extended to 32 bits. -/
def tyReg (t : Ty) (x : Int) : Word :=
  if tySigned t && t.width < 32 then red 32 (sval t.width (red t.width x)) else red t.width x

/-- A small constant reads as the number it names in a float format (05:R103, R112). -/
def opndConst : Opnd → Option Int
  | .cst i => some (constInt i)
  | _ => none

/-- The pattern a float operand reads (05:R103). -/
def State.fread (s : State) (G : Gang) (imm : BitVec 16) (o : Opnd) (l : Nat) (t : Fmt) : Nat :=
  match opndConst o with
  | some x => t.roundInt .rne false false x 0
  | none => (s.opnd G imm o l).toNat % 2 ^ t.width

/-- CVT of one operand (05:R112); a float format to itself returns an operand that is not a NaN. -/
def State.convert (s : State) (G : Gang) (o : Opnd) (l : Nat) (m : CvtMod) : Word :=
  match tyFmt m.src, tyFmt m.dst with
  | some fs, some fd =>
    BitVec.ofNat 64 (match fs.val (s.fread G 0 o l fs) with
      | .nan => fd.nan
      | .inf n => if m.src = m.dst then s.fread G 0 o l fs else fd.overflow m.rnd m.sat n
      | .num n x e => fd.roundInt m.rnd m.sat n (sgn n x) e)
  | none, some fd => BitVec.ofNat 64 (fd.roundInt m.rnd m.sat false (tyInt m.src (s.opnd G 0 o l)) 0)
  | some fs, none =>
    match fs.val (s.fread G 0 o l fs) with
    | .nan => 0
    | .inf n => tyReg m.dst (if n then (tyLo m.dst) else (tyHi m.dst))
    | .num n x e => tyReg m.dst (clamp (tyLo m.dst) (tyHi m.dst) (sgn n (roundAt m.rnd n x e false 0)))
  | none, none =>
    let x := tyInt m.src (s.opnd G 0 o l)
    tyReg m.dst (if m.sat then clamp (tyLo m.dst) (tyHi m.dst) x else x)

/-! ### The bit-plane block (05:R102, R117, R118) -/

/-- Byte `i` of a word. -/
def byteOf (x : Word) (i : Nat) : Nat := x.toNat / 256 ^ i % 256

/-- A word of eight bytes, byte 0 lowest. -/
def wordOf (f : Nat → Nat) : Word := BitVec.ofNat 64 (leNat ((List.range 8).map fun i => BitVec.ofNat 8 (f i)))

/-- Byte `n` of the block built from the values `v` (05:R102): bit `k` is bit `7 - j` of value `8 b + k`. -/
def bpByte (v : Nat → Nat) (n : Nat) : Nat := maskNat (fun k => (v (8 * (n % 32) + k)).testBit (7 - n / 32)) 8

/-- The S8 pattern of value `v` of a block read at `p` planes (05:R102): the top `p` bits, and the midpoint below. -/
def bpValue (byte : Nat → Nat) (p v : Nat) : Nat :=
  maskNat (fun k => if 8 - p ≤ k then (byte (32 * (7 - k) + v / 8)).testBit (v % 8) else k + p == 7) 8

/-! ### Meanings -/

/-- One float operand. -/
def unaryF (f : Fmt → Nat → Nat) (g : Guard) (t : FTy) (d : Dest) (a : Opnd) (imm : BitVec 16) (s : State) : Out :=
  s.value g d [a] fun G l => BitVec.ofNat 64 (f (ftyFmt t) (s.fread G imm a l (ftyFmt t)))

/-- Two float operands. -/
def binaryF (f : Fmt → Nat → Nat → Nat) (g : Guard) (t : FTy) (d : Dest) (a b : Opnd) (imm : BitVec 16)
    (s : State) : Out :=
  s.value g d [a, b] fun G l => BitVec.ofNat 64 (f (ftyFmt t) (s.fread G imm a l (ftyFmt t)) (s.fread G imm b l (ftyFmt t)))

/-- ADD of class 1 (05:R108). -/
def execAddF (g : Guard) (t : FTy) (r : Rnd) (d : Dest) (a b : Opnd) (imm : BitVec 16) (s : State) : Out :=
  binaryF (fun f => f.add r) g t d a b imm s

/-- SUB of class 1 (05:R108). -/
def execSubF (g : Guard) (t : FTy) (r : Rnd) (d : Dest) (a b : Opnd) (imm : BitVec 16) (s : State) : Out :=
  binaryF (fun f => f.sub r) g t d a b imm s

/-- MUL of class 1 (05:R108). -/
def execMulF (g : Guard) (t : FTy) (r : Rnd) (d : Dest) (a b : Opnd) (imm : BitVec 16) (s : State) : Out :=
  binaryF (fun f => f.mul r) g t d a b imm s

/-- FMA (05:R108). -/
def execFma (g : Guard) (t : FTy) (r : Rnd) (d : Dest) (a b c : Opnd) (imm : BitVec 16) (s : State) : Out :=
  s.value g d [a, b, c] fun G l =>
    BitVec.ofNat 64 ((ftyFmt t).fma r (s.fread G imm a l (ftyFmt t)) (s.fread G imm b l (ftyFmt t)) (s.fread G imm c l (ftyFmt t)))

/-- MIN of class 1 (05:R108). -/
def execMinF (g : Guard) (t : FTy) (d : Dest) (a b : Opnd) (imm : BitVec 16) (s : State) : Out :=
  binaryF Fmt.min g t d a b imm s

/-- MAX of class 1 (05:R108). -/
def execMaxF (g : Guard) (t : FTy) (d : Dest) (a b : Opnd) (imm : BitVec 16) (s : State) : Out :=
  binaryF Fmt.max g t d a b imm s

/-- ABS of class 1 (05:R108). -/
def execAbsF (g : Guard) (t : FTy) (d : Dest) (a : Opnd) (imm : BitVec 16) (s : State) : Out :=
  unaryF Fmt.abs g t d a imm s

/-- NEG (05:R108). -/
def execNeg (g : Guard) (t : FTy) (d : Dest) (a : Opnd) (imm : BitVec 16) (s : State) : Out :=
  unaryF Fmt.negate g t d a imm s

/-- CMP of class 1 (05:R109). -/
def execCmpF (g : Guard) (t : FTy) (cc : FCond) (pd : BitVec 3) (a b : Opnd) (imm : BitVec 16) (s : State) : Out :=
  s.perLane g [a, b] fun G m =>
    s.done (G.setPreds m pd fun l => (ftyFmt t).cmp cc (s.fread G imm a l (ftyFmt t)) (s.fread G imm b l (ftyFmt t)))

/-- RCP (05:R110). -/
def execRcp (g : Guard) (t : FTy) (d : Dest) (a : Opnd) (imm : BitVec 16) (s : State) : Out :=
  unaryF Fmt.rcp g t d a imm s

/-- RSQ (05:R110). -/
def execRsq (g : Guard) (t : FTy) (d : Dest) (a : Opnd) (imm : BitVec 16) (s : State) : Out :=
  unaryF Fmt.rsq g t d a imm s

/-- SQRT (05:R110). -/
def execSqrt (g : Guard) (t : FTy) (d : Dest) (a : Opnd) (imm : BitVec 16) (s : State) : Out :=
  unaryF Fmt.sqrt g t d a imm s

/-- EX2 (05:R110). -/
def execEx2 (g : Guard) (t : FTy) (d : Dest) (a : Opnd) (imm : BitVec 16) (s : State) : Out :=
  unaryF Fmt.ex2 g t d a imm s

/-- LG2 (05:R110). -/
def execLg2 (g : Guard) (t : FTy) (d : Dest) (a : Opnd) (imm : BitVec 16) (s : State) : Out :=
  unaryF Fmt.lg2 g t d a imm s

/-- RINT (05:R108). -/
def execRint (g : Guard) (t : FTy) (r : Rnd) (d : Dest) (a : Opnd) (imm : BitVec 16) (s : State) : Out :=
  unaryF (fun f => f.rint r) g t d a imm s

/-- FRC (05:R108). -/
def execFrc (g : Guard) (t : FTy) (d : Dest) (a : Opnd) (imm : BitVec 16) (s : State) : Out :=
  unaryF Fmt.frc g t d a imm s

/-- CVT (05:R112). -/
def execCvt (g : Guard) (d : Dest) (a : Opnd) (m : CvtMod) (s : State) : Out :=
  s.value g d [a] fun G l => s.convert G a l m

/-- CVT.X2 (05:R113). -/
def execCvtX2 (g : Guard) (d : Dest) (a b : Opnd) (m : CvtMod) (s : State) : Out :=
  s.value g d [a, b] fun G l =>
    let w := m.dst.width
    BitVec.ofNat 64 (uval w (s.convert G a l m) + uval w (s.convert G b l m) * 2 ^ w)

/-- PACK.B16X2 (05:R116). A small constant reads as its integer pattern here and in the other bit moves (log 57). -/
def execPackB16X2 (g : Guard) (d : Dest) (a b : Opnd) (imm : BitVec 16) (s : State) : Out :=
  s.value g d [a, b] fun G l => BitVec.ofNat 64 (uval 16 (s.opnd G imm a l) + uval 16 (s.opnd G imm b l) * 2 ^ 16)

/-- PACK.B32X2 (05:R116). -/
def execPackB32X2 (g : Guard) (d : Dest) (a b : Opnd) (imm : BitVec 16) (s : State) : Out :=
  s.value g d [a, b] fun G l => BitVec.ofNat 64 (uval 32 (s.opnd G imm a l) + uval 32 (s.opnd G imm b l) * 2 ^ 32)

/-- UNPK.LO16 (05:R116). -/
def execUnpkLo16 (g : Guard) (d : Dest) (a : Opnd) (imm : BitVec 16) (s : State) : Out :=
  s.value g d [a] fun G l => BitVec.ofNat 64 (bits (s.opnd G imm a l) 0 16)

/-- UNPK.HI16 (05:R116). -/
def execUnpkHi16 (g : Guard) (d : Dest) (a : Opnd) (imm : BitVec 16) (s : State) : Out :=
  s.value g d [a] fun G l => BitVec.ofNat 64 (bits (s.opnd G imm a l) 16 16)

/-- UNPK.HI32 (05:R116). -/
def execUnpkHi32 (g : Guard) (d : Dest) (a : Opnd) (imm : BitVec 16) (s : State) : Out :=
  s.value g d [a] fun G l => BitVec.ofNat 64 (bits (s.opnd G imm a l) 32 32)

/-- SWZB (05:R116). -/
def execSwzb (g : Guard) (d : Dest) (a b c : Opnd) (imm : BitVec 16) (s : State) : Out :=
  s.value g d [a, b, c] fun G l =>
    let x := s.opnd G imm a l
    let y := s.opnd G imm b l
    wordOf fun i =>
      let k := byteOf (s.opnd G imm c l) i
      if k ≥ 128 then 0 else if k % 16 < 8 then byteOf x (k % 16) else byteOf y (k % 16 - 8)

/-- BPACK (05:R117). -/
def execBpack (g : Guard) (d : Dest) (a : Opnd) (s : State) : Out :=
  s.perLane g [a] fun G m =>
    let v := fun i => if m.getLsbD (i / 8) then byteOf (s.opnd G 0 a (i / 8)) (i % 8) else 0
    s.done (G.push m d fun l => wordOf fun i => bpByte v (8 * l + i))

/-- BPEXT (05:R118). -/
def execBpext (g : Guard) (d : Dest) (a : Opnd) (p : BitVec 4) (s : State) : Out :=
  s.perLane g [a] fun G m =>
    let v := fun i => if m.getLsbD (i / 8) then byteOf (s.opnd G 0 a (i / 8)) (i % 8) else 0
    s.done (G.push m d fun l => wordOf fun i => bpValue v p.toNat (8 * l + i))

end Sys2Proof.Machine
end

