-- ==== Sys2Proof/Machine/Scratch.lean ====
section
/-! DEFINITION. Scratchpad and course memory (08:R168-R171), with the load comparison of the watermarks (09:R202). -/

namespace Sys2Proof.Machine

open Sys2Proof

/-! ### Allotments -/

/-- Bytes of a brick's allotment; a retired brick has none (02:R39). -/
def Brick.size (b : Brick) : Nat := if b.retired then 0 else 1024 * b.spadk

/-- A byte of the allotment; one that nothing has written is undefined (log 18). -/
def Brick.byte (b : Brick) (off : Nat) : Byte :=
  ((b.spad.find? fun c => c.1 == off).map Prod.snd).getD (Config.freeByte b.serial off)

/-- The granule of a byte has been written (08:R170). -/
def Brick.isWritten (b : Brick) (off : Nat) : Bool := b.written.getLsbD (off / 32)

/-- A byte as the engines read it: zero in a granule that no write has reached (08:R170). -/
def Brick.engByte (b : Brick) (off : Nat) : Byte := if b.isWritten off then b.byte off else 0

def Brick.readN (b : Brick) (off n : Nat) : List Byte := (List.range n).map fun i => b.byte (off + i)

def Brick.engReadN (b : Brick) (off n : Nat) : List Byte := (List.range n).map fun i => b.engByte (off + i)

/-- Bytes written at an offset, with the WRITTEN bits of their granules (08:R170). -/
def Brick.write (b : Brick) (off : Nat) (bs : List Byte) : Brick :=
  if bs.isEmpty then b
  else
    { b with
      spad := (b.spad.filter fun c => decide (c.1 < off)) ++ (bs.mapIdx fun i x => (off + i, x)) ++
        b.spad.filter fun c => decide (off + bs.length ≤ c.1)
      stags := b.stags.filter fun x => !(decide (off ≤ x.off) && decide (x.off + x.len ≤ off + bs.length))
      written := (List.range ((off + bs.length - 1) / 32 - off / 32 + 1)).foldl
        (fun w i => w ||| BitVec.ofNat 16384 (2 ^ (off / 32 + i))) b.written }

/-- Every byte of a range lies in a written granule. -/
def Brick.allWritten (b : Brick) (off n : Nat) : Bool := (List.range n).all fun i => b.isWritten (off + i)

/-- The first uncorrectable scratchpad word of a range (14:R297): its offset. -/
def State.badSpad (s : State) (b : Brick) (off n : Nat) : Option Nat :=
  (s.marks.find? fun m => m.unit == 2 && m.owner == b.serial && decide (4 * m.word < off + n) && decide (off < 4 * m.word + 4)).map
    fun m => 4 * m.word

/-- A write through a brick's allotment; it clears the uncorrectable words it covers. -/
def State.spadWrite (s : State) (k : BKey) (off : Nat) (bs : List Byte) : State :=
  match s.brick? k with
  | none => s
  | some b =>
    { s.setBrick (b.write off bs) with
      marks := s.marks.filter fun m =>
        !(m.unit == 2 && m.owner == b.serial && decide (off ≤ 4 * m.word) && decide (4 * m.word + 4 ≤ off + bs.length)) }

/-! ### The load comparison (09:R202) -/

/-- `held(y, w)`. -/
def Wmark.holds (w : Wmark) (y : Nat) : Bool :=
  if !w.armed || decide (y < w.base.toNat) || decide (w.limit.toNat ≤ y) then false
  else if !w.loop then decide (w.value.toNat ≤ y)
  else
    let n := w.nstg.toNat + 1
    let st := (y - w.base.toNat) / ((w.limit.toNat - w.base.toNat) / n)
    let rel := w.released.toNat
    let lan := w.landed.toNat
    let its := w.iters.toNat
    if (List.range (lan - rel)).any fun i => (rel + i) % n == st then false
    else if lan < its && lan < rel + n && lan % n == st then decide (w.value.toNat ≤ y)
    else (List.range (Nat.min n (its - lan))).any fun i => (lan + i) % n == st

/-- Some byte of a range is held by some watermark of the brick. -/
def Brick.held (b : Brick) (off n : Nat) : Bool :=
  (List.range n).any fun i => b.w.toList.any fun w => w.holds (off + i)

/-- `held(y, w)` for an engine's operation: the gang that issued it has released the byte's stage since, and the refill waits for
the operation's reads (09:R210). -/
def Wmark.holdsFor (w : Wmark) (gid id y : Nat) : Bool :=
  let n := w.nstg.toNat + 1
  let st := (y - w.base.toNat) / ((w.limit.toNat - w.base.toNat) / n)
  let own := w.loop && w.rels.any fun r =>
    r.gid == gid && decide (id < r.upTo) && decide (w.landed.toNat ≤ r.iter) && r.iter % n == st
  !own && w.holds y

/-- Some byte of a range is held for an engine's operation. -/
def Brick.heldFor (b : Brick) (gid id off n : Nat) : Bool :=
  (List.range n).any fun i => b.w.toList.any fun w => w.holdsFor gid id (off + i)

/-- The same, of the watermarks that operations before `id` armed (09:R201). -/
def Brick.heldBefore (b : Brick) (gid id off n : Nat) : Bool :=
  (List.range n).any fun i => b.w.toList.any fun w => decide (w.armer < id) && w.holdsFor gid id (off + i)

/-! ### Addresses (08:R168, R169) -/

/-- The offset of R168. -/
def State.spadX (s : State) (g : Gang) (a : Opnd) (imm : BitVec 24) (l : Nat) : Nat :=
  ((s.opnd g 0 a l).setWidth 32 + imm.signExtend 32).toNat

/-- Where an access goes: the brick and the offset, or the quarantine cause. A misaligned offset is SPAD_ALIGN
whatever else fails. -/
def State.spadPlace (s : State) (g : Gang) (course : Bool) (w x l : Nat) : Except Nat (Brick × Nat) :=
  let ln := g.lane l
  if course then
    let u := x / 2 ^ 19 % 8
    let off := x % 2 ^ 19
    if off % w ≠ 0 then .error 0x05
    else if x / 2 ^ 22 ≠ 0 then .error 0x03
    else match (s.courseOf ln.brick).bind fun c => s.brickU c.key u with
      | some b => if off + w ≤ b.size then .ok (b, off) else .error 0x03
      | none => .error 0x03
  else if x % w ≠ 0 then .error 0x05
  else match s.brick? ln.brick with
    | some b => if x + w ≤ b.size then .ok (b, x) else .error 0x01
    | none => .error 0x01

/-- The lanes struck by a cause leave, the others go on; the instruction is done. -/
def State.doneStruck (s : State) (g : Gang) (bad : List (Nat × Nat)) : Out :=
  if bad.isEmpty then s.done g
  else
    let (s, g) := s.quarantine g bad
    .next (s.leave g (maskOf fun l => bad.any fun x => x.1 == l) Gang.advance)

/-- Values known now that arrive late (04:R81). -/
def State.late (s : State) (g : Gang) (m : Mask) (d : Dest) (f : Nat → Word) : State × Gang :=
  if m = 0 then (s, g.push 0 d f)
  else
    let (id, s) := s.newId
    ({ s with lates := s.lates ++ [⟨id, g.gid, d, m, Vector.ofFn fun i => f i.val, true⟩] }, g.pushPending m d id)

/-- A lane's part of a load: its value, its quarantine cause, or an uncorrectable word. -/
inductive SpadRead
  | value (v : Word)
  | struck (cause : Nat)
  | bad (word : Nat)
deriving DecidableEq, Repr

/-- The read of one lane, once no watermark holds it. -/
def State.spadRead (s : State) (course : Bool) (t : Ty) : Except Nat (Brick × Nat) → SpadRead
  | .error c => .struck c
  | .ok (b, off) =>
    if !b.allWritten off t.bytes then .struck (if course then 0x04 else 0x02)
    else match s.badSpad b off t.bytes with
      | some w => .bad w
      | none => .value (tyReg t (leNat (b.readN off t.bytes)))

/-- A lane's access waits on a watermark. -/
def heldAt (n : Nat) : Except Nat (Brick × Nat) → Bool
  | .ok (b, off) => b.held off n
  | .error _ => false

/-- What a scratchpad store leaves on its bytes for a later FENCE.ACQ (20:R390). -/
def Brick.tag (b : Brick) (off n : Nat) (infos : List RelInfo) : Brick :=
  { b with stags := infos.map (fun x => ⟨off, n, x⟩) ++ b.stags }

/-- A gang's write through a brick's allotment. -/
def State.spadPut (s : State) (k : BKey) (off : Nat) (bs : List Byte) (infos : List RelInfo) : State :=
  let s := s.spadWrite k off bs
  match s.brick? k with
  | none => s
  | some b => s.setBrick (b.tag off bs.length infos)

/-- Scratchpad loads of lanes, each at its place, add to what a later FENCE.ACQ takes over (20:R390). -/
def State.sawSpad (s : State) (g : Gang) (n : Nat) (ps : List (Nat × Except Nat (Brick × Nat))) : Gang :=
  let ts := ps.flatMap fun p => match p.2 with
    | .ok (b, off) => (b.stags.filter fun t => decide (t.off < off + n) && decide (off < t.off + t.len)).map
        fun t => (t.info, [(g.lane p.1).brick])
    | .error _ => []
  { g with seenRel := s.openSeen (g.seenRel ++ ts) }

/-- A place in a brick on another core than the gang's. -/
def Gang.farAt (g : Gang) : Except Nat (Brick × Nat) → Bool
  | .ok (b, _) => b.away g
  | .error _ => false

/-- What a lane's read has got: its value, or the cause that strikes it. -/
def SpadRead.got (l : Nat) : SpadRead → Option (Nat × Nat × Word)
  | .value v => some (l, 0, v)
  | .struck c => some (l, c, 0)
  | .bad _ => none

/-- LDS and LDC (08:R168-R171, R183), after the gang's acquires (20:R385). The watermarks hold the whole instruction (09:R202): until
no acting lane is held at its issue; a lane held where it is reached on another core makes the instruction issue anew. -/
def State.spadLoad (s : State) (course : Bool) (gd : Guard) (t : Ty) (d : Dest) (a : Opnd) (imm : BitVec 24) : Out :=
  s.perLane gd [a] fun g m =>
    let place := fun l => s.spadPlace g course t.bytes (s.spadX g a imm l) l
    match s.lanesNow g m fun l => g.farAt (place l) with
    | none => s.stall g g.wait
    | some ls =>
      let compared := if g.reaching then ls else lanesOf m
      if !g.reaching && m != 0 && !(s.waitsFor g g.after).isEmpty || compared.any fun l => heldAt t.bytes (place l) then s.stall g
      else
        let far := g.goesFar m fun l => g.farAt (place l)
        let had := g.got
        let g := s.sawSpad g t.bytes (ls.map fun l => (l, place l))
        let rs := ls.map fun l => (l, s.spadRead course t (place l))
        match rs.findSome? fun x => match x.2 with
            | .bad w => some w
            | _ => none with
        | some w => .next (s.holdGang g 0x4A (BitVec.ofNat 64 w) false)
        | none =>
          let got := had ++ rs.filterMap fun x => x.2.got x.1
          if far then s.goFar g true got
          else
            let bad := struckOf got
            let (s, g) := s.late g (m &&& ~~~(maskOf fun l => bad.any fun x => x.1 == l)) d (valueOf got)
            s.doneStruck g bad

/-- STS and STC (08:R168-R171, R183): lanes ascending, after the gang's acquires and release fences, and what happens before
it (20:R385, R391). -/
def State.spadStore (s : State) (course : Bool) (gd : Guard) (t : Ty) (a b : Opnd) (imm : BitVec 24) : Out :=
  s.perLane gd [a, b] fun g m =>
    let place := fun l => s.spadPlace g course t.bytes (s.spadX g a imm l) l
    match s.lanesNow g m fun l => g.farAt (place l) with
    | none => s.stall g g.wait
    | some ls =>
      if !g.reaching && m != 0 && !(s.waitsFor g (g.after ++ g.afterSt ++ g.hb)).isEmpty then s.stall g
      else
        let rs := ls.map fun l => (l, place l)
        let got := g.got ++ rs.map fun x => (x.1, match x.2 with
          | .error c => c
          | .ok _ => 0, 0)
        let far := g.goesFar m fun l => g.farAt (place l)
        let s := rs.foldl (fun (st : State) x =>
          match x.2 with
          | .ok (k, off) => st.spadPut k.key off (natLe t.bytes (s.opnd g 0 b x.1).toNat) (s.storeInfo g x.1)
          | .error _ => st) s
        if far then s.goFar g false got else s.doneStruck g (struckOf got)

def execLds (g : Guard) (t : Ty) (d : Dest) (a : Opnd) (imm : BitVec 24) (s : State) : Out := s.spadLoad false g t d a imm

def execSts (g : Guard) (t : Ty) (a b : Opnd) (imm : BitVec 24) (s : State) : Out := s.spadStore false g t a b imm

def execLdc (g : Guard) (t : Ty) (d : Dest) (a : Opnd) (imm : BitVec 24) (s : State) : Out := s.spadLoad true g t d a imm

def execStc (g : Guard) (t : Ty) (a b : Opnd) (imm : BitVec 24) (s : State) : Out := s.spadStore true g t a b imm

end Sys2Proof.Machine
end

