-- ==== Sys2Proof/Machine/Cache.lean ====
section
/-! DEFINITION. The fill of a line that a slice's miss table holds (08:R176; the bookkeeping stands in Ops.lean). -/

namespace Sys2Proof.Machine

open Sys2Proof

/-- SLICE_MISS_FILL (08:R176). -/
def execSliceMissFill (slice line : Nat) (s : State) : Out :=
  if slice < 96 && (vget s.slices slice).misses.contains line then .next (s.slicePut slice line)
  else .refused .cannotOccur

end Sys2Proof.Machine
end

