-- ==== Sys2Proof/Machine/Order.lean ====
section
/-! DEFINITION. The order of writes between footings (20:R387, R389; log 6): each footing's view, epochs and stamps,
writes on their way, what an acquire observes, and the wake of monitors. -/

namespace Sys2Proof.Machine

open Sys2Proof

/-! ### Epochs and stamps (20:R389) -/

/-- How many epochs of footing `g` footing `d` has applied. -/
def State.applied (s : State) (d g : Nat) : Nat :=
  (s.writes.filter fun w => w.src == g && d != g && w.waits.contains d).foldl (fun n w => Nat.min n (w.stamp.getD g 0))
    (vget s.foots g).epoch

/-- The stamp of a write performed now on a footing: how many epochs of each footing must have been applied first. -/
def State.stampOf (s : State) (f : Nat) : List Nat :=
  (List.range 4).map fun g =>
    if g = f then (vget s.foots f).epoch else Nat.max (s.applied f g) (vget (vget s.foots f).observed g)

/-- A footing may apply a write with this stamp. -/
def State.mayApply (s : State) (d : Nat) (stamp : List Nat) : Bool :=
  (List.range 4).all fun g => g == d || decide (stamp.getD g 0 ≤ s.applied d g)

/-- A write by a footing to memory that has one copy comes after the epochs it follows, at every footing
(20:R389, 22:R410). -/
def State.hostReady (s : State) (f pa : Nat) : Bool :=
  s.cachable pa || (List.range 4).all fun d => s.mayApply d (s.stampOf f)

/-- A footing's current epoch ends. -/
def State.endEpoch (s : State) (f : Nat) : State :=
  let x := vget s.foots f
  s.setFoot f { x with epoch := x.epoch + 1, epochAt := s.cycle }

/-- A footing has observed epochs of another one, below `n`. One still open ends there at once, as a footing may end its
epoch at any time: every wait for an epoch then ends (log 6). -/
def State.raise (s : State) (f g n : Nat) : State :=
  if f = g then s
  else
    let s := if (vget s.foots g).epoch < n then s.endEpoch g else s
    let x := vget s.foots f
    s.setFoot f { x with observed := vset x.observed g (Nat.max (vget x.observed g) n) }

/-! ### Writes (20:R387-R389) -/

/-- Who makes a write: the footing it is performed on, the gang (0 for none) and its core (384 for none), the request or engine
operation (0 for none), and what a reader meets. -/
structure Author where
  foot : Nat
  gid : Nat := 0
  core : Nat := 384
  req : Nat := 0
  chain : List RelInfo := []

def overlap (a n b m : Nat) : Bool := decide (a < b + m) && decide (b < a + n)

/-- Tag the bytes a footing's view takes. -/
def State.tagBytes (s : State) (t : WTag) : State :=
  { s with wtags := t :: s.wtags.filter fun x => !(x.foot == t.foot && decide (t.pa ≤ x.pa) &&
      decide (x.pa + x.len ≤ t.pa + t.len)) }

/-- Perform a write on the author's footing: its view at once; the home's when it is the same; the other footings by
REMOTE_WRITE_APPLY. Memory of the host or a peer has one copy, and the write goes out, or the messages `msg` of the operation it
is the outcome of (22:R410). A write of a whole line clears its poison
(14:R297). -/
def State.putWrite (s : State) (a : Author) (part pa : Nat) (bs : List Byte)
    (msg : Option (Nat → List (List Nat)) := none) : State :=
  let home := s.homeFoot part pa
  let epoch := (vget s.foots a.foot).epoch
  let tag : WTag := ⟨a.foot, pa, bs.length, a.foot, epoch, a.chain⟩
  if !s.cachable pa then
    let s := s.tagBytes tag
    match msg with
    | none => s.writeBeyond part pa bs
    | some m => let s := s.putAll pa bs; (m 0).zipIdx.foldl (fun s x => s.goOut (s.linkOf part) pa fun off => (m off).getD x.2 []) s
  else
    let (id, s) := s.newId
    let here := home == a.foot
    let w : RWrite :=
      { id := id, req := if a.req = 0 then id else a.req, gid := a.gid, core := a.core, src := a.foot, home := home, bytes := bs.mapIdx fun i b => (pa + i, b),
        stamp := s.stampOf a.foot, order := if here then some s.orders else none,
        waits := (List.range 4).filter fun f => !(here && f == home), chain := a.chain }
    let s := (s.setMem a.foot ((s.mem a.foot).write pa bs)).tagBytes tag
    let s := { s with writes := s.writes ++ [w], orders := if here then s.orders + 1 else s.orders }
    (s.clean pa bs.length).wakeLines (if here then none else some a.foot) pa bs.length

/-- The bytes of a travelling write, first and last. -/
def RWrite.lo (w : RWrite) : Nat := (w.bytes.map Prod.fst).foldl Nat.min ((w.bytes.head?.map Prod.fst).getD 0)

def RWrite.span (w : RWrite) : Nat := (w.bytes.map Prod.fst).foldl Nat.max 0 + 1 - w.lo

/-- Two travelling writes write a common byte. -/
def RWrite.meets (w x : RWrite) : Bool := w.bytes.any fun b => x.bytes.any fun c => b.1 == c.1

/-- A footing may apply a travelling write now: the home first, and by the stamps (20:R387, R389). -/
def State.canApply (s : State) (w : RWrite) (dst : Nat) : Bool :=
  w.waits.contains dst &&
  match w.order with
  | none => dst == w.home && s.mayApply dst w.stamp && s.room dst w.lo w.span &&
      !(s.writes.any fun x => x.src == w.src && x.order.isNone && decide (x.id < w.id) && x.meets w)
  | some _ => dst == w.src || s.mayApply dst w.stamp

/-- A write that every footing has applied is still of use while one before it in the location order of a common byte
is on its way. -/
def RWrite.useful (ws : List RWrite) (x : RWrite) : Bool :=
  !x.waits.isEmpty || ws.any fun y => !y.waits.isEmpty && x.meets y && match y.order, x.order with
    | some m, some n => decide (m < n)
    | _, _ => false

/-- The cores of a footing where an acquire has read, at another footing's slice, a value that rests on the writes of `req`: once
these come, the acquire makes the plain lines invalid that were filled meanwhile (08:R175, 20:R391). -/
def State.cameFor (s : State) (req dst : Nat) : List Nat :=
  ((s.reqs.filter fun r => footOf r.core == dst && r.needs.contains req).map MemReq.core).eraseDups

/-- A footing applies a travelling write; bytes of its own, and of later ones in the location order that it has
applied, stay (20:R387). -/
def State.applyWrite (s : State) (w : RWrite) (dst : Nat) : State :=
  let n := w.order.getD s.orders
  let newer := s.writes.filter fun x =>
    (x.src == dst || !x.waits.contains dst) && x.id != w.id && x.order.all fun m => decide (n < m)
  let bs := if dst = w.src then []
    else if dst = w.home then w.bytes
    else w.bytes.filter fun b => !(newer.any fun x => x.bytes.any fun c => c.1 == b.1)
  let s := bs.foldl (fun s (b : Nat × Byte) => s.setMem dst ((s.mem dst).write b.1 [b.2])) s
  let s := if bs.isEmpty then s
    else s.tagBytes ⟨dst, w.lo, w.span, w.src, w.stamp.getD w.src 0, w.chain⟩
  let waits := w.waits.filter (· != dst)
  let w' : RWrite := { w with order := some n, waits := waits }
  let ws := s.writes.map fun x => if x.id = w.id then w' else x
  let s := { s with orders := if w.order.isNone then s.orders + 1 else s.orders, writes := ws.filter (RWrite.useful ws) }
  let s := (s.cameFor w.req dst).foldl State.dropPlain s
  if dst = w.home then (s.touch dst w.lo w.span true).wakeLines none w.lo w.span else s

/-- REMOTE_WRITE_APPLY (20:R389). -/
def execRemoteWriteApply (write dst : Nat) (s : State) : Out :=
  match s.writes.find? fun w => w.id == write with
  | some w => if s.canApply w dst then .next (s.applyWrite w dst) else .refused .cannotOccur
  | none => .refused .cannotOccur

/-- EPOCH_END (20:R389): a footing may end its epoch at any time. -/
def execEpochEnd (footing : Nat) (s : State) : Out :=
  if footing < 4 then .next (s.endEpoch footing) else .refused .cannotOccur

/-! ### Reads and what an acquire takes over (20:R387, R390, R391) -/

/-- The tags of the bytes read in a view. -/
def State.tagsAt (s : State) (foot pa n : Nat) : List WTag :=
  s.wtags.filter fun t => t.foot == foot && overlap t.pa t.len pa n

/-- An acquire of device or system scope on a footing observes the writes with these tags (20:R389, R391). -/
def State.observe (s : State) (foot : Nat) (ts : List WTag) : State :=
  ts.foldl (fun s t => s.raise foot t.src (t.epoch + 1)) s

/-- An acquire by lanes of a gang, of origin bricks `bs`, of what has these tags. -/
def State.acquireTags (s : State) (g : Gang) (bs : List BKey) (sc : Scope) (ts : List WTag) : State × Gang :=
  let s := if Scope.far sc then s.observe (footOf g.core) ts else s
  s.acquire g (s.taken g sc ((ts.flatMap WTag.chain).map fun r => (r, bs))) sc

/-- The same of what they read in a view. -/
def State.acquireAt (s : State) (g : Gang) (bs : List BKey) (sc : Scope) (view pa n : Nat) : State × Gang :=
  s.acquireTags g bs sc (s.tagsAt view pa n)

/-- A travelling write has one of these bytes. -/
def RWrite.reaches (w : RWrite) (pa n : Nat) : Bool := w.bytes.any fun b => decide (pa ≤ b.1) && decide (b.1 < pa + n)

/-- What made the travelling writes that a value read at another footing's slice rests on (20:R391). -/
def State.needsAt (s : State) (foot pa n : Nat) : List Nat :=
  (s.writes.filter fun w => w.order.isSome && w.src != foot && w.waits.contains foot && w.reaches pa n).map RWrite.req

/-- What made the travelling writes of observed epochs that a footing has not applied. -/
def State.needsOf (s : State) (foot : Nat) (seen : Vector Nat 4) : List Nat :=
  (s.writes.filter fun w => w.src != foot && w.waits.contains foot && decide (w.stamp.getD w.src 0 < vget seen w.src)).map
    RWrite.req

/-- A gang follows a request or an engine operation. -/
def Gang.follows (g : Gang) (id : Nat) : Bool := g.hb.contains id || g.after.contains id

/-- No write that gangs of a core made at another footing's slice to these bytes, that they follow, or that a value they have
read rests on, is still to reach their footing (20:R384, R387, R391). -/
def State.ownReached (s : State) (core pa n : Nat) : Bool :=
  !(s.writes.any fun w => w.src != footOf core && w.waits.contains (footOf core) && w.reaches pa n &&
    (w.core == core || (s.gangs.any fun g => g.core == core && (g.gid == w.gid || g.follows w.req)) ||
      s.reqs.any fun r => r.core == core && r.needs.contains w.req))

/-- A footing shows all that another one shows, and all that home slices have performed: no read there goes back (20:R387). -/
def State.caughtUp (s : State) (old new : Nat) : Bool :=
  old == new || s.writes.all fun w =>
    w.src == new || !w.waits.contains new || (w.order.isNone && w.src != old && w.waits.contains old)

/-- The writes of a core's footing to these bytes have been performed at their home (20:R384, R387). -/
def State.homeReady (s : State) (core pa n : Nat) : Bool :=
  !(s.writes.any fun w => w.src == footOf core && w.order.isNone && w.reaches pa n)

end Sys2Proof.Machine
end

