-- ==== Sys2Proof/Machine/Spin.lean ====
section
/-! DEFINITION. Spin detection (06:R138): what is kept of the iterations of a backward BRA, and when it parks. -/

namespace Sys2Proof.Machine

open Sys2Proof

/-- The named file and predicates of the lanes of `em`. -/
def Gang.spinRegs (g : Gang) : List (List Word × BitVec 7) :=
  (lanesOf g.em).map fun l => ((g.lane l).n.toList.map NCell.val, (g.lane l).p)

/-- An iteration that opens at this arrival. -/
def Gang.spinOpen (g : Gang) : SpinIter :=
  { positions := [], values := [], clean := true, line := none, regs := g.spinRegs, em := g.em }

/-- An operand byte names `g0` to `g15`: level 11, index 32 to 47 (03:R58). -/
def isGByte (b : BitVec 8) : Bool := decide (0xE0 ≤ b.toNat) && decide (b.toNat ≤ 0xEF)

/-- Special registers whose MOVS ends a spin: `%gtsc`, `%ptp`, `%cycle` and the receive registers (06:R135, R138). -/
def spinMovs (x : Nat) : Bool := x == 0x10 || x == 0x11 || x == 0x15 || decide (0x34 ≤ x)

/-- The instruction may stand in an iteration that spin detection parks (06:R138): no store, atomic, asynchronous,
matrix, sort, message or barrier instruction, no MOVSP, CSRW, CSRX, no MOVS of a changing register, no `g` operand;
PHASE and MIRROR.SYNC are left out with the barriers and the stores (06:R138 names neither; DESIGN CHOICE, log 23). LDS, LDC and MONITOR return values that come from no LD. -/
def spinOk (i : Instr) : Bool :=
  match encodeRaw i with
  | none => true
  | some r =>
    let m := r.maj.toNat
    let gOps := match formOf m with
      | .l => false
      | .k | .e => isGByte r.a || isGByte r.b
      | .v | .p => isGByte r.a || isGByte r.b || isGByte r.c
    !gOps && (decide (m < 0x40) || (decide (0x40 ≤ m) && decide (m ≤ 0x42)) || (decide (0x4B ≤ m) && decide (m ≤ 0x4D))
      || (decide (0xC0 ≤ m) && decide (m ≤ 0xCE)) || m == 0xD7 || (m == 0xE0 && !spinMovs (r.imm.toNat % 1024))
      || m == 0xE2 || m == 0xE5)

/-- A change of every open iteration. -/
def Gang.spinMap (g : Gang) (f : SpinIter → SpinIter) : Gang :=
  { g with spin := g.spin.map fun h => { h with cur := f h.cur } }

/-- The gang issues an instruction. -/
def Gang.spinIssue (g : Gang) (i : Instr) : Gang :=
  g.spinMap fun c => { c with positions := c.positions ++ [(g.pc.toNat, g.pos)], clean := c.clean && spinOk i }

/-- A global load on a physical line. -/
def Gang.spinLoad (g : Gang) (line : Nat) : Gang := g.spinMap fun c => { c with line := some line }

/-- Values returned to the gang, by a load or by anything else. -/
def Gang.spinReturn (g : Gang) (vals : List Nat) (load : Bool) : Gang :=
  g.spinMap fun c => { c with values := c.values ++ vals, clean := c.clean && load }

/-- The iteration that ends at this arrival and the one before it meet the conditions of 06:R138; the line to watch.
Without a global load there is no line, and the gang never parks (the rule gives no fate; DESIGN CHOICE, log 23). -/
def SpinHist.park (h : SpinHist) (g : Gang) : Option Nat :=
  match h.last with
  | none => none
  | some p =>
    if p.clean && h.cur.clean && p.positions == h.cur.positions && p.values == h.cur.values
        && h.cur.em == g.em && h.cur.regs == g.spinRegs then h.cur.line
    else none

/-- A taken arrival at a backward BRA: the history moved on, and the line to park on if spin detection parks. -/
def Gang.spinArrive (g : Gang) : Gang × Option Nat :=
  let key := (g.pc, g.pos)
  match g.spin.find? fun h => h.branch == key with
  | none => ({ g with spin := ⟨key, none, g.spinOpen⟩ :: g.spin }, none)
  | some h =>
    ({ g with spin := g.spin.map fun x => if x.branch == key then ⟨key, some h.cur, g.spinOpen⟩ else x },
     h.park g)

/-- The monitor wait that spin detection enters; every park adds 1 to `%spins` (06:R137, R138). -/
def Gang.spinWait (g : Gang) (line now : Nat) : Gang :=
  { g with spins := g.spins + 1,
           wait := .monitor { line := line, pa := 128 * line, since := now, woken := false, spin := true } }

end Sys2Proof.Machine
end

