-- ==== Sys2Proof/Machine/Memory.lean ====
section
/-! DEFINITION. The global loads, stores, atomics, reductions and fences at their issue (08:R172-R190, 12:R251, R252,
20:R384, R385): addresses, translation, the L1, and what each request follows (log 7). What a slice does is in
Slices.lean. -/

namespace Sys2Proof.Machine

open Sys2Proof

/-! ### The L1 (08:R174, R175) -/

/-- The line of a core's L1, plain or read-only, that serves loads of a physical address: each kind of load hits its own kind
of line alone (08:R174 does not say; DESIGN CHOICE, log 53). -/
def State.l1At (s : State) (core pa : Nat) (ro : Bool) : Option L1Line :=
  s.l1.find? fun x => x.core == core && x.line == pa / 128 && x.ro == ro && !x.old

/-- Bytes of a line. -/
def lineBytes (data : List Byte) (pa n : Nat) : List Byte := (data.drop (pa % 128)).take n

/-- Bytes written into a line. -/
def linePut (data : List Byte) (pa : Nat) (bs : List Byte) : List Byte :=
  data.mapIdx fun i x => if pa % 128 ≤ i then bs.getD (i - pa % 128) x else x

/-- Tags with one more, which takes the place of those it covers. -/
def putTag (ts : List WTag) (t : WTag) : List WTag :=
  t :: ts.filter fun x => !(decide (t.pa ≤ x.pa) && decide (x.pa + x.len ≤ t.pa + t.len))

/-- A store with tag `t` updates the core's plain copy if there is one (08:R175). -/
def State.l1Store (s : State) (core pa : Nat) (bs : List Byte) (t : WTag) : State :=
  { s with l1 := s.l1.map fun x =>
      if x.core == core && x.line == pa / 128 && !x.ro then
        { x with data := linePut x.data pa bs, tags := putTag x.tags t,
                 bad := x.bad.filter fun w => !(decide (pa % 128 ≤ 4 * w) && decide (4 * w + 4 ≤ pa % 128 + bs.length)) }
      else x }

/-- Plain lines of some cores serve no further load of these bytes: a write that a gang there must see has passed them by
(20:R391, R393). -/
def State.l1Pass (s : State) (on : Nat → Bool) (pa n : Nat) : State :=
  { s with l1 := s.l1.map fun x =>
      if !x.ro && on x.core && decide (pa / 128 ≤ x.line) && decide (x.line ≤ (pa + n - 1) / 128) then { x with old := true }
      else x }

/-- The copy that a load of these bytes would be served from holds an uncorrectable word of theirs (14:R297, log 11). -/
def State.l1Bad (s : State) (core pa n : Nat) (ro : Bool) : Bool :=
  (s.l1At core pa ro).any fun x => x.bad.any fun w => decide (4 * w < pa % 128 + n) && decide (pa % 128 < 4 * w + 4)

/-- The line leaves the core's L1. -/
def State.l1Drop (s : State) (core line : Nat) (ro : Bool) : State :=
  { s with l1 := s.l1.filter fun x => !(x.core == core && x.line == line && x.ro == ro) }

/-- A line allocated; beyond 2,048 the oldest line without priority leaves, or the oldest (08:R174, 07:R151; log 8). -/
def State.l1Fill (s : State) (x : L1Line) : State :=
  let mine := s.l1.filter fun y => y.core == x.core
  let out := if mine.length < 2048 then none
    else ((mine.filter fun y => !y.prio).getLast?).or mine.getLast?
  let l := match out with
    | some y => s.l1.erase y
    | none => s.l1
  { s with l1 := x :: l.filter fun y => !(y.core == x.core && y.line == x.line && y.ro == x.ro) }

/-! ### What a request follows (20:R384-R386, R391; log 7) -/

/-- A request whose bytes a slice reads or writes in the order of its arrival there: every write, and a load that
reads at the slice (08:R175). -/
def AccKind.atSlice : AccKind → Bool
  | .load _ (some sc) _ => Scope.wide sc
  | k => AccKind.writes k

/-- An access reaches some byte of the ranges. -/
def MemReq.touches (r : MemReq) (rs : List (Nat × Nat)) : Bool :=
  r.accs.any fun a => !a.done && rs.any fun x => overlap a.pa a.bytes x.1 x.2

/-- A load of a read-only line (08:R174). -/
def AccKind.isRo : AccKind → Bool
  | .load _ _ ro => ro
  | _ => false

/-- A plain store of a core: it updates the L1. -/
def AccKind.stores : AccKind → Bool
  | .store _ | .posted | .storeMc => true
  | _ => false

/-- A request of kind `k` by `g` for these bytes follows `r`: one of its own or one that happens before, or a store that
its core's path has accepted before it. -/
def MemReq.before (r : MemReq) (g : Gang) (k : AccKind) (rs : List (Nat × Nat)) : Bool :=
  !r.performed && r.touches rs &&
    if r.gid == g.gid || g.hb.contains r.id then
      AccKind.atSlice k || !AccKind.stores r.kind || r.gid != g.gid || !r.early
    else AccKind.stores k && r.core == g.core && AccKind.stores r.kind

/-- The release scope of a request. -/
def AccKind.release : AccKind → Option Scope
  | .store r => r
  | .atom _ _ sc o | .red _ _ sc o | .deque _ sc o => if o == .release || o == .acqRel then some sc else none
  | _ => none

/-- The acquire scope of a request. -/
def AccKind.acquire : AccKind → Option Scope
  | .load _ a _ => a
  | .atom _ _ sc o | .deque _ sc o => if o == .acquire || o == .acqRel then some sc else none
  | _ => none

/-- The open requests a release of a scope waits for: all it covers at course scope or wider; at gang or brick scope
all but the stores that the core has accepted, which are performed there once they have updated its L1 (20:R388). -/
def State.coveredAt (s : State) (g : Gang) (sc : Scope) : List Nat :=
  if Scope.wide sc then s.covered g
  else (s.covered g).filter fun id => s.reqs.any fun r => r.id == id && !r.early

/-- The requests that a new request of `g` follows. -/
def State.depsOf (s : State) (g : Gang) (k : AccKind) (rs : List (Nat × Nat)) : List Nat :=
  (s.waitsFor g (g.after ++ (if AccKind.writes k then g.afterSt ++ g.hb else []) ++ match AccKind.release k with
      | some sc => s.coveredAt g sc
      | none => [])
    ++ (s.reqs.filter fun r => r.before g k rs).map MemReq.id).eraseDups

/-! ### Issue -/

/-- The value of a load from its bytes (08:R182). -/
def loadVal (t : Ty) (bs : List Byte) : Word := tyReg t (leNat bs)

/-- The address of a lane (08:R181). -/
def State.vaOf (s : State) (g : Gang) (a : Opnd) (off : BitVec 11) (w l : Nat) : Nat :=
  (((uval 56 (s.opnd g 0 a l) : Int) + off.toInt * w) % 2 ^ 56).toNat

/-- Alignment, then translation of every acting lane's address; `k` takes the lanes with their pages (08:R172,
R178). -/
def State.withPages (s : State) (g : Gang) (m : Mask) (n : Need) (w : Nat) (va : Nat → Nat)
    (k : List (Nat × TlbEntry) → Out) : Out :=
  let bad := maskOf fun l => m.getLsbD l && va l % w != 0
  match lowest bad with
  | some l => s.trap g 0x18 (BitVec.ofNat 64 (va l)) bad
  | none =>
    match s.lookupAll g.core (s.asidOf g.brick.wall) n ((lanesOf m).map va) with
    | .error v => s.askWalk g v n
    | .ok es => k ((lanesOf m).zip es)

/-- One lane's access. -/
def mkAcc (l va pa bytes : Nat) (b c : Word) (mirror : Bool) (page : Nat) : Access :=
  ⟨l, va, pa, bytes, b, c, mirror, page, 0, false, 0, 0, none, []⟩

/-- The accesses of the lanes. -/
def State.accsOf (s : State) (g : Gang) (w : Nat) (va : Nat → Nat) (b c : Opnd) (ps : List (Nat × TlbEntry)) :
    List Access :=
  ps.map fun (l, e) => mkAcc l (va l) (e.phys (footOf g.core) (va l)) w (s.opnd g 0 b l) (s.opnd g 0 c l) e.mirror e.size

/-- A load served by the core's L1 at issue (08:R175); an uncorrectable word is met when it is performed. -/
def State.hit (s : State) (core : Nat) (k : AccKind) (a : Access) : Access :=
  match k with
  | .load t acq ro =>
    if acq.any Scope.wide then a
    else match s.l1At core a.pa ro with
      | some x =>
        if s.l1Bad core a.pa a.bytes ro then a else
        { a with done := true, val := loadVal t (lineBytes x.data a.pa a.bytes) }
      | none => a
  | _ => a

/-- A core accepts a store at its issue: all it follows are stores that the core has accepted, in whose order it updates the L1. -/
def State.accepts (s : State) (core : Nat) (k : AccKind) (deps : List Nat) : Bool :=
  AccKind.stores k && deps.all fun id => s.reqs.any fun r => r.id == id && r.core == core && r.early

/-- The origin brick of a lane of the request (20:R383). -/
def MemReq.at (r : MemReq) (l : Nat) : List BKey := (r.bricks.filter fun x => x.1 == l).map Prod.snd

/-- The tag of a core's store that no slice has performed: its releases, and itself (20:R390, R391). -/
def MemReq.tag (r : MemReq) (l pa n : Nat) : WTag :=
  let f := footOf r.core
  ⟨f, pa, n, f, 0, r.rels.map fun x => ⟨r.gid, r.core, r.at l, x.1, x.2 ++ [r.id]⟩⟩

/-- A request enters: what it follows, the loads that hit the L1, the stores that update it (08:R175). -/
def State.enter (s : State) (g : Gang) (k : AccKind) (d : Dest) (push : Bool) (accs : List Access)
    (extra : List Nat := []) : State × Gang × Nat :=
  let rs := accs.map fun a => (a.pa, a.bytes)
  let deps := (s.depsOf g k rs ++ extra).eraseDups
  let (id, s) := s.newId
  let accs := if deps.isEmpty then accs.map (s.hit g.core k) else accs
  let r : MemReq :=
    { id := id, gid := g.gid, core := g.core, brick := g.brick, bricks := g.laneBricks (maskOf fun l => accs.any fun a => a.lane == l),
      asid := s.asidOf g.brick.wall, kind := k, dest := d, push := push, accs := accs, deps := deps, needs := [],
      rels := if AccKind.writes k then s.relsOf g (AccKind.release k) else [], ended := false, arrived := !push,
      early := s.accepts g.core k deps }
  let s := { s with reqs := s.reqs ++ [r] }
  let s := if r.early then accs.foldl (fun s a => s.l1Store g.core a.pa (natLe a.bytes a.b.toNat) (r.tag a.lane a.pa a.bytes)) s
    else s
  let g := if (AccKind.acquire k).isSome then { g with after := s.openOf g.after ++ [id] } else g
  (s, g, id)

/-- Reads by lanes of origin bricks `bs` of what has these tags, with no acquire of their own, add to what a later FENCE.ACQ takes
over (08:R187): in their footing's view or the L1, or at another footing's slice. -/
def State.sawTags (s : State) (g : Gang) (bs : List BKey) (view pa n : Nat) (ts : List WTag) : Gang :=
  { g with seen := ts.foldl (fun v t => vset v t.src (Nat.max (vget v t.src) (t.epoch + 1))) g.seen,
           seenRel := s.openSeen (g.seenRel ++ (ts.flatMap WTag.chain).map fun r => (r, bs)),
           seenIds := if view = footOf g.core then g.seenIds
             else (s.openOf g.seenIds ++ s.needsAt (footOf g.core) pa n).eraseDups }

def State.sawAt (s : State) (g : Gang) (bs : List BKey) (view pa n : Nat) : Gang :=
  s.sawTags g bs view pa n (s.tagsAt view pa n)

/-- The tags of bytes of the line of a core's L1 that serves their load. -/
def State.hitTags (s : State) (core pa n : Nat) (ro : Bool) : List WTag :=
  ((s.l1At core pa ro).map fun x => x.tags.filter fun t => overlap t.pa t.len pa n).getD []

/-- What the loads served at issue show the gang: an acquire of gang or brick scope, or a plain load. -/
def State.showHits (s : State) (g : Gang) (k : AccKind) (accs : List Access) : State × Gang :=
  (accs.filter Access.done).foldl (fun (x : State × Gang) a =>
    let ts := s.hitTags g.core a.pa a.bytes (k.isRo)
    match AccKind.acquire k with
    | some sc => x.1.acquireTags x.2 [(g.lane a.lane).brick] sc ts
    | none => (x.1, x.1.sawTags x.2 [(g.lane a.lane).brick] (footOf g.core) a.pa a.bytes ts)) (s, g)

/-- A request that pushes late values. -/
def State.request (s : State) (g : Gang) (m : Mask) (k : AccKind) (d : Dest) (push : Bool) (accs : List Access) : Out :=
  let (s, g, id) := s.enter g k d push accs
  let accs := ((s.reqs.find? fun r => r.id == id).map MemReq.accs).getD []
  let (s, g) := s.showHits g k accs
  s.done (if push then g.pushPending m d id else g)

/-- A global load (08:R181, R183). Of lanes that reach several lines, spin detection watches the highest acting lane's (06:R138
does not say which; DESIGN CHOICE, log 23). -/
def State.gload (s : State) (gd : Guard) (t : Ty) (d : Dest) (a : Opnd) (off : BitVec 11) (acq : Option Scope)
    (ro : Bool) : Out :=
  s.perLane gd [a] fun g m =>
    if m = 0 then s.done (g.push 0 d fun _ => 0)
    else
      let va := s.vaOf g a off t.bytes
      s.withPages g m .read t.bytes va fun ps =>
        let accs := s.accsOf g t.bytes va a a ps
        let g := match accs.getLast? with
          | some x => g.spinLoad (x.pa / 128)
          | none => g
        s.request g m (.load t acq ro) d true accs

/-- A global store (08:R181, R183). -/
def State.gstore (s : State) (gd : Guard) (t : Ty) (d : Dest) (a b : Opnd) (off : BitVec 11) (k : AccKind)
    (push : Bool) : Out :=
  s.perLane gd [a, b] fun g m =>
    if m = 0 then s.done (if push then g.push 0 d fun _ => 0 else g)
    else
      let va := s.vaOf g a off t.bytes
      s.withPages g m .write t.bytes va fun ps => s.request g m k d push (s.accsOf g t.bytes va b b ps)

/-- LD (08:R183). -/
def execLd (g : Guard) (t : Ty) (d : Dest) (a : Opnd) (off : BitVec 11) (s : State) : Out := s.gload g t d a off none false

/-- LD.RO (08:R174). -/
def execLdRo (g : Guard) (t : Ty) (d : Dest) (a : Opnd) (off : BitVec 11) (s : State) : Out := s.gload g t d a off none true

/-- LD.ACQ (08:R175, R183). -/
def execLdAcq (g : Guard) (t : Ty) (d : Dest) (a : Opnd) (sc : Scope) (off : BitVec 11) (s : State) : Out :=
  s.gload g t d a off (some sc) false

/-- ST (08:R183). -/
def execSt (g : Guard) (t : Ty) (a b : Opnd) (off : BitVec 11) (s : State) : Out :=
  s.gstore g t .none a b off (.store none) false

/-- ST.REL (08:R183). -/
def execStRel (g : Guard) (t : Ty) (a b : Opnd) (sc : Scope) (off : BitVec 11) (s : State) : Out :=
  s.gstore g t .none a b off (.store (some sc)) false

/-- ST.P (08:R184). -/
def execStP (g : Guard) (t : Ty) (d : Dest) (a b : Opnd) (off : BitVec 11) (s : State) : Out :=
  s.gstore g t d a b off .posted true

/-- The replica of a mirror page's address on a footing (08:R173, 22:R415). -/
def replica (f pa : Nat) : Nat := f * 2 ^ 38 + pa % 2 ^ 38

/-- ST.MC (08:R173): one access for each replica; on another page, as ST. -/
def execStMc (g : Guard) (t : Ty) (a b : Opnd) (off : BitVec 11) (s : State) : Out :=
  s.perLane g [a, b] fun G m =>
    if m = 0 then s.done G
    else
      let va := s.vaOf G a off t.bytes
      s.withPages G m .write t.bytes va fun ps =>
        let accs := (s.accsOf G t.bytes va b b ps).flatMap fun x =>
          if x.mirror then (List.range 4).map fun f => { x with pa := replica f x.pa } else [x]
        s.request G m .storeMc .none false accs

/-- MIRROR.SYNC (08:R185): for each line once, a read of the local replica, then a write to each other one. -/
def execMirrorSync (g : Guard) (a : Opnd) (s : State) : Out :=
  s.perLane g [a] fun G m =>
    if m = 0 then s.done G
    else
      let va := fun l => uval 56 (s.opnd G 0 a l) / 128 * 128
      s.withPages G m .write 128 va fun ps =>
        let foot := footOf G.core
        let lines := ((ps.filter fun x => x.2.mirror).map fun (l, e) => (l, va l, e.phys foot (va l), e.size)).foldl
          (fun (acc : List (Nat × Nat × Nat × Nat)) x =>
            if acc.any fun y => y.2.2.1 == x.2.2.1 then acc else acc ++ [x]) []
        let accs := lines.flatMap fun (l, v, pa, n) =>
          mkAcc l v pa 128 0 0 true n ::
            ((List.range 4).filter fun f => f != foot).map fun f => mkAcc l v (replica f pa) 128 0 0 true n
        if accs.isEmpty then s.done G else s.request G m .mirrorSync .none false accs

/-- An atomic or a reduction (08:R188, 12:R251). -/
def State.gatom (s : State) (gd : Guard) (t : Ty) (d : Dest) (a b c : Opnd) (off : BitVec 11) (k : AccKind)
    (push : Bool) : Out :=
  s.perLane gd [a, b, c] fun g m =>
    if m = 0 then s.done (if push then g.push 0 d fun _ => 0 else g)
    else
      let va := s.vaOf g a off t.bytes
      s.withPages g m .write t.bytes va fun ps => s.request g m k d push (s.accsOf g t.bytes va b c ps)

def execAtomAdd (g : Guard) (t : Ty) (d : Dest) (a b : Opnd) (m : AtMod) (s : State) : Out :=
  s.gatom g t d a b b m.off (.atom .add t m.sc m.ord) true

def execAtomMin (g : Guard) (t : Ty) (d : Dest) (a b : Opnd) (m : AtMod) (s : State) : Out :=
  s.gatom g t d a b b m.off (.atom .min t m.sc m.ord) true

def execAtomMax (g : Guard) (t : Ty) (d : Dest) (a b : Opnd) (m : AtMod) (s : State) : Out :=
  s.gatom g t d a b b m.off (.atom .max t m.sc m.ord) true

def execAtomAnd (g : Guard) (t : Ty) (d : Dest) (a b : Opnd) (m : AtMod) (s : State) : Out :=
  s.gatom g t d a b b m.off (.atom .and t m.sc m.ord) true

def execAtomOr (g : Guard) (t : Ty) (d : Dest) (a b : Opnd) (m : AtMod) (s : State) : Out :=
  s.gatom g t d a b b m.off (.atom .or t m.sc m.ord) true

def execAtomXor (g : Guard) (t : Ty) (d : Dest) (a b : Opnd) (m : AtMod) (s : State) : Out :=
  s.gatom g t d a b b m.off (.atom .xor t m.sc m.ord) true

def execAtomXchg (g : Guard) (t : Ty) (d : Dest) (a b : Opnd) (m : AtMod) (s : State) : Out :=
  s.gatom g t d a b b m.off (.atom .xchg t m.sc m.ord) true

def execAtomCas (g : Guard) (t : Ty) (d : Dest) (a b c : Opnd) (m : AtMod) (s : State) : Out :=
  s.gatom g t d a b c m.off (.atom .cas t m.sc m.ord) true

def execAtomInc (g : Guard) (d : Dest) (a b : Opnd) (m : AtMod) (s : State) : Out :=
  s.gatom g .z32 d a b b m.off (.atom .inc .z32 m.sc m.ord) true

/-- RED.ADD, RED.MIN, RED.MAX (12:R251, R252). -/
def execRedAdd (g : Guard) (t : Ty) (a b : Opnd) (m : AtMod) (s : State) : Out :=
  s.gatom g t .none a b b m.off (.red .add t m.sc m.ord) false

def execRedMin (g : Guard) (t : Ty) (a b : Opnd) (m : AtMod) (s : State) : Out :=
  s.gatom g t .none a b b m.off (.red .min t m.sc m.ord) false

def execRedMax (g : Guard) (t : Ty) (a b : Opnd) (m : AtMod) (s : State) : Out :=
  s.gatom g t .none a b b m.off (.red .max t m.sc m.ord) false

/-- A deque operation (08:R190): the gang stays at the instruction until every lane's operation is performed, since a
held lane holds the gang there. -/
def State.deque (s : State) (gd : Guard) (d : Dest) (a b : Opnd) (k : AccKind) : Out :=
  s.perLane gd [a, b] fun g m =>
    if m = 0 then s.done (g.push 0 d fun _ => 0)
    else
      let va := s.vaOf g a 0 8
      s.withPages g m .write 8 va fun ps =>
        let (s, g, id) := s.enter g k d true ((s.accsOf g 8 va b b ps).map fun x => { x with bytes := 32 })
        .next (s.setGang { g.pushPending m d id with wait := .posted id })

def execAtomPush (g : Guard) (d : Dest) (a b : Opnd) (sc : Scope) (ord : Ord) (s : State) : Out :=
  s.deque g d a b (.deque .push sc ord)

def execAtomPop (g : Guard) (d : Dest) (a : Opnd) (sc : Scope) (ord : Ord) (s : State) : Out :=
  s.deque g d a a (.deque .pop sc ord)

def execAtomSteal (g : Guard) (d : Dest) (a : Opnd) (sc : Scope) (ord : Ord) (s : State) : Out :=
  s.deque g d a a (.deque .steal sc ord)

/-! ### Fences, prefetch, cache control (08:R186, R187) -/

/-- What a fence of the gang's own requests waits for. -/
def State.ownLoads (s : State) (g : Gang) : List Nat :=
  (s.reqs.filter fun r => r.gid == g.gid && !r.performed && !AccKind.stores r.kind).map MemReq.id

/-- A fence enters as a request without bytes. -/
def State.fence (s : State) (g : Gang) (rel acq : Bool) (sc : Scope) (deps : List Nat) : State × Gang :=
  let a := { mkAcc 0 0 0 0 0 0 false 0 with bytes := 0 }
  let (s, g, id) := s.enter g (.fence rel acq sc) .none false [a] deps
  (s, { g with after := if acq then s.openOf g.after ++ [id] else g.after
               afterSt := if rel then s.openOf g.afterSt ++ [id] else g.afterSt
               fences := if rel then (sc, s.relIds g sc) :: g.fences.filter (fun x => x.1 != sc) else g.fences })

/-- FENCE.ACQ (08:R187). -/
def execFenceAcq (g : Guard) (sc : Scope) (s : State) : Out :=
  s.once g [] false fun G _ _ => let (s, G) := s.fence G false true sc (s.ownLoads G); s.done G

/-- FENCE.REL (08:R187). -/
def execFenceRel (g : Guard) (sc : Scope) (s : State) : Out :=
  s.once g [] false fun G _ _ => let (s, G) := s.fence G true false sc (s.coveredAt G sc); s.done G

/-- FENCE.FULL (08:R187). -/
def execFenceFull (g : Guard) (sc : Scope) (s : State) : Out :=
  s.once g [] false fun G _ _ =>
    let (s, G) := s.fence G true true sc ((s.ownLoads G ++ s.coveredAt G sc).eraseDups)
    s.done G

/-- FENCE.ACK (08:R187): every write is acknowledged by its home slice, a posted store by the arrival of its tag. -/
def execFenceAck (g : Guard) (s : State) : Out :=
  s.once g [] false fun G _ _ =>
    if (s.undoneWrites G.gid).isEmpty && s.tagsIn G.gid && s.atHome G.gid then s.done G
    else s.stall G

/-- The pages of a prefetch or a cache operation: a lane whose address does not translate is dropped (08:R178, R186). -/
def State.softPages (s : State) (g : Gang) (m : Mask) (va : Nat → Nat) : List (Nat × TlbEntry) × State :=
  (lanesOf m).foldl (fun (x : List (Nat × TlbEntry) × State) l =>
    match x.2.lookup g.core (s.asidOf g.brick.wall) (va l) .read with
    | some e => (x.1 ++ [(l, e)], x.2)
    | none =>
      match x.2.translate (groupOf g.core) (s.gangPart g) (s.asidOf g.brick.wall) (va l) .read with
      | some (e, s') => (x.1 ++ [(l, e)], s')
      | none => x) ([], s)

/-- One of those pages misses where a walk of it is out already, or where the walker is full: the instruction waits for it
(08:R177). -/
def State.softWaits (s : State) (g : Gang) (m : Mask) (va : Nat → Nat) : Bool :=
  (lanesOf m).any fun l => (s.lookup g.core (s.asidOf g.brick.wall) (va l) .read).isNone &&
    s.walkWaits (groupOf g.core) (s.gangPart g) (s.asidOf g.brick.wall) (va l) .read

/-- PREF (08:R186). -/
def execPref (g : Guard) (a : Opnd) (l2 : Bool) (s : State) : Out :=
  s.perLane g [a] fun G m =>
    let va := fun l => uval 56 (s.opnd G 0 a l) / 128 * 128
    if s.softWaits G m va then s.stall G else
    let (ps, s) := s.softPages G m va
    if ps.isEmpty then s.done G
    else
      let accs := ps.map fun (l, e) => mkAcc l (va l) (e.phys (footOf G.core) (va l)) 128 0 0 e.mirror e.size
      s.request G m (.prefetch l2) .none false accs

/-- CCTL.INV (08:R186). -/
def execCctlInv (g : Guard) (s : State) : Out := s.once g [] false fun G _ _ => (s.dropPlain G.core).done G

/-- CCTL.INVRO (08:R186). -/
def execCctlInvro (g : Guard) (s : State) : Out :=
  s.once g [] false fun G _ _ => ({ s with l1 := s.l1.filter fun x => x.core != G.core || !x.ro } : State).done G

/-- CCTL.LINE (08:R186). -/
def execCctlLine (g : Guard) (a : Opnd) (s : State) : Out :=
  s.perLane g [a] fun G m =>
    let va := fun l => uval 56 (s.opnd G 0 a l)
    if s.softWaits G m va then s.stall G else
    let (ps, s) := s.softPages G m va
    let s := ps.foldl (fun s (l, e) =>
      let line := e.phys (footOf G.core) (va l) / 128
      (s.l1Drop G.core line false).l1Drop G.core line true) s
    s.done G

end Sys2Proof.Machine
end

