-- ==== Sys2Proof/Machine/Slices.lean ====
section
/-! DEFINITION. What the slices do with arriving requests (08:R175, R176, R184, R187-R191, 12:R252, 20:R387-R391,
22:R410, R422), and the arrival of values. -/

namespace Sys2Proof.Machine

open Sys2Proof

/-! ### Where an access is performed (20:R387, 22:R410) -/

/-- An access that the home slice performs, not the one that stands in for it; an ST.MC off a mirror page acts as ST
(08:R173), and a prefetch into the L2 goes to the home slice (08:R186). -/
def AccKind.atHome (k : AccKind) (mirror : Bool) : Bool :=
  match k with
  | .posted | .mirrorSync | .atom .. | .deque .. | .red .. => true
  | .storeMc => mirror
  | .prefetch l2 => l2
  | _ => false

/-- The footing at whose slice an access is performed. -/
def State.accFoot (s : State) (r : MemReq) (a : Access) : Nat :=
  let foot := footOf r.core
  if AccKind.atHome r.kind a.mirror then s.homeFoot (s.partOf foot) a.pa else s.viewFoot (s.partOf foot) foot a.pa

/-- The slice, of 96, that performs an access. -/
def State.accSlice (s : State) (r : MemReq) (a : Access) : Nat := 24 * s.accFoot r a + s.sliceOf (s.accFoot r a) a.pa

/-! ### The computations (08:R189, R190, 12:R252) -/

/-- The new word of an atomic or a reduction. -/
def atomNew (op : AtomOp) (t : Ty) (o b c : Nat) : Nat :=
  let n := 2 ^ t.width
  let b := b % n
  match op with
  | .add =>
    match tyFmt t with
    | some f => f.add .rne o b
    | none => (o + b) % n
  | .min =>
    match tyFmt t with
    | some f => f.min o b
    | none => if tyInt t (BitVec.ofNat 64 b) < tyInt t (BitVec.ofNat 64 o) then b else o
  | .max =>
    match tyFmt t with
    | some f => f.max o b
    | none => if tyInt t (BitVec.ofNat 64 o) < tyInt t (BitVec.ofNat 64 b) then b else o
  | .and => o &&& b
  | .or => o ||| b
  | .xor => o ^^^ b
  | .xchg => b
  | .cas => if o = b then c % n else o
  | .inc => if b ≤ o then 0 else o + 1

/-- The numbers of operations and types in messages to peers and the host (log 25). -/
def AtomOp.code : AtomOp → Nat
  | .add => 0
  | .min => 1
  | .max => 2
  | .and => 3
  | .or => 4
  | .xor => 5
  | .xchg => 6
  | .cas => 7
  | .inc => 8

def atomTy (t : Ty) : Nat := [Ty.z32, .s32, .s64, .f32, .f16, .bf16].idxOf t

/-- What goes out for an atomic (22:R410): to a peer the operation; to the host an AtomicOp for an integer ATOM.ADD, an ATOM.XCHG or
an ATOM.CAS, and a read followed by a write for any other, and for a reduction or a scatter add (`atom` false). -/
def atomOut (peer atom : Bool) (op : AtomOp) (t : Ty) (b c new off : Nat) : List (List Nat) :=
  let native := match op with
    | .add => (tyFmt t).isNone
    | .xchg | .cas => true
    | _ => false
  if peer || atom && native then [[2, off, op.code, atomTy t, b, c]]
  else [[3, off, t.bytes], 1 :: off :: (natLe t.bytes new).map BitVec.toNat]

/-- E of 08:R190. -/
def dequeE : Word := 0x8000_0000_0000_0000

def DequeOp.code : DequeOp → Nat
  | .push => 9
  | .pop => 10
  | .steal => 11

/-- What a deque operation does: E at once, or the ring entry it reaches, whether it writes it, and the descriptor
word it changes. -/
inductive DequePlan
  | fail
  | push (ring : Nat) (bottom : Word) (cnt : Word)
  | pop (ring : Nat) (bottom : Word)
  | steal (ring : Nat) (top : Word)
deriving DecidableEq, Repr

/-- The ring entry that the operation reaches, and what it needs of its page. -/
def DequePlan.ring : DequePlan → Option (Nat × Need)
  | .fail => none
  | .push va _ _ => some (va, .write)
  | .pop va _ | .steal va _ => some (va, .read)

/-- The pseudocode of 08:R190 up to the ring access. A RING that is not aligned to 8 bytes is taken as it is (the rule gives no
fate; DESIGN CHOICE, log 40). -/
def dequePlan (op : DequeOp) (top bottom w2 w3 b : Word) : DequePlan :=
  if bits w2 56 8 ≠ 0 ∨ bits w3 6 58 ≠ 0 ∨ bits w3 0 6 > 32 then .fail
  else
    let cap := 2 ^ bits w3 0 6
    let cnt := bottom - top
    let ring := fun (i : Word) => (bits w2 0 56 + 8 * (i.toNat % cap)) % 2 ^ 56
    match op with
    | .push => if b = dequeE ∨ cnt.toNat = cap then .fail else .push (ring bottom) (bottom + 1) cnt
    | .pop => if cnt = 0 then .fail else .pop (ring (bottom - 1)) (bottom - 1)
    | .steal => if cnt = 0 then .fail else .steal (ring top) (top + 1)

/-! ### Performing an access -/

def State.setReq (s : State) (r : MemReq) : State := { s with reqs := s.reqs.map fun x => if x.id = r.id then r else x }

/-- Finished requests leave: performed, with nothing they rest on to come, and their values delivered. -/
def State.tidy (s : State) : State := { s with reqs := s.reqs.filter fun r => !r.arrived || s.openReq r }

/-- An access's record replaced. -/
def MemReq.setAcc (r : MemReq) (i : Nat) (a : Access) : MemReq := { r with accs := r.accs.set i a }

/-- An access performed with a value, which is sent back behind every reply sent before it. -/
def State.perform (s : State) (r : MemReq) (i : Nat) (a : Access) (v : Word) : State :=
  let (n, s) := s.newId
  s.setReq (r.setAcc i { a with done := true, reply := n, val := v })

/-- A change of the gang of a request, if it is still there. -/
def State.forGang (s : State) (gid : Nat) (f : State → Gang → State × Gang) : State :=
  match s.gang? gid with
  | some g => let (s, g) := f s g; s.setGang g
  | none => s

/-- A store that the core's path has accepted, at its issue or once what it follows was performed. -/
def State.onPath (s : State) (core : Nat) (r : MemReq) : Bool := r.core == core && AccKind.stores r.kind && (r.early || !s.waitsOn r)

/-- The tags of what a line filled now shows: those of the footing's view, and of the core's accepted stores that no slice has
performed. -/
def State.fillTags (s : State) (core view b : Nat) : List WTag :=
  (s.reqs.filter (s.onPath core)).foldl (fun ts r =>
    (r.accs.filter fun a => !a.done && a.pa / 128 == b / 128).foldl (fun ts a => putTag ts (r.tag a.lane a.pa a.bytes)) ts)
    (s.tagsAt view b 128)

/-- What a core's accepted stores that no slice has performed put over bytes read at a slice (20:R384). -/
def State.overlay (s : State) (core pa : Nat) (bs : List Byte) : List Byte :=
  (s.reqs.filter (s.onPath core)).foldl
    (fun bs r => (r.accs.filter fun a => !a.done).foldl (fun bs a =>
      bs.mapIdx fun i x => if a.pa ≤ pa + i ∧ pa + i < a.pa + a.bytes then
        BitVec.ofNat 8 (a.b.toNat / 256 ^ (pa + i - a.pa)) else x) bs) bs

/-- The line of a load filled into the L1 (08:R175), at the replacement priority `prio`. -/
def State.fillLine (s : State) (core asid view pa : Nat) (ro : Bool) (prio : Bool := ro) : State :=
  let b := pa / 128 * 128
  s.l1Fill ⟨core, asid, pa / 128, ro, s.overlay core b ((s.mem view).readN b 128), prio, [], false, s.fillTags core view b⟩

/-- A release of device or system scope ends the footing's epoch, once, when everything it covers is performed
(20:R389). -/
def MemReq.endsEpoch (r : MemReq) : Bool := (AccKind.release r.kind).any Scope.far && !r.ended

/-- What a write by a lane of the request carries (20:R390); an atomic goes on with the releases it has read. -/
def MemReq.chain (s : State) (r : MemReq) (l foot pa n : Nat) : List RelInfo :=
  let old := match r.kind with
    | .atom .. | .red .. | .deque .. => ((s.tagsAt foot pa n).flatMap WTag.chain).filter fun x => x.rel.isSome
    | _ => []
  (r.rels.map fun x => ⟨r.gid, r.core, r.at l, x.1, s.openOf x.2⟩) ++ s.openRels old

/-- The author of a request's write to `n` bytes by a lane. -/
def MemReq.author (s : State) (r : MemReq) (l foot pa n : Nat) : Author :=
  { foot := foot, gid := r.gid, core := r.core, req := r.id, chain := r.chain s l foot pa n }

/-- What an acquire performed now has taken over, `new`, also comes before the gang's accesses that wait for it already: the writes,
the fences, and the loads of the same bytes; and their releases cover it (20:R385, R391). -/
def State.follow (s : State) (r : MemReq) (new : List Nat) : State :=
  let more := fun (x : MemReq) => new.filter fun i => i != x.id &&
    (AccKind.writes x.kind || x.accs.all (fun a => a.bytes == 0) ||
      s.reqs.any fun y => y.id == i && y.touches (x.accs.map fun a => (a.pa, a.bytes)))
  let covers := fun (o : Option Scope) (ids : List Nat) => if o.any Scope.far then ids else (ids ++ new).eraseDups
  { s with reqs := s.reqs.map fun x =>
      if x.gid == r.gid && x.deps.contains r.id && !x.performed then
        { x with deps := (x.deps ++ more x).eraseDups, rels := x.rels.map fun y => (y.1, covers y.1 y.2) }
      else x }

/-- A change of the gang of a request by what it has read, with what follows from it for the accesses that wait for the request. -/
def State.taking (s : State) (r : MemReq) (f : State → Gang → State × Gang) : State :=
  match s.gang? r.gid with
  | none => s
  | some g =>
    let (s, h) := f s g
    let new := h.hb.filter fun i => !g.hb.contains i
    let fences := h.fences.map fun x => (x.1, if x.2.contains r.id then (x.2 ++ new).eraseDups else x.2)
    (s.setGang { h with fences := fences }).follow r new

/-- A load performed: from a line of the L1 that has become valid, or at the slice. -/
def State.doLoad (s : State) (r : MemReq) (i : Nat) (a : Access) (t : Ty) (acq : Option Scope) (ro : Bool)
    (view : Nat) : State :=
  let wide := acq.any Scope.wide
  let part := s.partOf (footOf r.core)
  let s := if wide then s.readOut part a.pa a.bytes
    else if (s.l1At r.core a.pa ro).isSome then s
    else (s.readOut part (a.pa / 128 * 128) 128).fillLine r.core r.asid view a.pa ro
  let bs := match (if wide then none else s.l1At r.core a.pa ro) with
    | some x => lineBytes x.data a.pa a.bytes
    | none => (s.mem view).readN a.pa a.bytes
  let ts := if wide then s.tagsAt view a.pa a.bytes else s.hitTags r.core a.pa a.bytes ro
  let s := s.perform r i a (loadVal t bs)
  s.taking r fun s g =>
    match acq with
    | some sc => s.acquireTags g (r.at a.lane) sc ts
    | none => (s, s.sawTags g (r.at a.lane) view a.pa a.bytes ts)

/-- The messages of an atomic (`atom`), a reduction or a scatter add whose new word is `new`. -/
def State.atomMsg (s : State) (atom : Bool) (pa : Nat) (op : AtomOp) (t : Ty) (b c new : Nat) :
    Option (Nat → List (List Nat)) :=
  some (atomOut (s.portOf pa).isSome atom op t b c new)

/-- The gangs of a core, other than the request's own, follow it (20:R391). -/
def State.followedOn (s : State) (r : MemReq) (core : Nat) : Bool :=
  core != r.core && s.gangs.any fun g => g.core == core && g.follows r.id

/-- A write by a lane performed at a footing's slice, as the outcome of what goes out in its place (22:R410). -/
def State.doWrite (s : State) (r : MemReq) (l foot pa : Nat) (bs : List Byte)
    (msg : Option (Nat → List (List Nat)) := none) : State :=
  let s := (s.l1Pass (s.followedOn r) pa bs.length).putWrite (r.author s l foot pa bs.length) (s.partOf (footOf r.core)) pa bs msg
  let s := s.dirty (24 * foot + s.sliceOf foot pa) (pa / 128)
  s.raise (footOf r.core) foot ((vget s.foots foot).epoch + 1)

/-- A store that the core has not accepted at its issue updates the L1 when it is performed. -/
def State.lateL1 (s : State) (r : MemReq) (l pa : Nat) (bs : List Byte) : State :=
  if r.early then s else s.l1Store r.core pa bs (r.tag l pa bs.length)

/-- The word of a line of `SEQ` that a posted store returns (08:R184). -/
def postTag (seq : BitVec 32) (slice : Nat) : Word :=
  BitVec.ofNat 64 (seq.toNat + 2 ^ 32 * (slice % 24) + 2 ^ 37 * (slice / 24))

/-- What an atomic has read at the home slice: what follows an acquire also waits for the writes its value rests on, and a
relaxed one adds to what a later FENCE.ACQ takes over (20:R390, R391). -/
def State.homeSaw (s : State) (r : MemReq) (l home pa n : Nat) : State :=
  let needs := (s.needsAt (footOf r.core) pa n).filter (· != r.id)
  let s := match s.reqs.find? fun x => x.id == r.id with
    | some x => s.setReq { x with needs := (x.needs ++ needs).eraseDups }
    | none => s
  s.taking r fun s g =>
    match AccKind.acquire r.kind with
    | some sc => s.acquireAt g (r.at l) sc home pa n
    | none => (s, s.sawAt g (r.at l) home pa n)

/-- A read that meets a poisoned line holds its gang (14:R297). -/
def State.doPoison (s : State) (r : MemReq) (i : Nat) (a : Access) (va : Nat) : State :=
  let s := s.setReq (r.setAcc i { a with fault := some (0x4D, BitVec.ofNat 64 va) })
  match s.gang? r.gid with
  | some g => s.reportGang g 0x4D (BitVec.ofNat 64 va) (epcWord g.pc g.pos) false false 0
  | none => s

/-- What a deque operation does at its descriptor's home slice. -/
def State.dequeAt (s : State) (home pa : Nat) (op : DequeOp) (b : Word) : DequePlan :=
  let m := s.mem home
  dequePlan op (m.word pa) (m.word (pa + 8)) (m.word (pa + 16)) (m.word (pa + 24)) b

/-- The physical address of a ring entry for the issuing wall, or the cause that holds the operation (08:R190, 22:R422). -/
def State.ringPage (s : State) (foot asid va : Nat) (n : Need) : Except Nat Nat :=
  let part := s.partOf foot
  if s.walkShut part asid va then .error (s.walkCause part asid va)
  else match (s.walkPage part asid va).filter fun e => e.allows n with
    | none => .error 0x40
    | some e =>
      let pa := e.phys foot va
      if s.portShut pa then .error 0x4E else .ok pa

/-- The walk, the port and the slice of the ring entry that a deque operation reaches do not make it wait (08:R176, R177,
22:R422). -/
def State.ringFree (s : State) (foot asid : Nat) (plan : DequePlan) : Bool :=
  match plan.ring with
  | none => true
  | some (va, n) =>
    !s.walksFull foot && !s.walkHeld (s.partOf foot) asid va && match s.ringPage foot asid va n with
      | .ok pa => !s.portBusy pa && s.missRoom (s.homeFoot (s.partOf foot) pa) pa
      | .error _ => true

def State.ringReady (s : State) (r : MemReq) (a : Access) : Bool :=
  match r.kind with
  | .deque op _ _ => s.ringFree (footOf r.core) r.asid (s.dequeAt (s.accFoot r a) a.pa op a.b)
  | _ => true

/-- The ring entry that a deque operation reaches at `pa` read or written at its home slice (08:R190): the item, and the state. -/
def State.ringTake (s : State) (foot asid va pa : Nat) : Word × State :=
  let part := s.partOf foot
  let f := s.homeFoot part pa
  ((s.mem f).word pa, ((s.walkOut part asid va).touchLine f pa false).readOut part pa 8)

def State.ringPut (s : State) (foot asid va pa : Nat) (b : Word) : State :=
  let part := s.partOf foot
  (s.walkOut part asid va).writeAll part pa (natLe 8 b.toNat)

/-- A deque operation at its descriptor's home slice (08:R190). A poisoned ring entry holds the gang (14:R297). To a peer the
operation goes out, to the host a read followed by a write where it has one (22:R410). -/
def State.doDeque (s : State) (r : MemReq) (i : Nat) (a : Access) (op : DequeOp) (home : Nat) : State :=
  let foot := footOf r.core
  let part := s.partOf foot
  let peer := (s.portOf a.pa).isSome
  let plan := s.dequeAt home a.pa op a.b
  let s := if peer then s else s.readOut part a.pa 32
  let send := fun (s : State) =>
    if peer then s.goOut (s.linkOf part) a.pa fun o => [2, o, op.code, 2, a.b.toNat, r.asid] else s
  let hold := fun (cause va : Nat) =>
    let s := s.setReq (r.setAcc i { a with fault := some (cause, BitVec.ofNat 64 va) })
    match s.gang? r.gid with
    | some g => s.reportGang g cause (BitVec.ofNat 64 va) (epcWord g.pc g.pos) true false 0
    | none => s
  let fin := fun (s : State) (off : Nat) (w v : Word) =>
    let s := (send s).doWrite r a.lane home (a.pa + off) (natLe 8 w.toNat) (if peer then some fun _ => [] else none)
    let s := (s.l1Drop r.core (a.pa / 128) false).perform r i a v
    s.homeSaw r a.lane home a.pa 32
  let take := fun (va off : Nat) (w : Word) =>
    match s.ringPage foot r.asid va .read with
    | .error c => if c = 0x4D then s.doPoison r i a va else hold c va
    | .ok pa =>
      if s.poisoned pa then s.doPoison r i a va
      else
        let (v, s) := s.ringTake foot r.asid va pa
        fin s off w v
  match plan with
  | .fail => (((send s).l1Drop r.core (a.pa / 128) false).perform r i a dequeE).homeSaw r a.lane home a.pa 32
  | .push va bottom cnt =>
    match s.ringPage foot r.asid va .write with
    | .error c => if c = 0x4D then s.doPoison r i a va else hold c va
    | .ok pa => fin (s.ringPut foot r.asid va pa a.b) 8 bottom cnt
  | .pop va bottom => take va 8 bottom
  | .steal va top => take va 0 top

/-- A fence is performed: its epoch ends, its acquire takes effect (08:R175, R187, 20:R389). -/
def State.doFence (s : State) (r : MemReq) (i : Nat) (a : Access) (rel acq : Bool) (sc : Scope) : State :=
  let foot := footOf r.core
  let s := (if rel && Scope.far sc then s.endEpoch foot else s).perform r i a 0
  if !acq then s
  else
    let needs := if Scope.far sc then ((s.gang? r.gid).map Gang.seenIds).getD [] else []
    let s := match s.reqs.find? fun x => x.id == r.id with
      | some x => s.setReq { x with needs := needs }
      | none => s
    s.taking r fun s g =>
      let s := if Scope.far sc then (List.range 4).foldl (fun s f => s.raise foot f (vget g.seen f)) s else s
      s.acquire g (s.taken g sc g.seenRel) sc

/-- A fence of device or system scope with both effects waits until the gang's writes have reached every footing
(20:R402, SB). -/
def State.fenceReady (s : State) (r : MemReq) : Bool :=
  match r.kind with
  | .fence true true sc => !Scope.far sc || s.writes.all fun w => w.gid != r.gid || w.waits.isEmpty
  | _ => true

/-- The accesses of a request that go to one slice are performed in ascending seat lane (08:R188). -/
def State.inTurn (s : State) (r : MemReq) (i : Nat) (a : Access) : Bool :=
  match r.kind with
  | .mirrorSync => i % 4 == 0 || (r.accs[i / 4 * 4]?).any Access.done
  | _ => (r.accs.take i).all fun x => x.done || x.fault.isSome || s.accSlice r x != s.accSlice r a

/-- The rank of a deque operation among those of one cycle: PUSH and POP first, then core, seat, lane (08:R191). -/
def dequeRankOf (op : DequeOp) (core seat lane : Nat) : Nat :=
  lane + 32 * (seat + 16 * (core + 512 * if op = .steal then 1 else 0))

def AccKind.dequeOp : AccKind → DequeOp
  | .deque op _ _ => op
  | _ => .push

def AccKind.isDeque : AccKind → Bool
  | .deque .. => true
  | _ => false

def State.dequeRank (s : State) (r : MemReq) (a : Access) : Nat :=
  dequeRankOf r.kind.dequeOp r.core (((s.gang? r.gid).map Gang.seat).getD 0) a.lane

/-- The cycle, counted from 1, in which an access reaches its slice. -/
def State.arrival (s : State) (a : Access) : Nat := if a.arr = 0 then s.cycle + 1 else a.arr

/-- No deque operation above a rank has been performed in this cycle on the descriptor at `pa`, whose slice is `k` (08:R191). -/
def State.dequeOpen (s : State) (k pa rank : Nat) : Bool :=
  let d := (vget s.slices k).dq
  d.1 != s.cycle || d.2.all fun x => x.1 != pa || decide (x.2 ≤ rank)

/-- A deque operation below a rank that reached the descriptor at `pa` in the cycle `arr` waits there (08:R191). -/
def State.dequeBefore (s : State) (but pa rank arr : Nat) : Bool :=
  s.reqs.any fun x => x.id != but && x.kind.isDeque && x.accs.any fun y =>
    !y.done && y.fault.isNone && y.arr == arr && y.pa == pa && decide (s.dequeRank x y < rank)

/-- No deque operation of a higher rank has been performed on the descriptor in this cycle, and none of a lower rank that reached
the slice with this one waits (08:R191). -/
def State.dequeTurn (s : State) (r : MemReq) (a : Access) : Bool :=
  !r.kind.isDeque || s.dequeOpen (s.accSlice r a) a.pa (s.dequeRank r a) && !s.dequeBefore r.id a.pa (s.dequeRank r a) (s.arrival a)

/-- Deque operations performed in this cycle, with one more (08:R191). -/
def Slice.dequeDone (x : Slice) (now pa rank : Nat) : Slice :=
  { x with dq := (now, (pa, rank) :: if x.dq.1 = now then x.dq.2.filter fun y => y.1 != pa else []) }

/-- A request goes to a slice with one of its core group: itself, or one that the group sent there before it (02:R17). -/
def State.reachesWith (s : State) (r x : MemReq) : Bool :=
  x.id == r.id || decide (x.id < r.id) && groupOf x.core == groupOf r.core && !s.waitsOn x

/-- A request of one core group reaches a slice, and with it those that the group sent there before it (02:R17). -/
def State.reach (s : State) (r : MemReq) (k : Nat) : State :=
  { s with reqs := s.reqs.map fun x =>
      if s.reachesWith r x then
        { x with accs := x.accs.map fun a => if s.accSlice x a = k then { a with arr := s.arrival a } else a }
      else x }

/-- They may reach it in this cycle: no deque operation that comes behind one of them in its order has been performed in it
(08:R191). -/
def State.reachFree (s : State) (r : MemReq) (k : Nat) : Bool :=
  s.reqs.all fun x => !x.kind.isDeque || !s.reachesWith r x || x.accs.all fun a =>
    s.accSlice x a != k || a.arr != 0 || s.dequeOpen k a.pa (s.dequeRank x a)

/-- Accesses to common bytes are performed in the order in which they reached the slice (08:R188). -/
def State.inOrder (s : State) (r : MemReq) (a : Access) : Bool :=
  !(s.reqs.any fun x => x.id != r.id && x.accs.any fun y =>
    !y.done && y.fault.isNone && y.arr != 0 && decide (y.arr < s.arrival a) && overlap y.pa y.bytes a.pa a.bytes)

/-- A core has accepted a store to these bytes that no slice has performed: its L1 may hold it (08:R175, 20:R387). -/
def State.accepted (s : State) (core pa n : Nat) (but : Nat := 0) : Bool :=
  s.reqs.any fun x => x.id != but && s.onPath core x && x.touches [(pa, n)]

/-- The access can be performed at its slice now, but for the line's presence. A read at a slice follows the stores that the
core's own L1 may have shown (20:R387); the core's stores follow one another by `deps`. -/
def State.accReady (s : State) (r : MemReq) (i : Nat) (a : Access) : Bool :=
  !a.done && a.fault.isNone && !s.waitsOn r && s.inTurn r i a && s.inOrder r a && s.dequeTurn r a && s.fenceReady r && s.ringReady r a &&
  (a.arr != 0 || !AccKind.atSlice r.kind || AccKind.stores r.kind || !s.accepted r.core a.pa a.bytes r.id) &&
  (!AccKind.writes r.kind || r.endsEpoch || s.hostReady (footOf r.core) a.pa) &&
  (if r.kind == .prefetch true then true
   else if AccKind.atHome r.kind a.mirror then
     s.homeReady r.core a.pa a.bytes &&
     (r.endsEpoch || s.accFoot r a == footOf r.core || s.mayApply (s.accFoot r a) (s.stampOf (footOf r.core)))
   else match r.kind with
     | .load .. | .prefetch false => s.ownReached r.core (a.pa / 128 * 128) 128
     | _ => true)

/-- An access to the window of a port that is not enabled ends at once (22:R422). Of the lanes that are held, the first goes to
system software. -/
def State.doDown (s : State) (r : MemReq) (i : Nat) (a : Access) (port : Nat) : State :=
  if AccKind.stores r.kind || r.kind == .mirrorSync then
    let s := s.discard port
    let k := s.accSlice r a
    let x := vget s.slices k
    if r.kind = .posted then
      ({ s with slices := vset s.slices k { x with seq := x.seq + 1 } } : State).perform r i a (postTag (x.seq + 1) k)
    else s.perform r i a 0
  else match r.kind with
    | .prefetch _ => s.perform r i a 0
    | _ =>
      let told := r.accs.any fun x => x.fault.any fun y => y.1 == 0x4E
      let s := s.setReq (r.setAcc i { a with fault := some (0x4E, BitVec.ofNat 64 a.va) })
      match (s.gang? r.gid).filter fun _ => !told with
      | some g => s.reportGang g 0x4E (BitVec.ofNat 64 a.va) (epcWord g.pc g.pos) true false 0
      | none => s

/-- The kinds that read the bytes they reach. -/
def AccKind.reads : AccKind → Bool
  | .load .. | .atom .. | .deque .. | .red .. => true
  | _ => false

/-- One access performed at its slice. -/
def State.doAccess (s : State) (r : MemReq) (i : Nat) (a : Access) : State :=
  let f := s.accFoot r a
  match r.kind with
  | .load t acq ro =>
    if !(acq.any Scope.wide) && s.l1Bad r.core a.pa a.bytes ro then s.doPoison r i a a.va else s.doLoad r i a t acq ro f
  | .store _ =>
    let bs := natLe a.bytes a.b.toNat
    ((s.doWrite r a.lane f a.pa bs).lateL1 r a.lane a.pa bs).perform r i a 0
  | .posted =>
    let bs := natLe a.bytes a.b.toNat
    let k := s.accSlice r a
    let x := vget s.slices k
    let s := { s with slices := vset s.slices k { x with seq := x.seq + 1 } }
    ((s.doWrite r a.lane f a.pa bs).lateL1 r a.lane a.pa bs).perform r i a (postTag (x.seq + 1) k)
  | .storeMc =>
    let bs := natLe a.bytes a.b.toNat
    ((s.doWrite r a.lane f a.pa bs).lateL1 r a.lane a.pa bs).perform r i a 0
  | .mirrorSync =>
    if i % 4 = 0 then s.setReq (r.setAcc i { a with done := true, data := (s.mem f).readN a.pa 128 })
    else (s.doWrite r a.lane f a.pa (((r.accs[i / 4 * 4]?).map Access.data).getD [])).perform r i a 0
  | .atom op t _ _ =>
    let o := leNat ((s.mem f).readN a.pa a.bytes)
    let v := atomNew op t o a.b.toNat a.c.toNat
    let s := s.doWrite r a.lane f a.pa (natLe a.bytes v) (s.atomMsg true a.pa op t a.b.toNat a.c.toNat v)
    ((s.l1Drop r.core (a.pa / 128) false).perform r i a (tyReg t o)).homeSaw r a.lane f a.pa a.bytes
  | .red op t _ _ =>
    let o := leNat ((s.mem f).readN a.pa a.bytes)
    let v := atomNew op t o a.b.toNat a.c.toNat
    let s := s.doWrite r a.lane f a.pa (natLe a.bytes v) (s.atomMsg false a.pa op t a.b.toNat a.c.toNat v)
    (s.l1Drop r.core (a.pa / 128) false).perform r i a 0
  | .deque op _ _ =>
    let k := s.accSlice r a
    let x := (vget s.slices k).dequeDone s.cycle a.pa (s.dequeRank r a)
    ({ s with slices := vset s.slices k x } : State).doDeque r i a op f
  | .fence rel acq sc => s.doFence r i a rel acq sc
  | .prefetch l2 =>
    let s := if l2 || (s.l1At r.core a.pa false).isSome || s.poisoned a.pa then s
      else (s.readOut (s.partOf (footOf r.core)) (a.pa / 128 * 128) 128).fillLine r.core r.asid f a.pa false
    s.perform r i a 0
  | .joinc => s.perform r i a 0

/-- The request's release has ended the epoch. -/
def State.endFor (s : State) (r : MemReq) : State := (s.endEpoch (footOf r.core)).setReq { r with ended := true }

/-- An access that has reached its slice: a miss, or the access itself. -/
def State.atSlice (s : State) (r : MemReq) (i : Nat) (a : Access) (new : Bool) : Out :=
  let k := s.accSlice r a
  match (s.portOf a.pa).map fun p => (p, vget s.peers p) with
  | some (p, x) =>
    if !x.enable then .next (s.doDown r i a p).tidy
    else if !x.ready then .refused .cannotOccur
    else .next (s.doAccess r i a).tidy
  | none =>
    if s.holdsLine k (a.pa / 128) then
      if (AccKind.reads r.kind || r.kind == .mirrorSync && i % 4 == 0) && s.poisoned a.pa then .next (s.doPoison r i a a.va)
      else .next (s.doAccess r i a).tidy
    else
      let x := vget s.slices k
      if x.misses.contains (a.pa / 128) then (if new then .next s else .refused .cannotOccur)
      else if x.misses.length ≥ 256 then .refused .cannotOccur
      else .next (s.miss k (a.pa / 128))

/-- An access reaches its slice, once the epoch of a release has ended; a request to a line in the miss table joins its
entry (08:R176). -/
def State.sliceStep (s : State) (r : MemReq) (i : Nat) (a : Access) : Out :=
  let fence := match r.kind with
    | .fence .. => true
    | _ => false
  let k := s.accSlice r a
  if !s.accReady r i a then .refused .cannotOccur
  else if fence then .next (s.doAccess r i a).tidy
  else if r.endsEpoch then .next (s.endFor r)
  else
    if a.arr = 0 && !s.reachFree r k then .refused .cannotOccur else
    let s := s.reach r k
    match s.reqs.find? fun x => x.id == r.id with
    | none => .refused .cannotOccur
    | some x =>
      match x.accs[i]? with
      | none => .refused .cannotOccur
      | some y => s.atSlice x i y (a.arr == 0)

/-- SLICE_ACCESS (08:R188). -/
def execSliceAccess (req entry : Nat) (s : State) : Out :=
  match s.reqs.find? fun r => r.id == req with
  | none => .refused .cannotOccur
  | some r =>
    match r.accs[entry]? with
    | none => .refused .cannotOccur
    | some a => s.sliceStep r entry a

/-! ### Values arrive (04:R81) -/

/-- The value of a lane in a request. -/
def MemReq.value (r : MemReq) (l : Nat) : Word := ((r.accs.find? fun a => a.lane == l).map Access.val).getD 0

/-- The lanes of a request. -/
def MemReq.lanes (r : MemReq) : Mask := maskOf fun l => r.accs.any fun a => a.lane == l

/-- The requests to which a slice sends a value. -/
def AccKind.returns : AccKind → Bool
  | .load .. | .posted | .atom .. | .deque .. => true
  | _ => false

/-- Every reply to `x` was sent before some reply to `r` from the same slice to the same core group: it arrives first
(02:R17). What the L1 served at issue is no reply of a slice. -/
def State.repliesFirst (s : State) (x r : MemReq) : Bool :=
  x.id != r.id && !x.arrived && x.performed && AccKind.returns x.kind && groupOf x.core == groupOf r.core &&
    !x.accs.isEmpty && x.accs.all fun a => a.reply != 0 && r.accs.any fun b => s.accSlice x a == s.accSlice r b && decide (a.reply < b.reply)

/-- LATE_VALUE_ARRIVAL (04:R81, R82): all of a request's values come, and fill the entries that wait for them. -/
def execLateValueArrival (req : Nat) (s : State) : Out :=
  match s.reqs.find? fun r => r.id == req with
  | some r =>
    if r.arrived || !r.performed || AccKind.returns r.kind && s.reqs.any (s.repliesFirst · r) then .refused .cannotOccur
    else
      let load := match r.kind with
        | .load .. => true
        | _ => false
      let s := s.forGang r.gid fun s g =>
        (s, (g.deliver r.id r.value r.lanes).spinReturn (r.accs.map fun a => a.val.toNat) load)
      .next (s.setReq { r with arrived := true }).tidy
  | none =>
    match s.lates.find? fun x => x.id == req with
    | none => .refused .cannotOccur
    | some x =>
      if !x.ready then .refused .cannotOccur
      else
        let s := s.forGang x.gid fun s g =>
          (s, (g.deliver x.id (Lanes.at x.vals) x.lanes).spinReturn
            ((lanesOf x.lanes).map fun l => (Lanes.at x.vals l).toNat) false)
        .next { s with lates := s.lates.filter fun y => y.id != x.id }

end Sys2Proof.Machine
end

