-- ==== Sys2Proof/Machine/Engines.lean ====
section
/-! DEFINITION. What the engines share: their reads and writes of global memory at the slices (08:R177, 09:R204,
12:R248, R259, 18:R367), their holds for system software and their unresolvable faults (14:R294-R297). -/

namespace Sys2Proof.Machine

open Sys2Proof

/-! ### Where an operation's brick is -/

/-- The placement set of a brick. -/
def State.setOfBrick (s : State) (k : BKey) : Option PSet := s.set? k.wall ((s.packet k.wall).setOf (s.coord k))

/-- The brick is on a core with its set resident, so that its engines work (14:R299). -/
def State.working (s : State) (k : BKey) : Bool :=
  (s.brick? k).any (fun b => b.place == .core && !b.retired) && (s.setOfBrick k).all fun p => p.phase == .resident

/-- What a gang's engine operation follows: the gang's earlier writes, its acquires, and what happens before it (09:R204,
20:R391, R393). -/
def State.engDeps (s : State) (g : Gang) : List Nat := (s.undoneWrites g.gid ++ s.openOf (g.after ++ g.hb)).eraseDups

/-! ### Global memory (log 9: an engine's walk ends at once) -/

/-- The outcome of an engine's access: done with a result, not yet possible, a fault with its cause and address, or an
uncorrectable word with its cause (14:R290, R297). -/
inductive EngRes (α : Type)
  | ok (x : α) (s : State)
  | wait
  | fault (cause va : Nat)
  | poison (cause word : Nat)

/-- The physical address of each of `n` bytes from a virtual address, `n` at most a page. -/
def State.engPages (s : State) (core asid va n : Nat) (need : Need) : EngRes (Nat → Nat) :=
  let foot := footOf core
  let failed := fun (va : Nat) =>
    let c := s.walkCause (s.partOf foot) asid va
    if c = 0x4D then EngRes.poison c va else .fault c va
  if s.walkWaits (groupOf core) (s.partOf foot) asid va need then .wait else
  match s.translate (groupOf core) (s.partOf foot) asid va need with
  | none => failed va
  | some (e, s) =>
    let k := 65536 - va % 65536
    if n ≤ k then .ok (fun i => e.phys foot va + i) s
    else
      let vb := (va + k) % 2 ^ 56
      if s.walkWaits (groupOf core) (s.partOf foot) asid vb need then .wait else
      match s.translate (groupOf core) (s.partOf foot) asid vb need with
      | none => failed vb
      | some (e', s) => .ok (fun i => if i < k then e.phys foot va + i else e'.phys foot vb + (i - k)) s

/-- The first byte whose peer port is not enabled, and whether some port is not trained (22:R422). -/
def State.portDown (s : State) (f : Nat → Nat) (n : Nat) : Option Nat :=
  (List.range n).find? fun i => (s.portOf (f i)).any fun p => !(vget s.peers p).enable

def State.portWaits (s : State) (f : Nat → Nat) (n : Nat) : Bool :=
  (List.range n).any fun i => (s.portOf (f i)).any fun p => !(vget s.peers p).ready

/-- The home footing of an engine's access for a core. -/
def State.engHome (s : State) (core pa : Nat) : Nat := s.homeFoot (s.partOf (footOf core)) pa

/-- The core of an engine operation's issuing gang, as records name it (14:R294). -/
def State.coreOf (s : State) (gid : Nat) : Nat := ((s.gang? gid).map Gang.core).getD 0

/-- The home slice can read bytes of a line for a core's engine: the footing's own writes to them have been performed
there, no store that the core's L1 or the issuing gang's may have shown is on its way, and what it reads has reached the footing,
so that no later read there goes back (20:R387). -/
def State.engReadable (s : State) (gid core pa n : Nat) : Bool :=
  s.homeReady core pa n && !s.accepted core pa n && !s.accepted (s.coreOf gid) pa n &&
  (s.needsAt (footOf core) pa n).isEmpty && s.missRoom (s.engHome core pa) pa

/-- What an engine reads or writes of a line for a gang, the plain copies of its core and of the gang's do not serve any more: the
gang's loads after the token must see it, and no later one may see an older value (11:R233, 20:R387, R393). -/
def State.engPass (s : State) (gid core pa n : Nat) : State := s.l1Pass (fun c => c == core || c == s.coreOf gid) pa n

/-- The home slice can write bytes of a line for a core's engine (20:R389). -/
def State.engWritable (s : State) (core pa n : Nat) : Bool :=
  let home := s.engHome core pa
  s.homeReady core pa n && s.hostReady (footOf core) pa && s.missRoom home pa &&
    (home == footOf core || s.mayApply home (s.stampOf (footOf core)))

/-- An engine's read of `n` bytes for the gang `gid`, whose core or brick's core is `core`: at the home slices, after the
gang's writes there (08:R172, 09:R204). -/
def State.engRead (s : State) (gid core asid va n : Nat) (deps : List Nat) : EngRes (List Byte) :=
  if n = 0 then .ok [] s
  else if deps.any s.isOpen || !s.atHome gid then .wait
  else match s.engPages core asid va n .read with
    | .wait => .wait
    | .fault c v => .fault c v
    | .poison c w => .poison c w
    | .ok f s =>
      match s.portDown f n with
      | some i => .fault 0x4E (va + i)
      | none =>
        if s.portWaits f n || !((lineParts va n).all fun p => s.engReadable gid core (f p.1) p.2) then .wait
        else match (lineParts va n).find? fun p => s.poisoned (f p.1) with
          | some p => .poison 0x4D (va + p.1)
          | none =>
            .ok ((List.range n).map fun i => (s.mem (s.engHome core (f i))).read (f i))
              ((lineParts va n).foldl (fun s p =>
                ((s.engPass gid core (f p.1) p.2).touchLine (s.engHome core (f p.1)) (f p.1) false).readOut (s.partOf (footOf core)) (f p.1) p.2) s)

/-- Who an engine writes for: the operation, its gang and the engine's core. -/
structure EngOp where
  id : Nat
  gid : Nat
  core : Nat

/-- The author of an engine's write on a footing: one that is no release (20:R391). -/
def State.engAuthor (s : State) (o : EngOp) (home : Nat) : Author :=
  let info := (s.gang? o.gid).map fun g => (⟨o.gid, o.core, g.origins, none, s.openOf g.hb⟩ : RelInfo)
  { foot := home, gid := o.gid, core := o.core, req := o.id, chain := s.openRels info.toList }

/-- Bytes of one line written by an engine at the home slice. The issuing gang's later accesses follow it: its footing has
observed the write (08:R194, 11:R233, 20:R393). -/
def State.homeWrite (s : State) (o : EngOp) (pa : Nat) (bs : List Byte) (msg : Option (Nat → List (List Nat)) := none) :
    State :=
  let home := s.engHome o.core pa
  let s := (s.putWrite (s.engAuthor o home) (s.partOf (footOf o.core)) pa bs msg).touchLine home pa true
  (s.raise (footOf o.core) home ((vget s.foots home).epoch + 1)).engPass o.gid o.core pa bs.length

/-- An engine's bytes written, line by line, at the places the pages give. -/
def State.putLines (s : State) (o : EngOp) (va : Nat) (f : Nat → Nat) (bs : List Byte) : State :=
  (lineParts va bs.length).foldl (fun s p => s.homeWrite o (f p.1) ((bs.drop p.1).take p.2)) s

/-- The home slices can write `n` bytes for the engine. -/
def State.canPut (s : State) (gid core va n : Nat) (f : Nat → Nat) : Bool :=
  s.atHome gid && !s.portWaits f n && (lineParts va n).all fun p => s.engWritable core (f p.1) p.2

/-- An engine's write. -/
def State.engWrite (s : State) (o : EngOp) (asid va : Nat) (bs : List Byte) (deps : List Nat) : EngRes Unit :=
  if bs.isEmpty then .ok () s
  else if deps.any s.isOpen then .wait
  else match s.engPages o.core asid va bs.length .write with
    | .wait => .wait
    | .fault c v => .fault c v
    | .poison c w => .poison c w
    | .ok f s =>
      match s.portDown f bs.length with
      | some i => .fault 0x4E (va + i)
      | none => if s.canPut o.gid o.core va bs.length f then .ok () (s.putLines o va f bs) else .wait

/-! ### Holds and faults (14:R294, R296, R297) -/

/-- An engine is held for system software: the record names its issuing gang's core and seat; the position it holds is
open (log 3). -/
def State.holdEngine (s : State) (eng : Engine) (gid core asid cause va : Nat) : State :=
  let seat := ((s.gang? gid).map Gang.seat).getD 0
  let (v, s) := s.fresh
  let tval := BitVec.ofNat 64 va
  let s := s.report (s.partOf (footOf core)) (footOf core)
    { cause := cause, replay := true, engine := true, asid := asid, core := core, seat := seat, tval := tval,
      tepc := v &&& 0x3FFF_FFFF_FFFF_FFFF }
  { s with engines := s.engines ++ [⟨eng, asid, core, seat, cause, tval⟩] }

/-- The engine is held. -/
def State.engineHeld (s : State) (eng : Engine) : Bool := s.engines.any fun h => h.eng == eng

/-- The hold of an engine ends. -/
def State.dropEngine (s : State) (e : Engine) : State := { s with engines := s.engines.filter fun h => h.eng != e }

/-- An engine operation ends on an unresolvable fault: PENDFAULT of its gang, LOST when one is pending, or a record
when the gang has retired (14:R296), whose TEPC, for which 14:R294 gives no value then, is 0 (DESIGN CHOICE, log 47). -/
def State.engineFault (s : State) (gid core asid cause : Nat) (tval : Word) : State :=
  match s.gang? gid with
  | some g =>
    if g.live = 0 then
      s.report (s.partOf (footOf core)) (footOf core)
        { cause := cause, engine := true, asid := asid, core := core, seat := g.seat, tval := tval }
    else match g.pendfault with
      | some _ => s.setGang { g with lost := g.lost + 1 }
      | none => s.setGang { g with pendfault := some (cause, tval) }
  | none =>
    s.report (s.partOf (footOf core)) (footOf core)
      { cause := cause, engine := true, asid := asid, core := core, seat := 0, tval := tval }

/-- An engine meets an uncorrectable word: its issuing gang is held (14:R297). The engine waits while another stop holds
the gang. -/
def State.engineError (s : State) (gid cause word : Nat) : Out :=
  match s.gang? gid with
  | some g => if g.hold.isSome then .refused .cannotOccur else .next (s.holdGang g cause (BitVec.ofNat 64 word) false)
  | none => .refused .cannotOccur

/-- The issuing gang is held on a machine error, so that an engine that met an uncorrectable word waits. -/
def State.gangHeld (s : State) (gid : Nat) : Bool :=
  (s.gang? gid).any fun g => g.hold.any fun h => decide (0x48 ≤ h.cause) && decide (h.cause ≤ 0x4D)

end Sys2Proof.Machine
end

