-- ==== Sys2Proof/Machine/Copies.lean ====
section
/-! DEFINITION. Copies, loop copies, watermarks and multicast fills (file 09), with the stream window as their source
(18:R357). -/

namespace Sys2Proof.Machine

open Sys2Proof

/-! ### Watermarks (09:R195, R209-R211) -/

/-- Arm for a plain copy, or for a loop of `iters` iterations over `nstg + 1` stages. -/
def Wmark.arm (w : Wmark) (id base limit : Nat) (loop : Option (Nat × Nat)) : Wmark :=
  let w := { w with armed := true, base := BitVec.ofNat 20 base, limit := BitVec.ofNat 20 limit,
                    value := BitVec.ofNat 20 base, frozen := false, failed := false, late := false,
                    loop := loop.isSome, armer := id, rels := [] }
  match loop with
  | some (n, st) => { w with iters := BitVec.ofNat 20 n, nstg := BitVec.ofNat 4 st, landed := 0, released := 0 }
  | none => w

/-- Word 0 of a watermark. -/
def Wmark.word0 (w : Wmark) : Word :=
  BitVec.ofNat 64 (w.value.toNat + 2 ^ 20 * w.base.toNat + 2 ^ 40 * w.limit.toNat + 2 ^ 60 * bit w.armed
    + 2 ^ 61 * bit w.frozen + 2 ^ 62 * bit w.loop + 2 ^ 63 * bit w.failed)

/-- Word 1 of a watermark. -/
def Wmark.word1 (w : Wmark) : Word :=
  BitVec.ofNat 64 (w.gen.toNat + 2 ^ 16 * w.landed.toNat + 2 ^ 36 * w.released.toNat + 2 ^ 56 * w.nstg.toNat
    + 2 ^ 60 * bit w.late)

/-- A brick's watermark changed. -/
def State.setWmark (s : State) (k : BKey) (i : Nat) (f : Wmark → Wmark) : State :=
  match s.brick? k with
  | some b => s.setBrick { b with w := vset b.w i (f (vget b.w i)) }
  | none => s

def State.wmark (s : State) (k : BKey) (i : Nat) : Wmark :=
  match s.brick? k with
  | some b => vget b.w i
  | none => Wmark.zero

/-- A plain copy on this watermark still lands (09:R200). -/
def Wmark.landing (w : Wmark) : Bool := w.armed && !w.loop && decide (w.value.toNat < w.limit.toNat)

/-- WMARK.REL (09:R210). -/
def execWmarkRel (g : Guard) (w : BitVec 3) (s : State) : Out :=
  s.once g [] false fun G _ l =>
    let k := (G.lane l).brick
    let x := s.wmark k w.toNat
    if !x.loop || x.released == x.iters then s.trapEm G 0x23 0
    else if x.released == x.landed then s.stall G
    else
      let r : Release := ⟨x.released.toNat + x.nstg.toNat + 1, G.gid, s.nextId⟩
      (s.setWmark k w.toNat fun x => { x with released := x.released + 1, rels := x.rels ++ [r] }).done G

/-- WMARK.WAITG (09:R211). -/
def execWmarkWaitg (g : Guard) (w : BitVec 3) (a : Opnd) (s : State) : Out :=
  s.once g [a] false fun G _ l =>
    let x := s.wmark (G.lane l).brick w.toNat
    if (x.gen - (s.opnd G 0 a l).setWidth 16).toNat < 2 ^ 15 then s.done G else s.stall G

/-- WMARK.GET (09:R211). -/
def execWmarkGet (g : Guard) (w : BitVec 3) (s : State) : Out :=
  s.perLane g [] fun G m => s.done (G.push m .none fun l => (s.wmark (G.lane l).brick w.toNat).word0)

/-- WMARK.GEN (09:R211). -/
def execWmarkGen (g : Guard) (w : BitVec 3) (s : State) : Out :=
  s.perLane g [] fun G m => s.done (G.push m .none fun l => (s.wmark (G.lane l).brick w.toNat).word1)

/-! ### Boxes (09:R196-R200) -/

/-- A box with COPYL's fields. -/
structure Box where
  e0 : Nat
  dims : List Dim
  iters : Nat
  nstg : Nat
  step : Int
deriving DecidableEq, Repr

/-- The span of a box that is not empty. -/
def spanFrom (e0 : Nat) (ds : List Dim) : Nat := ds.foldl (fun sp d => if d.e ≥ 1 then d.d * (d.e - 1) + sp else sp) e0

def Box.empty (b : Box) : Bool := b.e0 == 0 || b.dims.any fun d => d.e == 0

def Box.span (b : Box) : Nat := if b.empty then 0 else spanFrom b.e0 b.dims

/-- The rows of a box. -/
def rowsOf (ds : List Dim) : Nat := (ds.map Dim.e).foldl (· * ·) 1

/-- The offset of a row, by a stride of each dimension (09:R197). -/
def rowOff (f : Dim → Int) : List Dim → Nat → Int
  | [], _ => 0
  | d :: ds, r => f d * (r % d.e : Nat) + rowOff f ds (r / d.e)

/-- The two words of an outer dimension; none where a reserved field is nonzero or the stride is below the span. -/
def dimOf (span : Nat) (w0 w1 : Word) : Option Dim :=
  let d : Dim := ⟨bits w0 0 24, bits w0 24 20, (w1.setWidth 56).toInt⟩
  if bits w0 44 20 ≠ 0 ∨ bits w1 56 8 ≠ 0 ∨ (d.e ≥ 2 ∧ d.d < span) then none else some d

/-- The outer dimensions from their words. -/
def dimsOf (span : Nat) : List Word → Option (List Dim)
  | w0 :: w1 :: r =>
    match dimOf span w0 w1 with
    | none => none
    | some d => (dimsOf (if d.e ≥ 1 then d.d * (d.e - 1) + span else span) r).map (d :: ·)
  | _ => some []

/-- A descriptor's words checked (09:R199, R200). -/
def boxOf (loop : Bool) (ws : List Word) : Option Box :=
  let w0 := ws.getD 0 0
  let w1 := ws.getD 1 0
  let e0 := bits w0 0 20
  let iters := bits w1 0 20
  let ok := bits w0 20 44 == 0 && bits w1 24 8 == 0 && decide (e0 ≤ 524288) &&
    (if loop then iters != 0 else w1 == 0)
  if !ok then none
  else (dimsOf e0 (ws.drop 2)).map fun ds => ⟨e0, ds, iters, bits w1 20 4, (w1.extractLsb' 32 32).toInt⟩

/-- A descriptor of `n` bytes at an operand's offset can be read (09:R200). -/
def Brick.descOk (b : Brick) (bv : Word) (n : Nat) : Bool :=
  let off := bits bv 0 19
  bits bv 19 45 == 0 && off % 8 == 0 && decide (off + n ≤ b.size) && b.allWritten off n

/-- Words of a brick's allotment. -/
def Brick.words (b : Brick) (off n : Nat) : List Word :=
  (List.range n).map fun i => BitVec.ofNat 64 (leNat (b.readN (off + 8 * i) 8))

/-- The box of a copy from operand B (09:R198): the box, or the offset a COPY_DESC reports. -/
def Brick.boxAt (b : Brick) (loop : Bool) (n : Nat) (av bv : Word) : Except Word Box :=
  if n = 1 ∧ !loop then
    if bits bv 20 44 ≠ 0 ∨ bits bv 0 20 > 524288 then .error av else .ok ⟨bits bv 0 20, [], 0, 0, 0⟩
  else
    let off := bits bv 0 19
    if !b.descOk bv (16 * n) then .error (BitVec.ofNat 64 off)
    else match boxOf loop (b.words off (2 * n)) with
      | some x => .ok x
      | none => .error (BitVec.ofNat 64 off)

/-! ### Sources (09:R201, 18:R357) -/

/-- A byte of course memory exists (08:R169). -/
def State.courseByte (s : State) (c : CKey) (x : Int) : Bool :=
  decide (0 ≤ x) && decide (x < 2 ^ 22) &&
    (s.brickU c (x.toNat / 2 ^ 19)).any fun b => decide (x.toNat % 2 ^ 19 < b.size)

/-- A stream's page bytes and slots (18:R347). -/
def Stream.pageBytes (x : Stream) : Nat := 32 * bits x.cfg0 32 7 * bits x.cfg0 24 8

def Stream.nslot (x : Stream) : Nat := bits x.cfg0 44 8 + 1

/-- The page of entry `i` of PT or SPT, when it is valid. -/
def entryOf (l : List PtEntry) (i : Nat) : Option Nat :=
  match l[i]? with
  | some e => if e.valid then some e.page else none
  | none => none

/-- Where an offset in a stream's window lies (18:R357): outside, in an entry that is not valid, or at a virtual
address. -/
inductive WinByte
  | outside
  | zero
  | at (va : Nat)
deriving DecidableEq, Repr

def State.windowByte (s : State) (stream asid : Nat) (o : Int) : WinByte :=
  match s.stream? stream with
  | none => .outside
  | some x =>
    let pb := x.pageBytes
    if x.asid ≠ asid ∨ o < 0 then .outside
    else
      let o := o.toNat
      let entry := if o < x.nslot * pb then some (entryOf x.pt (o / pb))
        else if 256 * pb ≤ o ∧ o < 272 * pb then some (entryOf x.spt (o / pb - 256))
        else none
      match entry with
      | none => .outside
      | some none => .zero
      | some (some page) => .at ((s.sys.poolva + 16384 * page + o % pb) % 2 ^ 56)

/-- Every byte of a box's rows, over the iterations of a loop. -/
def Box.allBytes (x : Box) (f : Int → Bool) : Bool :=
  x.empty || (List.range (Nat.max x.iters 1)).all fun i => (List.range (rowsOf x.dims)).all fun r =>
    (List.range x.e0).all fun e => f (x.step * i + rowOff Dim.s x.dims r + e)

/-- The source of a copy is in range (09:R200, 18:R357). -/
def State.sourceOk (s : State) (b : Brick) (sp : CopySpace) (av : Word) (x : Box) : Bool :=
  match sp with
  | .global => true
  | .course => x.allBytes fun o => s.courseByte ⟨b.key.wall, b.course⟩ (bits av 0 22 + o)
  | .window =>
    (s.stream? (bits av 0 18)).any (fun st => st.asid == s.asidOf b.key.wall) &&
    x.allBytes fun o => s.windowByte (bits av 0 18) (s.asidOf b.key.wall) (bits av 32 32 + o) != .outside

/-! ### Issue (09:R196-R205, R213) -/

/-- `span` rounded up to whole granules (09:R209). -/
def stageSize (span : Nat) : Nat := (span + 31) / 32 * 32

def CopyOp.isEmpty (c : CopyOp) : Bool := c.e0 == 0 || c.dims.any fun d => d.e == 0

/-- The landing of a copy, or of an iteration of it, starts at this destination offset. -/
def CopyOp.start (c : CopyOp) : Nat :=
  c.base + (if c.loop then c.iter % (c.nstg + 1) * stageSize (if c.isEmpty then 0 else spanFrom c.e0 c.dims) else 0)

def CopyOp.dst (c : CopyOp) (row x : Nat) : Nat := ((c.start : Int) + rowOff (fun d => d.d) c.dims row + x).toNat

/-- The copies, loop copies and fills of a core in flight (09:R200); those of a halted set are not (14:R300). -/
def State.copiesOn (s : State) (core : Nat) : Nat :=
  (s.copies.filter fun c => c.core == core && !c.finished && s.working c.brick).length

/-- An earlier copy or gather of the brick runs. -/
def State.olderRuns (s : State) (k : BKey) (id : Nat) : Bool :=
  (s.copies.any fun d => d.brick == k && !d.finished && decide (d.id < id)) ||
    s.idxops.any fun d => d.gather && d.brick == k && !d.finished && decide (d.id < id)

/-- Finished copies and gathers leave once no earlier one of their brick runs (09:R203). -/
def State.tidyCopies (s : State) : State :=
  { s with fills := s.fills.filter fun x => s.copies.any fun c => c.fill == x.id && !c.finished
           copies := s.copies.filter fun c => !c.finished || s.olderRuns c.brick c.id
           idxops := s.idxops.filter fun c => !c.finished || c.gather && s.olderRuns c.brick c.id }

/-- A copy ends: its record and its token. -/
def State.endCopy (s : State) (c : CopyOp) : State :=
  ({ s with copies := s.copies.map fun x => if x.id = c.id then { c with finished := true } else x } : State).tidyCopies.complete
    c.gid c.tok

/-- A plain copy or a fill completes: VALUE at END, GEN and the token in one step (09:R205). -/
def State.completeCopy (s : State) (c : CopyOp) : State :=
  (s.setWmark c.brick c.w fun w => { w with value := w.limit, gen := w.gen + 1 }).endCopy
    { c with row := rowsOf c.dims, x := 0 }

/-- The brick is enrolled in a group of its footing (09:R212). -/
def State.enrolled (s : State) (b : Brick) (grp : Nat) : Bool :=
  (vget (vget s.foots (footOf b.core)).mc grp).members.contains b.key

/-- The empty iterations at the head of a loop land at once, as far as the ring allows (09:R209). -/
def State.landEmpty (s : State) (c : CopyOp) : Nat → State × CopyOp
  | 0 => (s, c)
  | n + 1 =>
    let w := s.wmark c.brick c.w
    if !c.isEmpty || !decide (c.iter < w.released.toNat + c.nstg + 1) then (s, c)
    else
      let c := { c with iter := c.iter + 1 }
      let s := s.setWmark c.brick c.w fun w =>
        { w with landed := w.landed + 1, gen := w.gen + 1,
                 value := if c.iter = c.iters then w.limit else BitVec.ofNat 20 c.start }
      if c.iter = c.iters then (s.endCopy c, c) else s.landEmpty c n

/-- A copy enters its pipe: armed, and complete at once when its box is empty (09:R196, R205). -/
def State.startCopy (s : State) (g : Gang) (b : Brick) (tok : Tok) (w : Nat) (sp : CopySpace) (av : Word) (base : Nat)
    (x : Box) (loop : Bool) (grp : Option Nat) : State :=
  let (id, s) := s.newId
  let c : CopyOp :=
    { id := id, gid := g.gid, core := g.core, tok := tok, brick := b.key, w := w, space := sp,
      asid := s.asidOf b.key.wall, src := av, base := base, e0 := x.e0, dims := x.dims, loop := loop, iters := x.iters,
      nstg := x.nstg, step := x.step, row := 0, x := 0, iter := 0, frozen := none, deps := s.engDeps g,
      waiting := grp.isSome && !x.empty, fill := 0, finished := false }
  let limit := if loop then base + (x.nstg + 1) * stageSize x.span else base + x.span
  let s := s.setWmark b.key w fun y => y.arm id base limit (if loop then some (x.iters, x.nstg) else none)
  let s := { s with copies := s.copies ++ [c] }
  if x.empty then
    if !loop then s.completeCopy c
    else
      let (s, c) := s.landEmpty c (x.nstg + 1)
      if c.iter = c.iters then s else { s with copies := s.copies.map fun y => if y.id = c.id then c else y }
  else match grp with
    | some n =>
      { s with mcreqs := s.mcreqs ++ [⟨id, false, b.key, n, (BitVec.ofNat 64 (bits av 0 56), x.e0, x.dims.map fun d => (d.e, d.s))⟩] }
    | none => s

/-- COPY, COPYL and MC.LD: the checks of 09:R200 in order, MC_GROUP (09:R213) as the last of them (no rule ranks it; DESIGN CHOICE,
log 15), then the interlocks, then the arming. An uncorrectable word of a descriptor is met once the descriptor can be read,
before its fields are checked (DESIGN CHOICE, log 11). -/
def State.copyOp (s : State) (gd : Guard) (tok : Tok) (w : Nat) (sp : CopySpace) (dims : Nat) (a b : Opnd) (base : Nat)
    (loop : Bool) (grp : Option Nat) : Out :=
  s.once gd [a, b] false fun g _ l =>
    match s.brick? (g.lane l).brick with
    | none => s.done g
    | some bk =>
      let av := s.opnd g 0 a l
      let bv := s.opnd g 0 b l
      let n := dims + 1
      match (if n = 1 ∧ !loop ∨ !bk.descOk bv (16 * n) then none else s.badSpad bk (bits bv 0 19) (16 * n)) with
      | some word => .next (s.holdGang g 0x4A (BitVec.ofNat 64 word) false)
      | none =>
        match bk.boxAt loop n av bv with
        | .error v => s.trapEm g 0x20 v
        | .ok x =>
          let size := if loop then (x.nstg + 1) * stageSize x.span else x.span
          let m := s.wmark bk.key w
          if bk.size < base + size ∨ ((loop ∨ grp.isSome) ∧ base % 32 ≠ 0) ∨ !s.sourceOk bk sp av x then
            s.trapEm g 0x21 av
          else if m.loop && decide (m.landed.toNat < m.iters.toNat) then s.trapEm g 0x22 av
          else if grp.any fun n => !s.enrolled bk n then s.trapEm g 0x24 av
          else if m.landing || s.copiesOn g.core ≥ 32 || g.tokFull tok then s.stall g
          else
            let g := g.arm tok
            let s := (s.setGang g).startCopy g bk tok w sp av base x loop grp
            s.done ((s.gang? g.gid).getD g)

/-- COPY (09:R196-R205). -/
def execCopy (g : Guard) (tok : Tok) (w : BitVec 3) (sp : CopySpace) (dims : BitVec 4) (a b : Opnd) (base : BitVec 19)
    (s : State) : Out :=
  s.copyOp g tok w.toNat sp dims.toNat a b base.toNat false none

/-- COPYL (09:R209). -/
def execCopyl (g : Guard) (tok : Tok) (w : BitVec 3) (sp : CopySpace) (dims : BitVec 4) (a b : Opnd) (base : BitVec 19)
    (s : State) : Out :=
  s.copyOp g tok w.toNat sp dims.toNat a b base.toNat true none

/-- MC.LD (09:R213). -/
def execMcLd (g : Guard) (tok : Tok) (w : BitVec 3) (dims : BitVec 4) (a b : Opnd) (base : BitVec 14) (grp : BitVec 6)
    (s : State) : Out :=
  s.copyOp g tok w.toNat .global dims.toNat a b (32 * base.toNat) false (some grp.toNat)

/-! ### Landing (09:R197, R203, R206, R209) -/

/-- A copy has landed a byte of the allotment. -/
def CopyOp.hasLanded (c : CopyOp) (y : Nat) : Bool :=
  let inBox := fun (i rows : Nat) (x : Nat) =>
    let c' := { c with iter := i }
    (List.range rows).any (fun r => decide (c'.dst r 0 ≤ y) && decide (y < c'.dst r 0 + c.e0)) ||
      (decide (c'.dst rows 0 ≤ y) && decide (y < c'.dst rows 0 + x))
  if c.isEmpty || c.waiting then false
  else if !c.loop then inBox 0 c.row c.x
  else ((List.range (Nat.min c.iter (c.nstg + 1))).any fun i => inBox i (rowsOf c.dims) 0) ||
    (c.iter != c.iters && inBox c.iter c.row c.x)

/-- A gather has landed a byte of the allotment. -/
def IdxOp.hasLanded (c : IdxOp) (y : Nat) : Bool :=
  c.gather && decide (c.base ≤ y) && decide (y < c.base + c.landed) &&
    c.read.any fun r => !(r.2.getD ((y - c.base) / c.t.bytes) false)

/-- Bytes landed by operation `id` of a brick, but those a later copy or gather has landed (09:R203). -/
def State.landBytes (s : State) (k : BKey) (id off : Nat) (bs : List Byte) : State :=
  let later := s.copies.filter fun d => d.brick == k && decide (id < d.id)
  let laterG := s.idxops.filter fun d => d.brick == k && decide (id < d.id)
  (bs.mapIdx fun i b => (off + i, b)).foldl (fun s x =>
    if (later.any fun d => d.hasLanded x.1) || laterG.any fun d => d.hasLanded x.1 then s
    else s.spadWrite k x.1 [x.2]) s

/-- The bytes of a piece's source: for course memory none while a watermark holds them (09:R201, R202). -/
def State.copySource (s : State) (c : CopyOp) (o : Int) (n : Nat) : EngRes (List Byte) :=
  match c.space with
  | .global => s.engRead c.gid c.core c.asid (((bits c.src 0 56 : Int) + o) % 2 ^ 56).toNat n c.deps
  | .course =>
    if c.deps.any s.isOpen || !s.atHome c.gid then .wait
    else
      let y := ((bits c.src 0 22 : Int) + o).toNat
      match s.courseOf c.brick with
      | none => .ok (List.replicate n 0) s
      | some k =>
        let at_ := fun i => (s.brickU k.key ((y + i) / 2 ^ 19), (y + i) % 2 ^ 19)
        if (List.range n).any fun i => (at_ i).1.any fun b => b.heldBefore c.gid c.id (at_ i).2 1 then .wait
        else match (List.range n).findSome? fun i => (at_ i).1.bind fun b => s.badSpad b (at_ i).2 1 with
          | some word => .poison 0x4A word
          | none => .ok ((List.range n).map fun i => ((at_ i).1.map fun b => b.engByte (at_ i).2).getD 0) s
  | .window =>
    (List.range n).foldl (fun (acc : EngRes (List Byte)) (i : Nat) =>
      match acc with
      | .ok bs s =>
        match s.windowByte (bits c.src 0 18) c.asid ((bits c.src 32 32 : Int) + o + i) with
        | .at va =>
          match s.engRead c.gid c.core c.asid va 1 c.deps with
          | .ok x s => .ok (bs ++ x) s
          | r => r
        | _ => .ok (bs ++ [0]) s
      | r => r) (.ok [] s)

def State.setCopy (s : State) (c : CopyOp) : State := { s with copies := s.copies.map fun x => if x.id = c.id then c else x }

/-- The piece that comes after one of `n` bytes; none after the last. -/
def CopyOp.nextPiece (c : CopyOp) (n : Nat) : Option CopyOp :=
  if c.x + n < c.e0 then some { c with x := c.x + n }
  else if c.row + 1 < rowsOf c.dims then some { c with row := c.row + 1, x := 0 }
  else none

/-- A piece has landed: VALUE, and after the last piece the end of the copy or of the iteration. -/
def State.afterPiece (s : State) (c : CopyOp) (n : Nat) : State :=
  match c.nextPiece n with
  | some c => (s.setCopy c).setWmark c.brick c.w fun w => { w with value := BitVec.ofNat 20 (c.dst c.row c.x) }
  | none =>
    if !c.loop then s.completeCopy c
    else
      let c := { c with iter := c.iter + 1, row := 0, x := 0 }
      let s := s.setWmark c.brick c.w fun w =>
        { w with landed := w.landed + 1, gen := w.gen + 1,
                 value := if c.iter = c.iters then w.limit else BitVec.ofNat 20 c.start }
      if c.iter = c.iters then s.endCopy c else s.setCopy c

/-- The engine that a copy's fault holds: of a fill, all its members' (09:R215). -/
def CopyOp.engine (c : CopyOp) : Engine := if c.fill = 0 then .copy c.id else .fill c.fill

/-- A source fault freezes the copy at its piece (09:R206). The members of one fill share the record (09:R215). -/
def State.freezeCopy (s : State) (c : CopyOp) (cause va : Nat) : State :=
  let s := (s.setCopy { c with frozen := some (cause, BitVec.ofNat 64 va) }).setWmark c.brick c.w fun w =>
    { w with frozen := true }
  if s.engineHeld c.engine then s else s.holdEngine c.engine c.gid c.core c.asid cause va

/-- A piece's source bytes. A fill reads each byte once, for all its members (09:R215). -/
def State.pieceBytes (s : State) (c : CopyOp) (o : Int) (n : Nat) : EngRes (List Byte) :=
  match s.fills.find? fun x => x.id == c.fill with
  | none => s.copySource c o n
  | some x =>
    let old := (List.range n).map fun (i : Nat) => (x.bytes.find? fun b => b.1 == o + (i : Int)).map Prod.snd
    if old.all Option.isSome then .ok (old.map fun b => b.getD 0) s
    else match s.copySource c o n with
      | .ok bs s =>
        let bs := (bs.zip old).map fun b => b.2.getD b.1
        let new := (bs.mapIdx fun (i : Nat) (b : Byte) => (o + (i : Int), b)).filter fun b => x.bytes.all fun y => y.1 != b.1
        .ok bs { s with fills := s.fills.map fun y => if y.id = x.id then { y with bytes := y.bytes ++ new } else y }
      | r => r

/-- The frozen copies that an engine's hold stands for. -/
def State.frozenOf (s : State) (e : Engine) : List CopyOp := s.copies.filter fun d => d.frozen.isSome && d.engine == e

/-- A frozen watermark whose fault is resolved, or declared unresolvable. -/
def Wmark.settled (w : Wmark) (failed : Bool) : Wmark :=
  if failed then { w with frozen := false, armed := false, failed := true } else { w with frozen := false }

/-- A copy's watermark is settled; where its brick's record is in memory, the record read back is too. -/
def State.settleW (s : State) (c : CopyOp) (failed : Bool) : State :=
  let s := s.setWmark c.brick c.w fun w => w.settled failed
  match s.brick? c.brick with
  | some b => if b.place = .memory then s.setBrick { b with awayW := b.awayW ++ [(c.w, failed)] } else s
  | none => s

/-- System software resolves a copy's fault (09:R206): the members of its fill go on. -/
def State.resumeCopy (s : State) (e : Engine) : State :=
  (s.frozenOf e).foldl (fun s d => (s.setCopy { d with frozen := none }).settleW d false) s

/-- A copy's fault is declared unresolvable (09:R206). -/
def State.failCopy (s : State) (e : Engine) : State :=
  (s.frozenOf e).foldl
    (fun s d =>
      let s := s.settleW d true
      let s := s.endCopy { d with frozen := none }
      let s := { s with mcreqs := s.mcreqs.filter fun r => r.copy != d.id }
      s.engineFault d.gid d.core d.asid 0x39 ((d.frozen.map Prod.snd).getD 0)) s

/-! ### Multicast groups (09:R212-R215) -/

/-- A group record of a footing. -/
def State.mcGroup (s : State) (foot grp : Nat) : McGroup := vget (vget s.foots foot).mc grp

def State.setMcGroup (s : State) (foot grp : Nat) (x : McGroup) : State :=
  let f := vget s.foots foot
  s.setFoot foot { f with mc := vset f.mc grp x }

/-- One fill granted to a list of copies. -/
def State.grant (s : State) (copies : List Nat) (late : Bool) : State :=
  let (id, s) := s.newId
  let s := { s with fills := ⟨id, []⟩ :: s.fills }
  let cs := s.copies.filter fun c => copies.contains c.id
  cs.foldl (fun s c =>
    let s := s.setCopy { c with waiting := false, fill := id }
    if late then s.setWmark c.brick c.w fun w => { w with late := true } else s) s

/-- Every enrolled member of a group has asked. -/
def State.allAsked (s : State) (h : McHold) : Bool := (s.mcGroup h.foot h.grp).members.all fun k => h.asked.contains k

/-- The timer or the members of a hold entry have been tested in this cycle: requests arrive no more (09:R214). -/
def State.tested (s : State) (h : McHold) : State := { s with mctests := (h.foot, h.slice, h.grp) :: s.mctests }

/-- Held entries of a group whose members have all asked are filled; a tail is left only at a request (09:R214). -/
def State.checkHolds (s : State) (foot grp : Nat) : State :=
  let (full, rest) := s.mcholds.partition fun h => !h.tail && h.foot == foot && h.grp == grp && s.allAsked h
  full.foldl (fun s h => (s.grant h.copies false).tested h) { s with mcholds := rest }

/-- A group takes a brick (09:R212); false where the join traps. -/
def State.mcJoin (s : State) (k : BKey) (foot grp t asid : Nat) : Option State :=
  let r := s.mcGroup foot grp
  if (r.owner != asid && r.members != []) || r.members.length ≥ 64 || t = 0 || t > 20312 then none
  else if r.members.contains k then some s
  else
    let r := if r.members = [] then { r with owner := asid, timer := t } else r
    some (s.setMcGroup foot grp { r with members := r.members ++ [k] })

/-- A group loses a brick. -/
def State.mcLeave (s : State) (k : BKey) (foot grp : Nat) : State :=
  let r := s.mcGroup foot grp
  if r.members.contains k then
    (s.setMcGroup foot grp { r with members := r.members.filter (· != k) }).checkHolds foot grp
  else s

/-- The groups a brick is enrolled in, as its context keeps them (14:R302). -/
def State.setEnrolled (s : State) (k : BKey) (f : BitVec 64 → BitVec 64) : State :=
  match s.brick? k with
  | some b => s.setBrick { b with enrolled := f b.enrolled }
  | none => s

/-- MC.JOIN (09:R212): its token completes with the update. -/
def execMcJoin (g : Guard) (tok : Tok) (a b : Opnd) (s : State) : Out :=
  s.once g [a, b] false fun G _ l =>
    let av := s.opnd G 0 a l
    let k := (G.lane l).brick
    let grp := bits av 0 6
    match s.brick? k with
    | none => s.done G
    | some bk =>
      if bits av 6 58 ≠ 0 then s.trapEm G 0x24 av
      else match s.mcJoin k (footOf bk.core) grp (bits (s.opnd G 0 b l) 0 15) (s.asidOf k.wall) with
        | none => s.trapEm G 0x24 av
        | some s' => if G.tokFull tok then s.stall G else (s'.setEnrolled k (· ||| BitVec.ofNat 64 (2 ^ grp))).done G

/-- MC.LEAVE (09:R212). -/
def execMcLeave (g : Guard) (tok : Tok) (a : Opnd) (s : State) : Out :=
  s.once g [a] false fun G _ l =>
    let av := s.opnd G 0 a l
    let k := (G.lane l).brick
    let grp := bits av 0 6
    match s.brick? k with
    | none => s.done G
    | some bk =>
      if bits av 6 58 ≠ 0 then s.trapEm G 0x24 av
      else if G.tokFull tok then s.stall G
      else ((s.mcLeave k (footOf bk.core) grp).setEnrolled k (· &&& ~~~(BitVec.ofNat 64 (2 ^ grp)))).done G

/-- A request served by a hold entry that is free (09:R214). -/
def State.holdFree (s : State) (r : McReq) (foot slice : Nat) : State :=
  let h : McHold :=
    { foot := foot, slice := slice, grp := r.grp, key := r.key, asked := [r.brick], copies := [r.copy],
      expiry := s.cycle + 64 * (s.mcGroup foot r.grp).timer, tail := false }
  ({ s with mcholds := s.mcholds ++ [h] } : State).checkHolds foot r.grp

/-- A request at its hold entry (09:R214); none while it waits at the slice input. -/
def State.atHold (s : State) (r : McReq) (foot slice : Nat) : Option State :=
  let s := { s with mcreqs := s.mcreqs.filter fun x => x.copy != r.copy }
  if s.mctests.contains (foot, slice, r.grp) then none else
  match s.mcholds.find? fun h => h.foot == foot && h.slice == slice && h.grp == r.grp with
  | none => some (s.holdFree r foot slice)
  | some h =>
    let set := fun (x : McHold) => s.mcholds.map fun y => if y = h then x else y
    if h.key == r.key && !h.asked.contains r.brick then
      if h.tail then
        let h' := { h with asked := h.asked ++ [r.brick] }
        let s := s.grant [r.copy] true
        some { s with mcholds := if s.allAsked h' then s.mcholds.erase h else set h' }
      else
        some (({ s with mcholds := set { h with asked := h.asked ++ [r.brick], copies := h.copies ++ [r.copy] } } :
          State).checkHolds foot r.grp)
    else if h.tail then some (({ s with mcholds := s.mcholds.erase h } : State).holdFree r foot slice)
    else none

/-- The slice of its footing that the request of a copy goes to, once the address is translated. Where the line is homed on another
footing, that is the slice of the same number on the brick's own, whose group it is (09:R195; DESIGN CHOICE, log 15). -/
def State.mcSlice (s : State) (c : CopyOp) : Option Nat :=
  match s.engPages c.core c.asid (bits c.src 0 56) 1 .read with
  | .ok f _ => some (s.sliceOf (footOf c.core) (f 0))
  | _ => none

/-- A request that its core group sent to the same slice before this one has not reached it (02:R17). -/
def State.mcBehind (s : State) (r : McReq) (c : CopyOp) (slice : Nat) : Bool :=
  (s.mcreqs.takeWhile (· != r)).any fun x => !x.here && s.copies.any fun d =>
    d.id == x.copy && d.frozen.isNone && s.working d.brick && groupOf d.core == groupOf c.core && s.mcSlice d == some slice

/-- MC_REQUEST (09:R213, R214): the request of a copy reaches the slice of its first source byte, behind those its core group
sent there before (02:R17), and may have to wait at the slice input. -/
def execMcRequest (req : Nat) (s : State) : Out :=
  match s.mcreqs.find? fun r => r.copy == req, s.copies.find? fun c => c.id == req with
  | some r, some c =>
    if c.frozen.isSome || !s.working c.brick then .refused .cannotOccur
    else match s.engPages c.core c.asid (bits c.src 0 56) 1 .read with
      | .ok f s =>
        let k := s.sliceOf (footOf c.core) (f 0)
        if s.mcBehind r c k then .refused .cannotOccur
        else match s.atHold r (footOf c.core) k with
          | some s => .next s
          | none =>
            if r.here then .refused .cannotOccur
            else .next { s with mcreqs := s.mcreqs.map fun x => if x = r then { r with here := true } else x }
      | .fault cause va => .next (s.freezeCopy c cause va)
      | _ => .refused .cannotOccur
  | _, _ => .refused .cannotOccur

/-- MC_HOLD_EXPIRY (09:R214): the timer of a held entry. -/
def execMcHoldExpiry (footing slice grp : Nat) (s : State) : Out :=
  match s.mcholds.find? fun h => h.foot == footing && h.slice == slice && h.grp == grp && !h.tail with
  | none => .refused .cannotOccur
  | some h =>
    if s.cycle < h.expiry then .refused .cannotOccur
    else
      let s := (s.grant h.copies false).tested h
      .next { s with mcholds := s.mcholds.map fun y => if y = h then { h with tail := true, copies := [] } else y }

end Sys2Proof.Machine
end

