-- ==== Sys2Proof/Machine/Index.lean ====
section
/-! DEFINITION. Gathers and scatters (12:R243-R250). -/

namespace Sys2Proof.Machine

open Sys2Proof

/-- The completion mask's offset and length (12:R243). -/
def maskOff (list n : Nat) : Nat := (list + 4 * n + 7) / 8 * 8

def maskLen (n : Nat) : Nat := 8 * ((n + 63) / 64)

/-- The gathers and scatters of a core in flight (12:R244); those of a halted set are not (12:R250, 14:R300). -/
def State.idxOn (s : State) (core : Nat) : Nat :=
  (s.idxops.filter fun c => c.core == core && !c.finished && s.working c.brick).length

def State.setIdx (s : State) (c : IdxOp) : State := { s with idxops := s.idxops.map fun x => if x.id = c.id then c else x }

/-- The mask an operation starts from. -/
def IdxOp.mask0 (c : IdxOp) (e : Nat) : Bool := (c.read.map fun r => r.2.getD e false).getD false

/-- The mask an operation leaves: as it was read, with the bit of each element performed by it (12:R246, R247). -/
def IdxOp.maskBytes (c : IdxOp) : List Byte :=
  let ok := fun e => c.mask0 e || c.got.any fun x => x.1 == e && x.2.1
  (List.range (maskLen c.n)).map fun i => BitVec.ofNat 8 (maskNat (fun j => ok (8 * i + j)) 8)

/-- A gather or scatter completes: the mask, the generation, the token (12:R246, R247). -/
def State.endIdx (s : State) (c : IdxOp) : State :=
  let s := s.spadWrite c.brick (maskOff c.list c.n) c.maskBytes
  let s := if c.gather then s.setWmark c.brick c.w fun w => { w with value := w.limit, gen := w.gen + 1 } else s
  ((s.setIdx { c with finished := true }).tidyCopies).complete c.gid c.tok

/-- A gather or a scatter at its issue (12:R243, R244). -/
def State.idxOp (s : State) (gd : Guard) (gather add : Bool) (t : Ty) (tok : Tok) (w : Nat) (a b : Opnd) (base sh : Nat)
    (m : Bool) : Out :=
  s.once gd [a, b] false fun g _ l =>
    match s.brick? (g.lane l).brick with
    | none => s.done g
    | some bk =>
      let av := s.opnd g 0 a l
      let bv := s.opnd g 0 b l
      let addr := bits av 0 56
      let list := bits bv 0 19
      let n := bits bv 20 17
      let x := s.wmark bk.key w
      if addr % t.bytes ≠ 0 then s.trapEm g 0x18 (BitVec.ofNat 64 addr)
      else if bv.getLsbD 19 ∨ bits bv 37 27 ≠ 0 ∨ n > 65536 ∨ list % 4 ≠ 0 ∨ base % t.bytes ≠ 0
          ∨ bk.size < list + 4 * n ∨ bk.size < maskOff list n + maskLen n ∨ bk.size < base + n * t.bytes then
        s.trapEm g 0x1C bv
      else if gather && x.loop && decide (x.landed.toNat < x.iters.toNat) then s.trapEm g 0x22 av
      else if (gather && x.landing) || s.idxOn g.core ≥ 16 || g.tokFull tok then s.stall g
      else
        let g := g.arm tok
        let s := s.setGang g
        let (id, s) := s.newId
        let c : IdxOp :=
          { id := id, gid := g.gid, core := g.core, tok := tok, brick := bk.key, asid := s.asidOf bk.key.wall,
            gather := gather, add := add, t := t, w := w, a := addr, list := list, n := n, base := base, sh := sh, m := m,
            read := none, got := [], landed := 0, deps := s.engDeps g, finished := false }
        let s := if gather then s.setWmark bk.key w fun y => y.arm id base (base + n * t.bytes) none else s
        let s := { s with idxops := s.idxops ++ [c] }
        let s := if n = 0 then s.endIdx c else s
        s.done ((s.gang? g.gid).getD g)

/-- GATHER (12:R246). -/
def execGather (g : Guard) (t : Ty) (tok : Tok) (w : BitVec 3) (a b : Opnd) (base : BitVec 19) (sh : BitVec 3) (m : Bool)
    (s : State) : Out :=
  s.idxOp g true false t tok w.toNat a b base.toNat sh.toNat m

/-- SCATTER (12:R247). -/
def execScatter (g : Guard) (t : Ty) (tok : Tok) (a b : Opnd) (src : BitVec 19) (sh : BitVec 3) (m : Bool)
    (s : State) : Out :=
  s.idxOp g false false t tok 0 a b src.toNat sh.toNat m

/-- SCATTER.ADD (12:R247). -/
def execScatterAdd (g : Guard) (t : Ty) (tok : Tok) (a b : Opnd) (src : BitVec 19) (sh : BitVec 3) (m : Bool)
    (s : State) : Out :=
  s.idxOp g false true t tok 0 a b src.toNat sh.toNat m

/-! ### Elements -/

/-- A read of the allotment by an operation of an engine: held by a watermark, uncorrectable, or the bytes (12:R245). -/
def State.engSpad (s : State) (gid id : Nat) (k : BKey) (off n : Nat) : EngRes (List Byte) :=
  match s.brick? k with
  | none => .ok (List.replicate n 0) s
  | some b =>
    if b.heldFor gid id off n then .wait
    else match s.badSpad b off n with
      | some word => .poison 0x4A word
      | none => .ok (b.engReadN off n) s

/-- The list and the mask as the pipe reads them, all the bits of its words (12:R245, R246). -/
def State.readList (s : State) (c : IdxOp) : EngRes (List Nat × List Bool) :=
  match s.engSpad c.gid c.id c.brick c.list (4 * c.n) with
  | .ok bs s =>
    let idx := (List.range c.n).map fun e => leNat ((bs.drop (4 * e)).take 4)
    if !c.m then .ok (idx, []) s
    else match s.engSpad c.gid c.id c.brick (maskOff c.list c.n) (maskLen c.n) with
      | .ok ms s => .ok (idx, (List.range (8 * ms.length)).map fun e => (ms.getD (e / 8) 0).getLsbD (e % 8)) s
      | .wait => .wait
      | .fault x y => .fault x y
      | .poison x y => .poison x y
  | .wait => .wait
  | .fault x y => .fault x y
  | .poison x y => .poison x y

/-- The address of an element (12:R243). -/
def IdxOp.addr (c : IdxOp) (e : Nat) : Nat :=
  (c.a + ((c.read.map fun r => r.1.getD e 0).getD 0) * c.t.bytes * 2 ^ c.sh) % 2 ^ 56

/-- The element is still to be performed. -/
def IdxOp.todo (c : IdxOp) (e : Nat) : Bool := decide (e < c.n) && !c.mask0 e && !(c.got.any fun x => x.1 == e)

/-- A faulting element's record: no hold, no replay (12:R249). -/
def State.reportElement (s : State) (c : IdxOp) (cause va : Nat) : State :=
  let (v, s) := s.fresh
  s.report (s.partOf (footOf c.core)) (footOf c.core)
    { cause := cause, engine := true, asid := c.asid, core := c.core, seat := ((s.gang? c.gid).map Gang.seat).getD 0,
      tval := BitVec.ofNat 64 va, tepc := v &&& 0x3FFF_FFFF_FFFF_FFFF }

/-- Land the pieces of a gather whose elements have all returned, then complete it (12:R246). -/
def State.landGather (s : State) (c : IdxOp) : Nat → State
  | 0 => s.setIdx c
  | fuel + 1 =>
    let total := c.n * c.t.bytes
    if c.landed ≥ total then s.endIdx c
    else
      let off := c.base + c.landed
      let len := Nat.min (total - c.landed) (32 - off % 32)
      let e0 := c.landed / c.t.bytes
      let es := (List.range (len / c.t.bytes)).map (e0 + ·)
      if es.any c.todo then s.setIdx c
      else
        let s := es.foldl (fun s e =>
          match c.got.find? fun x => x.1 == e with
          | some x => s.landBytes c.brick c.id (c.base + e * c.t.bytes) x.2.2
          | none => s) s
        let c := { c with landed := c.landed + len }
        let s := s.setWmark c.brick c.w fun w => { w with value := BitVec.ofNat 20 (c.base + c.landed) }
        s.landGather c fuel

/-- Complete a scatter once every element has been acknowledged or has faulted. -/
def State.endScatter (s : State) (c : IdxOp) : State :=
  if (List.range c.n).any c.todo then s.setIdx c else s.endIdx c

/-- What follows a change of an operation's record. -/
def State.idxGo (s : State) (c : IdxOp) : State :=
  if c.gather then (s.setIdx c).landGather c (c.n * c.t.bytes + 1) else (s.setIdx c).endScatter c

/-- The first step of an operation: its list and mask. -/
def State.idxStart (s : State) (c : IdxOp) : Out :=
  match s.readList c with
  | .ok r s => .next (s.idxGo { c with read := some r })
  | .poison cause word => s.engineError c.gid cause word
  | _ => .refused .cannotOccur

/-- The operation works now. -/
def State.idxLive (s : State) (c : IdxOp) : Bool := !c.finished && s.working c.brick && !s.gangHeld c.gid

/-- GATHER_ELEMENT_RETURN (12:R246). -/
def execGatherElementReturn (op elem : Nat) (s : State) : Out :=
  match s.idxops.find? fun c => c.id == op && c.gather with
  | none => .refused .cannotOccur
  | some c =>
    if !s.idxLive c then .refused .cannotOccur
    else if c.read.isNone then s.idxStart c
    else if !c.todo elem then .refused .cannotOccur
    else
      let zero := List.replicate c.t.bytes (0 : Byte)
      match s.engRead c.gid c.core c.asid (c.addr elem) c.t.bytes c.deps with
      | .wait => .refused .cannotOccur
      | .poison cause va => s.engineError c.gid cause va
      | .fault cause va => .next ((s.reportElement c cause va).idxGo { c with got := c.got ++ [(elem, false, zero)] })
      | .ok bs s => .next (s.idxGo { c with got := c.got ++ [(elem, true, bs)] })

/-- The slice an element goes to. -/
def State.elemSlice (s : State) (c : IdxOp) (e : Nat) : Option Nat :=
  match s.engPages c.core c.asid (c.addr e) 1 .write with
  | .ok f _ =>
    let home := s.homeFoot (s.partOf (footOf c.core)) (f 0)
    some (24 * home + s.sliceOf home (f 0))
  | _ => none

/-- An element of an adding scatter, performed whole at the home slice. -/
def State.addElem (s : State) (c : IdxOp) (e : Nat) (v : List Byte) : EngRes Unit :=
  match s.engPages c.core c.asid (c.addr e) c.t.bytes .write with
  | .wait => .wait
  | .fault x y => .fault x y
  | .poison x y => .poison x y
  | .ok f s =>
    let pa := f 0
    if c.deps.any s.isOpen || !s.atHome c.gid || s.portWaits f 1 && (s.portDown f 1).isNone ||
        !s.engWritable c.core pa c.t.bytes then .wait
    else match s.portDown f 1 with
      | some _ => .fault 0x4E (c.addr e)
      | none =>
        if s.poisoned pa then .poison 0x4D (c.addr e)
        else
          let o := leNat ((s.mem (s.engHome c.core pa)).readN pa c.t.bytes)
          let x := (o + leNat v) % 2 ^ (8 * c.t.bytes)
          .ok () (s.homeWrite ⟨c.id, c.gid, c.core⟩ pa (natLe c.t.bytes x) (s.atomMsg false pa .add c.t (leNat v) 0 x))

/-- The plain copy of an element's line leaves the issuing core's L1 (12:R248). -/
def State.dropElem (s : State) (c : IdxOp) (e : Nat) : State :=
  match s.engPages c.core c.asid (c.addr e) 1 .write with
  | .ok f s => s.l1Drop c.core (f 0 / 128) false
  | _ => s

/-- SCATTER_ELEMENT_ACK (12:R247): ascending elements at one slice. -/
def execScatterElementAck (op elem : Nat) (s : State) : Out :=
  match s.idxops.find? fun c => c.id == op && !c.gather with
  | none => .refused .cannotOccur
  | some c =>
    if !s.idxLive c then .refused .cannotOccur
    else if c.read.isNone then s.idxStart c
    else if !c.todo elem then .refused .cannotOccur
    else if (s.elemSlice c elem).isSome &&
        (List.range elem).any (fun e => c.todo e && s.elemSlice c e == s.elemSlice c elem) then .refused .cannotOccur
    else match s.engSpad c.gid c.id c.brick (c.base + elem * c.t.bytes) c.t.bytes with
      | .wait => .refused .cannotOccur
      | .poison cause word => s.engineError c.gid cause word
      | .fault .. => .refused .cannotOccur
      | .ok v s =>
        match (if c.add then s.addElem c elem v else s.engWrite ⟨c.id, c.gid, c.core⟩ c.asid (c.addr elem) v c.deps) with
        | .wait => .refused .cannotOccur
        | .poison cause va => s.engineError c.gid cause va
        | .fault cause va => .next ((s.reportElement c cause va).idxGo { c with got := c.got ++ [(elem, false, [])] })
        | .ok _ s => .next ((s.dropElem c elem).idxGo { c with got := c.got ++ [(elem, true, [])] })

end Sys2Proof.Machine
end

