-- ==== Sys2Proof/Machine/Quant.lean ====
section
/-! DEFINITION. Quantisation (12:R255-R260). -/

namespace Sys2Proof.Machine

open Sys2Proof

/-! ### The request descriptor (12:R256, R258) -/

/-- An address of a descriptor: its space and its offset or address; none where a reserved bit is set. -/
def spaceAddr (w : Word) : Option (Bool × Nat) :=
  if bits w 56 7 ≠ 0 ∨ (w.getLsbD 63 ∧ bits w 19 37 ≠ 0) then none else some (w.getLsbD 63, bits w 0 56)

/-- A request's fields. -/
structure QuantDesc where
  src : Bool × Nat
  dst : Bool × Nat
  scl : Bool × Nat
  rows : Nat
  nblk : Nat
  stride : Nat
deriving DecidableEq, Repr

def quantDesc (ws : List Word) : Option QuantDesc :=
  let w3 := ws.getD 3 0
  match spaceAddr (ws.getD 0 0), spaceAddr (ws.getD 1 0), spaceAddr (ws.getD 2 0) with
  | some a, some b, some c =>
    if bits w3 56 8 ≠ 0 then none else some ⟨a, b, c, bits w3 0 16, bits w3 16 8, bits w3 24 32⟩
  | _, _, _ => none

def QuantDesc.empty (d : QuantDesc) : Bool := d.rows == 0 || d.nblk == 0

/-- An extent of `n` bytes lies in its space. -/
def extentOk (size : Nat) (a : Bool × Nat) (n : Nat) : Bool :=
  n == 0 || decide (a.2 + n ≤ if a.1 then size else 2 ^ 56)

/-- The checks of 12:R258 after the descriptor is read. -/
def QuantDesc.ok (d : QuantDesc) (size sw : Nat) : Bool :=
  let blocks := d.rows * d.nblk
  d.src.2 % sw == 0 && d.dst.2 % 256 == 0 && d.scl.2 % 4 == 0 &&
  extentOk size d.src (if d.empty then 0 else d.stride * (d.rows - 1) + 256 * d.nblk * sw) &&
  extentOk size d.dst (256 * blocks) && extentOk size d.scl (4 * blocks)

/-- Bytes of a float format. -/
def FTy.bytes : FTy → Nat
  | .f32 => 4
  | _ => 2

/-- QUANT (12:R255, R258). -/
def execQuant (g : Guard) (f : QFmt) (tok : Tok) (a : Opnd) (src : FTy) (s : State) : Out :=
  s.once g [a] false fun G _ l =>
    match s.brick? (G.lane l).brick with
    | none => s.done G
    | some bk =>
      let av := s.opnd G 0 a l
      let off := bits av 0 19
      let bad := s.trapEm G 0x25 (BitVec.ofNat 64 off)
      if bits av 19 45 ≠ 0 ∨ off % 8 ≠ 0 ∨ bk.size < off + 32 ∨ !bk.allWritten off 32 then bad
      else match s.badSpad bk off 32 with
        | some word => .next (s.holdGang G 0x4A (BitVec.ofNat 64 word) false)
        | none =>
          let ws := bk.words off 4
          match quantDesc ws with
          | none => bad
          | some d =>
            let grp := groupOf G.core
            if !d.ok bk.size (FTy.bytes src) then bad
            else if G.tokFull tok then s.stall G
            else if d.empty then s.done G
            else if (s.group grp).quants.length ≥ 8 then s.stall G
            else
              let G := G.arm tok
              let (id, s) := s.newId
              let q : QuantReq :=
                { id := id, gid := G.gid, tok := tok, core := G.core, brick := bk.key, asid := s.asidOf bk.key.wall,
                  fmt := f, src := src, words := ws, block := 0, frozen := none, deps := s.engDeps G }
              (s.setGroup grp { s.group grp with quants := (s.group grp).quants ++ [q] }).done G

/-! ### One block (12:R257) -/

/-- A source value: none for a NaN; an infinity is the largest finite F32. -/
def quantVal (t : FTy) (p : Nat) : Option (Bool × Nat × Int) :=
  match (ftyFmt t).val p with
  | .nan => none
  | .inf neg => some (neg, 2 ^ 24 - 1, 104)
  | .num neg m e => some (neg, m, e)

/-- The greatest magnitude `m × 2^e` of a list. -/
def greatest : List (Option (Bool × Nat × Int)) → Nat × Int
  | [] => (0, 0)
  | none :: r => greatest r
  | some (_, m, e) :: r =>
    let (m', e') := greatest r
    let d := if e < e' then e else e'
    if scaleTo m e d < scaleTo m' e' d then (m', e') else (m, e)

/-- The scale: 1, or `m / Q` rounded up to an F32 pattern. -/
def quantScale (q : Nat) (m : Nat) (e : Int) : Nat :=
  if m = 0 then 0x3F80_0000
  else Fmt.f32.round .ru false false (m * 2 ^ 64 / q) (e - 64) (m * 2 ^ 64 % q != 0)

/-- One output value of a block of scale `s`: the byte of E4M3, or of a signed integer. -/
def quantByte (f : QFmt) (s : Nat) (x : Option (Bool × Nat × Int)) : Nat :=
  match x, Fmt.f32.val s with
  | some (neg, m, e), .num _ ms es =>
    let num := m * 2 ^ 64
    let k := num / ms
    let e' := e - es - 64
    let sticky := num % ms != 0
    match f with
    | .e4m3 => if m = 0 then Fmt.e4m3.signed neg 0 else Fmt.e4m3.round .rne true neg k e' sticky
    | _ =>
      let y := if m = 0 then 0 else Nat.min 127 (roundAt .rne neg k e' sticky 0)
      ((if neg then 256 - y else y) % 256)
  | _, _ =>
    match f with
    | .e4m3 => 0x7F
    | _ => 0

/-- A block: its 256 bytes and its scale. -/
def quantBlock (f : QFmt) (t : FTy) (bs : List Byte) : List Byte × List Byte :=
  let w := FTy.bytes t
  let xs := (List.range 256).map fun k => quantVal t (leNat ((bs.drop (w * k)).take w))
  let (m, e) := greatest xs
  let s := quantScale (match f with
    | .e4m3 => 448
    | _ => 127) m e
  let ys := xs.map (quantByte f s)
  let out := match f with
    | .bp => (List.range 256).map fun n => bpByte (fun v => ys.getD v 0) n
    | _ => ys
  (out.map (BitVec.ofNat 8), natLe 4 s)

/-! ### The engine (12:R255, R259, R260) -/

/-- A read by the engine in a space. -/
def State.spaceRead (s : State) (gid id core asid : Nat) (k : BKey) (a : Bool × Nat) (n : Nat) (deps : List Nat) :
    EngRes (List Byte) :=
  if a.1 then (if deps.any s.isOpen || !s.atHome gid then .wait else s.engSpad gid id k a.2 n)
  else s.engRead gid core asid a.2 n deps

/-- A place for a write of `n` bytes in a space: none needed in the scratchpad. -/
def State.spaceCheck (s : State) (gid core asid : Nat) (a : Bool × Nat) (n : Nat) : EngRes Unit :=
  if a.1 then .ok () s
  else match s.engPages core asid a.2 n .write with
    | .ok f s =>
      match s.portDown f n with
      | some i => .fault 0x4E (a.2 + i)
      | none => if s.canPut gid core a.2 n f then .ok () s else .wait
    | .wait => .wait
    | .fault x y => .fault x y
    | .poison x y => .poison x y

/-- A write by the engine in a space, checked before. -/
def State.spaceWrite (s : State) (o : EngOp) (asid : Nat) (k : BKey) (a : Bool × Nat) (bs : List Byte) : State :=
  if a.1 then s.spadWrite k a.2 bs
  else match s.engPages o.core asid a.2 bs.length .write with
    | .ok f s => s.putLines o a.2 f bs
    | _ => s

def State.setQuant (s : State) (grp : Nat) (q : QuantReq) : State :=
  s.setGroup grp { s.group grp with quants := (s.group grp).quants.map fun x => if x.id = q.id then q else x }

/-- A request leaves its queue, its token complete. -/
def State.endQuant (s : State) (grp : Nat) (q : QuantReq) : State :=
  (s.setGroup grp { s.group grp with quants := (s.group grp).quants.filter fun x => x.id != q.id }).complete q.gid q.tok

/-- A fault freezes a request at its block (12:R260). -/
def State.freezeQuant (s : State) (grp : Nat) (q : QuantReq) (cause va : Nat) : State :=
  (s.setQuant grp { q with frozen := some (cause, BitVec.ofNat 64 va) }).holdEngine (.quant grp) q.gid q.core q.asid cause va

/-- The head request computes one block. -/
def State.quantStep (s : State) (grp : Nat) (q : QuantReq) (d : QuantDesc) : Out :=
  let b := q.block / d.rows
  let i := q.block % d.rows
  let sw := FTy.bytes q.src
  let src := (d.src.1, d.src.2 + d.stride * i + 256 * b * sw)
  let dst := (d.dst.1, d.dst.2 + 256 * q.block)
  let scl := (d.scl.1, d.scl.2 + 4 * q.block)
  match s.spaceRead q.gid q.id q.core q.asid q.brick src (256 * sw) q.deps with
  | .wait => .refused .cannotOccur
  | .fault c va => .next (s.freezeQuant grp q c va)
  | .poison cause w => s.engineError q.gid cause w
  | .ok bs s =>
    match s.spaceCheck q.gid q.core q.asid dst 256, s.spaceCheck q.gid q.core q.asid scl 4 with
    | .ok _ _, .ok _ _ =>
      let (ys, sc) := quantBlock q.fmt q.src bs
      let s := s.spaceWrite ⟨q.id, q.gid, q.core⟩ q.asid q.brick dst ys
      let s := s.spaceWrite ⟨q.id, q.gid, q.core⟩ q.asid q.brick scl sc
      let q := { q with block := q.block + 1 }
      .next (if q.block = d.rows * d.nblk then s.endQuant grp q else s.setQuant grp q)
    | .fault c va, _ | .ok _ _, .fault c va => .next (s.freezeQuant grp q c va)
    | _, _ => .refused .cannotOccur

/-- QUANT_BLOCK_DONE (12:R255, R257). -/
def execQuantBlockDone (group : Nat) (s : State) : Out :=
  if group ≥ 96 then .refused .cannotOccur
  else match (s.group group).quants with
    | [] => .refused .cannotOccur
    | q :: _ =>
      match quantDesc q.words with
      | none => .refused .cannotOccur
      | some d =>
        if q.frozen.isSome || !s.working q.brick || s.gangHeld q.gid then .refused .cannotOccur
        else s.quantStep group q d

/-- System software resolves the fault of a group's engine. -/
def State.resumeQuant (s : State) (grp : Nat) : State :=
  s.setGroup grp { s.group grp with quants := (s.group grp).quants.map fun q => { q with frozen := none } }

/-- It declares the fault unresolvable (12:R260). -/
def State.failQuant (s : State) (grp : Nat) : State :=
  match (s.group grp).quants.find? fun q => q.frozen.isSome with
  | none => s
  | some q => (s.endQuant grp q).engineFault q.gid q.core q.asid 0x3A ((q.frozen.map Prod.snd).getD 0)

end Sys2Proof.Machine
end

