-- ==== Sys2Proof/Machine/Matrix.lean ====
section
/-! DEFINITION. The matrix engine and the accumulator tiles (file 07, 13:R275). -/

namespace Sys2Proof.Machine

open Sys2Proof

/-! ### Exact values (05:R104, R105, 07:R153) -/

/-- The exact product of two values. -/
def FVal.mul (a b : FVal) : FVal :=
  match a, b with
  | .nan, _ | _, .nan => .nan
  | .inf x, .inf y => .inf (x != y)
  | .inf x, .num y m _ | .num y m _, .inf x => if m = 0 then .nan else .inf (x != y)
  | .num x m e, .num y n f => .num (x != y) (m * n) (e + f)

/-- The value is negative, or a negative zero. -/
def FVal.isNeg : FVal → Bool
  | .nan => false
  | .inf x | .num x _ _ => x

/-- The finite part of a value as a signed dyadic number. -/
def FVal.dyadic : FVal → Int × Int
  | .num x m e => (sgn x m, e)
  | _ => (0, 0)

/-- `exact_sum` of 07:R153; the sum of no terms is +0. -/
def FVal.sum (ps : List FVal) : FVal :=
  if ps.contains .nan || (ps.contains (.inf false) && ps.contains (.inf true)) then .nan
  else if ps.contains (.inf false) then .inf false
  else if ps.contains (.inf true) then .inf true
  else
    let r := ps.foldl (fun acc p => dyAdd acc.1 acc.2 p.dyadic.1 p.dyadic.2) ((0, 0) : Int × Int)
    if r.1 = 0 then .num (!ps.isEmpty && ps.all FVal.isNeg) 0 0 else .num (decide (r.1 < 0)) r.1.natAbs r.2

/-- A value rounded to a format (05:R104, R105, SAT 0). -/
def Fmt.ofVal (t : Fmt) (v : FVal) : Nat :=
  match v with
  | .nan => t.nan
  | .inf x => t.infPat x
  | .num x m e => t.roundInt .rne false x (sgn x m) e

/-- A pattern of a format as F32. -/
def Fmt.toF32 (t : Fmt) (p : Nat) : Nat := Fmt.f32.ofVal (t.val p)

/-! ### Tiles (07:R144, R145) -/

/-- A cell of a tile; cell (i, j) has number `64 i + j`. -/
def cellAt (l : List (Nat × BitVec 32)) (k : Nat) : BitVec 32 := ((l.find? fun c => c.1 == k).map Prod.snd).getD 0

/-- Cells written from number `lo` on; zero cells are not listed. -/
def cellsPut (l : List (Nat × BitVec 32)) (lo : Nat) (vs : List (BitVec 32)) : List (Nat × BitVec 32) :=
  l.filter (fun c => decide (c.1 < lo)) ++ ((vs.mapIdx fun i v => (lo + i, v)).filter fun c => c.2 != 0) ++
    l.filter fun c => decide (lo + vs.length ≤ c.1)

def Brick.cells (b : Brick) (t lo n : Nat) : List (BitVec 32) := (List.range n).map fun i => cellAt (vget b.tiles t) (lo + i)

/-- The first uncorrectable word among cells of a tile (14:R297). -/
def State.badTile (s : State) (b : Brick) (t lo n : Nat) : Option Nat :=
  (s.marks.find? fun m => m.unit == 3 && m.owner == b.serial && decide (4096 * t + lo ≤ m.word) &&
    decide (m.word < 4096 * t + lo + n)).map Mark.word

/-- The cells of a brick's tile as the engine reads them. -/
def State.readCells (s : State) (k : BKey) (t lo n : Nat) : EngRes (List (BitVec 32)) :=
  match s.brick? k with
  | none => .ok (List.replicate n 0) s
  | some b =>
    match s.badTile b t lo n with
    | some w => .poison 0x4B w
    | none => .ok (b.cells t lo n) s

/-- Cells written; they lose their marks. -/
def State.writeCells (s : State) (k : BKey) (t lo : Nat) (vs : List (BitVec 32)) : State :=
  match s.brick? k with
  | none => s
  | some b =>
    { s.setBrick { b with tiles := vset b.tiles t (cellsPut (vget b.tiles t) lo vs) } with
      marks := s.marks.filter fun m => !(m.unit == 3 && m.owner == b.serial && decide (4096 * t + lo ≤ m.word) &&
        decide (m.word < 4096 * t + lo + vs.length)) }

/-! ### Shapes, steps and `mp` (07:R146, R152, R157-R160) -/

/-- How a product divides K into chunks and the rows into bands (07:R152). -/
structure Shape where
  chunks : Nat
  band : Nat
deriving DecidableEq, Repr

def Shape.bands (x : Shape) : Nat := 64 / x.band

/-- Bytes of one chunk of a row or column. -/
def Shape.bytes (x : Shape) : Nat := 256 / x.chunks

def tyShape : Ty → Shape
  | .f32 => ⟨4, 8⟩
  | .f16 | .bf16 => ⟨8, 32⟩
  | _ => ⟨16, 64⟩

def srShape : Semiring → Shape
  | .minplusF16 | .maxtimesF16 => ⟨8, 32⟩
  | .orand => ⟨8, 64⟩
  | _ => ⟨4, 8⟩

/-- The shape of a product; none for another instruction. -/
def matShape : Instr → Option Shape
  | .mma _ t _ _ _ _ _ | .mmaSp _ t _ _ _ _ _ => some (tyShape t)
  | .mmaSr _ x _ _ _ _ _ => some (srShape x)
  | .mmaBp _ _ _ _ _ _ _ => some ⟨16, 64⟩
  | _ => none

/-- NSTEP. -/
def matSteps (i : Instr) : Nat :=
  match matShape i, i with
  | some x, _ => x.chunks * x.bands
  | none, .accGet .. | none, .accPut .. | none, .accPutAdd .. => 1
  | none, _ => 8

/-- The tile an instruction names in DEST. -/
def matTile : Instr → Nat
  | .mma _ _ _ c _ _ _ | .mmaSr _ _ _ c _ _ _ | .mmaSp _ _ _ c _ _ _ | .mmaBp _ _ _ c _ _ _ | .accZero _ _ c
  | .accMov _ _ c _ | .accCvtS32F32 _ _ c _ | .accCvtF32S32 _ _ c _ | .accScale _ _ _ c _ _ _ _ _
  | .accLd _ _ _ c _ _ _ | .accSt _ _ _ c _ _ _ | .accGet _ _ c _ | .accPut _ _ c _ _ | .accPutAdd _ _ c _ _ => c.toNat
  | _ => 0

/-- `mp` of the instruction at the head (07:R146). -/
def MatEntry.mp (e : MatEntry) (busy : Bool) : Word :=
  let op := ((encodeRaw e.instr).map fun r => r.maj.toNat + 256 * r.var.toNat).getD 0
  BitVec.ofNat 64 (e.step + field 6 (matSteps e.instr) + field 12 (matTile e.instr) + field 16 e.seat + field 20 (bit busy)
    + field 21 (bit e.frozen.isSome) + field 24 op)

/-- The queue of a core changed; `mp` follows its head, and keeps the last one's fields when the queue empties. -/
def State.setMq (s : State) (core : Nat) (q : List MatEntry) (last : Word) : State :=
  let c := s.core core
  s.setCore core { c with mq := q, mp := match q with
    | e :: _ => e.mp true
    | [] => last }

/-! ### Entry (07:R147, R150, 13:R275) -/

/-- An operand in memory: its address, its space, its row stride and the bytes of a row. -/
structure MatOp where
  addr : Word
  spad : Bool
  stride : Nat
  row : Nat
  align : Nat
deriving DecidableEq, Repr

/-- The address or scratchpad offset in an operand: bits 55:0, for a scratchpad operand too (07:R150 names no bits; DESIGN
CHOICE, log 34). -/
def matAddr (v : Word) : Nat := bits v 0 56

/-- The checks of 07:R150: the trap's cause and address. -/
def matCheck (b : Brick) (os : List MatOp) : Option (Nat × Nat) :=
  match os.find? fun o => matAddr o.addr % o.align ≠ 0 with
  | some o => some (0x1A, matAddr o.addr)
  | none =>
    (os.find? fun o => o.spad && decide (b.size < matAddr o.addr + 63 * o.stride + o.row)).map
      fun o => (0x1B, matAddr o.addr)

/-- A core's queue takes no entry now: it is full, or has taken one in this cycle (07:R147, 13:R275). -/
def State.mqFull (s : State) (core : Nat) : Bool :=
  decide (8 ≤ (s.core core).mq.length) || (s.core core).mqAt == s.cycle + 1

/-- The arrivals that are at a core. -/
def State.mortarAt (s : State) (core : Nat) : List MatArrival :=
  s.matArrivals.filter fun a => a.core == core && decide (a.cycle ≤ s.cycle)

/-- What holds a local entry: the queue takes none, or an arrival is at the core (13:R275). -/
def State.mqHolds (s : State) (core : Nat) : Bool := s.mqFull core || !(s.mortarAt core).isEmpty

/-- An entry at the tail of a core's queue. -/
def State.enterMq (s : State) (core : Nat) (e : MatEntry) : State :=
  let s := s.setMq core ((s.core core).mq ++ [e]) 0
  s.setCore core { s.core core with mqAt := s.cycle + 1 }

/-- An instruction issues: into the queue of the brick's core, or onto the mortar towards it. -/
def State.matSend (s : State) (g : Gang) (core : Nat) (e : MatEntry) : State :=
  if core = g.core then s.enterMq core e
  else { s with matArrivals := s.matArrivals ++ [⟨core, g.core, s.cycle + 3, e⟩] }

/-- The entry of an instruction issued by a gang. -/
def State.matEntry (s : State) (g : Gang) (b : Brick) (id : Nat) (i : Instr) (tok : Tok) (a c : Nat → Word) (m : Mask)
    (l : Nat) : MatEntry :=
  { id := id, gid := g.gid, seat := g.seat, tok := tok, brick := b.key, asid := s.asidOf b.key.wall, instr := i, a := a l,
    b := c l, avals := Vector.ofFn fun j => a j.val, bvals := Vector.ofFn fun j => c j.val, lanes := m, lane0 := l,
    step := 0, frozen := none, scales := none, deps := s.covered g }

/-- A class-4 instruction issues (07:R147). -/
def State.matIssue (s : State) (gd : Guard) (os : List Opnd) (tok : Tok) (i : Instr) (a c : Opnd)
    (ops : Word → Word → List MatOp) : Out :=
  s.once gd os false fun g m l =>
    match s.brick? (g.lane l).brick with
    | none => s.done g
    | some b =>
      match matCheck b (ops (s.opnd g 0 a l) (s.opnd g 0 c l)) with
      | some (cause, v) => s.trapEm g cause (BitVec.ofNat 64 v)
      | none =>
        if (b.core == g.core && s.mqHolds b.core) || g.tokFull tok then s.stall g
        else
          let (id, s) := s.newId
          (s.matSend g b.core (s.matEntry g b id i tok (s.opnd g 0 a) (s.opnd g 0 c) m l)).done (g.arm tok)

/-- The operands of a product. -/
def prodOps (m : MmaMod) (rowA alignA : Nat) (a b : Word) : List MatOp :=
  [⟨a, m.asp, 32 * m.sa.toNat, rowA, alignA⟩, ⟨b, m.bsp, 32 * m.sb.toNat, 256, 32⟩]

/-- MMA (07:R153). -/
def execMma (g : Guard) (t : Ty) (tok : Tok) (c : BitVec 3) (a b : Opnd) (m : MmaMod) (s : State) : Out :=
  s.matIssue g [a, b] tok (.mma g t tok c a b m) a b (prodOps m 256 32)

/-- MMA.SR (07:R155). -/
def execMmaSr (g : Guard) (x : Semiring) (tok : Tok) (c : BitVec 3) (a b : Opnd) (m : MmaMod) (s : State) : Out :=
  s.matIssue g [a, b] tok (.mmaSr g x tok c a b m) a b (prodOps m 256 32)

/-- MMA.SP (07:R156). -/
def execMmaSp (g : Guard) (t : Ty) (tok : Tok) (c : BitVec 3) (a b : Opnd) (m : MmaMod) (s : State) : Out :=
  s.matIssue g [a, b] tok (.mmaSp g t tok c a b m) a b (prodOps m 256 32)

/-- MMA.BP (07:R154). -/
def execMmaBp (g : Guard) (p : BitVec 4) (tok : Tok) (c : BitVec 3) (a b : Opnd) (m : MmaMod) (s : State) : Out :=
  s.matIssue g [a, b] tok (.mmaBp g p tok c a b m) a b (prodOps m (32 * p.toNat) 256)

/-- The instructions that read no operand. -/
def State.matPlain (s : State) (gd : Guard) (tok : Tok) (i : Instr) : Out :=
  s.matIssue gd [] tok i (.cst 0) (.cst 0) fun _ _ => []

/-- ACC.ZERO (07:R157). -/
def execAccZero (g : Guard) (tok : Tok) (c : BitVec 3) (s : State) : Out := s.matPlain g tok (.accZero g tok c)

/-- ACC.MOV (07:R157). -/
def execAccMov (g : Guard) (tok : Tok) (c x : BitVec 3) (s : State) : Out := s.matPlain g tok (.accMov g tok c x)

/-- ACC.CVT.S32.F32 (07:R157). -/
def execAccCvtS32F32 (g : Guard) (tok : Tok) (c x : BitVec 3) (s : State) : Out :=
  s.matPlain g tok (.accCvtS32F32 g tok c x)

/-- ACC.CVT.F32.S32 (07:R157). -/
def execAccCvtF32S32 (g : Guard) (tok : Tok) (c x : BitVec 3) (s : State) : Out :=
  s.matPlain g tok (.accCvtF32S32 g tok c x)

/-- ACC.SCALE (07:R158). -/
def execAccScale (g : Guard) (t : Ty) (tok : Tok) (c x : BitVec 3) (a b : Opnd) (asp bsp : Bool) (s : State) : Out :=
  s.matIssue g [a, b] tok (.accScale g t tok c x a b asp bsp) a b fun u v =>
    [⟨u, asp, 0, 256, 32⟩, ⟨v, bsp, 0, 256, 32⟩]

/-- ACC.LD (07:R159). MATRIX_RANGE is checked on the bytes of its own rows (DEDUCED, log 35). -/
def execAccLd (g : Guard) (t : Ty) (tok : Tok) (c : BitVec 3) (a : Opnd) (stride : BitVec 10) (asp : Bool) (s : State) :
    Out :=
  s.matIssue g [a] tok (.accLd g t tok c a stride asp) a a fun u _ => [⟨u, asp, 32 * stride.toNat, 64 * t.bytes, 32⟩]

/-- ACC.ST (07:R159). MATRIX_RANGE is checked on the bytes it writes (07:R150 speaks of those read; DESIGN CHOICE, log 35). -/
def execAccSt (g : Guard) (t : Ty) (tok : Tok) (c : BitVec 3) (a : Opnd) (stride : BitVec 10) (asp : Bool) (s : State) :
    Out :=
  s.matIssue g [a] tok (.accSt g t tok c a stride asp) a a fun u _ => [⟨u, asp, 32 * stride.toNat, 64 * t.bytes, 32⟩]

/-- ACC.GET (07:R160): its value arrives when the engine reaches it. -/
def execAccGet (g : Guard) (t : Ty) (c : BitVec 3) (a : Opnd) (s : State) : Out :=
  s.perLane g [a] fun G m =>
    match lowest m with
    | none => s.done (G.push 0 .none fun _ => 0)
    | some l =>
      match s.brick? (G.lane l).brick with
      | none => s.done G
      | some b =>
        if b.core == G.core && s.mqHolds b.core then s.stall G
        else
          let (id, s) := s.newId
          let e := s.matEntry G b id (.accGet g t c a) none (s.opnd G 0 a) (fun _ => 0) m l
          let v : LateVal := ⟨id, G.gid, .none, m, Vector.replicate 32 0, false⟩
          let s : State := { s with lates := s.lates ++ [v] }
          (s.matSend G b.core e).done (G.pushPending m .none id)

/-- ACC.PUT and its ADD form (07:R160). -/
def State.accPut (s : State) (gd : Guard) (i : Instr) (a b : Opnd) : Out :=
  s.matIssue gd [a, b] none i a b fun _ _ => []

def execAccPut (g : Guard) (t : Ty) (c : BitVec 3) (a b : Opnd) (s : State) : Out := s.accPut g (.accPut g t c a b) a b

def execAccPutAdd (g : Guard) (t : Ty) (c : BitVec 3) (a b : Opnd) (s : State) : Out :=
  s.accPut g (.accPutAdd g t c a b) a b

/-- The order in which arrivals enter: the cycle, then (source core, seat). -/
def MatArrival.key (a : MatArrival) : Nat := a.cycle * 2 ^ 16 + a.fromCore * 16 + a.entry.seat

/-- MATRIX_REMOTE_ARRIVAL (13:R275): the first of the arrivals at a core enters its queue; while the queue takes none they
wait. -/
def execMatrixRemoteArrival (core : Nat) (s : State) : Out :=
  match ((s.mortarAt core).insertionSort fun x y => x.key ≤ y.key).head? with
  | none => .refused .cannotOccur
  | some a =>
    if s.mqFull core then .refused .cannotOccur
    else .next (({ s with matArrivals := s.matArrivals.erase a } : State).enterMq core a.entry)

/-! ### Reads and writes of memory (07:R151) -/

/-- Bytes within one line, through the core's L1. A line it fills takes the priority of a read-only one; a gang that issues
on another core stores past this L1, so that for it the line is filled anew. -/
def State.lineRead (s : State) (gid core asid pa n : Nat) : List Byte × State :=
  let foot := footOf core
  let s := if (s.l1At core pa false).isSome && ((s.gang? gid).all fun g => g.core == core) then s
    else s.fillLine core asid (s.viewFoot (s.partOf foot) foot pa) pa false true
  match s.l1At core pa false with
  | some x => (lineBytes x.data pa n, s)
  | none => (List.replicate n 0, s)

/-- The matrix engine's read of global memory. -/
def State.matGlobal (s : State) (gid core asid va n : Nat) (deps : List Nat) : EngRes (List Byte) :=
  if n = 0 then .ok [] s
  else if deps.any (s.hidden (footOf core)) then .wait
  else match s.engPages core asid va n .read with
    | .wait => .wait
    | .fault c v => .fault c v
    | .poison c w => .poison c w
    | .ok f s =>
      match s.portDown f n with
      | some i => .fault 0x4E (va + i)
      | none =>
        if s.portWaits f n || !((lineParts va n).all fun p =>
            s.ownReached core (f p.1 / 128 * 128) 128 && !s.accepted (s.coreOf gid) (f p.1) p.2) then .wait
        else match (lineParts va n).find? fun p => s.poisoned (f p.1) || s.l1Bad core (f p.1) p.2 false with
          | some p => .poison 0x4D (va + p.1)
          | none =>
            let r := (lineParts va n).foldl (fun (acc : List Byte × State) p =>
              let x := acc.2.lineRead gid core asid (f p.1) p.2
              (acc.1 ++ x.1, x.2)) ([], s)
            .ok r.1 r.2

/-- A read of `n` bytes of an operand. -/
def State.matRead (s : State) (core : Nat) (e : MatEntry) (spad : Bool) (va n : Nat) : EngRes (List Byte) :=
  if spad then (if e.deps.any s.isOpen then .wait else s.engSpad e.gid e.id e.brick va n) else s.matGlobal e.gid core e.asid (va % 2 ^ 56) n e.deps

/-- Reads one after another. -/
def readAll (rd : State → α → EngRes β) : List α → State → EngRes (List β)
  | [], s => .ok [] s
  | x :: r, s =>
    match rd s x with
    | .ok y s =>
      match readAll rd r s with
      | .ok ys s => .ok (y :: ys) s
      | .wait => .wait
      | .fault c v => .fault c v
      | .poison c w => .poison c w
    | .wait => .wait
    | .fault c v => .fault c v
    | .poison c w => .poison c w

/-- What follows an access that is done. -/
def EngRes.then (r : EngRes α) (k : α → State → EngRes β) : EngRes β :=
  match r with
  | .ok x s => k x s
  | .wait => .wait
  | .fault c v => .fault c v
  | .poison c w => .poison c w

/-- A write by the engine, checked before. -/
def State.matWrite (s : State) (core : Nat) (e : MatEntry) (spad : Bool) (va : Nat) (bs : List Byte) : State :=
  if spad then s.spadWrite e.brick va bs else s.spaceWrite ⟨e.id, e.gid, core⟩ e.asid e.brick (false, va) bs

/-! ### The elements of a step (07:R152-R156) -/

/-- The element patterns of a chunk of a row. -/
def elems (w : Nat) (bs : List Byte) : List Nat :=
  (List.range (bs.length / w)).map fun i => leNat ((bs.drop (w * i)).take w)

/-- The 16 values of chunk `j` of a bit-plane row read at `p` planes, whose two bytes per plane are `bs`. -/
def planeElems (p j : Nat) (bs : List Byte) : List Nat :=
  (List.range 16).map fun i => bpValue (fun n => (bs.getD (2 * (n / 32) + (n % 32 - 2 * j)) 0).toNat) p (16 * j + i)

/-- A pair that MMA.SP skips: one element is all zero bits and the other is finite. -/
def skipped (f : Fmt) (a b : Nat) : Bool :=
  let fin := fun p => match f.val p with
    | .num .. => true
    | _ => false
  (a == 0 && fin b) || (b == 0 && fin a)

/-- The sum of the products of signed bytes. -/
def byteSum (row col : List Nat) : Int :=
  (List.zipWith (fun a b => sval 8 (BitVec.ofNat 64 a) * sval 8 (BitVec.ofNat 64 b)) row col).foldl (· + ·) 0

/-- A cell after one chunk of MMA or MMA.SP (07:R153, R156). -/
def mmaCell (t : Ty) (sparse : Bool) (c : BitVec 32) (row col : List Nat) : BitVec 32 :=
  match tyFmt t with
  | none => c + BitVec.ofInt 32 (byteSum row col)
  | some f =>
    let ps := (List.zip row col).filter fun x => !(sparse && skipped f x.1 x.2)
    let x := FVal.sum (ps.map fun x => (f.val x.1).mul (f.val x.2))
    BitVec.ofNat 32 (Fmt.f32.add .rne c.toNat (Fmt.f32.ofVal x))

/-- The product and the sum of a semiring on F32 and S32 patterns (07:R155). -/
def srTerm (x : Semiring) (a b : Nat) : Nat :=
  match x with
  | .minplusF32 => Fmt.f32.add .rne a b
  | .minplusF16 => Fmt.f32.add .rne (Fmt.f16.toF32 a) (Fmt.f16.toF32 b)
  | .minplusS32 =>
    uval 32 (red 32 (clamp (-2 ^ 31) (2 ^ 31 - 1) (sval 32 (BitVec.ofNat 64 a) + sval 32 (BitVec.ofNat 64 b))))
  | .maxtimesF32 => Fmt.f32.mul .rne a b
  | .maxtimesF16 => Fmt.f32.mul .rne (Fmt.f16.toF32 a) (Fmt.f16.toF32 b)
  | .orand => a &&& b

def srSum (x : Semiring) (c v : Nat) : Nat :=
  match x with
  | .minplusF32 | .minplusF16 => Fmt.f32.min c v
  | .minplusS32 => if sval 32 (BitVec.ofNat 64 v) < sval 32 (BitVec.ofNat 64 c) then v else c
  | .maxtimesF32 | .maxtimesF16 => Fmt.f32.max c v
  | .orand => if c ≠ 0 ∨ v ≠ 0 then 1 else 0

/-- A cell after one chunk of MMA.SR. -/
def srCell (x : Semiring) (c : BitVec 32) (row col : List Nat) : BitVec 32 :=
  BitVec.ofNat 32 ((List.zipWith (srTerm x) row col).foldl (srSum x) c.toNat)

/-- Element bytes of a semiring's operands; ORAND's bits are taken byte by byte. -/
def srBytes : Semiring → Nat
  | .minplusF16 | .maxtimesF16 => 2
  | .orand => 1
  | _ => 4

/-- A product as its steps see it: the strides and spaces, the bytes of A's chunk in each row (offset and length), how
rows and columns are read, and the new value of a cell. -/
structure Product where
  shape : Shape
  m : MmaMod
  partsA : Nat → List (Nat × Nat)
  elemsA : Nat → List Byte → List Nat
  elemsB : List Byte → List Nat
  cell : BitVec 32 → List Nat → List Nat → BitVec 32

/-- The product of a matrix instruction. -/
def productOf : Instr → Option Product
  | .mma _ t _ _ _ _ m =>
    let x := tyShape t
    some ⟨x, m, fun j => [(x.bytes * j, x.bytes)], fun _ => elems t.bytes, elems t.bytes, mmaCell t false⟩
  | .mmaSp _ t _ _ _ _ m =>
    let x := tyShape t
    some ⟨x, m, fun j => [(x.bytes * j, x.bytes)], fun _ => elems t.bytes, elems t.bytes, mmaCell t true⟩
  | .mmaSr _ r _ _ _ _ m =>
    let x := srShape r
    some ⟨x, m, fun j => [(x.bytes * j, x.bytes)], fun _ => elems (srBytes r), elems (srBytes r), srCell r⟩
  | .mmaBp _ p _ _ _ _ m =>
    some ⟨⟨16, 64⟩, m, fun j => (List.range p.toNat).map fun b => (32 * b + 2 * j, 2), planeElems p.toNat, elems 1,
      mmaCell .s8 false⟩
  | _ => none

/-- A step of a product (07:R152): chunks ascending, bands ascending within a chunk. -/
def State.productStep (s : State) (core : Nat) (e : MatEntry) (p : Product) : EngRes MatEntry :=
  let j := e.step / p.shape.bands
  let r0 := p.shape.band * (e.step % p.shape.bands)
  let a := matAddr e.a
  let b := matAddr e.b
  let n := p.shape.bytes
  let rowA := fun (s : State) (i : Nat) =>
    (readAll (fun s (x : Nat × Nat) => s.matRead core e p.m.asp (a + 32 * p.m.sa.toNat * (r0 + i) + x.1) x.2)
      (p.partsA j) s).then fun bs s => .ok (p.elemsA j bs.flatten) s
  let colB := fun (s : State) (c : Nat) =>
    (s.matRead core e p.m.bsp (b + 32 * p.m.sb.toNat * c + n * j) n).then fun bs s => .ok (p.elemsB bs) s
  (readAll rowA (List.range p.shape.band) s).then fun rows s =>
  (readAll colB (List.range 64) s).then fun cols s =>
  (s.readCells e.brick (matTile e.instr) (64 * r0) (64 * p.shape.band)).then fun old s =>
    let new := (List.zip rows (List.range p.shape.band)).flatMap fun x =>
      (List.zip cols (List.range 64)).map fun y => p.cell (old.getD (64 * x.2 + y.2) 0) x.1 y.1
    .ok e (s.writeCells e.brick (matTile e.instr) (64 * r0) new)

/-! ### Tile operations (07:R157-R160) -/

/-- S32 to F32, and F32 to S32 by nearest with clamping. -/
def cellS32F32 (c : BitVec 32) : BitVec 32 := BitVec.ofNat 32 (Fmt.f32.roundInt .rne false false c.toInt 0)

def cellF32S32 (c : BitVec 32) : BitVec 32 :=
  match Fmt.f32.val c.toNat with
  | .nan => 0
  | .inf x => BitVec.ofInt 32 (if x then -2 ^ 31 else 2 ^ 31 - 1)
  | .num x m e => BitVec.ofInt 32 (clamp (-2 ^ 31) (2 ^ 31 - 1) (sgn x (roundAt .rne x m e false 0)))

/-- `c_d` of 07:R158. -/
def scaleCell (t : Ty) (d src : BitVec 32) (sa sb : Nat) : BitVec 32 :=
  let v := if t = .s32 then Fmt.f32.val (cellS32F32 src).toNat else Fmt.f32.val src.toNat
  let x := Fmt.f32.ofVal ((v.mul (Fmt.f32.val sa)).mul (Fmt.f32.val sb))
  BitVec.ofNat 32 (Fmt.f32.add .rne d.toNat x)

/-- A cell as ACC.LD and ACC.ST convert it. -/
def loadCell (t : Ty) (p : Nat) : BitVec 32 :=
  match t with
  | .f16 => BitVec.ofNat 32 (Fmt.f16.toF32 p)
  | .bf16 => BitVec.ofNat 32 (Fmt.bf16.toF32 p)
  | _ => BitVec.ofNat 32 p

def storeCell (t : Ty) (c : BitVec 32) : List Byte :=
  match t with
  | .f16 => natLe 2 (Fmt.f16.ofVal (Fmt.f32.val c.toNat))
  | .bf16 => natLe 2 (Fmt.bf16.ofVal (Fmt.f32.val c.toNat))
  | _ => natLe 4 c.toNat

/-- One band of 8 rows rewritten from a source tile and the old cells. -/
def State.tileStep (s : State) (e : MatEntry) (src : Nat) (f : Nat → BitVec 32 → BitVec 32 → BitVec 32) (useOld : Bool) :
    EngRes MatEntry :=
  let lo := 512 * e.step
  (s.readCells e.brick src lo 512).then fun xs s =>
  (if useOld then s.readCells e.brick (matTile e.instr) lo 512 else .ok [] s).then fun old s =>
    .ok e (s.writeCells e.brick (matTile e.instr) lo (xs.mapIdx fun i x => f (lo + i) (old.getD i 0) x))

/-- The scales of ACC.SCALE, read at the first step. -/
def State.withScales (s : State) (core : Nat) (e : MatEntry) (asp bsp : Bool) : EngRes MatEntry :=
  match e.scales with
  | some _ => .ok e s
  | none =>
    (s.matRead core e asp (matAddr e.a) 256).then fun xs s =>
    (s.matRead core e bsp (matAddr e.b) 256).then fun ys s =>
      .ok { e with scales := some (elems 4 xs, elems 4 ys) } s

/-- The cells of ACC.GET and ACC.PUT in lane `l`: cell numbers of the pair's first. -/
def MatEntry.pair (e : MatEntry) (l : Nat) : Nat := 64 * bits (Lanes.at e.avals l) 0 6 + 2 * l

/-- ACC.PUT in every lane. -/
def State.putStep (s : State) (e : MatEntry) (f : BitVec 32 → BitVec 32 → BitVec 32) (reads : Bool) : EngRes MatEntry :=
  let t := matTile e.instr
  (readAll (fun s l => if reads then s.readCells e.brick t (e.pair l) 2 else .ok [0, 0] s) (lanesOf e.lanes) s).then
    fun old s =>
      .ok e ((List.zip (lanesOf e.lanes) old).foldl (fun s (l, o) =>
        let v := Lanes.at e.bvals l
        s.writeCells e.brick t (e.pair l) [f (o.getD 0 0) (v.extractLsb' 0 32), f (o.getD 1 0) (v.extractLsb' 32 32)]) s)

/-- ACC.GET: the values are ready to arrive. -/
def State.getStep (s : State) (e : MatEntry) : EngRes MatEntry :=
  (readAll (fun s l => s.readCells e.brick (matTile e.instr) (e.pair l) 2) (lanesOf e.lanes) s).then fun vs s =>
    let val := fun l => match (List.zip (lanesOf e.lanes) vs).find? fun x => x.1 == l with
      | some (_, c) => (c.getD 1 0) ++ (c.getD 0 0)
      | none => (0 : Word)
    .ok e { s with lates := s.lates.map fun x =>
      if x.id = e.id then { x with vals := Vector.ofFn fun i => val i.val, ready := true } else x }

/-- ACC.LD: one band of 8 rows. -/
def State.ldStep (s : State) (core : Nat) (e : MatEntry) (t : Ty) (stride : Nat) (asp : Bool) : EngRes MatEntry :=
  (readAll (fun s i => s.matRead core e asp (matAddr e.a + 32 * stride * (8 * e.step + i)) (64 * t.bytes)) (List.range 8) s).then
    fun rows s =>
      .ok e (s.writeCells e.brick (matTile e.instr) (512 * e.step) ((rows.flatMap (elems t.bytes)).map (loadCell t)))

/-- ACC.ST: one band of 8 rows, in ascending order, once every row's place is known to take it. -/
def State.stStep (s : State) (core : Nat) (e : MatEntry) (t : Ty) (stride : Nat) (asp : Bool) : EngRes MatEntry :=
  let place := fun i => let x := matAddr e.a + 32 * stride * (8 * e.step + i); if asp then x else x % 2 ^ 56
  if e.deps.any s.isOpen then .wait
  else
    (readAll (fun s i => s.spaceCheck e.gid core e.asid (asp, place i) (64 * t.bytes)) (List.range 8) s).then fun _ s =>
    (s.readCells e.brick (matTile e.instr) (512 * e.step) 512).then fun cs s =>
      .ok e ((List.range 8).foldl (fun s i =>
        s.matWrite core e asp (place i) (((cs.drop (64 * i)).take 64).flatMap (storeCell t))) s)

/-- A step of an instruction (07:R152, R157-R160). -/
def State.matStep (s : State) (core : Nat) (e : MatEntry) : EngRes MatEntry :=
  match productOf e.instr with
  | some p => s.productStep core e p
  | none =>
    match e.instr with
    | .accZero _ _ c => .ok e (s.writeCells e.brick c.toNat (512 * e.step) (List.replicate 512 0))
    | .accMov _ _ _ x => s.tileStep e x.toNat (fun _ _ v => v) false
    | .accCvtS32F32 _ _ _ x => s.tileStep e x.toNat (fun _ _ v => cellS32F32 v) false
    | .accCvtF32S32 _ _ _ x => s.tileStep e x.toNat (fun _ _ v => cellF32S32 v) false
    | .accScale _ t _ _ x _ _ asp bsp =>
      (s.withScales core e asp bsp).then fun e s =>
        let sa := fun k => (e.scales.map fun p => p.1.getD (k / 64) 0).getD 0
        let sb := fun k => (e.scales.map fun p => p.2.getD (k % 64) 0).getD 0
        s.tileStep e x.toNat (fun k d v => scaleCell t d v (sa k) (sb k)) true
    | .accLd _ t _ _ _ stride asp => s.ldStep core e t stride.toNat asp
    | .accSt _ t _ _ _ stride asp => s.stStep core e t stride.toNat asp
    | .accGet .. => s.getStep e
    | .accPut .. => s.putStep e (fun _ v => v) false
    | .accPutAdd _ t .. =>
      s.putStep e (fun c v => if t = .s32 then c + v else BitVec.ofNat 32 (Fmt.f32.add .rne c.toNat v.toNat)) true
    | _ => .ok e s

/-! ### The engine (07:R147, R161) -/

/-- The head instruction leaves the queue; its token completes. -/
def State.endMat (s : State) (core : Nat) (e : MatEntry) : State :=
  (s.setMq core ((s.core core).mq.drop 1) ({ e with frozen := none }.mp false)).complete e.gid e.tok

/-- MATRIX_STEP_COMPLETE (07:R152). -/
def execMatrixStepComplete (core : Nat) (s : State) : Out :=
  if core ≥ 384 then .refused .cannotOccur
  else match (s.core core).mq with
    | [] => .refused .cannotOccur
    | e :: rest =>
      if e.frozen.isSome || !s.working e.brick || s.gangHeld e.gid then .refused .cannotOccur
      else match s.matStep core e with
        | .wait => .refused .cannotOccur
        | .fault cause va =>
          let s := s.setMq core ({ e with frozen := some (cause, BitVec.ofNat 64 va) } :: rest) 0
          .next (s.holdEngine (.matrix core) e.gid (s.coreOf e.gid) e.asid cause va)
        | .poison cause w => s.engineError e.gid cause w
        | .ok e s =>
          let e := { e with step := e.step + 1 }
          .next (if e.step = matSteps e.instr then s.endMat core e else s.setMq core (e :: rest) 0)

/-- System software resolves the fault of a core's engine. -/
def State.resumeMatrix (s : State) (core : Nat) : State :=
  match (s.core core).mq with
  | [] => s
  | e :: rest => s.setMq core ({ e with frozen := none } :: rest) 0

/-- It declares the fault unresolvable (07:R161): the completed steps stand. -/
def State.failMatrix (s : State) (core : Nat) : State :=
  match (s.core core).mq with
  | [] => s
  | e :: _ =>
    match e.frozen with
    | none => s
    | some (_, v) => (s.endMat core e).engineFault e.gid (s.coreOf e.gid) e.asid 0x38 v

end Sys2Proof.Machine
end

