-- ==== Sys2Proof/Machine/Units.lean ====
section
/-! DEFINITION. The accesses of the dispatcher, the placement stages, the launch writer and the tick unit (14:R445),
their order in memory (16:R323), and the held accesses. -/

namespace Sys2Proof.Machine

open Sys2Proof

/-! ### Accesses (14:R445; log 9: a unit's walk ends at once) -/

/-- The footing whose slice performs a unit's access. -/
def State.unitHome (s : State) (foot pa : Nat) : Nat := s.homeFoot (s.partOf foot) pa

/-- The physical address of a unit's access for a footing's work, all of it in one page. The access waits for room in the miss table
and its walk for a slot (08:R176, R177). -/
def State.unitPage (s : State) (foot asid va : Nat) (need : Need) : EngRes Nat :=
  let part := s.partOf foot
  if s.walksFull foot || s.walkHeld part asid va then .wait
  else if s.walkShut part asid va then
    (if s.walkCause part asid va = 0x4D then .wait else .fault (s.walkCause part asid va) va)
  else
  let page := s.walkPage part asid va
  let s := s.walkOut part asid va
  match page with
  | none => .fault 0x40 va
  | some e =>
    if !e.allows need then .fault 0x40 va
    else
      let pa := e.phys foot va
      match s.portOf pa with
      | none => if s.poisoned pa && need == .read || !s.missRoom (s.unitHome foot pa) pa then .wait else .ok pa s
      | some p =>
        if !(vget s.peers p).enable then .fault 0x4E va
        else if !(vget s.peers p).ready then .wait else .ok pa s

/-- What a unit reads. -/
structure UnitData where
  pa : Nat
  home : Nat
  bytes : List Byte
deriving DecidableEq, Repr

/-- A unit's read of `n` bytes at their home slice; it waits while one of their lines is poisoned, which delivers no value (14:R297;
log 11). -/
def State.unitRead (s : State) (foot asid va n : Nat) : EngRes UnitData :=
  match s.unitPage foot asid va .read with
  | .ok pa s =>
    if s.poisonedIn pa n then .wait
    else .ok ⟨pa, s.unitHome foot pa, (s.mem (s.unitHome foot pa)).readN pa n⟩
      ((s.touch (s.unitHome foot pa) pa n false).readOut (s.partOf foot) pa n)
  | .wait => .wait
  | .fault c v => .fault c v
  | .poison c w => .poison c w

/-- Word `i` of what was read. -/
def UnitData.word (d : UnitData) (i : Nat) : Word := BitVec.ofNat 64 (leNat ((d.bytes.drop (8 * i)).take 8))

/-- A unit's write at the home slice. -/
def State.unitWrite (s : State) (foot pa : Nat) (bs : List Byte) : State :=
  (s.putWrite { foot := s.unitHome foot pa } (s.partOf foot) pa bs).touch (s.unitHome foot pa) pa bs.length true

/-! ### Order (16:R323) -/

def maxVec (a b : Vector Nat 4) : Vector Nat 4 := Vector.ofFn fun i => Nat.max a[i] b[i]

/-- The epochs an acquire of the writes with these tags observes (20:R389). -/
def seenOf (ts : List WTag) : Vector Nat 4 :=
  Vector.ofFn fun i => (ts.filter fun t => t.src == i.val).foldl (fun n t => Nat.max n (t.epoch + 1)) 0

/-- The epochs that a release on a footing, whose epoch has ended, orders before what follows it. -/
def State.relSeen (s : State) (foot : Nat) : Vector Nat 4 := Vector.ofFn fun i => (s.stampOf foot).getD i.val 0

/-- A footing has observed epochs of the others. -/
def State.raiseAll (s : State) (foot : Nat) (seen : Vector Nat 4) : State :=
  (List.range 4).foldl (fun s g => s.raise foot g (vget seen g)) s

/-- A footing has applied observed epochs. -/
def State.hasApplied (s : State) (foot : Nat) (seen : Vector Nat 4) : Bool :=
  (List.range 4).all fun g => g == foot || decide (vget seen g ≤ s.applied foot g)

/-! ### Held accesses (14:R445) -/

/-- A unit's work is held: one record, and no further one while it stays held at this access. The record's TEPC, for which 14:R294
and R445 give no value, is 0 (DESIGN CHOICE, log 47). -/
def State.holdUnit (s : State) (foot asid seat : Nat) (work : UnitWork) (cause va : Nat) : Out :=
  if s.unitHolds.any fun h => h.work == work && h.faulted && h.addr == va then .refused .cannotOccur
  else
    let s := s.report (s.partOf foot) foot
      { cause := cause, replay := true, engine := true, asid := asid, core := 511, seat := seat, tval := BitVec.ofNat 64 va }
    .next { s with unitHolds := s.unitHolds.filter (fun h => h.work != work) ++ [⟨asid, seat, work, va, true, false⟩] }

/-- A unit's work goes on. -/
def State.unhold (s : State) (work : UnitWork) : State :=
  { s with unitHolds := s.unitHolds.filter fun h => h.work != work }

/-- A unit's work has been declared unresolvable. -/
def State.isDead (s : State) (work : UnitWork) : Bool := s.unitHolds.any fun h => h.work == work && h.dead

/-- Walls taken and not complete (16:R318, R327). -/
def State.openWalls (s : State) : Nat := (s.walls.filter fun w => w.state != .complete).length

end Sys2Proof.Machine
end

