-- ==== Sys2Proof/Machine/Launch.lean ====
section
/-! DEFINITION. Launch records, LAUNCH, and the dispatcher up to a ready wall (16:R316-R323, R328-R332). -/

namespace Sys2Proof.Machine

open Sys2Proof

/-! ### Launch records (16:R328, R329) -/

/-- A word with bits `lo + w - 1 : lo` replaced. -/
def putBits (x : Word) (lo w v : Nat) : Word :=
  BitVec.ofNat 64 (x.toNat - bits x lo w * 2 ^ lo + v % 2 ^ w * 2 ^ lo)

/-- A word of a packet replaced. -/
def Packet.setWord (p : Packet) (i : Nat) (x : Word) : Packet := vset p i x

/-- A record by LREC.NEW. -/
def newRecord (hdr args : Word) (cls : Nat) : Packet :=
  let w2 := putBits (putBits (putBits (putBits 0 0 16 1) 16 16 1) 32 16 1) 57 2 cls
  Packet.setWord (Packet.setWord (Packet.setWord (Vector.replicate 8 0) 0 (putBits 0 16 48 (bits args 8 48))) 1
    (putBits 0 0 56 (bits hdr 0 56))) 2 w2

/-- LREC.NEW (16:R329). -/
def execLrecNew (g : Guard) (a b : Opnd) (s : State) : Out :=
  s.once g [a, b] false fun G _ l =>
    s.done { G with lr := newRecord (s.opnd G 0 a l) (s.opnd G 0 b l) (s.classOf G.brick.wall), lrv := true }

/-- A change of the record; without a record LREC_STATE. -/
def State.lrec (s : State) (gd : Guard) (os : List Opnd) (f : (Opnd → Word) → Packet → Option Packet) : Out :=
  s.once gd os false fun g _ l =>
    if !g.lrv then s.trapEm g 0x59 0
    else match f (fun o => s.opnd g 0 o l) g.lr with
      | some p => s.done { g with lr := p }
      | none => s.trapEm g 0x59 0

/-- LREC.SET.GRID (16:R329). -/
def execLrecSetGrid (g : Guard) (a b c : Opnd) (s : State) : Out :=
  s.lrec g [a, b, c] fun v p =>
    some (Packet.setWord p 2 (putBits (putBits (putBits (vget p 2) 0 16 (bits (v a) 0 16)) 16 16 (bits (v b) 0 16)) 32 16
      (bits (v c) 0 16)))

/-- LREC.SET.COURSE (16:R329). -/
def execLrecSetCourse (g : Guard) (a b c : Opnd) (s : State) : Out :=
  s.lrec g [a, b, c] fun v p =>
    let x := fun o => bits (v o) 0 4
    let bad := [a, b, c].any fun o => x o == 0 || decide (8 < x o)
    let w := putBits (putBits (putBits (vget p 2) 48 3 (x a + 7)) 51 3 (x b + 7)) 54 3 (x c + 7)
    some (Packet.setWord p 2 (putBits w 62 1 (bit bad)))

/-- LREC.SET.CLASS (16:R329). -/
def execLrecSetClass (g : Guard) (a : Opnd) (s : State) : Out :=
  s.lrec g [a] fun v p => some (Packet.setWord p 2 (putBits (vget p 2) 57 2 (bits (v a) 0 2)))

/-- LREC.SET.COUNTER (16:R329). -/
def execLrecSetCounter (g : Guard) (a : Opnd) (s : State) : Out :=
  s.lrec g [a] fun v p =>
    let x := bits (v a) 0 56
    some (Packet.setWord (Packet.setWord p 7 (putBits (vget p 7) 0 56 x)) 2 (putBits (vget p 2) 61 1 (bit (x != 0))))

/-- LREC.WAIT (16:R329). -/
def execLrecWait (g : Guard) (a b : Opnd) (s : State) : Out :=
  s.lrec g [a, b] fun v p =>
    let n := Packet.nwait p
    if 2 ≤ n then none
    else
      let p := Packet.setWord p (3 + 2 * n) (putBits (vget p (3 + 2 * n)) 0 56 (bits (v a) 0 56))
      some (Packet.setWord (Packet.setWord p (4 + 2 * n) (v b)) 2 (putBits (vget p 2) 59 2 (n + 1)))

/-! ### The packet's form (16:R319, R320) -/

/-- No cause of PACKET_FORM holds. -/
def Packet.formOk (p : Packet) : Bool :=
  let z := fun i => vget p i == 0
  bits (vget p 1) 56 8 == 0 && bits (vget p 2) 62 2 == 0 && bits (vget p 3) 56 8 == 0 && bits (vget p 5) 56 8 == 0 &&
  bits (vget p 7) 56 8 == 0 && Packet.nwait p != 3 && Packet.x p != 0 && Packet.y p != 0 && Packet.z p != 0 &&
  decide (Packet.cx p * Packet.cy p * Packet.cz p ≤ 8) && Packet.hdr p != 0 && Packet.hdr p % 64 == 0 &&
  bits (vget p 3) 0 56 % 8 == 0 && bits (vget p 5) 0 56 % 8 == 0 && Packet.cnt p % 8 == 0 &&
  (Packet.nwait p != 0 || (z 3 && z 4)) && (decide (2 ≤ Packet.nwait p) || (z 5 && z 6)) && (Packet.inc p || z 7)

/-! ### LAUNCH (16:R330) -/

/-- LAUNCH: the record's copy goes to the pending queue, to the launch writer, or nowhere. -/
def execLaunch (g : Guard) (tok : Tok) (s : State) : Out :=
  s.once g [] true fun G m l =>
    let p : Packet := G.lr
    if !G.lrv || !Packet.formOk p || Packet.cls p == 0 || decide (Packet.cls p < s.classOf G.brick.wall) then
      s.trapEm G 0x58 0
    else match s.brick? (G.lane l).brick with
      | none => s.done G
      | some b =>
        if G.tokFull tok then s.stall G
        else if b.pendq.length < 4 then
          let r : PendRec :=
            { words := p, entered := s.cycle, gid := G.gid, tok := tok, core := G.core, seat := G.seat, deps := s.covered G }
          let (s, G) := (s.setBrick { b with pendq := b.pendq ++ [r] }).late (G.arm tok) m .none fun _ => 0
          s.done G
        else if (((s.header? b.key.wall).map fun h => h.ovfq).getD 0) = 0 then
          let (s, G) := s.late G m .none fun _ => 2
          s.done G
        else
          let (id, s) := s.newId
          let r : OvfReq :=
            { id := id, wall := b.key.wall, gid := G.gid, core := G.core, seat := G.seat, tok := tok, words := p,
              deps := s.covered G }
          let v : LateVal := ⟨id, G.gid, .none, m, Vector.replicate 32 0, false⟩
          ({ s with ovf := s.ovf ++ [r], lates := s.lates ++ [v] } : State).done ((G.arm tok).pushPending m .none id)

/-! ### Walls (16:R318, R320, R322) -/

/-- The home footing of a wall's overflow descriptor, once its page is mapped (16:R325). -/
def State.ovfHome (s : State) (foot asid a : Nat) : Nat :=
  match s.walkPage (s.partOf foot) asid a with
  | some e => s.unitHome foot (e.phys foot a)
  | none => foot

/-- The dispatcher serves a wall's overflow ring (16:R332). -/
def State.serveRing (s : State) (w : Wall) (a : Nat) : State :=
  let others := s.queues.filter fun q => q.wall != some w.id
  if a = 0 then { s with queues := others }
  else
    { s with queues := others ++
        [{ desc := a, asid := w.asid, maxcls := w.cls, home := s.ovfHome w.foot w.asid a, served := true, wall := some w.id }] }

/-- The overflow ring that the header names when the wall is taken, where it can be read then, after what the launch ordered before it
(16:R323, R332). -/
def State.ringAtTaking (s : State) (w : Wall) : State :=
  match s.unitRead w.foot w.asid ((Packet.hdr w.words + 16) % 2 ^ 56) 8 with
  | .ok d t =>
    let a := (d.word 0).toNat
    if !s.hasApplied d.home w.seen ∨ a = 0 ∨ 2 ^ 56 ≤ a ∨ a % 128 ≠ 0 then s else t.serveRing w a
  | _ => s

/-- A wall taken at this moment; it is ready at once when it names no wait. -/
def State.addWall (s : State) (asid foot slot : Nat) (src : Source) (p : Packet) (seen : Vector Nat 4)
    (args : Vector Word 8 := Vector.replicate 8 0) : State :=
  let (id, s) := s.newId
  let w : Wall :=
    { id := id, asid := asid, cls := Packet.cls p, words := p, src := src, foot := foot,
      state := if Packet.nwait p = 0 then .ready else .waiting, readyAt := s.cycle, header := none,
      args := args, nextSet := 0, slot := slot, seen := seen, ends := Vector.replicate 4 0, ended := false }
  ({ s with walls := s.walls ++ [w] } : State).ringAtTaking w

/-- The core and seat a rejection names (16:R320). -/
def Source.coreSeat : Source → Nat × Nat
  | .pending c p => (c, p)
  | _ => (0, 0)

/-- The descriptor of a ring source. -/
def Source.desc : Source → Option (Nat × Nat)
  | .queue a d | .overflow a d => some (a, d)
  | _ => none

/-- ECAUSE and ESEQ of a descriptor, when EVALID is 0 (16:R316, R320): none while the access has to wait. A descriptor that cannot be
read and written any more takes nothing: R320 gives no fate (DESIGN CHOICE, log 40). -/
def State.tryMark (s : State) (foot : Nat) (m : DescMark) : Option State :=
  match s.unitRead foot m.asid (m.desc + 32) 8 with
  | .fault .. => some s
  | .ok d t =>
    if (d.word 0).getLsbD 63 then some t
    else match t.unitPage foot m.asid (m.desc + 32) .write with
      | .fault .. => some s
      | .ok pa t => some (t.unitWrite foot pa (natLe 8 (m.cause + field 16 (m.seq % 65536) + field 63 1)))
      | _ => none
  | _ => none

/-- The mark waits behind the footing's others. -/
def State.oweMark (s : State) (foot : Nat) (m : DescMark) : State :=
  let f := vget s.foots foot
  s.setFoot foot { f with owedMarks := f.owedMarks ++ [m] }

/-- A descriptor takes a mark, now or once it can: no mark of a descriptor passes an earlier one. -/
def State.markDesc (s : State) (foot : Nat) (m : DescMark) : State :=
  if (vget s.foots foot).owedMarks.any fun x => x.asid == m.asid && x.desc == m.desc then s.oweMark foot m
  else (s.tryMark foot m).getD (s.oweMark foot m)

/-- The marks that waited, tried again in order. -/
def State.serveMarks (s : State) (foot : Nat) : State :=
  let f := vget s.foots foot
  f.owedMarks.foldl (fun s m => s.markDesc foot m) (s.setFoot foot { f with owedMarks := [] })

/-- A rejection reported (16:R320). -/
def State.reject (s : State) (asid foot slot seq : Nat) (src : Source) (cause : Nat) : State :=
  let (core, seat) := src.coreSeat
  let s := s.report (s.partOf foot) foot
    { cause := cause, engine := true, asid := asid, core := core, seat := seat, tval := BitVec.ofNat 64 slot, src := some (480 + foot) }
  match src.desc with
  | some (a, d) => s.markDesc foot ⟨a, d, cause, seq⟩
  | none => s

/-- A taken wall rejected (16:R320): it leaves. -/
def State.rejectWall (s : State) (w : Wall) (cause : Nat) : State :=
  let s := { s with walls := s.walls.filter fun x => x.id != w.id, nofit := s.nofit.filter fun x => x.wall != w.id }
  s.reject w.asid w.foot w.slot (Packet.seq w.words) w.src cause

/-! ### Rings (16:R316-R318) -/

/-- A descriptor as read: the indices, the ring. -/
structure QDesc where
  wr : Word
  rd : Word
  ring : Nat
  logsz : Nat
  valid : Bool
deriving DecidableEq, Repr

def UnitData.qdesc (d : UnitData) : QDesc :=
  let w2 := d.word 2
  let w3 := d.word 3
  let w4 := d.word 4
  { wr := d.word 0, rd := d.word 1, ring := bits w2 0 56, logsz := bits w3 0 4,
    valid := bits w2 56 8 == 0 && bits w3 4 60 == 0 && bits w3 0 4 != 0 && bits w4 8 8 == 0 && bits w4 32 31 == 0 }

/-- The address of slot `i` of a ring; a RING that is not aligned to 64 bytes is taken as it is (16:R316 gives no fate; DESIGN CHOICE,
log 40). -/
def QDesc.slot (d : QDesc) (i : Word) : Nat := (d.ring + 64 * (i.toNat % 2 ^ d.logsz)) % 2 ^ 56

/-- A packet's words. -/
def UnitData.packet (d : UnitData) : Packet := Vector.ofFn fun i => d.word i.val

/-- An overflow ring is served no more once its wall is complete and it is empty (16:R332). -/
def State.dropRing (s : State) (q : Queue) (empty : Bool) : State :=
  match q.wall with
  | some w =>
    if empty && (s.wall? w).isNone then { s with queues := s.queues.filter fun x => x.wall != some w } else s
  | none => s

/-- A wall has left: its ring is served on only while it is not empty. -/
def State.dropRings (s : State) (wall : Nat) : State :=
  let empty := fun (q : Queue) => match s.unitRead q.home q.asid q.desc 40 with
    | .ok u _ => u.qdesc.valid && u.qdesc.wr == u.qdesc.rd
    | _ => false
  { s with queues := s.queues.filter fun q => !(q.wall == some wall && empty q) }

/-- A slot's packet taken: RDIDX written, the packet checked (16:R318, R320). -/
def State.takeSlot (s : State) (q : Queue) (d : QDesc) (slot : Nat) (x : UnitData) (rdPa : Nat) : State :=
  let p := x.packet
  let s := s.unitWrite q.home rdPa (natLe 8 (d.rd + 1).toNat)
  let src := if q.wall.isSome then Source.overflow q.asid q.desc else Source.queue q.asid q.desc
  let s := if !Packet.formOk p then s.reject q.asid q.home slot (Packet.seq p) src 0x50
    else if Packet.cls p < q.maxcls then s.reject q.asid q.home slot (Packet.seq p) src 0x52
    else s.addWall q.asid q.home slot src p (seenOf (s.tagsAt x.home x.pa 64))
  s.dropRing q (d.rd + 1 == d.wr)

/-- The queue with its home footing: a ring's is that of its descriptor's line (16:R325). -/
def State.atHomeOf (s : State) (q : Queue) : Queue :=
  if q.wall.isSome then { q with home := s.ovfHome q.home q.asid q.desc } else q

/-- The dispatcher serves a queue. A slot is claimed while WRIDX is above RDIDX (16:R318); a slot whose word 0 is not
written yet holds the queue back. -/
def State.serve (s : State) (q : Queue) (reread : Bool) : Out :=
  let q := s.atHomeOf q
  let work := UnitWork.queueRead q.asid q.desc
  let hold := fun (s : State) (c va : Nat) => s.holdUnit q.home q.asid 0 work c va
  if !q.served || 16384 ≤ s.openWalls then .refused .cannotOccur
  else match s.unitRead q.home q.asid q.desc 40 with
    | .fault c va => hold s c va
    | .ok u s =>
      let d := u.qdesc
      if !d.valid || decide (d.wr.toNat ≤ d.rd.toNat) then
        (if reread && d.valid && d.wr == d.rd && q.wall.any (fun w => (s.wall? w).isNone) then .next (s.dropRing q true)
         else .refused .cannotOccur)
      else
        let slot := d.slot d.rd
        match s.unitRead q.home q.asid slot 64 with
        | .fault c va => hold s c va
        | .ok x s =>
          if bits (x.word 0) 0 16 ≠ d.rd.toNat % 65536 then
            (if reread then .next (s.unhold work) else .refused .cannotOccur)
          else match s.unitPage q.home q.asid (q.desc + 8) .write with
            | .fault c va => hold s c va
            | .ok pa s => .next ((s.unhold work).takeSlot q d slot x pa)
            | _ => .refused .cannotOccur
        | _ => .refused .cannotOccur
    | _ => .refused .cannotOccur

/-- PACKET_TAKE (16:R318). -/
def execPacketTake (queue : Nat) (s : State) : Out :=
  match s.queues[queue]? with
  | some q => s.serve q false
  | none => .refused .cannotOccur

/-- QUEUE_REREAD (16:R318): at least once every 1 µs while WRIDX is above RDIDX. -/
def execQueueReread (queue : Nat) (s : State) : Out :=
  match s.queues[queue]? with
  | some q => s.serve q true
  | none => .refused .cannotOccur

/-! ### Waits (16:R322) -/

/-- The counters of a wall's waits read at their home slices, after what the launch ordered before them (16:R323): none when one
falls short, else what was observed. -/
def State.readWaits (s : State) (w : Wall) : List (Nat × Word) → EngRes (Option (Vector Nat 4))
  | [] => .ok (some (Vector.replicate 4 0)) s
  | (va, v) :: r =>
    match s.unitRead w.foot w.asid va 8 with
    | .ok d s =>
      if !s.hasApplied d.home w.seen then .wait
      else if decide (0 ≤ (d.word 0 - v).toInt) then
        match s.readWaits w r with
        | .ok (some x) s => .ok (some (maxVec x (seenOf (s.tagsAt d.home d.pa 8)))) s
        | .ok none s => .ok none s
        | .wait => .wait
        | .fault c v => .fault c v
        | .poison c w => .poison c w
      else .ok none s
    | .wait => .wait
    | .fault c v => .fault c v
    | .poison c w => .poison c w

/-- WALL_READY (16:R322). -/
def execWallReady (wall : Nat) (s : State) : Out :=
  match s.wall? wall with
  | none => .refused .cannotOccur
  | some w =>
    if w.state ≠ .waiting then .refused .cannotOccur
    else match s.readWaits w (Packet.waits w.words) with
      | .ok (some x) s =>
        .next ((s.unhold (.counter wall)).setWall { w with state := .ready, readyAt := s.cycle, seen := maxVec w.seen x })
      | .fault c va => s.holdUnit w.foot w.asid 0 (.counter wall) c va
      | _ => .refused .cannotOccur

/-! ### Records of bricks (16:R331, R332) -/

/-- PENDING_LAUNCH_TAKE (16:R331): the placement stage takes a brick's oldest record. -/
def execPendingLaunchTake (wall brick : Nat) (s : State) : Out :=
  match s.brick? ⟨wall, brick⟩ with
  | none => .refused .cannotOccur
  | some b =>
    match b.pendq with
    | [] => .refused .cannotOccur
    | r :: rest =>
      let foot := footOf r.core
      let f := vget s.foots foot
      if s.cycle < r.entered + 32 ∨ s.cycle < f.taken + 32 ∨ 16384 ≤ s.openWalls ∨ r.deps.any (s.hidden (footOf r.core)) then
        .refused .cannotOccur
      else
        let asid := s.asidOf wall
        let s := (s.setBrick { b with pendq := rest }).setFoot foot { f with taken := s.cycle }
        let s := (s.endEpoch foot).complete r.gid r.tok
        .next (s.addWall asid foot 0 (.pending r.core r.seat) r.words (s.relSeen foot))

/-- A launch's route known: its value and its token (16:R330). -/
def State.route (s : State) (r : OvfReq) (n : Nat) : State :=
  let set := fun (v : LateVal) =>
    if v.id = r.id then { v with vals := Vector.replicate 32 (BitVec.ofNat 64 n), ready := true } else v
  ({ s with ovf := s.ovf.filter fun x => x.id != r.id, lates := s.lates.map set } : State).complete r.gid r.tok

/-- A claim that does not translate: one record, no hold, route 2 (16:R332). -/
def State.claimFault (s : State) (r : OvfReq) (cause va : Nat) : State :=
  let foot := footOf r.core
  (s.report (s.partOf foot) foot
    { cause := cause, engine := true, asid := s.asidOf r.wall, core := r.core, seat := r.seat,
      tval := BitVec.ofNat 64 va }).route r 2

/-- A slot claimed and written (16:R332): words 1 to 7, then word 0 with release at device scope. -/
def State.writeClaim (s : State) (r : OvfReq) (d : QDesc) (foot home wrPa slotPa : Nat) : State :=
  let s := s.endEpoch foot
  let part := s.partOf foot
  let s := s.putWrite { foot := home, gid := r.gid } part wrPa (natLe 8 (d.wr + 1).toNat)
  let s := s.raise foot home ((vget s.foots home).epoch + 1)
  let words := r.words.toList
  let s := s.putWrite { foot := foot, gid := r.gid } part (slotPa + 8) ((words.drop 1).flatMap fun w => natLe 8 w.toNat)
  let s := s.endEpoch foot
  let w0 := putBits (vget r.words 0) 0 16 d.wr.toNat
  s.putWrite { foot := foot, gid := r.gid } part slotPa (natLe 8 w0.toNat)

/-- The address of the overflow descriptor of a wall. -/
def State.ovfDesc (s : State) (wall : Nat) : Nat := ((s.header? wall).map fun h => h.ovfq.toNat).getD 0

/-- The slice, of 96, that a claim goes to, once its release is done. -/
def State.claimAt (s : State) (r : OvfReq) : Option Nat :=
  let foot := footOf r.core
  match s.unitPage foot (s.asidOf r.wall) (s.ovfDesc r.wall) .write with
  | .ok pa _ =>
    let home := s.unitHome foot pa
    if r.deps.any (s.hidden foot) then none else some (24 * home + s.sliceOf home pa)
  | _ => none

/-- A claim that the same core group sent to the same slice before is still on its way (02:R17). -/
def State.claimBehind (s : State) (r : OvfReq) : Bool :=
  s.ovf.any fun x => decide (x.id < r.id) && groupOf x.core == groupOf r.core && (s.claimAt x).isSome &&
    s.claimAt x == s.claimAt r

/-- OVERFLOW_CLAIM (16:R332). -/
def execOverflowClaim (req : Nat) (s : State) : Out :=
  match s.ovf.find? fun r => r.id == req with
  | none => .refused .cannotOccur
  | some r =>
    let foot := footOf r.core
    let asid := s.asidOf r.wall
    let desc := s.ovfDesc r.wall
    if r.deps.any (s.hidden foot) || s.claimBehind r then .refused .cannotOccur
    else match s.unitPage foot asid desc .write with
      | .fault c va => .next (s.claimFault r c va)
      | .ok pa s =>
        let home := s.unitHome foot pa
        let u : UnitData := ⟨pa, home, (s.mem home).readN pa 40⟩
        let d := u.qdesc
        if s.poisoned pa then s.engineError r.gid 0x4D desc
        else if !d.valid then .next (s.route r 2)
        else match s.unitPage foot asid (d.slot d.wr) .write with
          | .fault c va => .next (s.claimFault r c va)
          | .ok slotPa s =>
            if !s.homeReady r.core pa 128 || !(home == foot || s.mayApply home (s.stampOf foot))
                || !((s.endEpoch foot).hostReady foot pa && (s.endEpoch foot).hostReady foot slotPa) then .refused .cannotOccur
            else if 2 ^ d.logsz ≤ (d.wr - d.rd).toNat then .next (s.route r 2)
            else .next ((s.writeClaim r d foot home pa slotPa).route r 1)
          | _ => .refused .cannotOccur
      | _ => .refused .cannotOccur

end Sys2Proof.Machine
end

