-- ==== Sys2Proof/Machine/Pool.lean ====
section
/-! DEFINITION. A stream's fields, the page pool, tokens, and the end of a step (18:R347, R348, R351, R352, R356, R358,
R362). -/

namespace Sys2Proof.Machine

open Sys2Proof

/-! ### Fields (18:R347) -/

def Stream.policy (x : Stream) : Bool := x.cfg0.getLsbD 3
def Stream.frtok (x : Stream) : Nat := bits x.cfg0 16 8
def Stream.tokBytes (x : Stream) : Nat := 32 * bits x.cfg0 24 8
def Stream.pgtok (x : Stream) : Nat := bits x.cfg0 32 7
def Stream.sink (x : Stream) : Nat := bits x.cfg0 40 4
def Stream.stateBytes (x : Stream) : Nat := 32 * bits x.cfg0 52 8
def Stream.period (x : Stream) : Nat := bits x.cfg2 0 20
def Stream.guard (x : Stream) : Nat := bits x.cfg2 20 20
def Stream.cbud (x : Stream) : Nat := bits x.cfg2 40 9
def Stream.spec (x : Stream) : Nat := bits x.cfg2 49 5
def Stream.homef (x : Stream) : Nat := bits x.cfg2 54 2

/-- T(k) of the next step (18:R350). -/
def Stream.tick (x : Stream) : Nat := x.tick0.toNat + 1000 * x.period * x.step

/-- The close of the next step. -/
def Stream.closeAt (x : Stream) : Int := (x.tick : Int) - 1000 * x.guard

/-! ### The pool (18:R358) -/

/-- CLAIMED. -/
def State.claimed (s : State) : Nat := (s.streams.map fun x => x.cbud - x.held).sum

/-- The unreserved pool. -/
def State.unreserved (s : State) : Nat := s.pool.free.length - s.claimed

/-- Page `p` is ALLOC with OWNER a stream. -/
def State.owns (s : State) (n p : Nat) : Bool := s.pool.owner.any fun x => x.1 == p && x.2 == n

/-- The address of byte 0 of a page. -/
def State.pageVa (s : State) (p : Nat) : Nat := (s.sys.poolva + 16384 * p) % 2 ^ 56

/-- A page freed: on top of the stack. -/
def State.freePage (s : State) (p : Nat) : State :=
  { s with pool := ⟨p :: s.pool.free, s.pool.owner.filter fun x => x.1 != p⟩ }

def State.freePages (s : State) (ps : List Nat) : State := ps.foldl State.freePage s

/-- The top page taken for a stream; none when the stack is empty. It is still to be zeroed. -/
def State.takePage (s : State) (n : Nat) : Option (Nat × State) :=
  match s.pool.free with
  | [] => none
  | p :: r => some (p, { s with pool := ⟨r, (p, n) :: s.pool.owner⟩ })

/-- A unit's write to virtual memory at its home, seen everywhere at once (log 13). `n` bytes, at most a page. -/
def State.vaWrite (s : State) (foot asid va : Nat) (bs : List Byte) : EngRes Unit :=
  let k := 65536 - va % 65536
  let put := fun (s : State) (va : Nat) (bs : List Byte) =>
    if bs.isEmpty then EngRes.ok () s
    else match s.unitPage foot asid va .write with
      | .ok pa s => .ok () (s.writeAll (s.partOf foot) pa bs)
      | .wait => .wait
      | .fault c v => .fault c v
      | .poison c w => .poison c w
  match put s va (bs.take k) with
  | .ok _ s => put s ((va + k) % 2 ^ 56) (bs.drop k)
  | r => r

/-- A unit's write that a place which does not translate does not take (log 26); none while it has to wait. -/
def State.vaTry (s : State) (foot asid va : Nat) (bs : List Byte) : Option State :=
  match s.vaWrite foot asid va bs with
  | .ok _ s => some s
  | .fault .. => some s
  | _ => none

/-- A taken page is zeroed before it is used; none while that has to wait. -/
def State.zeroPage (s : State) (x : Stream) (p : Nat) : Option State :=
  s.vaTry x.homef x.asid (s.pageVa p) (List.replicate 16384 0)

/-! ### Tokens (18:R356) -/

/-- The slots searched for the oldest ring page, from slot `i`. -/
def Stream.ring (x : Stream) (i : Nat) : List Nat :=
  let n := x.nslot
  if i < x.sink then (List.range (n - x.sink)).map (x.sink + ·)
  else ((List.range (n - (i + 1))).map (i + 1 + ·)) ++ ((List.range (i - x.sink)).map (x.sink + ·))

/-- The token is lost. -/
def Stream.lose (x : Stream) : Stream := { x with drops := x.drops + 1, status := x.status ||| 4 }

/-- The cursor after a token. -/
def Stream.step1 (x : Stream) : Stream :=
  let x := { x with wpos := (x.wpos + 1) % 2 ^ 64, woff := x.woff + 1 }
  if x.woff = x.pgtok then
    { x with woff := 0, wslot := if x.wslot + 1 < x.nslot then x.wslot + 1 else x.sink }
  else x

/-- The page of the cursor's slot: held already, from the claim with its page still to be zeroed, from the oldest ring
page, or none. -/
inductive TokenPage
  | held (p : Nat)
  | fresh
  | evict (t p : Nat)
  | none
deriving DecidableEq, Repr

def Stream.tokenPage (x : Stream) : TokenPage :=
  match entryOf x.pt x.wslot with
  | some p => .held p
  | none =>
    if x.held < x.cbud then .fresh
    else match (x.ring x.wslot).find? fun t => (entryOf x.pt t).isSome with
      | some t => .evict t ((entryOf x.pt t).getD 0)
      | none => .none

/-- A stream with the page of its cursor's slot assigned, and the page, which a lost token has none of; none while a page waits to be
zeroed. -/
def State.assignPage (s : State) (x : Stream) : Option (State × Stream × Option Nat) :=
  match x.tokenPage with
  | .held p => some (s, x, some p)
  | .fresh =>
    match s.takePage x.num with
    | none => some (s, x, none)
    | some (p, s) => (s.zeroPage x p).map fun s => (s, { x with pt := x.pt.set x.wslot ⟨p, true⟩, held := x.held + 1 }, some p)
  | .evict t p => some (s, { x with pt := (x.pt.set t ⟨p, false⟩).set x.wslot ⟨p, true⟩ }, some p)
  | .none => some (s, x, none)

/-- write_token: the stream's record is stored. A fault leaves everything as it was; on a page declared dead the token is
lost, its page assigned (18:R444). -/
def State.writeToken (s : State) (x : Stream) (bs : List Byte) (dead : List Nat := []) : EngRes Unit :=
  match s.assignPage x with
  | none => .wait
  | some (s, x, none) => .ok () (s.setStream x.lose)
  | some (s, x, some p) =>
    match s.vaWrite x.homef x.asid ((s.pageVa p + x.tokBytes * x.woff) % 2 ^ 56) bs with
    | .ok _ s => .ok () (s.setStream x.step1)
    | .fault c va => if dead.contains (va / 65536) then .ok () (s.setStream x.lose) else .fault c va
    | r => r

/-! ### The context in memory (18:R347, R348) -/

def PtEntry.word (e : PtEntry) : Nat := e.page % 2 ^ 24 + field 31 (bit e.valid)

/-- The fields the device keeps on chip, as the runs of bytes it writes back: offset and bytes. -/
def Stream.image (x : Stream) : List (Nat × List Byte) :=
  let w := fun (v : Nat) => natLe 8 v
  let cursor := x.wslot + field 8 x.woff + field 16 x.held + field 25 x.specheld + field 32 x.rsv + field 43 (bit x.owed)
  let word0 := (x.cfg0 &&& ~~~(0x7FF7 : Word)).toNat + x.state + field 4 x.asid
  [(0, w word0 ++ w x.tick0.toNat ++ w x.cfg2.toNat ++ w x.hdr.toNat ++ w x.filler.toNat ++ w x.arrbase.toNat ++
      x.arg.toList.flatMap fun a => w a.toNat),
   (0x58, w x.step ++ w cursor ++ w x.wpos ++ w x.status.toNat ++ w (x.lates.toNat + field 32 x.drops.toNat)),
   (0xC0, (x.spt.flatMap fun e => natLe 4 e.word) ++ x.pt.flatMap fun e => natLe 4 e.word)]

/-! ### The end of a step, and RETIRE (18:R351, R352, R362) -/

/-- RETIRE's work: pages to the pool, the claim released, the fields in memory (a place that does not translate takes
none: log 26); none while a write of them has to wait. -/
def State.retireStream (s : State) (x : Stream) : Option State :=
  let named := (x.pt ++ x.spt).filterMap fun e => if e.valid then some e.page else none
  let rest := ((s.pool.owner.filter fun y => y.2 == x.num && !named.contains y.1).map Prod.fst).insertionSort (· ≤ ·)
  let mine := named.eraseDups.filter (s.owns x.num)
  let s := s.freePages (mine ++ rest)
  let x : Stream := { x with held := 0, specheld := 0, rsv := 0, state := 0 }
  (x.image.foldl (fun s p => s.bind fun s => s.vaTry x.homef x.asid (x.ctx.toNat + p.1) p.2) (some s)).map fun s =>
    let s := s.unhold (.close x.num)
    let s := { s with streams := s.streams.filter fun y => y.num != x.num }
    ({ s with sys := { s.sys with tickstat := 1 } } : State).msix none 10

/-! ### ADMIT (18:R351) -/

/-- A range check. -/
def within (lo x hi : Nat) : Bool := decide (lo ≤ x) && decide (x ≤ hi)

/-- Test 2 of 18:R351: the fields of 18:R347 that stores write. -/
def Stream.formOk (x : Stream) (w0 : Word) (top : List Word) : Bool :=
  !w0.getLsbD 15 && !w0.getLsbD 39 && bits w0 60 4 == 0 && top.all (fun w => bits w 56 8 == 0) &&
  decide (1 ≤ x.frtok) && within 1 (bits x.cfg0 24 8) 128 && within 1 x.pgtok 64 &&
  decide (32 * x.pgtok * bits x.cfg0 24 8 ≤ 16384) && decide (x.sink < x.nslot) && decide (bits x.cfg0 52 8 ≤ 128) &&
  x.tick0.toNat % 1000 == 0 && within 1 x.period 1000000 && decide (x.guard < x.period) &&
  within (x.sink + 1) x.cbud x.nslot && decide (x.spec ≤ 16) && x.hdr.toNat % 64 == 0 && x.filler.toNat % 32 == 0 &&
  x.arrbase.toNat % 32 == 0

/-- A sum of terms 1,000 ÷ PERIOD is at most `r`, as a fraction (18:R351). -/
def stepRate (ps : List Nat) : Nat × Nat := ps.foldl (fun x p => (x.1 * p + 1000 * x.2, x.2 * p)) (0, 1)

def ratesFit (ps : List Nat) (r : Nat) : Bool := decide ((stepRate ps).1 ≤ r * (stepRate ps).2)

/-- The stream a context describes at its admission, from its first 88 bytes. The close of step 0 does not set OVERRUN, however
late ADMIT comes (18:R352, R355; DESIGN CHOICE, log 56). -/
def Stream.admitted (num asid : Nat) (ctx : Addr) (d : UnitData) : Stream :=
  { num := num, ctx := ctx, asid := asid, state := 1, cfg0 := d.word 0, tick0 := d.word 1, cfg2 := d.word 2,
    hdr := (d.word 3).setWidth 56, filler := (d.word 4).setWidth 56, arrbase := (d.word 5).setWidth 56,
    arg := Vector.ofFn fun i => d.word (6 + i.val), step := 0, wslot := 0, woff := 0, held := 0, specheld := 0, rsv := 0,
    owed := false, wpos := 0, status := 0, lates := 0, drops := 0, spt := List.replicate 16 ⟨0, false⟩,
    pt := List.replicate 256 ⟨0, false⟩, running := none, overrun := false, stepfail := false, retiring := false,
    close := none, dead := [] }

/-- The partition of an address space (22:R415). -/
def State.asidPart (s : State) (asid : Nat) : Nat :=
  let t := s.sys.asidbase + 16 * asid
  bits ((s.mem (s.homeFoot 0 t)).word t) 1 2

/-- TICKSTAT takes its value (22:R412, R423). -/
def State.tickDone (s : State) (v : Nat) : State := ({ s with sys := { s.sys with tickstat := v } } : State).msix none 10

/-- A line of a context is poisoned, so that no value of it comes (14:R297). -/
def State.ctxPoisoned (s : State) (foot asid va : Nat) : Bool :=
  (s.walkPage (s.partOf foot) asid va).any fun e => s.poisonedIn (e.phys foot va) 0x58

/-- ADMIT (18:R351): TICKSTAT 1, or 2 + n for the first test n that fails; none while the read of the context has to wait. A context
that cannot be read fails test 2 (log 26). -/
def State.admission (s : State) (num : Nat) : Option State :=
  let asid := s.sys.tickctx % 2 ^ 11
  let ctx : Addr := BitVec.ofNat 56 (s.sys.tickctx / 2 ^ 13 * 2 ^ 13)
  let foot := ((s.partFoots (s.asidPart asid)).head?).getD 0
  if (s.stream? num).isSome then some (s.tickDone 3)
  else match s.unitRead foot asid ctx.toNat 0x58 with
    | .ok d s' =>
      let x := Stream.admitted num asid ctx d
      if !x.formOk (d.word 0) [d.word 2, d.word 3, d.word 4, d.word 5] then some (s.tickDone 4)
      else if s.unreserved < x.cbud then some (s.tickDone 5)
      else
        let mine := (s.streams.filter fun y => y.homef == x.homef).map Stream.period
        if 8192 ≤ s.streams.length || !ratesFit (x.period :: mine) (vget s.foots x.homef).ratecap.toNat
            || !ratesFit (x.period :: s.streams.map Stream.period) 8192 then some (s.tickDone 6)
        else some (({ s' with streams := s'.streams ++ [x] } : State).tickDone 1)
    | .wait => if s.ctxPoisoned foot asid ctx.toNat then some (s.tickDone 4) else none
    | _ => some (s.tickDone 4)

/-! ### Tick-unit commands (22:R423, R424) -/

/-- A RETIRE that has not ended holds the unit. -/
def State.tickHeld (s : State) : Bool := s.streams.any Stream.retiring

/-- A command runs: a RETIRE that has not ended, or one whose accesses have to wait. -/
def State.tickBusy (s : State) : Bool := s.tickHeld || !s.sys.tickq.isEmpty

/-- The stream's close or its tick is due in this cycle, which comes before a RETIRE (18:R352). -/
def State.eventDue (s : State) (x : Stream) : Bool :=
  let now := (vget s.foots x.homef).ptp
  (x.state == 1 && x.close.isNone && decide (x.closeAt ≤ (now : Int))) || (x.state == 2 && decide (x.tick ≤ now))

/-- A RETIRE that has not ended: TICKSTAT 0. -/
def State.retiring (s : State) (x : Stream) : State :=
  { s.setStream { x with retiring := true } with sys := { s.sys with tickstat := 0 } }

/-- RETIRE, once the unit is free: at once, after the running step, what is due or a write that has to wait, or 8 for a stream that is
Free. -/
def State.retire (s : State) (num : Nat) : State :=
  match s.stream? num with
  | none => s.tickDone 8
  | some x => if x.state = 3 ∨ s.eventDue x then s.retiring x else (s.retireStream x).getD (s.retiring x)

/-- One command, ADMIT or RETIRE; none while an ADMIT has to wait. -/
def State.tickRun (s : State) (v : Nat) : Option State :=
  if v / 2 ^ 18 % 4 = 1 then s.admission (v % 2 ^ 18) else some (s.retire (v % 2 ^ 18))

/-- The commands run in order, up to one that has not ended. -/
def State.tickDrain (s : State) : List Nat → State
  | [] => { s with sys := { s.sys with tickq := [] } }
  | v :: r =>
    if s.tickHeld then { s with sys := { s.sys with tickq := v :: r } }
    else match s.tickRun v with
      | some s => s.tickDrain r
      | none => { s with sys := { s.sys with tickq := v :: r, tickstat := 0 } }

/-- A command written. -/
def State.tickWrite (s : State) (v : Nat) : State :=
  let s := { s with sys := { s.sys with tickcmd := v % 2 ^ 20 } }
  if s.tickBusy then { s with sys := { s.sys with tickq := s.sys.tickq ++ [v] } } else s.tickDrain [v]

/-- A stream retires, and the commands behind go on; none while its writes have to wait. -/
def State.endRetire (s : State) (x : Stream) : Option State := (s.retireStream x).map fun s => s.tickDrain s.sys.tickq

/-- A RETIRE whose stream waits for nothing else than its own writes, or an ADMIT that waited, is tried again. -/
def State.serveTick (s : State) : State :=
  match s.streams.find? Stream.retiring with
  | some x => if x.state = 3 ∨ x.close.isSome ∨ s.eventDue x then s else (s.endRetire x).getD s
  | none => if s.sys.tickq.isEmpty then s else s.tickDrain s.sys.tickq

/-- No step of the stream runs any more: it waits for the next close, which comes late when the clock has passed it
(18:R352), or a RETIRE that waited goes on, also when that close is overdue (DESIGN CHOICE, log 56). -/
def State.stepOver (s : State) (x : Stream) : State :=
  let late := decide (x.closeAt < (vget s.foots x.homef).ptp)
  let x := { x with state := 1, running := none, overrun := late }
  (if x.retiring then s.endRetire x else none).getD (s.setStream x)

/-- The speculative pages of a stream go back to the pool. -/
def State.dropSpec (s : State) (x : Stream) : State × Stream :=
  let ps := x.spt.filterMap fun e => if e.valid then some e.page else none
  (s.freePages ps, { x with spt := List.replicate 16 ⟨0, false⟩, specheld := 0, rsv := 0 })

/-- The running step retires (18:R352, R362). -/
def State.stepRetired (s : State) (n : Nat) : State :=
  match s.stream? n with
  | none => s
  | some x =>
    let (s, x) := s.dropSpec x
    s.stepOver { x with step := x.step + 1, stepfail := false }

/-- A step's launch is rejected (18:R352). -/
def State.stepRejected (s : State) (n : Nat) : State :=
  match s.stream? n with
  | none => s
  | some x => s.stepOver { x with step := x.step + 1, status := x.status ||| 8, stepfail := true }

end Sys2Proof.Machine
end

