-- ==== Sys2Proof/Machine/Place.lean ====
section
/-! DEFINITION. The launch header, placement and brick start (02:R25-R32, 16:R320, R321, R323-R326, 18:R353). -/

namespace Sys2Proof.Machine

open Sys2Proof

/-! ### The header (02:R25-R27) -/

/-- A role's description from its four words; none where R27 rejects it. -/
def roleOf (w : UnitData) : Option RoleDesc :=
  let a := w.word 0
  let b := w.word 1
  let c := w.word 2
  let gangs := bits b 4 5
  if bits a 56 8 ≠ 0 ∨ bits a 0 3 ≠ 0 ∨ b.getLsbD 3 ∨ bits b 12 52 ≠ 0 ∨ bits c 56 8 ≠ 0 ∨ w.word 3 ≠ 0 ∨ gangs = 0
      ∨ gangs > 16 then none
  else some
    { entry := a.setWidth 56, named := 8 * (bits b 0 3 + 1), gangs := gangs, reord := b.getLsbD 9, dict := bits b 10 2,
      dictaddr := c.setWidth 56 }

/-- NROLES of a header's first words. -/
def headerRoles (w : UnitData) : Nat := bits (w.word 0) 8 3

/-- The header from its words; none where R27 rejects it. -/
def headerOf (w : UnitData) (roles : List RoleDesc) : Option LHeader :=
  let x := w.word 0
  let addr := fun (i al : Nat) => bits (w.word i) 56 8 == 0 && bits (w.word i) 0 56 % al == 0
  let dup := roles.any fun r => roles.any fun t => r.dict == t.dict && r.dictaddr != t.dictaddr
  if bits x 0 8 ≠ 9 ∨ x.getLsbD 15 ∨ bits x 16 8 = 0 ∨ bits x 24 8 ≠ 0 ∨ bits x 32 10 > 512 ∨ bits x 42 4 > 8
      ∨ bits x 46 2 ≠ 0 ∨ bits x 48 12 > 2048 ∨ bits x 60 4 ≠ 0 ∨ !addr 1 65536 ∨ !addr 2 128 ∨ !addr 3 2048
      ∨ !addr 4 (2 ^ 21) ∨ !addr 5 128 ∨ w.word 6 ≠ 0 ∨ w.word 7 ≠ 0 ∨ (roles.map RoleDesc.gangs).sum > 16 ∨ dup then none
  else some
    { stages := bits x 11 4 + 1, lead := bits x 16 8, spadk := bits x 32 10, acct := bits x 42 4, rshare := bits x 48 12,
      spillbase := (w.word 1).setWidth 56, ovfq := (w.word 2).setWidth 56, ssovf := (w.word 3).setWidth 56,
      ctxbase := (w.word 4).setWidth 56, crecbase := (w.word 5).setWidth 56, roles := roles }

/-- The header and the argument block read (02:R27, 16:R321): none where the header is rejected. -/
def State.readHeader (s : State) (w : Wall) : EngRes (Option LHeader × Vector Word 8) :=
  let hdr := Packet.hdr w.words
  match s.unitRead w.foot w.asid hdr 64 with
  | .ok d s =>
    let n := headerRoles d
    let role := fun (s : State) (i : Nat) =>
      match s.unitRead w.foot w.asid ((hdr + 64 + 32 * i) % 2 ^ 56) 32 with
      | .ok x s => EngRes.ok (roleOf x) s
      | .wait => .wait
      | .fault c v => .fault c v
      | .poison c x => .poison c x
    let rs := if n = 0 ∨ n > 4 then EngRes.ok [none] s
      else (List.range n).foldl (fun (acc : EngRes (List (Option RoleDesc))) i =>
        match acc with
        | .ok l s =>
          match role s i with
          | .ok r s => .ok (l ++ [r]) s
          | .wait => .wait
          | .fault c v => .fault c v
          | .poison c x => .poison c x
        | r => r) (.ok [] s)
    match rs with
    | .ok l s =>
      let h := if l.all Option.isSome then headerOf d (l.filterMap id) else none
      if Packet.args w.words = 0 then .ok (h, w.args) s
      else match s.unitRead w.foot w.asid (Packet.args w.words) 64 with
        | .ok a s => .ok (h, a.packet) s
        | .wait => .wait
        | .fault c v => .fault c v
        | .poison c x => .poison c x
    | .wait => .wait
    | .fault c v => .fault c v
    | .poison c x => .poison c x
  | .wait => .wait
  | .fault c v => .fault c v
  | .poison c x => .poison c x

/-! ### Resources (02:R28, R32) -/

/-- Free resources of a core. -/
structure CoreRes where
  core : Nat
  seats : Nat
  spad : Nat
  tiles : Nat
deriving DecidableEq, Repr

/-- Free resources of a core group. -/
structure GroupRes where
  group : Nat
  cores : List CoreRes
  riddle : Nat
deriving DecidableEq, Repr

/-- The bricks that hold resources of a core. -/
def State.bricksOn (s : State) (core : Nat) : List Brick :=
  s.bricks.filter fun b => b.core == core && b.place == .core && !b.retired

/-- The courses that hold a share of a group's riddle. -/
def State.coursesOn (s : State) (group : Nat) : List Course :=
  s.courses.filter fun c => c.group == group &&
    s.bricks.any fun b => b.key.wall == c.key.wall && b.course == c.key.course && b.place == .core && !b.retired

/-- The free seats of a core, ascending. -/
def State.freeSeats (s : State) (core : Nat) : List Nat :=
  let used := (s.bricks.filter fun (b : Brick) => b.core == core && !b.retired).flatMap Brick.seats
  (List.range 16).filter fun p => !used.contains p

/-- The working cores of a group. -/
def State.workCores (s : State) (group : Nat) : List Nat :=
  ((List.range 4).map fun i => 4 * group + i).filter fun c => !s.sys.fusemap.getLsbD c

def State.coreRes (s : State) (core : Nat) : CoreRes :=
  let bs := s.bricksOn core
  ⟨core, (s.freeSeats core).length, 512 - (bs.map Brick.spadk).sum, 8 - (bs.map fun b => b.phys.length).sum⟩

def State.groupRes (s : State) (group : Nat) : GroupRes :=
  ⟨group, (s.workCores group).map s.coreRes, 2048 - ((s.coursesOn group).map Course.share).sum⟩

/-- A group with nothing placed on it. -/
def State.emptyRes (s : State) (group : Nat) : GroupRes := ⟨group, (s.workCores group).map fun c => ⟨c, 16, 512, 8⟩, 2048⟩

/-- What a brick of a wall needs. -/
def LHeader.fits (h : LHeader) (c : CoreRes) : Bool :=
  decide ((h.roles.map RoleDesc.gangs).sum ≤ c.seats) && decide (h.spadk ≤ c.spad) && decide (h.acct ≤ c.tiles)

/-- The candidate with the most free seats, the lowest core among equals. -/
def bestCore (h : LHeader) : List CoreRes → Option CoreRes
  | [] => none
  | c :: r =>
    match bestCore h r with
    | some d => if h.fits c && decide (d.seats ≤ c.seats) then some c else some d
    | none => if h.fits c then some c else none

/-- `n` bricks assigned in turn: their cores and what is left. -/
def assign (h : LHeader) : Nat → List CoreRes → Option (List Nat × List CoreRes)
  | 0, cs => some ([], cs)
  | n + 1, cs =>
    match bestCore h cs with
    | none => none
    | some b =>
      let left := cs.map fun c =>
        if c.core = b.core then
          { c with seats := c.seats - (h.roles.map RoleDesc.gangs).sum, spad := c.spad - h.spadk, tiles := c.tiles - h.acct }
        else c
      (assign h n left).map fun r => (b.core :: r.1, r.2)

/-- A course of `n` bricks on a group, if it is eligible there (02:R28). -/
def GroupRes.take (h : LHeader) (n : Nat) (g : GroupRes) : Option (List Nat × GroupRes) :=
  if g.riddle < h.rshare then none
  else (assign h n g.cores).map fun r => (r.1, { g with cores := r.2, riddle := g.riddle - h.rshare })

/-! ### The walk (02:R29, R30) -/

/-- Where the courses of a set go: the group and the cores of each, the pointer and the skips afterwards. -/
structure Fit where
  foot : Nat
  courses : List (Nat × List Nat)
  ptr : Nat
  skips : Nat
deriving DecidableEq, Repr

/-- The groups of a footing with their resources, in cyclic order from a pointer. -/
def cyclicFrom (ptr : Nat) (gs : List GroupRes) : List GroupRes :=
  (gs.filter fun g => decide (ptr ≤ g.group % 24)) ++ gs.filter fun g => decide (g.group % 24 < ptr)

/-- The choice among the eligible groups E0, E1, … (02:R30): the group, and whether it is another than E0. -/
def State.choose (s : State) (foot : Nat) (es : List Nat) : Option (Nat × Bool) :=
  match es with
  | [] => none
  | e0 :: r =>
    let f := vget s.foots foot
    let t := fun g => (s.group g).temp.toNat
    let d := fun g => (s.group g).droop.toNat
    let ok := (r.take 3).filter fun g =>
      f.skipen && decide (t g + f.tmargin.toNat ≤ t e0) && decide (d g + f.dmargin.toNat ≤ d e0)
    match ok with
    | [] => some (e0, false)
    | g :: gs => some (gs.foldl (fun b x => if t x < t b then x else b) g, true)

/-- Courses of `n` bricks placed one after another on a footing. -/
def State.walk (s : State) (h : LHeader) (foot n : Nat) : Nat → Fit → List GroupRes → Option Fit
  | 0, x, _ => some x
  | k + 1, x, gs =>
    let es := (cyclicFrom x.ptr gs).filter fun g => (g.take h n).isSome
    match s.choose foot (es.map GroupRes.group) with
    | none => none
    | some (c, skipped) =>
      match (es.find? fun g => g.group == c).bind (GroupRes.take h n) with
      | none => none
      | some (cores, left) =>
        s.walk h foot n k
          { x with courses := x.courses ++ [(c, cores)], ptr := (c % 24 + 1) % 24, skips := x.skips + bit skipped }
          (gs.map fun g => if g.group = c then left else g)

/-- The groups of a footing. -/
def groupsOf (foot : Nat) : List Nat := (List.range 24).map (24 * foot + ·)

/-- A set of a wall placed on a footing whose groups have the given resources. -/
def State.fitOn (s : State) (h : LHeader) (n foot : Nat) (res : Nat → GroupRes) : Option Fit :=
  s.walk h foot n h.stages ⟨foot, [], (vget s.foots foot).ptr, 0⟩ ((groupsOf foot).map res)

/-- The footings tried for a wall, in order (16:R325, 18:R353). -/
def State.footOrder (s : State) (w : Wall) : List Nat :=
  match w.src with
  | .stream _ => [w.foot]
  | _ => ((List.range 4).map fun i => (w.foot + i) % 4).filter fun f => s.partOf f == s.partOf w.foot

/-- The bricks of a course of a set. -/
def Wall.boxSize (w : Wall) (num : Nat) : Nat := (Packet.box w.words num 0).length

/-- Where a set can be placed now. -/
def State.fit (s : State) (w : Wall) (h : LHeader) (num : Nat) : Option Fit :=
  (s.footOrder w).findSome? fun f => s.fitOn h (w.boxSize num) f s.groupRes

/-- Every set fits on some empty footing of the partition (16:R320 UNPLACEABLE). -/
def State.placeable (s : State) (w : Wall) (h : LHeader) : Bool :=
  (List.range (Packet.sets w.words)).all fun n =>
    (s.partFoots (s.partOf w.foot)).any fun f => (s.fitOn h (w.boxSize n) f s.emptyRes).isSome

/-! ### The placement order (16:R324) -/

/-- The set first in the order of a class: a restorable one, or the next of a wall. -/
inductive Cand
  | restore (p : PSet)
  | new (w : Wall)
deriving DecidableEq, Repr

/-- The first candidate of a class: restorable sets in the order in which they were parked, then walls in the order in which
they became ready (16:R324). Of sets parked in one cycle the first of `State.sets` comes first (DESIGN CHOICE, log 55). -/
def State.firstOf (s : State) (cls : Nat) : Option Cand :=
  let rs := s.sets.filter fun p =>
    p.restorable && p.phase != .resident && s.classOf p.wall == cls && !s.isDead (.context p.wall p.num)
  match (rs.insertionSort fun x y => x.parkedAt ≤ y.parkedAt).head? with
  | some p => some (.restore p)
  | none =>
    let ws := s.walls.filter fun w => w.state == .ready && w.cls == cls &&
      (w.header.isNone || decide (w.nextSet < Packet.sets w.words))
    (ws.insertionSort fun x y => x.readyAt < y.readyAt || x.readyAt == y.readyAt && x.id ≤ y.id).head?.map .new

/-- The gangs of a set that are not retired. -/
def State.setGangs (s : State) (p : PSet) : List Gang :=
  s.gangs.filter fun g => g.brick.wall == p.wall && (s.packet p.wall).setOf (s.coord g.brick) == p.num && g.live != 0

/-- The bricks of a set. -/
def State.setBricks (s : State) (p : PSet) : List Brick :=
  s.bricks.filter fun b => b.key.wall == p.wall && (s.packet p.wall).setOf (s.coord b.key) == p.num

/-- A set whose brick state stayed on its cores has a free seat for each of its gangs. -/
def State.seatsFree (s : State) (p : PSet) : Bool :=
  (s.setBricks p).all fun b =>
    let own := ((s.setBricks p).filter fun (c : Brick) => c.core == b.core).map fun (c : Brick) => c.key
    let need := ((s.setGangs p).filter fun (g : Gang) => own.contains g.brick).length
    decide (need ≤ (s.freeSeats b.core).length)

/-- The state with some sets' bricks gone, for what it would leave free. -/
def State.without (s : State) (ps : List PSet) : State :=
  let gone := fun (k : BKey) => ps.any fun p => p.wall == k.wall && (s.packet p.wall).setOf (s.coord k) == p.num
  { s with bricks := s.bricks.filter fun b => !gone b.key }

/-- Halted and parked sets, in the order victims are taken (16:R326), until a waiting set fits without them; none when it
never does. -/
def State.freeing (s : State) (w : Wall) (h : LHeader) (num : Nat) : List PSet → List PSet → List PSet
  | [], taken => if ((s.without taken).fit w h num).isSome then taken else []
  | p :: r, taken =>
    if ((s.without taken).fit w h num).isSome then taken else s.freeing w h num r (taken ++ [p])

/-- A set of a higher class waits for what the set's bricks hold on their cores (14:R300): it fits without the sets of
`freeing`, and not while `p` alone of them stays. -/
def State.wanted (s : State) (p : PSet) : Bool :=
  s.nofit.any fun x => decide (s.classOf x.wall < s.classOf p.wall) &&
    match s.wall? x.wall with
    | some w => w.header.any fun h =>
        let ps := (s.sets.filter fun q => q.phase != .resident && decide (w.cls < s.classOf q.wall)).insertionSort fun a b =>
          s.classOf b.wall < s.classOf a.wall || s.classOf a.wall == s.classOf b.wall && b.placedAt ≤ a.placedAt
        let free := s.freeing w h x.num ps []
        free.contains p && ((s.without (free.filter fun q => q != p)).fit w h x.num).isNone
    | none => false

/-- The dispatcher's access for a set's context is held (14:R445). -/
def State.contextHeld (s : State) (p : PSet) : Bool := s.unitHolds.any fun u => u.work == .context p.wall p.num

/-- A set whose brick state stayed on its cores can be restored there: its seats are free, and it is not on its way to memory
(02:R37, 14:R300, R445). -/
def State.parkedReady (s : State) (p : PSet) : Bool :=
  !p.swapped && s.seatsFree p && !s.wanted p && !s.contextHeld p

/-- A set swapped out whose gangs are not all in memory yet (02:R37). -/
def State.stillParked (s : State) (p : PSet) : Bool :=
  p.swapped && (s.setGangs p).any fun g => match g.place with
    | .park .. => true
    | _ => false

/-- Nothing that a restore reads waits for a peer link or for a poisoned line (14:R297, 22:R419). -/
def State.ctxReadable (s : State) (p : PSet) : Bool :=
  ((s.setBricks p).filter fun b => b.place == .memory && !b.retired).all fun b => (List.range 32).all fun i =>
    let va := (s.ctxVa b.key + 65536 * i) % 2 ^ 56
    match s.walkPage (s.partOf p.foot) (s.asidOf p.wall) va with
    | none => true
    | some e =>
      let pa := e.phys p.foot va
      !(s.marks.any fun m => m.unit == 6 && decide (pa ≤ 128 * m.word) && decide (128 * m.word < pa + 65536)) &&
        (s.portOf pa).all fun q => !(vget s.peers q).enable || (vget s.peers q).ready

/-- The set first in order can be placed or restored now, or its wall's header can be read or meets a fault. -/
def State.able (s : State) : Cand → Bool
  | .restore p =>
    match p.phase, s.wall? p.wall with
    | .parked, _ => s.parkedReady p
    | .stored, some w => !s.contextHeld p && !s.stillParked p && s.ctxReadable p && (w.header.bind fun h => s.fit w h p.num).isSome
    | _, _ => false
  | .new w =>
    match w.header with
    | none => !(s.unitHolds.any fun h => h.work == .header w.id) && match s.readHeader w with
      | .ok .. | .fault .. => true
      | _ => false
    | some h => (s.fit w h w.nextSet).isSome

/-- What acts on core groups, in its order within a cycle (02:R33): 1 pre-emption, 2 retirement, 3 restore, 4 placement.
Nothing that comes later in the order has acted on them in this cycle. -/
def State.mayAct (s : State) (groups : List Nat) (rank : Nat) : Bool :=
  s.acted.all fun x => !groups.contains x.1 || decide (x.2 ≤ rank)

def State.noteAct (s : State) (groups : List Nat) (rank : Nat) : State :=
  { s with acted := s.acted ++ (groups.eraseDups).map fun g => (g, rank) }

/-- A set may be served now: it is first in its class, and no set first in a higher class can be served. -/
def State.turnOf (s : State) (cls : Nat) (c : Cand) : Bool :=
  s.firstOf cls == some c && (List.range cls).all fun k => !((s.firstOf k).any s.able)

/-- The set first in order fits nowhere: since when (16:R326). -/
def State.noteNoFit (s : State) (wall num cls : Nat) : Out :=
  if s.nofit.any fun x => x.wall == wall && x.num == num then .refused .cannotOccur
  else .next { s with nofit := s.nofit ++ [⟨wall, num, s.cycle, cls == 0⟩] }

/-! ### Brick start (02:R22, 06:R120, 16:R321) -/

/-- The queue values of a gang that starts: what its seat's queue held before, of which the spec says nothing (04:R79;
log 3). -/
def State.startQueues (s : State) (g : Gang) : State × Gang :=
  let val := fun (l a : Nat) (c : QCell) => { c with val := Config.freeWord (s.free + 16 * l + a) }
  ({ s with free := s.free + 512 },
   { g with lanes := g.lanes.mapIdx fun l (x : Lane) => { x with q := x.q.mapIdx (val l) } })

/-- A lane at gang start (04:R75, 13:R265). -/
def Lane.start (oid obrick : Nat) (k : BKey) (role : Nat) : Lane :=
  { q := Vector.replicate 16 QCell.empty, n := Vector.replicate 64 NCell.zero, p := 0, pbad := false,
    oid := BitVec.ofNat 9 oid, obrick := BitVec.ofNat 3 obrick, brick := k, role := BitVec.ofNat 2 role, key := 0, rank := 0,
    binbase := 0 }

/-- A gang at brick start. -/
def Gang.start (gid : Nat) (k : BKey) (gno obrick role : Nat) (r : RoleDesc) (cls core seat : Nat) (args : Vector Word 8)
    (now : Nat) : Gang :=
  { gid := gid, brick := k, gno := gno, role := BitVec.ofNat 2 role, named := r.named, reord := r.reord,
    dict := r.dictaddr, cls := cls, place := .seat core seat,
    lanes := Vector.ofFn fun l => Lane.start (32 * gno + l.val) obrick k role, em := BitVec.allOnes 32,
    live := BitVec.allOnes 32, fm := 0,
    k := Vector.ofFn fun j => NCell.of (if j.val < 8 then vget args j.val else 0), stack := [], depth := 0, xfer := none,
    spins := 0, pc := r.entry, pos := 0, clause := [], header := none, waited := false, readyT := now, inherited := false,
    hint := 0, since := some now, out := Vector.replicate 8 0, tvec := 0, tcause := 0, tepc := 0, tval := 0, tlanes := 0,
    tmode := false, pendfault := none, lost := 0, owed := [], wait := .ready, hold := none, lr := Vector.replicate 8 0, lrv := false,
    spin := [], after := [], afterSt := [], hb := [], seen := Vector.replicate 4 0, seenRel := [], seenIds := [], fences := [],
    away := none }

/-- The roles of a brick's gangs, in order. -/
def LHeader.gangRoles (h : LHeader) : List (Nat × RoleDesc) :=
  (h.roles.zipIdx).flatMap fun (r, i) => List.replicate r.gangs (i, r)

/-- The lowest free tile numbers of a core (07:R145). -/
def State.freeTiles (s : State) (core n : Nat) : List Nat :=
  let used := (s.bricksOn core).flatMap Brick.phys
  ((List.range 8).filter fun t => !used.contains t).take n

/-- A brick at its start (02:R23, R40, 11:R236); LOWPH and HIGHPH are 0 beside a stage neighbour (DEDUCED, log 20). -/
def Brick.start (k : BKey) (serial course obrick core : Nat) (seats phys : List Nat) (h : LHeader) (stage : Nat) : Brick :=
  { key := k, serial := serial, course := course, obrick := obrick, core := core, seats := seats, place := .core,
    retired := false, spadk := h.spadk, spad := [], stags := [], written := 0, g := Vector.replicate 16 0,
    w := Vector.replicate 8 Wmark.zero, bars := Vector.replicate 16 (Bar.zero 512), phase := 0,
    lowph := if stage = 0 then 0xFFFFFFFF else 0, highph := if stage + 1 = h.stages then 0xFFFFFFFF else 0, phys := phys,
    tiles := Vector.replicate 8 [], mp := 0, quar := false, killed := false, qcause := 0, qoid := 0, qtime := 0, qcore := 0, qmask := 0,
    pendq := [], enrolled := 0, savedTx := [], farTx := [], awayW := [] }

/-- A brick and its gangs start on a core; the start is an acquire (16:R323). -/
def State.startBrick (s : State) (w : Wall) (h : LHeader) (c : Coord) (core : Nat) : State :=
  let p := w.words
  let k : BKey := ⟨w.id, Packet.linear p c⟩
  let roles := h.gangRoles
  let seats := (s.freeSeats core).take roles.length
  let (serial, s) := s.newId
  let b := Brick.start k serial (Packet.courseOf p c) (Packet.obrick p c) core seats (s.freeTiles core h.acct) h c.s
  let s := { s with bricks := s.bricks ++ [b] }.dropPlain core
  (roles.zipIdx).foldl (fun s (r, gno) =>
    let (gid, s) := s.newId
    let g := Gang.start gid k gno (Packet.obrick p c) r.1 r.2 w.cls core (seats.getD gno 0) w.args s.cycle
    let (s, g) := s.startQueues g
    { s with gangs := s.gangs ++ [g] }) s

/-- A course starts on a group (13:R265, R283). -/
def State.startCourse (s : State) (w : Wall) (h : LHeader) (num stage : Nat) (place : Nat × List Nat) : State :=
  let box := Packet.box w.words num stage
  let k : CKey := ⟨w.id, num + Packet.sets w.words * stage⟩
  let c : Course :=
    { key := k, group := place.1, cbars := Vector.replicate 4 (Bar.zero 4096), state := .idle, word := none, clause := 0,
      posn := 0, expected := [], arrived := [], tags := [], share := h.rshare, stat := BitVec.ofNat 64 (field 48 h.rshare),
      regrouped := false, qorder := 0, fault := none, merged := 0,
      undo := [] }
  (List.zip box place.2).foldl (fun s x => s.startBrick w h x.1 x.2) { s with courses := s.courses ++ [c] }

/-- The pointer and the skip count after a placement (02:R30, R31). -/
def State.afterWalk (s : State) (x : Fit) : State :=
  let f := vget s.foots x.foot
  s.setFoot x.foot { f with ptr := x.ptr, skipcnt := f.skipcnt + BitVec.ofNat 24 x.skips }

/-- The recurrent state of a stream's running step on its way (18:R353). -/
def State.startStep (s : State) (w : Wall) (n : Nat) : State :=
  match s.stream? n, s.brick? ⟨w.id, 0⟩, s.gangs.find? fun g => g.brick == ⟨w.id, 0⟩ with
  | some x, some b, some g =>
    let len := x.stateBytes
    (s.startCopy g b none 7 .global ((x.ctx.toNat + 0x1000 : Nat)) 0 ⟨len, [], 0, 0, 0⟩ false none).setStream
      { x with running := some b.key }
  | _, _, _ => s

/-- A set placed whole (02:R29). -/
def State.placeAt (s : State) (w : Wall) (h : LHeader) (num : Nat) (x : Fit) : State :=
  let s := (x.courses.zipIdx).foldl (fun s (c, st) => s.startCourse w h num st c) (s.afterWalk x)
  let p : PSet :=
    { wall := w.id, num := num, foot := x.foot, phase := .resident, restorable := false, swapped := false,
      placedAt := s.cycle, parkedAt := 0, joins := [] }
  let s := ({ s with sets := s.sets ++ [p], nofit := s.nofit.filter fun y => !(y.wall == w.id && y.num == num) } : State)
  let s := (s.setWall { w with nextSet := num + 1 }).raiseAll x.foot w.seen
  match w.src with
  | .stream n => s.startStep w n
  | _ => s

/-! ### PLACE_SET (02:R27, R29, R30, 16:R320, R324) -/

/-- A stream's step needs room for its state (18:R353). -/
def State.stepFits (s : State) (w : Wall) (h : LHeader) : Bool :=
  match w.src with
  | .stream n => (s.stream? n).all fun x => decide (x.stateBytes ≤ 1024 * h.spadk)
  | _ => true

/-- A wall rejected at its first placement attempt, with a stream's step. -/
def State.rejectStep (s : State) (w : Wall) (cause : Nat) : State :=
  let s := (s.rejectWall w cause).dropRings w.id
  match w.src with
  | .stream n => s.stepRejected n
  | _ => s

/-- The header as read at the first attempt, with the overflow ring it names. -/
def State.setHeader (s : State) (w : Wall) (h : LHeader) (args : Vector Word 8) : State :=
  (s.setWall { w with header := some h, args := args }).serveRing w h.ovfq.toNat

/-- The next set of a wall whose header is read: placed, or noted as fitting nowhere. -/
def State.placeNext (s : State) (w : Wall) (h : LHeader) : Out :=
  match s.fit w h w.nextSet with
  | none => s.noteNoFit w.id w.nextSet w.cls
  | some x =>
    let gs := x.courses.map Prod.fst
    if s.hasApplied x.foot w.seen && s.mayAct gs 4 then .next ((s.placeAt w h w.nextSet x).noteAct gs 4)
    else .refused .cannotOccur

/-- What happens before the wall's start has come to the slices where its header and argument block are read (16:R323). -/
def State.headerOrdered (s : State) (w : Wall) : Bool :=
  let hdr := Packet.hdr w.words
  ([hdr, (hdr + 191) % 2 ^ 56] ++ if Packet.args w.words = 0 then [] else [Packet.args w.words]).all fun va =>
    match s.unitPage w.foot w.asid va .read with
    | .ok pa _ => s.hasApplied (s.unitHome w.foot pa) w.seen
    | _ => true

/-- The first attempt: the header and the argument block read and checked (02:R27, 16:R320, R321). -/
def State.firstAttempt (s : State) (w : Wall) : Out :=
  if !s.headerOrdered w then .refused .cannotOccur else
  match s.readHeader w with
  | .fault c va => s.holdUnit w.foot w.asid 0 (.header w.id) c va
  | .ok (h, args) s =>
    let s := s.unhold (.header w.id)
    match h with
    | none => .next (s.rejectStep w 0x51)
    | some h =>
      if !s.stepFits w h then .next (s.rejectStep w 0x51)
      else if 2 ^ 32 - 1 < Packet.x w.words * Packet.y w.words * Packet.z w.words * h.stages then .next (s.rejectStep w 0x53)
      else if !s.placeable w h then .next (s.rejectStep w 0x54)
      else .next (s.setHeader w h args)
  | _ => .refused .cannotOccur

/-- PLACE_SET (02:R29): the first attempt reads the header; a later step places. -/
def execPlaceSet (wall set : Nat) (s : State) : Out :=
  match s.wall? wall with
  | none => .refused .cannotOccur
  | some w =>
    if w.state ≠ .ready ∨ w.nextSet ≠ set ∨ !s.turnOf w.cls (.new w) then .refused .cannotOccur
    else match w.header with
      | none => s.firstAttempt w
      | some h => s.placeNext w h

end Sys2Proof.Machine
end

