-- ==== Sys2Proof/Machine/Retire.lean ====
section
/-! DEFINITION. Retirement of bricks, completion records and the end of a wall (02:R39-R41, 11:R236, R238, 13:R277,
14:R445). -/

namespace Sys2Proof.Machine

open Sys2Proof

/-! ### When a brick retires (02:R39, 13:R277) -/

/-- No engine operation of the brick is outstanding. -/
def State.engQuiet (s : State) (k : BKey) : Bool :=
  !(s.copies.any fun c => c.brick == k && !c.finished) && !(s.idxops.any fun c => c.brick == k && !c.finished) &&
  !(s.groups.toList.any fun g => g.quants.any fun q => q.brick == k) && !(s.savedQuant.any fun q => q.brick == k) &&
  !(s.samples.any fun q => q.brick == k) && !(s.cores.toList.any fun c => c.mq.any fun e => e.brick == k) &&
  !(s.matArrivals.any fun a => a.entry.brick == k) && !(s.savedMat.any fun e => e.brick == k) &&
  !(s.ovf.any fun r => (s.gang? r.gid).any fun g => g.brick == k)

/-- A request of the brick's lanes or gangs is complete: performed, its values and its posted tags arrived (06:R128,
08:R187). -/
def State.reqDone (s : State) (k : BKey) (r : MemReq) : Bool :=
  !(r.brick == k || r.bricks.any (fun x => x.2 == k) || (s.gang? r.gid).any fun g => g.brick == k) ||
    r.performed && (r.arrived || !(r.push || r.kind == .posted))

/-- A late value of the brick's lanes or gangs. -/
def State.lateOf (s : State) (k : BKey) (v : LateVal) : Bool :=
  (s.gang? v.gid).any fun g => g.brick == k || (lanesOf v.lanes).any fun l => (g.lane l).brick == k

/-- The brick's gangs have retired, every lane of its origin has left, its memory and engine operations are complete, and
the accesses its completion record releases have been performed (02:R39, R40, 06:R128). -/
def State.brickDone (s : State) (b : Brick) : Bool :=
  let gs := s.gangs.filter fun g => g.brick == b.key
  !b.retired && b.pendq.isEmpty && gs.all (fun g => g.live == 0) &&
  s.liveLanes.all (fun l => l.brick != b.key) && s.engQuiet b.key &&
  s.reqs.all (s.reqDone b.key) && s.lates.all (fun v => !s.lateOf b.key v) &&
  gs.all fun g => (s.waitsFor g (s.covered g)).isEmpty

/-- The brick has participating gangs. -/
def State.hasReord (s : State) (b : Brick) : Bool := s.gangs.any fun g => g.brick == b.key && g.reord

/-- The bricks that retire together (13:R277). -/
def State.retireWith (s : State) (b : Brick) : List Brick :=
  match s.course? ⟨b.key.wall, b.course⟩ with
  | some c =>
    if c.regrouped && s.hasReord b then (s.courseBricks c.key).filter fun x => !x.retired && s.hasReord x else [b]
  | none => [b]

/-! ### The completion record (02:R40) -/

def State.recordOf (s : State) (b : Brick) : List Byte :=
  let st := (s.coord b.key).s
  let now := (vget s.foots (footOf b.core)).gtsc
  natLe 8 (b.key.idx + field 32 st + field 48 (bit b.quar) + field 49 (bit b.killed)) ++ natLe 8 now
    ++ natLe 8 (b.qcause.toNat + field 8 b.qoid.toNat) ++ List.replicate 40 0 ++ natLe 64 b.qmask.toNat

/-- Where a brick's record goes: nowhere when that access has been declared unresolvable. -/
def State.recordPage (s : State) (b : Brick) : EngRes (Option Nat) :=
  if s.isDead (.completion b.key) then .ok none s
  else
    let base := ((s.header? b.key.wall).map fun h => h.crecbase.toNat).getD 0
    match s.unitPage (footOf b.core) (s.asidOf b.key.wall) ((base + 128 * b.key.idx) % 2 ^ 56) .write with
    | .ok pa s => if (s.endEpoch (footOf b.core)).hostReady (footOf b.core) pa then .ok (some pa) s else .wait
    | .wait => .wait
    | .fault c v => .fault c v
    | .poison c w => .poison c w

/-! ### What a retirement frees -/

/-- Stage neighbours learn of the retirement, and messages on their way from the brick are overtaken (11:R236). -/
def State.tellNeighbours (s : State) (k : BKey) : State :=
  (s.neighbours k).foldl (fun s x =>
    let nb := x.2
    let s := { s with leads := s.leads.filter fun m => !(m.dst == nb.key && m.low == !x.1) }
    s.setBrick (if x.1 then { nb with highph := 0xFFFFFFFF } else { nb with lowph := 0xFFFFFFFF })) s

/-- The brick's send registers are released; an unsent flit leaves (06:R139; log 24). -/
def State.releaseTx (s : State) (k : BKey) : State :=
  let out := (s.cores.toList.zipIdx).flatMap fun (c, i) => c.tx.toList.zipIdx.filterMap fun (t, j) =>
    match t.owner == some k, t.bound, t.flit with
    | true, some d, some v => some (⟨d.1, d.2, 4 * i + j, v.1, v.2⟩ : Flit)
    | _, _, _ => none
  let clear := fun (t : Tx) => if t.owner = some k then (⟨none, none, none⟩ : Tx) else t
  { s with flits := s.flits ++ out, cores := s.cores.map fun c => { c with tx := c.tx.map clear } }

/-- The read-only lines of a core leave when it holds no brick of the address space any more (08:R174). -/
def State.dropSpaceLines (s : State) (core asid : Nat) : State :=
  if (s.bricksOn core).any fun b => s.asidOf b.key.wall == asid then s
  else { s with l1 := s.l1.filter fun x => !(x.core == core && x.asid == asid && x.ro) }

/-- One brick retires: its record written with release, its seats, allotment and tiles freed. -/
def State.retireOne (s : State) (b : Brick) (pa : Option Nat) : State :=
  let foot := footOf b.core
  let s := s.endEpoch foot
  let s := match pa with
    | some pa => s.putWrite { foot := foot } (s.partOf foot) pa (s.recordOf b)
    | none => s
  let s := ((s.endEpoch foot).tellNeighbours b.key).releaseTx b.key
  let s := (s.unhold (.completion b.key)).setBrick { b with retired := true, seats := [], spad := [], phys := [] }
  let s := { s with gangs := s.gangs.filter (fun g => g.brick != b.key),
                    marks := s.marks.filter fun m => !((m.unit == 2 || m.unit == 3) && m.owner == b.serial) }
  let s := s.dropSpaceLines b.core (s.asidOf b.key.wall)
  match s.wall? b.key.wall with
  | some w => s.setWall { w with ends := maxVec w.ends (s.relSeen foot) }
  | none => s

/-- A course whose last brick has retired frees its enrolments (02:R39, 09:R212). -/
def State.endCourse (s : State) (k : CKey) : State :=
  let bs := s.courseBricks k
  if bs.all Brick.retired then
    let s := bs.foldl (fun s b => (List.range 64).foldl (fun s n => s.mcLeave b.key (footOf b.core) n) s) s
    { s with courses := s.courses.filter fun c => c.key != k }
  else s

/-- A set whose bricks have all retired is gone. -/
def State.endSet (s : State) (wall num : Nat) : State :=
  match s.set? wall num with
  | some p =>
    if (s.setBricks p).all Brick.retired then ({ s with sets := s.sets.erase p } : State).unhold (.context wall num) else s
  | none => s

/-! ### The end of a wall (02:R41, 11:R238) -/

/-- Every brick of the wall has retired. -/
def State.allRetired (s : State) (w : Wall) : Bool :=
  w.header.isSome && w.nextSet == Packet.sets w.words && s.bricks.all fun b => b.key.wall != w.id || b.retired

/-- A complete wall leaves the dispatcher. -/
def State.dropWall (s : State) (id : Nat) : State :=
  let s' := { s with walls := s.walls.filter (fun w => w.id != id), bricks := s.bricks.filter (fun b => b.key.wall != id),
                     courses := s.courses.filter (fun c => c.key.wall != id), sets := s.sets.filter (fun p => p.wall != id),
                     gangs := s.gangs.filter (fun g => g.brick.wall != id),
                     unitHolds := s.unitHolds.filter fun h => h.work != UnitWork.increment id }
  s'.dropRings id

/-- The wall-end increment: an atomic add at the home slice with release at device scope, after every completion
record. -/
def State.increment (s : State) (w : Wall) : EngRes Unit :=
  if !Packet.inc w.words || s.isDead (.increment w.id) then .ok () s
  else match s.unitPage w.foot w.asid (Packet.cnt w.words) .write with
    | .wait => .wait
    | .fault c v => .fault c v
    | .poison c x => .poison c x
    | .ok pa s =>
      let home := s.unitHome w.foot pa
      let s' := s.raiseAll home w.ends
      if s.poisoned pa || !s.hasApplied home w.ends || !s'.hostReady home pa then .wait
      else
        let v := (s'.mem home).word pa + 1
        .ok () (s'.putWrite { foot := home } (s'.partOf w.foot) pa (natLe 8 v.toNat))

/-- The work waits its turn. -/
def State.queueWork (s : State) (asid : Nat) (work : UnitWork) (va : Nat) : State :=
  if s.unitHolds.any fun h => h.work == work then s
  else { s with unitHolds := s.unitHolds ++ [⟨asid, 0, work, va, false, false⟩] }

/-- A wall all of whose bricks have retired completes, or waits for its increment. -/
def State.endWall (s : State) (w : Wall) : Out :=
  match s.increment w with
  | .ok _ s => .next (s.dropWall w.id)
  | .fault c va => s.holdUnit w.foot w.asid 0 (.increment w.id) c va
  | _ => .next (s.queueWork w.asid (.increment w.id) (Packet.cnt w.words))

/-! ### BRICK_RETIRE -/

/-- What follows the retirement of bricks of one course: the stream's step, the course, the set, the wall. -/
def State.afterRetire (s : State) (b : Brick) : Out :=
  let s := s.endCourse ⟨b.key.wall, b.course⟩
  match s.wall? b.key.wall with
  | none => .next s
  | some w =>
    let s := s.endSet w.id (Packet.setOf w.words (Packet.coord w.words b.key.idx))
    if !s.allRetired w then .next s
    else match w.src with
      | .stream n => (s.stepRetired n).endWall w
      | _ => s.endWall w

/-- Bricks retire together, in order. -/
def State.retireAll (s : State) (b : Brick) (bs : List Brick) : Out :=
  let fault := bs.findSome? fun x => match s.recordPage x with
    | .fault c va => some (x, c, va)
    | _ => none
  match fault with
  | some (x, c, va) => s.holdUnit (footOf x.core) (s.asidOf x.key.wall) 0 (.completion x.key) c va
  | none =>
    match readAll State.recordPage bs s with
    | .ok pas s =>
      ((List.zip bs pas).foldl (fun s x => match s.brick? x.1.key with
        | some y => s.retireOne y x.2
        | none => s) s).afterRetire b
    | _ => .refused .cannotOccur

/-- BRICK_RETIRE (02:R39). -/
def execBrickRetire (wall brick : Nat) (s : State) : Out :=
  match s.brick? ⟨wall, brick⟩ with
  | none => .refused .cannotOccur
  | some b =>
    let bs := s.retireWith b
    let gs := bs.map fun x => groupOf x.core
    if !s.brickDone b || !bs.all s.brickDone || !s.mayAct gs 2 then .refused .cannotOccur
    else (s.noteAct gs 2).retireAll b bs

end Sys2Proof.Machine
end

