-- ==== Sys2Proof/Machine/Riddle.lean ====
section
/-! DEFINITION. REORDER and its companions (file 13): arrival, binning, the commit point and the rebuild. -/

namespace Sys2Proof.Machine

open Sys2Proof

/-! ### Arrival (13:R266-R268) -/

/-- The payload registers of a mask. -/
def payloadRegs (base : BitVec 6) (mask : BitVec 16) : List Nat :=
  ((List.range 16).filter fun i => mask.getLsbD i).map fun i => base.toNat + i

/-- The tag entries of a gang's live lanes. The key of a dormant lane whose queue operand is not valid is undefined
(00:R6; log 3). -/
def State.tagsOf (s : State) (g : Gang) (key : Opnd) (regs : List Nat) : List Tag × State :=
  (lanesOf g.live).foldl (fun (acc : List Tag × State) l =>
    let (v, s) := if g.opndInvalid key l then acc.2.fresh else (acc.2.opnd g 0 key l, acc.2)
    let ln := g.lane l
    let t : Tag :=
      { key := v.setWidth 16, obrick := ln.obrick, oid := ln.oid, pred := ln.p, pos := 0, gid := g.gid, lane := l,
        payload := regs.map fun i => (vget ln.n i).val, spill := none }
    (acc.1 ++ [t], s)) ([], s)

/-- A gang arrives (13:R268, R281). -/
def State.arriveReorder (s : State) (g : Gang) (key : Opnd) (regs : List Nat) (i : Instr) : Out :=
  match s.courseOf g.brick with
  | none => s.done g
  | some c =>
    if c.state ≠ .idle ∧ c.state ≠ .gathering then s.stall g
    else
      let c := if c.state = .idle then
          { c with state := .gathering, word := some (unguarded i), clause := g.pc, posn := g.pos,
                   expected := (s.participants c.key).map Gang.gid, arrived := [], tags := [] }
        else c
      let (ts, s) := s.tagsOf g key regs
      let s := s.setCourse { c with arrived := c.arrived ++ [g.gid], tags := c.tags ++ ts }
      .next ((s.setGang { g with wait := .gathered }).gatherCheck c.key)

/-- An uncorrectable word that the arrival reads in a live lane: its predicates, its key, a payload register (04:R86,
13:R268). -/
def Gang.badTag (g : Gang) (gd : Guard) (key : Opnd) (regs : List Nat) : Option Nat :=
  ({ g with em := g.live } : Gang).badRead gd g.live (key :: regs.map fun i => .n (BitVec.ofNat 6 i)) true

/-- The issue checks of 13:R267, then the interlock and the arrival. -/
def State.reorder (s : State) (gd : Guard) (key : Opnd) (regs : List Nat) (i : Instr) (count : Bool) : Out :=
  s.once gd [key] count fun g _ _ =>
    if !g.reord then s.trapEm g 0x30 0
    else if g.depth ≠ 0 then s.trapEm g 0x31 0
    else if !count && g.out.toList.any (· != 0) then s.trapEm g 0x32 0
    else if s.lateOpen g.gid then s.stall g
    else match g.badTag gd key regs with
      | some r => .next (s.holdGang g 0x48 (BitVec.ofNat 64 r) false)
      | none => s.arriveReorder g key regs i

/-- REORDER.PACK (13:R266). -/
def execReorderPack (g : Guard) (key : Opnd) (base : BitVec 6) (mask : BitVec 16) (s : State) : Out :=
  s.reorder g key (payloadRegs base mask) (.reorderPack g key base mask) false

/-- REORDER.ALIGN (13:R266). -/
def execReorderAlign (g : Guard) (key : Opnd) (base : BitVec 6) (mask : BitVec 16) (s : State) : Out :=
  s.reorder g key (payloadRegs base mask) (.reorderAlign g key base mask) false

/-- REORDER.COUNT (13:R282). -/
def execReorderCount (g : Guard) (d : Dest) (key : Opnd) (s : State) : Out :=
  s.reorder g key [] (.reorderCount g d key) true

/-- RIDDLE.STAT (13:R283). -/
def execRiddleStat (g : Guard) (d : Dest) (s : State) : Out :=
  s.perLane g [] fun G m => s.done (G.push m d fun _ => ((s.courseOf G.brick).map Course.stat).getD 0)

/-- SEATMAP (13:R284). -/
def State.seatmap (s : State) (g : Gang) : Word :=
  let bricks := maskNat (fun u => (lanesOf g.live).any fun l => (g.lane l).obrick.toNat == u) 8
  let remote := maskNat (fun l => g.live.getLsbD l && (s.brick? (g.lane l).brick).any fun b => b.core != g.core) 32
  BitVec.ofNat 64 (bricks + field 8 remote)

def execSeatmap (g : Guard) (d : Dest) (s : State) : Out :=
  s.perLane g [] fun G m => s.done (G.push m d fun _ => s.seatmap G)

/-! ### Binning (13:R271) -/

/-- The entries in sorted order, with their places. -/
def sortTags (ts : List Tag) : List Tag :=
  let le := fun (x y : Tag) =>
    x.key.toNat * 4096 + x.obrick.toNat * 512 + x.oid.toNat ≤ y.key.toNat * 4096 + y.obrick.toNat * 512 + y.oid.toNat
  (ts.insertionSort fun x y => le x y).mapIdx fun i t => { t with pos := BitVec.ofNat 12 i }

/-- The distinct keys of sorted entries, ascending. -/
def keysOf (ts : List Tag) : List (BitVec 16) := (ts.map Tag.key).eraseDups

/-- Where the entries go: entries placed so far, the current gang and seat lane, the keys that shared a gang, the
places. -/
structure Placing where
  n : Nat
  g : Nat
  l : Nat
  merged : Nat
  places : List (Nat × Nat)
deriving DecidableEq, Repr

/-- One entry placed. -/
def Placing.put (p : Placing) : Placing :=
  let q : Placing := { p with n := p.n + 1, places := p.places ++ [(p.g, p.l)], l := p.l + 1 }
  if q.l = 32 then { q with g := q.g + 1, l := 0 } else q

/-- The entries of one key placed: `k` entries, of `total`, over `seats` gangs. -/
def Placing.key (align : Bool) (seats total : Nat) (p : Placing) (k : Nat) : Placing :=
  let rem := total - p.n
  let p := if align && p.l != 0 then
      if p.g + 1 + (rem + 31) / 32 ≤ seats then { p with g := p.g + 1, l := 0 } else { p with merged := p.merged + 1 }
    else p
  (List.range k).foldl (fun p _ => p.put) p

/-- The loop of 13:R271 over sorted entries. -/
def placeAll (align : Bool) (seats : Nat) (ts : List Tag) : Placing :=
  ((keysOf ts).map fun k => (ts.filter fun t => t.key == k).length).foldl (Placing.key align seats ts.length) ⟨0, 0, 0, 0, []⟩

/-- `%binbase` of a key among sorted entries. -/
def binbase (ts : List Tag) (k : BitVec 16) : Nat := ((ts.find? fun t => t.key == k).map fun t => t.pos.toNat).getD 0

/-! ### Spill (13:R273) -/

/-- The registers of an episode's payload. -/
def episodeRegs : Option Instr → List Nat
  | some (.reorderPack _ _ b m) | some (.reorderAlign _ _ b m) => payloadRegs b m
  | _ => []

/-- The byte offset of each payload register in a spilled entry: 8 i for bit i of the mask. -/
def spillOffsets : Option Instr → List Nat
  | some (.reorderPack _ _ _ m) | some (.reorderAlign _ _ _ m) =>
    ((List.range 16).filter fun i => m.getLsbD i).map fun i => 8 * i
  | _ => []

def Course.spilled (c : Course) : Nat := if (episodeRegs c.word).isEmpty then 0 else c.tags.length - c.share

/-- A core of the course's group, where its engine translates. -/
def Course.portCore (c : Course) : Nat := 4 * c.group

/-- The gang a stop of the episode is reported under: the lowest participating seat's. -/
def State.leader (s : State) (c : Course) : Option Gang :=
  ((s.gangs.filter fun g => c.arrived.contains g.gid).insertionSort fun x y => 16 * x.core + x.seat ≤ 16 * y.core + y.seat).head?

/-- The physical addresses of the spilled entries, in order of spilling; a port that is not enabled ends the write as a translation
fault (22:R422). -/
def State.spillPages (s : State) (c : Course) : EngRes (List (Nat → Nat)) :=
  readAll (fun s j =>
    let va := (s.spillVa c + 128 * j) % 2 ^ 56
    match s.engPages c.portCore (s.asidOf c.key.wall) va 128 .write with
    | .ok f s => if s.portShut (f 0) then .fault 0x4E va else if s.portBusy (f 0) then .wait else .ok f s
    | r => r) (List.range c.spilled) s

/-- The spill writes: the entries beyond SHARE, in order of arrival. -/
def State.spillWrites (s : State) (c : Course) (pages : List (Nat → Nat)) : State × Course :=
  let offs := spillOffsets c.word
  let first := c.tags.length - c.spilled
  let place := fun (i : Nat) =>
    (pages.drop (i - first)).head?.map fun f => ((s.spillVa c + 128 * (i - first)) % 2 ^ 56, f 0)
  let s := (c.tags.drop first).zipIdx.foldl (fun s (t, j) =>
    match (pages.drop j).head? with
    | some f => (List.zip offs t.payload).foldl (fun s x => s.writeAll (s.partOf (footOf (4 * c.group))) (f x.1) (natLe 8 x.2.toNat)) s
    | none => s) s
  (s, { c with tags := c.tags.mapIdx fun i t => if i < first then t else { t with spill := place i, payload := [] } })

/-! ### The commit point (13:R272, R278, R282) -/

/-- The participating seats in order. -/
def State.seatsOf (s : State) (c : Course) : List Gang :=
  (s.gangs.filter fun g => c.arrived.contains g.gid).insertionSort fun x y => 16 * x.core + x.seat ≤ 16 * y.core + y.seat

/-- RIDDLE.STAT of a completed episode (13:R283). -/
def Course.statOf (c : Course) (merged : Nat) : Word :=
  BitVec.ofNat 64 (c.tags.length + field 12 c.spilled + field 24 merged + field 36 (keysOf (sortTags c.tags)).length
    + field 48 c.share)

/-- REORDER.COUNT's value for an entry (13:R282). -/
def countValue (ts : List Tag) (t : Tag) : Word :=
  let b := binbase ts t.key
  BitVec.ofNat 64 (t.pos.toNat - b + field 12 (ts.filter fun x => x.key == t.key).length + field 24 b
    + field 36 (keysOf ts).length)

/-- The values of a COUNT episode delivered; the gangs go on, and the course's bricks retire together from now on (13:R277, which
13:R282 names; log 54). -/
def State.commitCount (s : State) (c : Course) : State :=
  let ts := sortTags c.tags
  let fin := fun (g : Gang) =>
    match g.instr with
    | some (.reorderCount gd d _) =>
      (g.push (g.acts gd) d fun l =>
        ((ts.find? fun t => t.gid == g.gid && t.lane == l).map (countValue ts)).getD 0).advance
    | _ => g
  let s : State := { s with gangs := s.gangs.map fun g => if c.arrived.contains g.gid then fin g else g }
  s.clearEpisode { c with stat := c.statOf 0, regrouped := true }

/-- An invalid queue of undefined values (04:R79, R97; log 3). -/
def freeQueue (free : Nat) : Vector QCell 16 := Vector.ofFn fun j => ⟨Config.freeWord (free + j.val), false, none, false⟩

/-- The lane of a seat that received no entry: its queue invalid, its named registers undefined (13:R272, 04:R97; log 3). -/
def emptyLane (old : Lane) (free : Nat) : Lane :=
  { old with q := freeQueue free, n := Vector.ofFn fun j : Fin 64 => NCell.of (Config.freeWord (free + 16 + j.val)) }

/-- The lane of an entry at its new place: identity kept, payload and predicates carried, every other named register and the
queue undefined (13:R272; log 3). -/
def movedLane (old : Lane) (t : Tag) (ts : List Tag) (regs : List Nat) (free : Nat) : Lane :=
  let b := binbase ts t.key
  { old with
    q := freeQueue free
    n := Vector.ofFn fun j : Fin 64 =>
      match (List.zip regs t.payload).find? fun x => x.1 == j.val with
      | some x => NCell.of x.2
      | none => NCell.of (Config.freeWord (free + 16 + j.val))
    p := t.pred
    pbad := false
    key := t.key
    rank := BitVec.ofNat 12 (t.pos.toNat - b)
    binbase := BitVec.ofNat 12 b }

/-- The seats written by 13:R272; a spilled payload follows in the rebuild. Each entry's tag takes its new seat. Every
participating lane's earlier accesses come before every rebuilt lane's later ones (20:R393). -/
def State.commitSeats (s : State) (c : Course) (align : Bool) : State :=
  let seats := s.seatsOf c
  let ts := sortTags c.tags
  let p := placeAll align seats.length ts
  let regs := episodeRegs c.word
  let old := fun (t : Tag) => ((s.gang? t.gid).map fun g => g.lane t.lane)
  let moved := List.zip ts p.places
  let lanes := moved.zipIdx.filterMap fun (x, i) =>
    (old x.1).map fun ln => (x.2, movedLane ln x.1 ts regs (s.free + 80 * i))
  let entry := fun (gi l : Nat) => (lanes.find? fun x => x.1 == (gi, l)).map Prod.snd
  let free := s.free + 80 * ts.length
  let before := (seats.flatMap s.covered).eraseDups
  let set := fun (gi : Nat) (g : Gang) =>
    let live := maskOf fun l => (entry gi l).isSome
    let off := fun (l : Nat) (ln : Lane) => emptyLane ln (free + 2560 * gi + 80 * l)
    { g with live := live, em := live, fm := 0, lanes := g.lanes.mapIdx fun l ln => (entry gi l).getD (off l ln),
             after := (s.openOf g.after ++ before).eraseDups }
  let gid := fun (gi : Nat) => ((seats.drop gi).head?.map Gang.gid).getD 0
  let s := seats.zipIdx.foldl (fun s (g, gi) => (s.setGang (set gi g)).dropPlain g.core) s
  let tags := moved.map fun x => { x.1 with gid := gid x.2.1, lane := x.2.2 }
  ({ s with free := free + 2560 * seats.length } : State).setCourse
    { c with tags := tags, state := .rebuilding, merged := p.merged,
             undo := seats.map fun g => ⟨g.gid, g.lanes, g.em, g.live, g.fm⟩ }

/-- The participating seats as they were before the commit point. -/
def State.undoCommit (s : State) (c : Course) : State :=
  { s with gangs := s.gangs.map fun g =>
      match c.undo.find? fun u => u.gid == g.gid with
      | some u => { g with lanes := u.lanes, em := u.em, live := u.live, fm := u.fm }
      | none => g }

/-- A word of the episode is uncorrectable: every participant is held, with the effects of a rollback (13:R265; a rebuild that
meets one is undone, log 11). -/
def State.riddleError (s : State) (c : Course) (cause word : Nat) : State :=
  let s := (s.undoCommit c).rollback c none
  c.arrived.foldl (fun s gid =>
    match s.gang? gid with
    | some g => s.holdGang g cause (BitVec.ofNat 64 word) false
    | none => s) s

/-- An uncorrectable word of the course's open episode. -/
def State.badRiddle (s : State) (c : Course) : Option Nat :=
  (s.marks.find? fun m => m.unit == 1 && m.owner == c.key.code).map Mark.word

/-- Every brick of the course is at work. -/
def State.courseWorks (s : State) (c : CKey) : Bool :=
  (s.courseBricks c).all fun b => b.retired || s.working b.key

/-- REORDER_COMMIT (13:R278, R281). -/
def execReorderCommit (wall course : Nat) (s : State) : Out :=
  match s.course? ⟨wall, course⟩ with
  | none => .refused .cannotOccur
  | some c =>
    if c.state ≠ .binning ∨ !s.courseWorks c.key then .refused .cannotOccur
    else match s.badRiddle c with
      | some w => .next (s.riddleError c 0x49 w)
      | none =>
        match s.spillPages c with
        | .fault cause va =>
          let s := s.setCourse { c with state := .frozen, fault := some (cause, BitVec.ofNat 64 va) }
          match s.leader c with
          | some g => .next (s.holdEngine (.riddle c.key) g.gid g.core (s.asidOf wall) cause va)
          | none => .next s
        | .ok pages s =>
          match c.word with
          | some (.reorderCount ..) => .next (s.commitCount c)
          | some (.reorderAlign ..) => let (s, c) := s.spillWrites c pages; .next (s.commitSeats c true)
          | _ => let (s, c) := s.spillWrites c pages; .next (s.commitSeats c false)
        | _ => .refused .cannotOccur

/-! ### The rebuild (13:R272, R273) -/

/-- Spilled payloads read back into the seats. -/
def State.unspill (s : State) (c : Course) : State :=
  let regs := episodeRegs c.word
  let offs := spillOffsets c.word
  c.tags.foldl (fun s t =>
    match t.spill, s.gang? t.gid with
    | some (_, pa), some g =>
      let home := s.homeFoot (s.gangPart g) pa
      let m := s.mem home
      let s := (s.touch home pa 128 false).readOut (s.gangPart g) pa 128
      let lane := (List.zip regs offs).foldl (fun (ln : Lane) x =>
        ln.writeN (BitVec.ofNat 6 x.1) (NCell.of (m.word (pa + x.2)))) (g.lane t.lane)
      s.setGang { g with lanes := g.lanes.mapIdx fun l ln => if l = t.lane then lane else ln }
    | _, _ => s) s

/-- The episode ends: the gangs go on, those with no live lane retire, STAT is written, the record is cleared (13:R281), and the
course's bricks retire together from now on (13:R277). -/
def State.finishRebuild (s : State) (c : Course) : State :=
  let s := s.unspill c
  let fin := fun (g : Gang) => if g.live = 0 then { g with wait := .ready }.retireIfEmpty else g.advance
  let s : State := { s with gangs := s.gangs.map fun g => if c.arrived.contains g.gid then fin g else g }
  s.clearEpisode { c with stat := c.statOf c.merged, regrouped := true }

/-- The first spilled payload that lies on a poisoned line: its address (14:R297). -/
def State.badSpill (s : State) (c : Course) : Option Nat :=
  c.tags.findSome? fun t => t.spill.bind fun x => if s.poisoned x.2 then some x.1 else none

/-- The rebuild ends, or meets an uncorrectable word (13:R265, 14:R297). -/
def State.endRebuild (s : State) (c : Course) : State :=
  match s.badRiddle c, s.badSpill c with
  | some w, _ => s.riddleError c 0x49 w
  | none, some va => s.riddleError c 0x4D va
  | none, none => s.finishRebuild c

/-- The read of a spilled payload waits for its port; past the commit point the spec gives a port that is no longer enabled no
other fate (DESIGN CHOICE, log 37). -/
def State.spillHeld (s : State) (c : Course) : Bool :=
  c.tags.any fun t => t.spill.any fun x => s.portBusy x.2 || s.portShut x.2

/-- Some write of a `g` register of the course's bricks has not taken effect: a lane that moves leaves it behind, so that the rebuild,
which takes longer than the write, ends after it (06:R133, 11:R229, 13:R276). -/
def State.gPending (s : State) (c : CKey) : Bool :=
  s.gnext.any fun x => x.brick.wall == c.wall && (s.brick? x.brick).any fun b => b.course == c.course

/-- REORDER_REBUILD_DONE (13:R281). -/
def execReorderRebuildDone (wall course : Nat) (s : State) : Out :=
  match s.course? ⟨wall, course⟩ with
  | none => .refused .cannotOccur
  | some c =>
    if c.state ≠ .rebuilding ∨ s.spillHeld c ∨ s.gPending c.key then .refused .cannotOccur
    else .next (s.endRebuild c)

/-- System software resolves the fault of a course's episode (13:R279). -/
def State.resumeRiddle (s : State) (k : CKey) : State :=
  match s.course? k with
  | none => s
  | some c => if c.state = .frozen then s.setCourse { c with state := .binning, fault := none } else s

/-- It declares the fault unresolvable (13:R279): a rollback, and REORDER_SPILL to every participant. -/
def State.failRiddle (s : State) (k : CKey) : State :=
  match s.course? k with
  | none => s
  | some c =>
    if c.state ≠ .frozen then s
    else c.arrived.foldl (fun s gid => s.engineFault gid (s.coreOf gid) (s.asidOf k.wall) 0x3B ((c.fault.map Prod.snd).getD 0))
      (s.rollback c none)

end Sys2Proof.Machine
end

