-- ==== Sys2Proof/Machine/Halt.lean ====
section
/-! DEFINITION. Pre-emption and swap-out: who asks, the victims, and the halt of a set (02:R36, 07:R162, 12:R260,
13:R278, 14:R299, R300, 16:R326, R334, R335). -/

namespace Sys2Proof.Machine

open Sys2Proof

/-! ### The halt (14:R299) -/

/-- The gang's wait once it is halted before its waiting instruction: a BAR.SYNC keeps its arrival, a monitor is woken
by the restore (06:R137, 11:R230), a deque operation goes on. -/
def Wait.halted : Wait → Wait
  | .syncing x phc lanes => .syncing x phc lanes
  | .monitor m => .monitor { m with woken := true }
  | .posted id => .posted id
  | _ => .ready

/-- A hold on an access ends with the halt: the access is made again after restore (08:R178); other holds stay. -/
def Hold.afterHalt (h : Hold) : Option Hold := if h.cause = 0x40 ∨ h.cause = 0x4E then none else some h

/-- The decoded words go: the clause is decoded again where the gang resumes (03:R53, R72). -/
def Gang.dropCode (g : Gang) : Gang := { g with clause := [], header := none, waited := g.pos != 0 }

/-- A halted gang (14:R299). A split-stack spill is abandoned with its SPLIT. The clause of a deque operation that goes on is
needed until it is done. The spin history is dropped, so that iterations before the halt do not count towards a park (06:R138
does not say; DESIGN CHOICE, log 16). -/
def Gang.halt (g : Gang) : Gang :=
  let x := match g.xfer with
    | some (.spill ..) => none
    | y => y
  let g := { g with wait := g.wait.halted, hold := g.hold.bind Hold.afterHalt, xfer := x, spin := [] }
  match g.wait with
  | .posted _ => g
  | _ => g.dropCode

/-- A trap entry past its interlock completes; one that still waits is abandoned by `halt` (14:R292, R299). -/
def State.finishEntry (s : State) (g : Gang) : State :=
  match g.wait with
  | .trapping t fault =>
    if g.hold.isSome then s
    else match s.takeTrap g t fault with
      | .next s' =>
        match (s'.gang? g.gid).map Gang.wait with
        | some (.trapping ..) => s
        | _ => s'
      | _ => s
  | _ => s

/-- The REORDER of a course stops: rolled back, or rebuilt (13:R278). -/
def State.haltRiddle (s : State) (k : CKey) : State :=
  match s.course? k with
  | none => s
  | some c =>
    let s := s.dropEngine (.riddle k)
    match c.state with
    | .idle => s
    | .rebuilding => s.endRebuild c
    | _ => s.rollback c none

/-- The entries of a set's bricks leave a core's matrix engine (07:R162). -/
def State.saveMatrix (s : State) (mine : BKey → Bool) (core : Nat) : State :=
  let q := (s.core core).mq
  let (own, rest) := q.partition fun e => mine e.brick
  let saved := own.map fun e => { e with frozen := none }
  match q with
  | [] => s
  | e :: _ =>
    let s := { s with savedMat := s.savedMat ++ saved }
    if mine e.brick then
      let mp := (s.core core).mp
      let s := match s.brick? e.brick with
        | some b => s.setBrick { b with mp := mp }
        | none => s
      let s := s.dropEngine (.matrix core)
      s.setMq core rest ({ e with frozen := none }.mp false)
    else s.setMq core rest 0

/-- The requests of a set's bricks leave a group's quantisation queue (12:R260). -/
def State.saveQuants (s : State) (mine : BKey → Bool) (grp : Nat) : State :=
  let q := (s.group grp).quants
  let (own, rest) := q.partition fun e => mine e.brick
  let head := (q.head?.map fun e => mine e.brick).getD false
  let saved := own.map fun (e : QuantReq) => { e with frozen := none }
  let s := { s with savedQuant := s.savedQuant ++ saved }
  let s := if head then s.dropEngine (.quant grp) else s
  s.setGroup grp { s.group grp with quants := rest }

/-- The bindings of a brick on a core: the register, the destination, an unsent flit. -/
def State.boundOn (s : State) (k : BKey) (core : Nat) : List (Nat × (Nat × Nat) × Option (Word × MsgInfo)) :=
  (s.core core).tx.toList.zipIdx.filterMap fun (t, i) =>
    if t.owner == some k then t.bound.map fun d => (i, d, t.flit) else none

/-- The bindings of a set's bricks are saved with any unsent flit (06:R142): the record holds those on the brick's own core; those
that a REORDER's lanes made on the core of another brick of the course stay with the device (log 24). -/
def State.saveTx (s : State) (b : Brick) : State :=
  let hosts := ((s.courseBricks ⟨b.key.wall, b.course⟩).filter fun x => !x.retired && x.core != b.core).foldl
    (fun l x => if l.any fun y => y.core == x.core then l else l ++ [x]) ([] : List Brick)
  let own := (s.boundOn b.key b.core).map fun t => (t.1, BitVec.ofNat 11 (t.2.1.1 + 512 * t.2.1.2), t.2.2)
  let far := hosts.flatMap fun x => (s.boundOn b.key x.core).map fun t => (x.key, t)
  let clear := fun (t : Tx) => if t.owner = some b.key then (⟨none, none, none⟩ : Tx) else t
  ({ s with cores := s.cores.map fun c => { c with tx := c.tx.map clear } } : State).setBrick { b with savedTx := own, farTx := far }

/-- A placement set halts (14:R299): its engines' work is saved or stops, its gangs stand at an instruction boundary. -/
def State.haltSet (s : State) (p : PSet) (swap : Bool) : State :=
  let s := (s.setGangs p).foldl (fun s g => ((s.gang? g.gid).map s.finishEntry).getD s) s
  let joins := (s.setGangs p).filterMap fun (g : Gang) => match g.wait with
    | .joinc a v _ => if swap then some (a, v) else none
    | _ => none
  let bs := (s.setBricks p).filter fun b => !b.retired
  let mine := fun (k : BKey) => bs.any fun b => b.key == k
  let cs := (bs.map fun b => (⟨p.wall, b.course⟩ : CKey)).eraseDups
  let s := cs.foldl State.haltRiddle s
  let cores := (bs.map Brick.core).eraseDups
  let s := s.landG fun x => mine x.brick
  let noMp := fun (b : Brick) => if mine b.key then { b with mp := 0 } else b
  let s := cores.foldl (fun s c => s.saveMatrix mine c) ({ s with bricks := s.bricks.map noMp } : State)
  let (late, arr) := s.matArrivals.partition fun a => mine a.entry.brick
  let s := { s with savedMat := s.savedMat ++ late.map MatArrival.entry, matArrivals := arr }
  let s := ((cores.map groupOf).eraseDups).foldl (fun s g => s.saveQuants mine g) s
  let s := bs.foldl (fun s b => match s.brick? b.key with
    | some b => s.saveTx b
    | none => s) s
  let gids := (s.setGangs p).map Gang.gid
  let stop := fun (g : Gang) => if gids.contains g.gid then g.halt else g
  let seats := fun (b : Brick) => (s.gangs.filter fun g => g.brick == b.key && g.seated).map Gang.seat
  let cut := fun (b : Brick) => if mine b.key then { b with seats := seats b } else b
  let walks := s.walks.map fun (w : Walk) => { w with gids := w.gids.filter fun x => !gids.contains x.1 }
  let s := { s with gangs := s.gangs.map stop, bricks := s.bricks.map cut, walks := walks,
                    leads := s.leads.filter fun m => !mine m.dst }
  let p' := { p with phase := if gids.isEmpty then .parked else .halted, restorable := !swap, swapped := swap,
                     parkedAt := s.cycle, joins := joins }
  (s.endEpoch p.foot).setPSet p'

/-! ### Victims (16:R326) -/

/-- Every course of a set fits on one group together (02:R28, R29). -/
def takeAll (h : LHeader) (n : Nat) : Nat → GroupRes → Bool
  | 0, _ => true
  | k + 1, g =>
    match g.take h n with
    | some r => takeAll h n k r.2
    | none => false

/-- The resident sets of strictly lower class with a brick on a group. -/
def State.lowerOn (s : State) (cls group : Nat) : List PSet :=
  s.sets.filter fun p => p.phase == .resident && decide (cls < s.classOf p.wall) &&
    (s.setBricks p).any fun b => groupOf b.core == group && !b.retired

/-- Some choice of `k` sets of a list, with `taken`, passes a test. -/
def anyChoice (f : List PSet → Bool) : List PSet → Nat → List PSet → Bool
  | _, 0, taken => f taken
  | [], _ + 1, _ => false
  | p :: r, k + 1, taken => anyChoice f r k (taken ++ [p]) || anyChoice f r (k + 1) taken

/-- The fewest sets whose removal lets the waiting set fit on a group. -/
def State.fewest (s : State) (h : LHeader) (n cls group : Nat) : Option Nat :=
  let ps := s.lowerOn cls group
  (List.range (ps.length + 1)).find? fun k =>
    anyChoice (fun x => takeAll h n h.stages ((s.without x).groupRes group)) ps k []

/-- The group chosen among those of a partition: the smallest count, then the lowest number. -/
def State.victimGroup (s : State) (h : LHeader) (n cls part : Nat) : Option Nat :=
  let cs := ((s.partFoots part).flatMap groupsOf).filterMap fun g => (s.fewest h n cls g).map fun k => (k, g)
  (cs.insertionSort fun x y => x.1 < y.1 || x.1 == y.1 && x.2 ≤ y.2).head?.map Prod.snd

/-- Victims in order, as many as it takes. -/
def State.takeVictims (s : State) (h : LHeader) (n group : Nat) : List PSet → List PSet → List PSet
  | [], taken => taken
  | p :: r, taken =>
    if takeAll h n h.stages ((s.without taken).groupRes group) then taken else s.takeVictims h n group r (taken ++ [p])

/-- The victims of a waiting set: lowest class first, the most recently placed first. Sets of lower class that are
halted already hold nothing against it. -/
def State.victims (s : State) (w : Wall) (h : LHeader) (num : Nat) : List PSet :=
  let s := s.without (s.sets.filter fun p => p.phase != .resident && decide (w.cls < s.classOf p.wall))
  let n := w.boxSize num
  if (s.fit w h num).isSome then []
  else match s.victimGroup h n w.cls (s.partOf w.foot) with
    | none => []
    | some g =>
      let order := (s.lowerOn w.cls g).insertionSort fun x y =>
        s.classOf y.wall < s.classOf x.wall || s.classOf x.wall == s.classOf y.wall && y.placedAt ≤ x.placedAt
      s.takeVictims h n g order []

/-- A gang's access that is on its way to other cores, other than a load, ends before the gang halts (14:R299). -/
def Gang.midway (g : Gang) : Bool :=
  match g.wait with
  | .reaching _ load _ => !load
  | _ => false

/-- PREEMPT_REQUEST (16:R326): the waiting set `(wall, set)` asks, and its victims halt. -/
def execPreemptRequest (wall set : Nat) (s : State) : Out :=
  match s.wall? wall, s.nofit.find? fun x => x.wall == wall && x.num == set with
  | some w, some x =>
    match w.header with
    | none => .refused .cannotOccur
    | some h =>
      let vs := if x.asked then s.victims w h set else []
      let gs := vs.flatMap fun p => (s.setBricks p).map fun b => groupOf b.core
      if vs.isEmpty || !s.mayAct gs 1 || vs.any (fun p => (s.setGangs p).any Gang.midway) then .refused .cannotOccur
      else .next ((vs.foldl (fun s p => s.haltSet p false) s).noteAct gs 1)
  | _, _ => .refused .cannotOccur

/-- HIGH_DELAY_EXPIRY (16:R326). -/
def execHighDelayExpiry (wall set : Nat) (s : State) : Out :=
  match s.nofit.find? fun x => x.wall == wall && x.num == set with
  | none => .refused .cannotOccur
  | some x =>
    if s.classOf wall ≠ 1 ∨ x.asked ∨ s.cycle < x.since + 256 * s.sys.highdelay then .refused .cannotOccur
    else .next { s with nofit := s.nofit.map fun y => if y = x then { x with asked := true } else y }

/-! ### Swap-out (16:R334, R335) -/

/-- The gang has waited at a JOINC for the swap threshold. -/
def State.longJoin (s : State) (g : Gang) : Bool :=
  match g.wait with
  | .joinc _ _ t => g.seated && g.hold.isNone && decide (t + 256 * s.sys.swapth ≤ s.cycle)
  | _ => false

/-- SWAP_OUT (16:R334). -/
def execSwapOut (wall set : Nat) (s : State) : Out :=
  match s.set? wall set with
  | none => .refused .cannotOccur
  | some p =>
    let gs := s.setGangs p
    if s.sys.swapth = 0 ∨ p.phase ≠ .resident ∨ gs.isEmpty ∨ !gs.all s.longJoin then .refused .cannotOccur
    else .next (s.haltSet p true)

/-- SWAP_CONDITION_END (16:R335): the counter of a saved gang has reached its value. -/
def execSwapConditionEnd (wall set : Nat) (s : State) : Out :=
  match s.set? wall set with
  | none => .refused .cannotOccur
  | some p =>
    let hit := p.joins.any fun j =>
      match s.unitRead p.foot (s.asidOf wall) j.1.toNat 8 with
      | .ok d _ => decide (0 ≤ (d.word 0 - j.2).toInt)
      | _ => false
    if p.phase = .resident ∨ p.restorable ∨ !hit then .refused .cannotOccur
    else .next (s.setPSet { p with restorable := true })

end Sys2Proof.Machine
end

