-- ==== Sys2Proof/Machine/Waits.lean ====
section
/-! DEFINITION. MONITOR and JOINC, and the events that end a gang's waits: wakes, page walks, split-stack transfers,
trap entries (06:R124, R137, 08:R177, R178, 14:R292, R296, 16:R333). -/

namespace Sys2Proof.Machine

open Sys2Proof

/-! ### Reads at the home slice, with acquire at device scope (06:R137, 16:R333) -/

/-- A read at the home slice can be performed now: nothing it follows is open, and earlier writes of the core and of
its footing to the word have reached the home slice. -/
def State.homeFree (s : State) (g : Gang) (pa : Nat) : Bool :=
  (s.depsOf g (.load .s64 (some .device) false) [(pa, 8)]).isEmpty && s.homeReady g.core pa 8 && !s.accepted g.core pa 8 &&
  !s.portBusy pa

/-- What the acquire of such a read by some lanes leaves for the gang's later accesses. -/
def State.homeAcq (s : State) (g : Gang) (m : Mask) (pa : Nat) : State × Gang :=
  let home := s.homeFoot (s.gangPart g) pa
  let needs := s.needsAt (footOf g.core) pa 8
  let (id, s) := s.newId
  let r : MemReq :=
    { id := id, gid := g.gid, core := g.core, brick := g.brick, bricks := g.laneBricks m, asid := s.asidOf g.brick.wall,
      kind := .joinc, dest := .none, push := false, accs := [], deps := [], needs := needs, rels := [],
      ended := false, arrived := true }
  let s := { s with reqs := s.reqs ++ [r] }
  let (s, g) := s.acquireAt g (g.originsOf m) .device home pa 8
  (s, { g with after := s.openOf g.after ++ [id] })

/-- Run `k` on the word at a virtual address read at its home slice, with the page's physical address, once the slice has the
line. -/
def State.homeRead (s : State) (g : Gang) (va : Nat) (k : State → Nat → Word → Out) : Out :=
  match s.lookup g.core (s.asidOf g.brick.wall) va .read with
  | none => s.askWalk g va .read
  | some e =>
    let pa := e.phys (footOf g.core) va
    let home := s.homeFoot (s.gangPart g) pa
    if !s.homeFree g pa || !s.missRoom home pa then s.stall g (g.waitOr .stalled)
    else if s.portShut pa then
      .next (s.holdGang g 0x4E (BitVec.ofNat 64 va) true)
    else if s.poisoned pa then .next (s.holdGang g 0x4D (BitVec.ofNat 64 va) false)
    else k ((s.touchLine home pa false).readOut (s.gangPart g) pa 8) pa ((s.mem home).word pa)

/-- The gang has been woken from its monitor. -/
def Gang.woken (g : Gang) : Bool :=
  match g.wait with
  | .monitor m => m.woken && !m.spin
  | _ => false

/-- MONITOR (06:R137). -/
def execMonitor (g : Guard) (d : Dest) (a b : Opnd) (s : State) : Out :=
  s.once g [a, b] true fun G m l =>
    let va := uval 56 (s.opnd G 0 a l) / 8 * 8
    s.homeRead G va fun s pa w =>
      if w ≠ s.opnd G 0 b l ∨ G.woken then
        let (s, G) := s.homeAcq G m pa
        let (s, G) := s.late G m d fun _ => w
        s.done G
      else
        s.stall { G with spins := G.spins + 1 } (.monitor ⟨pa / 128, pa, s.cycle, false, false⟩)

/-- A counter reaches a value (11:R238). -/
def reaches (c v : Word) : Bool := decide (0 ≤ (c - v).toInt)

/-- JOINC (16:R333); DEST is zero, so the value goes to the queue alone. -/
def execJoinc (g : Guard) (a b : Opnd) (s : State) : Out :=
  s.once g [a, b] true fun G m l =>
    let va := uval 56 (s.opnd G 0 a l)
    let v := s.opnd G 0 b l
    if va % 8 ≠ 0 then s.trapEm G 0x18 (BitVec.ofNat 64 va)
    else s.homeRead G va fun s pa w =>
      if reaches w v then
        let (s, G) := s.homeAcq G m pa
        let (s, G) := s.late G m .none fun _ => w
        s.done G
      else
        let since := match G.wait with
          | .joinc _ _ t => t
          | _ => s.cycle
        s.stall G (.joinc (BitVec.ofNat 56 va) v since)

/-! ### Wakes (06:R137, R138) -/

/-- A monitor's wait ends. -/
def State.wake (s : State) (core seat : Nat) (ok : MonWait → Bool) : Out :=
  match s.gangAt core seat with
  | none => .refused .cannotOccur
  | some g =>
    match g.wait with
    | .monitor m => if ok m && !m.woken then .next (s.setGang { g with wait := .monitor { m with woken := true } })
      else .refused .cannotOccur
    | _ => .refused .cannotOccur

/-- MONITOR_TIMEOUT (06:R137). -/
def execMonitorTimeout (core seat : Nat) (s : State) : Out :=
  s.wake core seat fun m => decide (m.since + 65536 ≤ s.cycle)

/-- MONITOR_EARLY_WAKE (06:R137): at any time. -/
def execMonitorEarlyWake (core seat : Nat) (s : State) : Out := s.wake core seat fun _ => true

/-! ### Walks (08:R177, R178) -/

/-- A walk that ends with no page holds a gang: at its instruction, or at the entry of its trap (14:R292). On a poisoned line that is
a machine error (14:R289, R297). -/
def State.walkFault (s : State) (g : Gang) (cause va : Nat) : State :=
  let tval := BitVec.ofNat 64 va
  let replay := cause != 0x4D
  match g.wait with
  | .trapping t _ =>
    (s.reportGang g cause tval t.tepc replay false 0).setGang
      { g with hold := some ⟨cause, tval, t.tepc, some ⟨cause, tval, g.em, 0, 0, t.clause, t.pos, 0, true⟩⟩ }
  | _ => s.holdGang g cause tval replay

/-- TRANSLATION_WALK_DONE (08:R177, R178, 22:R415). A walk that reads a table over a port waits for the port, or ends with it
(22:R422); one that reads a poisoned line ends (14:R297). -/
def execTranslationWalkDone (walk : Nat) (s : State) : Out :=
  match s.walks.find? fun w => w.id == walk with
  | none => .refused .cannotOccur
  | some w =>
    let part := s.partOf w.foot
    if s.walkHeld part w.asid w.va then .refused .cannotOccur
    else
    let shut := s.walkShut part w.asid w.va
    let cause := s.walkCause part w.asid w.va
    let s1 := { s with walks := s.walks.filter fun x => x.id != walk }
    let s1 := if shut then s1 else s1.walkOut part w.asid w.va
    let entry := if shut then none else s.walkPage part w.asid w.va
    .next (w.gids.foldl (fun s (gid, va, need) =>
      match s.gang? gid with
      | none => s
      | some g =>
        let waiting := match g.wait with
          | .walk i => i == walk
          | .trapping .. | .joinc .. | .monitor _ | .syncing .. => true
          | _ => false
        if !waiting then s
        else match entry with
          | some e =>
            if e.allows need then
              let s := s.fillTlb (some g.core) w.group e
              match g.wait with
              | .walk _ => s.setGang { g with wait := .stalled }
              | _ => s
            else s.walkFault g 0x40 va
          | none => s.walkFault g cause va) s1)

/-! ### The split stack's overflow area (06:R124, R125) -/

/-- The address of entry `d` of a gang's overflow area. -/
def State.ovfVa (s : State) (g : Gang) (d : Nat) : Nat :=
  ((((s.header? g.brick.wall).map fun h => h.ssovf.toNat).getD 0) + 32768 * g.brick.idx + 2048 * g.gno + 32 * d) % 2 ^ 56

/-- An entry as it lies in memory. -/
def SSEntry.bytes (e : SSEntry) : List Byte :=
  natLe 8 (e.rejoin.toNat + 2 ^ 32 * e.pend.toNat) ++ natLe 8 (e.arr.toNat + 2 ^ 63 * bit e.jv)
    ++ natLe 8 e.cont.toNat ++ natLe 8 e.jpc.toNat

/-- An entry read back, its masks within LIVE. -/
def SSEntry.ofMem (m : Memory) (pa : Nat) (live : Mask) : SSEntry :=
  let w0 := m.word pa
  let w1 := m.word (pa + 8)
  { rejoin := BitVec.ofNat 32 (bits w0 0 32) &&& live, pend := BitVec.ofNat 32 (bits w0 32 32) &&& live,
    arr := BitVec.ofNat 32 (bits w1 0 32) &&& live, jv := w1.getLsbD 63,
    cont := BitVec.ofNat 56 (bits (m.word (pa + 16)) 0 56), jpc := BitVec.ofNat 56 (bits (m.word (pa + 24)) 0 56) }

/-- SPLIT_STACK_TRANSFER (06:R124): the transfer completes; a gang whose `em` is 0 goes on resuming. -/
def execSplitStackTransfer (core seat : Nat) (s : State) : Out :=
  match s.gangAt core seat with
  | none => .refused .cannotOccur
  | some g =>
    if g.hold.isSome then .refused .cannotOccur else
    match g.xfer, g.wait with
    | _, .walk _ => .refused .cannotOccur
    | none, _ => .refused .cannotOccur
    | some (.spill e d), _ =>
      let va := s.ovfVa g d
      match s.lookup core (s.asidOf g.brick.wall) va .write with
      | none => s.askWalk g va .write
      | some t =>
        if s.portBusy (t.phys (footOf core) va) then .refused .cannotOccur else
        let s := s.writeAll (s.gangPart g) (t.phys (footOf core) va) e.bytes
        .next (s.setGang { g with xfer := none, stack := g.stack.dropLast })
    | some (.fill d), _ =>
      let va := s.ovfVa g d
      match s.lookup core (s.asidOf g.brick.wall) va .read with
      | none => s.askWalk g va .read
      | some t =>
        let pa := t.phys (footOf core) va
        if s.portBusy pa then .refused .cannotOccur
        else if s.portShut pa then .next (s.holdGang g 0x4E (BitVec.ofNat 64 va) true)
        else if s.poisoned pa then .next (s.holdGang g 0x4D (BitVec.ofNat 64 va) false) else
        let foot := s.viewFoot (s.gangPart g) (footOf core) pa
        let s := (s.touchLine foot pa false).readOut (s.gangPart g) pa 32
        let e := SSEntry.ofMem (s.mem foot) pa g.live
        .next (s.afterDepart g (({ g with stack := g.stack ++ [e] } : Gang).filled (s.stackH g)))

/-! ### Trap entries (14:R292, R296) -/

/-- An event of a gang that leaves the gang and the walks as they are does not occur. -/
def State.moved (s : State) (g : Gang) (o : Out) : Out :=
  match o with
  | .next t => if t.gang? g.gid = some g ∧ t.walks = s.walks then .refused .cannotOccur else o
  | o => o

/-- TRAP_ENTRY (14:R292): the interlock is tried again. -/
def execTrapEntry (core seat : Nat) (s : State) : Out :=
  match s.gangAt core seat with
  | none => .refused .cannotOccur
  | some g =>
    match g.wait with
    | .trapping t fault => if g.hold.isSome then .refused .cannotOccur else s.moved g (s.takeTrap g t fault)
    | _ => .refused .cannotOccur

end Sys2Proof.Machine
end

