-- ==== Sys2Proof/Machine/Context.lean ====
section
/-! DEFINITION. Context records in memory, the moves between seat, park store and memory, restores, and the
termination of bricks (02:R34-R38, 14:R295, R300-R305, 16:R324, R328). -/

namespace Sys2Proof.Machine

open Sys2Proof

/-! ### Records as bytes (14:R302-R305, 16:R328) -/

/-- A register word of a gang becomes uncorrectable: `q(r+1)` for `r` below 16, the predicates for 16, `n_i` for 64 + i,
`k_j` for 128 + j (log 11). -/
def Gang.markReg (g : Gang) (lane r : Nat) : Gang :=
  let at_ := fun (f : Lane → Lane) => { g with lanes := g.lanes.mapIdx fun i (l : Lane) => if i = lane then f l else l }
  if r < 16 then at_ fun l => { l with q := vset l.q r { vget l.q r with bad := true } }
  else if r = 16 then at_ fun l => { l with pbad := true }
  else if 64 ≤ r ∧ r < 128 then at_ fun l => { l with n := vset l.n (r - 64) { vget l.n (r - 64) with bad := true } }
  else if 128 ≤ r ∧ r < 160 then { g with k := vset g.k (r - 128) { vget g.k (r - 128) with bad := true } }
  else g

/-- The gang's uncorrectable words marked, those of its context in the park store too. -/
def State.marked (s : State) (g : Gang) : Gang :=
  (s.marks.filter fun m => m.unit == 4 && m.owner == g.gid).foldl (fun g m => g.markReg (m.word / 256) (m.word % 256)) g

/-- An uncorrectable word delivers no value to memory (14:R297): in its place a free value is written (log 11). -/
def Gang.hideBad (g : Gang) (v : Word) : Gang :=
  let cell := fun (c : NCell) => if c.bad then { c with val := v } else c
  { g with
    lanes := g.lanes.map fun l =>
      { l with q := l.q.map fun c => if c.bad then { c with val := v } else c, n := l.n.map cell,
               p := if l.pbad then v.setWidth 7 else l.p }
    k := g.k.map cell }

/-- A mask of lanes where something holds. -/
def Gang.lanesWhere (g : Gang) (f : Lane → Bool) : Nat := (maskOf fun l => f (g.lane l)).toNat

/-- A wait within a BAR.SYNC: the barrier and the phases of arrival. -/
def Wait.sync : Wait → Option (BarRef × Lanes (BitVec 16))
  | .syncing x phc _ => some (x, phc)
  | _ => none

def BarRef.code : BarRef → Nat
  | .brick i => i.toNat
  | .course i => i.toNat + 16

/-- Bytes of zeros. -/
def zeros (n : Nat) : List Byte := List.replicate n 0

/-- The gang record up to the frame, from offset 0 (14:R303). -/
def Gang.record (g : Gang) : List Byte :=
  let lanes := List.range 32
  let w := fun (n : Nat) => natLe 8 n
  let sync := g.wait.sync
  let pendN := fun (i : Nat) => g.lanesWhere fun l => (vget l.n i).pend.isSome
  let phc := fun (l : Nat) => (sync.map fun y => (Lanes.at y.2 l).toNat).getD 0
  w (g.pc.toNat + field 56 (g.pos % 64) + field 62 (bit g.tmode) + field 63 1)
    ++ w (g.em.toNat + field 32 g.live.toNat)
    ++ w (g.fm.toNat + field 32 g.depth + field 40 g.role.toNat + field 44 g.seat)
    ++ (g.out.toList.flatMap fun x => natLe 1 x.toNat)
    ++ w (g.spins.toNat + field 32 ((g.pendfault.map Prod.fst).getD 0))
    ++ w g.tvec.toNat ++ w g.tcause.toNat ++ w g.tepc.toNat ++ w g.tval.toNat ++ w g.tlanes.toNat
    ++ w ((sync.map fun y => 1 + 2 * BarRef.code y.1).getD 0) ++ zeros 40
    ++ (lanes.flatMap fun l => natLe 2 (phc l)) ++ zeros 64
    ++ (g.k.toList.flatMap fun c => w c.val.toNat) ++ zeros 256
    ++ ((List.range 16).flatMap fun a => natLe 4 (g.qv (a + 1)))
    ++ (lanes.flatMap fun l => natLe 1 (g.lane l).p.toNat)
    ++ ((List.range 16).flatMap fun a => natLe 4 (g.lanesWhere fun l => (vget l.q a).pend.isSome))
    ++ ((List.range 64).flatMap fun i => natLe 4 (pendN i))
    ++ (lanes.flatMap fun l =>
        let x := g.lane l
        w (x.key.toNat + field 16 x.rank.toNat + field 28 x.binbase.toNat))
    ++ zeros 96
    ++ ((List.range 16).flatMap fun a => lanes.flatMap fun l => w (vget (g.lane l).q a).val.toNat)
    ++ ((List.range 64).flatMap fun i => lanes.flatMap fun l => w (vget (g.lane l).n i).val.toNat)
    ++ zeros (0x6000 - 0x5600)

/-- A barrier as BAR.PEEK pushes it. -/
def Bar.word {w : Nat} (b : Bar w) : Nat := b.phc.toNat + field 16 b.arr.toNat + field 32 b.expect.toNat

/-- The brick record (14:R304), with the launch records of its gangs (16:R328). -/
def State.brickRecord (s : State) (b : Brick) : List Byte :=
  let w := fun (n : Nat) => natLe 8 n
  let gs := s.gangs.filter fun g => g.brick == b.key
  let rec_ := fun (i : Nat) => gs.find? fun g => g.gno == i
  let tx := fun (i : Nat) => b.savedTx.find? fun t => t.1 == i
  w (b.key.idx + field 32 (s.asidOf b.key.wall) + field 63 1) ++ zeros 8
    ++ w b.phase.toNat ++ w (b.lowph.toNat + field 32 b.highph.toNat) ++ w b.mp.toNat ++ w b.enrolled.toNat ++ zeros 16
    ++ (b.g.toList.flatMap fun x => w x.toNat)
    ++ (b.w.toList.flatMap fun x => w x.word0.toNat ++ w x.word1.toNat)
    ++ (b.bars.toList.flatMap fun x => w x.word) ++ zeros 64
    ++ (b.bars.toList.flatMap fun x => natLe 64 x.amask.toNat)
    ++ ((List.range 4).flatMap fun i => w ((tx i).elim 0 fun t => t.2.1.toNat + field 62 (bit t.2.2.isSome) + field 63 1))
    ++ ((List.range 4).flatMap fun i => w ((tx i).elim 0 fun t => (t.2.2.map fun f => f.1.toNat).getD 0))
    ++ w (maskNat (fun i => (rec_ i).any Gang.lrv) 16) ++ zeros (0x800 - 0x648)
    ++ ((List.range 16).flatMap fun i => (rec_ i).elim (zeros 64) fun g => g.lr.toList.flatMap fun x => w x.toNat)
    ++ zeros (0x1000 - 0xC00)

/-- The course record (14:R305). -/
def Course.record (c : Course) : List Byte :=
  (c.cbars.toList.flatMap fun x => natLe 8 x.word) ++ zeros 32 ++ natLe 8 c.stat.toNat ++ zeros (0x100 - 0x48)
    ++ (c.cbars.toList.flatMap fun x => natLe 512 x.amask.toNat) ++ zeros (0x2000 - 0x900)

/-- Cells and scratchpad bytes with a free value in the place of uncorrectable words (14:R297). -/
def State.cellsOut (s : State) (b : Brick) (t : Nat) (v : Word) : List (BitVec 32) :=
  if (s.badTile b t 0 4096).isNone then b.cells t 0 4096
  else (List.range 4096).map fun i => if (s.badTile b t i 1).isSome then v.setWidth 32 else cellAt (vget b.tiles t) i

def State.spadOut (s : State) (b : Brick) (off n : Nat) (v : Word) : List Byte :=
  if (s.badSpad b off n).isNone then b.readN off n
  else (List.range n).map fun i => if (s.badSpad b (off + i) 1).isSome then v.setWidth 8 else b.byte (off + i)

/-- The saved engine work of a brick as it lies in memory: 60 KiB that only the device reads, of a layout the spec does not
give (14:R302): free bytes, and what they stand for stays with the device as long as they are the bytes read back (DESIGN CHOICE,
log 16). -/
def Brick.workBytes (b : Brick) : List (Nat × List Byte) :=
  (List.range 60).map fun i =>
    (0x1000 + 1024 * i, (List.range 1024).map fun j => Config.freeByte b.serial (2 ^ 20 + 1024 * i + j))

/-- The parts of a brick's context besides its gangs: offset and bytes. -/
def State.brickParts (s : State) (b : Brick) (v : Word) : List (Nat × List Byte) :=
  [(0, s.brickRecord b)] ++ b.workBytes
    ++ ((List.range b.phys.length).map fun t => (0xA0000 + 0x4000 * t, (s.cellsOut b t v).flatMap fun c => natLe 4 c.toNat))
    ++ [(0xC0000, natLe 2048 b.written.toNat)]
    ++ ((List.range b.spadk).map fun i => (0x100000 + 1024 * i, s.spadOut b (1024 * i) 1024 v))

/-- The records of the courses of some bricks, in the areas of their `%obrick` 0, which may have retired (14:R305). -/
def State.courseParts (s : State) (wall : Nat) (bs : List Brick) : List (Nat × List Byte) :=
  ((bs.map Brick.course).eraseDups).filterMap fun n =>
    match s.course? ⟨wall, n⟩, s.brickU ⟨wall, n⟩ 0 with
    | some c, some b => some (s.ctxVa b.key + 0x10000, c.record)
    | _, _ => none

/-- The split-stack entries a gang holds, each with its place in the overflow area (06:R125). -/
def State.stackParts (s : State) (g : Gang) : List (Nat × List Byte) :=
  g.stack.mapIdx fun i e => (s.ovfVa g (g.depth - 1 - i), e.bytes)

/-- Bytes written to a context or overflow area, at addresses of an address space: none of the parts crosses a page, since the
areas are aligned (02:R25). -/
def State.writeParts (s : State) (foot asid : Nat) : List (Nat × List Byte) → EngRes Unit
  | [] => .ok () s
  | (va, bs) :: r =>
    match s.unitPage foot asid (va % 2 ^ 56) .write with
    | .ok pa s => (s.writeAll (s.partOf foot) pa bs).writeParts foot asid r
    | .wait => .wait
    | .fault c v => .fault c v
    | .poison c w => .poison c w

/-- The address of a gang's record. -/
def State.gangVa (s : State) (g : Gang) : Nat := s.ctxVa g.brick + 0x20000 + 0x8000 * g.gno

/-! ### Into the park store and on to memory (02:R37, 14:R300) -/

/-- Late values that a halted gang does not wait for: those of saved matrix entries and sampling requests (14:R299). -/
def State.savedLate (s : State) (id : Nat) : Bool := s.savedMat.any (fun e => e.id == id) || s.samples.any fun q => q.id == id

/-- Every late value of the gang has arrived but those. -/
def State.lateDone (s : State) (gid : Nat) : Bool :=
  !(s.reqs.any fun r => r.gid == gid && r.push && !r.arrived) && s.lates.all fun l => l.gid != gid || s.savedLate l.id

/-- The gangs parked on a core, the longest parked first; of those parked in one cycle the first in `State.gangs` (02:R37 gives no
tie rule; DESIGN CHOICE, log 58). -/
def State.parkedOn (s : State) (core : Nat) : List (Gang × Nat) :=
  (s.gangs.filterMap fun g => match g.place with
    | .park c _ t => if c = core then some (g, t) else none
    | _ => none).insertionSort fun x y => x.2 ≤ y.2

/-- The phase of a set that has left some of its seats. -/
def State.settlePhase (s : State) (p : PSet) : State :=
  if (s.setGangs p).any Gang.seated then s
  else
    let mem := (s.setBricks p).any fun b => b.place == .memory
    s.setPSet { p with phase := if mem then .stored else .parked }

/-- PARK_MOVE_DONE (14:R300): the context enters the park store and its seat is freed. -/
def execParkMoveDone (gang : Nat) (s : State) : Out :=
  match s.gang? gang with
  | none => .refused .cannotOccur
  | some g =>
    match s.setOfBrick g.brick, s.brick? g.brick with
    | some p, some b =>
      if p.phase ≠ .halted ∨ !g.seated ∨ !s.lateDone gang ∨ 48 ≤ (s.parkedOn g.core).length then .refused .cannotOccur
      else
        let g := match g.wait with
          | .posted _ => g.advance.dropCode
          | _ => g
        let s := (s.setGang { g with place := .park g.core g.seat s.cycle }).setBrick
          { b with seats := b.seats.filter (· != g.seat) }
        .next (s.settlePhase p)
    | _, _ => .refused .cannotOccur

/-- A parked gang of a set moves on to memory: its set is swapped out, or it has been parked longest in a full store
that a gang waits to enter. -/
def State.movesOn (s : State) (p : PSet) (g : Gang) : Bool :=
  match g.place with
  | .park core _ _ =>
    let parked := s.parkedOn core
    let waiting := s.gangs.any fun h => h.seated && h.core == core && h.live != 0 &&
      (s.setOfBrick h.brick).any fun q => q.phase == .halted
    p.swapped || (decide (48 ≤ parked.length) && waiting && (parked.head?.any fun x => x.1.gid == g.gid))
  | _ => false

/-- The set's brick state and some of its gangs written to memory. The frame of a gang in trap mode stays as it lies (14:R303). -/
def State.writeContext (s : State) (p : PSet) (gs : List Gang) : EngRes Unit :=
  let asid := s.asidOf p.wall
  let bricks := (s.setBricks p).filter fun b => !b.retired && b.place == .core
  let (v, s) := s.fresh
  let parts := (bricks.flatMap fun b => (s.brickParts b v).map fun x => (s.ctxVa b.key + x.1, x.2))
    ++ s.courseParts p.wall bricks
    ++ gs.flatMap fun g => s.stackParts g ++
      [(s.gangVa g + 0x7088, zeros (0x8000 - 0x7088)), (s.gangVa g, ((s.marked g).hideBad v).record)]
  s.writeParts p.foot asid parts

/-- CONTEXT_TO_MEMORY (02:R37, 14:R300): a swapped set, the longest-parked gang of a full store, or the brick state
that a placement of a higher class needs. -/
def execContextToMemory (wall set : Nat) (s : State) : Out :=
  match s.set? wall set with
  | none => .refused .cannotOccur
  | some p =>
    let gs := (s.setGangs p).filter (s.movesOn p)
    let bricks := (s.setBricks p).filter fun b => !b.retired && b.place == .core
    if p.phase = .resident ∨ s.isDead (.context wall set) then .refused .cannotOccur
    else if gs.isEmpty && (bricks.isEmpty || !s.wanted p) then .refused .cannotOccur
    else match s.writeContext p gs with
      | .fault c va => s.holdUnit p.foot (s.asidOf wall) 0 (.context wall set) c va
      | .ok _ s =>
        let ids := gs.map Gang.gid
        let out := fun (g : Gang) =>
          if ids.contains g.gid then
            { g with place := .memory g.core g.seat, stack := [], xfer := none, away := some ⟨g.out, g.live, g.pendfault.isSome⟩ }
          else g
        let away := fun (b : Brick) =>
          if bricks.any fun x => x.key == b.key then { b with place := .memory, phys := [], spad := [] } else b
        let s := { s with gangs := s.gangs.map out, bricks := s.bricks.map away }
        .next ((s.unhold (.context wall set)).settlePhase p)
      | _ => .refused .cannotOccur

/-! ### Records read back (14:R301, R302) -/

/-- A little-endian number among bytes. -/
def at8 (bs : List Byte) (off n : Nat) : Nat := leNat ((bs.drop off).take n)

/-- The gang's registers as its record holds them; what the record has no place for stays as it was (log 16). Tokens that
completed, lanes killed and an engine fault that came while the record was in memory count. -/
def Gang.fromRecord (g : Gang) (m : List Byte) : Gang :=
  let w := fun (off : Nat) => at8 m off 8
  let lanes := g.lanes.mapIdx fun l (x : Lane) =>
    let r : Word := BitVec.ofNat 64 (w (0x4A0 + 8 * l))
    { x with
      q := x.q.mapIdx fun a c =>
        { val := BitVec.ofNat 64 (w (0x600 + 256 * a + 8 * l)), valid := (at8 m (0x300 + 4 * a) 4).testBit l,
          pend := if (at8 m (0x360 + 4 * a) 4).testBit l then c.pend else none, bad := c.bad }
      n := x.n.mapIdx fun i c =>
        { val := BitVec.ofNat 64 (w (0x1600 + 256 * i + 8 * l)),
          pend := if (at8 m (0x3A0 + 4 * i) 4).testBit l then c.pend else none, bad := c.bad }
      p := BitVec.ofNat 7 (at8 m (0x340 + l) 1)
      key := BitVec.ofNat 16 (bits r 0 16), rank := BitVec.ofNat 12 (bits r 16 12), binbase := BitVec.ofNat 12 (bits r 28 12) }
  let w0 : Word := BitVec.ofNat 64 (w 0)
  let a := g.away.getD ⟨g.out, g.live, g.pendfault.isSome⟩
  let kept : Mask := ~~~(a.live &&& ~~~g.live)
  let sync := w 0x50
  let bar : BarRef := if sync.testBit 5 then .course (BitVec.ofNat 2 (sync / 2)) else .brick (BitVec.ofNat 4 (sync / 2))
  let phc : Lanes (BitVec 16) := Vector.ofFn fun i => BitVec.ofNat 16 (at8 m (0x80 + 2 * i.val) 2)
  let acts := match g.wait with
    | .syncing _ _ x => x
    | _ => BitVec.ofNat 32 (at8 m 8 4)
  let wait := if sync.testBit 0 then Wait.syncing bar phc acts
    else match g.wait with
      | .syncing .. => .ready
      | x => x
  let cause := at8 m 0x24 1
  { g with
    pc := BitVec.ofNat 56 (w 0), pos := bits w0 56 6, tmode := w0.getLsbD 62, clause := [], header := none,
    waited := bits w0 56 6 != 0, em := BitVec.ofNat 32 (at8 m 8 4) &&& kept, live := BitVec.ofNat 32 (at8 m 0xC 4) &&& kept,
    fm := BitVec.ofNat 32 (at8 m 0x10 4), depth := at8 m 0x14 1 % 128, role := BitVec.ofNat 2 (at8 m 0x15 1),
    out := Vector.ofFn fun j => BitVec.ofNat 8 (at8 m (0x18 + j.val) 1) - (vget a.out j.val - vget g.out j.val), spins := BitVec.ofNat 32 (at8 m 0x20 4),
    pendfault := if cause ≠ 0 then some (cause, (g.pendfault.map Prod.snd).getD 0)
      else if a.pend then none else g.pendfault,
    away := none,
    tvec := BitVec.ofNat 56 (w 0x28), tcause := BitVec.ofNat 64 (w 0x30) &&& 0xFFFF_03FF, tepc := BitVec.ofNat 64 (bits (BitVec.ofNat 64 (w 0x38) : Word) 0 62),
    tval := BitVec.ofNat 64 (w 0x40), tlanes := BitVec.ofNat 32 (w 0x48),
    k := g.k.mapIdx fun j c => { c with val := BitVec.ofNat 64 (w (0x100 + 8 * j)) }, lanes := lanes, wait := wait }

/-- A barrier from its word and its arrivals. -/
def Bar.fromRecord {w : Nat} (b : Bar w) (x : Word) (amask : Nat) : Bar w :=
  { b with phc := BitVec.ofNat 16 (bits x 0 16), arr := BitVec.ofNat 13 (bits x 16 13), expect := BitVec.ofNat 13 (bits x 32 13),
           amask := BitVec.ofNat w amask }

/-- A watermark from its two words. -/
def Wmark.fromWords (x : Wmark) (a b : Word) : Wmark :=
  { x with value := BitVec.ofNat 20 (bits a 0 20), base := BitVec.ofNat 20 (bits a 20 20),
           limit := BitVec.ofNat 20 (bits a 40 20), armed := a.getLsbD 60, frozen := a.getLsbD 61, loop := a.getLsbD 62,
           failed := a.getLsbD 63, gen := BitVec.ofNat 16 (bits b 0 16), landed := BitVec.ofNat 20 (bits b 16 20),
           released := BitVec.ofNat 20 (bits b 36 20), nstg := BitVec.ofNat 4 (bits b 56 4), late := b.getLsbD 60 }

/-- The brick's registers from its record; faults of its copies that were settled meanwhile are (09:R206). -/
def Brick.fromRecord (b : Brick) (m : List Byte) : Brick :=
  let w := fun (off : Nat) => (BitVec.ofNat 64 (at8 m off 8) : Word)
  let info := fun (i : Nat) => ((b.savedTx.find? fun t => t.1 == i).bind fun t => t.2.2.map Prod.snd).getD
    ⟨Vector.replicate 4 0, []⟩
  let tx := (List.range 4).filterMap fun i =>
    let x := w (0x600 + 8 * i)
    if x.getLsbD 63 then some (i, BitVec.ofNat 11 (bits x 0 11), if x.getLsbD 62 then some (w (0x620 + 8 * i), info i) else none)
    else none
  { b with
    phase := BitVec.ofNat 32 (bits (w 0x10) 0 32), mp := w 0x20, enrolled := w 0x28,
    g := Vector.ofFn fun i => w (0x40 + 8 * i.val),
    w := b.w.mapIdx fun i x => (b.awayW.filter fun y => y.1 == i).foldl (fun x y => x.settled y.2)
      (x.fromWords (w (0xC0 + 16 * i)) (w (0xC8 + 16 * i))),
    awayW := [],
    bars := b.bars.mapIdx fun i x => x.fromRecord (w (0x140 + 8 * i)) (at8 m (0x200 + 64 * i) 64), savedTx := tx }

/-- The course's registers from its record. -/
def Course.fromRecord (c : Course) (m : List Byte) : Course :=
  let w := fun (off : Nat) => (BitVec.ofNat 64 (at8 m off 8) : Word)
  { c with cbars := c.cbars.mapIdx fun i x => x.fromRecord (w (8 * i)) (at8 m (0x100 + 512 * i) 512), stat := BitVec.ofNat 64 (bits (w 0x40) 0 60),
           share := bits (w 0x40) 48 12 }

/-- Bytes read from a context area, in parts of at most a page. -/
def State.ctxRead (s : State) (foot asid va n : Nat) : EngRes (List Byte) :=
  (readAll (fun s i => match s.unitRead foot asid ((va + 1024 * i) % 2 ^ 56) (Nat.min 1024 (n - 1024 * i)) with
    | .ok d s => .ok d.bytes s
    | .wait => .wait
    | .fault c v => .fault c v
    | .poison c w => .poison c w) (List.range ((n + 1023) / 1024)) s).then fun bs s => .ok bs.flatten s

/-- Bytes of the saved engine work that are not those the device wrote give each saved operation of the brick a source and a
progress that nothing fixes (14:R302; log 3, log 16). -/
def State.strayWork (s : State) (k : BKey) : State :=
  let v := fun (i : Nat) => (Config.freeWord (s.free + i)).toNat
  let nc := 4 * s.copies.length
  let ni := nc + 4 * s.idxops.length
  let nm := ni + 4 * s.savedMat.length
  let copy := fun (i : Nat) (c : CopyOp) =>
    if c.brick ≠ k ∨ c.finished then c
    else { c with src := BitVec.ofNat 64 (v (4 * i)), row := v (4 * i + 1) % Nat.max 1 (rowsOf c.dims),
                  x := v (4 * i + 2) % Nat.max 1 c.e0 }
  let idx := fun (i : Nat) (c : IdxOp) =>
    if c.brick ≠ k ∨ c.finished then c
    else { c with a := v (nc + 4 * i) % 2 ^ 56, landed := v (nc + 4 * i + 1) % (c.landed + 1), read := none, got := [] }
  let mat := fun (i : Nat) (e : MatEntry) =>
    if e.brick ≠ k then e
    else { e with a := BitVec.ofNat 64 (v (ni + 4 * i)), b := BitVec.ofNat 64 (v (ni + 4 * i + 1)),
                  step := v (ni + 4 * i + 2) % Nat.max 1 (matSteps e.instr) }
  let quant := fun (i : Nat) (q : QuantReq) => if q.brick ≠ k then q else { q with block := v (nm + i) % (q.block + 1) }
  { s with free := s.free + nm + s.savedQuant.length, copies := s.copies.mapIdx copy, idxops := s.idxops.mapIdx idx,
           savedMat := s.savedMat.mapIdx mat, savedQuant := s.savedQuant.mapIdx quant }

/-- A brick's state read back onto a core. -/
def State.loadBrick (s : State) (foot : Nat) (b : Brick) (core acct : Nat) : EngRes Brick :=
  let asid := s.asidOf b.key.wall
  let va := s.ctxVa b.key
  (s.ctxRead foot asid va 0x1000).then fun m s =>
  (s.ctxRead foot asid (va + 0x1000) 61440).then fun work s =>
  let s := if work = b.workBytes.flatMap Prod.snd then s else s.strayWork b.key
  (readAll (fun s t => s.ctxRead foot asid (va + 0xA0000 + 0x4000 * t) 0x4000) (List.range acct) s).then fun ts s =>
  (s.ctxRead foot asid (va + 0xC0000) 2048).then fun wr s =>
  (s.ctxRead foot asid (va + 0x100000) (1024 * b.spadk)).then fun sp s =>
    let tile := fun (t : Nat) => ((ts.drop t).head?.map fun bs =>
      (elems 4 bs).mapIdx fun i c => (i, BitVec.ofNat 32 c)).getD []
    .ok { b.fromRecord m with
          core := core, place := .core, phys := s.freeTiles core acct, spad := sp.mapIdx fun i x => (i, x),
          written := BitVec.ofNat 16384 (leNat wr), tiles := Vector.ofFn fun t => tile t.val } s

/-- A gang's record read back, with the top entries of its split stack and its launch record (06:R124, 16:R328). -/
def State.loadGang (s : State) (foot : Nat) (g : Gang) (brickRec : List Byte) : EngRes Gang :=
  let asid := s.asidOf g.brick.wall
  (s.ctxRead foot asid (s.gangVa g) 0x5600).then fun m s =>
    let g := g.fromRecord m
    let ds := (List.range (Nat.min g.depth (s.stackH g))).map fun i => g.depth - 1 - i
    (readAll (fun s d => (s.ctxRead foot asid (s.ovfVa g d) 32).then fun bs s =>
        .ok (SSEntry.ofMem (Memory.cells 0 bs) 0 g.live) s) ds s).then fun es s =>
      .ok { g with stack := es, lr := Vector.ofFn fun i => BitVec.ofNat 64 (at8 brickRec (0x800 + 64 * g.gno + 8 * i.val) 8),
                   lrv := (at8 brickRec 0x640 8).testBit g.gno } s

/-! ### Restore (02:R37, R38, 14:R301, 16:R324) -/

/-- A seat for a gang returning to a core: the one it left when free, else the lowest free one. -/
def State.seatFor (s : State) (g : Gang) (core : Nat) : Nat :=
  let free := s.freeSeats core
  if g.core = core && free.contains g.seat then g.seat else free.headD 0

/-- A gang back from the park store meets the words of its context that are uncorrectable (14:R297): a machine error, and
the registers they belong to stay uncorrectable (log 11). -/
def State.parkErrors (s : State) (gid : Nat) : State :=
  let ms := s.marks.filter fun m => m.unit == 4 && m.owner == gid
  match s.gang? gid, ms with
  | some g, m :: _ =>
    let g' := s.marked g
    let s := { s.setGang g' with marks := s.marks.filter fun m => !(m.unit == 4 && m.owner == gid) }
    if g.hold.isSome then s else s.holdGang g' 0x4C (BitVec.ofNat 64 m.word) false
  | _, _ => s

/-- A gang takes a seat; on another seat its queue is invalid (02:R37). Its accesses follow all it made before
(20:R400). READYT is the cycle of the restore (16:R339; log 29). -/
def State.seatGang (s : State) (g : Gang) (core : Nat) : State :=
  let p := s.seatFor g core
  let same := g.core == core && g.seat == p
  let g1 := { if same then g else g.invalidate with
    place := .seat core p, after := s.covered g, readyT := s.cycle, inherited := false }
  let g2 := if g1.em = 0 && g1.live ≠ 0 then g1.resume (s.stackH g1) else g1
  let s := (s.setGang g2).parkErrors g.gid
  match s.brick? g.brick with
  | some b => s.setBrick { b with seats := b.seats ++ [p] }
  | none => s

/-- Saved matrix entries and quantisation requests of a set enter their engines again, on the cores its bricks now have
(07:R162, 12:R260). Those that find a queue full wait for room in order, ahead of what issues later: an entry as an arrival at its
core of cycle 0, numbered in its order; a request behind the eighth of its group's list. -/
def State.reenter (s : State) (mine : BKey → Bool) : State :=
  let (es, rest) := s.savedMat.partition fun e => mine e.brick
  let s := es.foldl (fun s e =>
    match s.brick? e.brick with
    | some b =>
      let e := { e with seat := ((s.gang? e.gid).map Gang.seat).getD e.seat }
      if (s.core b.core).mq.length < 8 then s.enterMq b.core e
      else
        let n := ((s.matArrivals.filter fun a => a.core == b.core && a.cycle == 0).map fun a => a.fromCore + 1).foldl Nat.max 0
        { s with matArrivals := s.matArrivals ++ [⟨b.core, n, 0, e⟩] }
    | none => s) { s with savedMat := rest }
  let (qs, rest) := s.savedQuant.partition fun q => mine q.brick
  qs.foldl (fun s q =>
    let core := ((s.brick? q.brick).map Brick.core).getD q.core
    let grp := groupOf core
    s.setGroup grp { s.group grp with quants := (s.group grp).quants ++ [{ q with core := core }] })
    { s with savedQuant := rest }

/-- The hold of a fill's frozen members that are restored stands for each of them on its own (09:R206, R207). -/
def State.ownHolds (s : State) (mine : BKey → Bool) : State :=
  let froze := fun (c : CopyOp) (id : Nat) => c.fill == id && c.frozen.isSome
  let split := fun (h : EngineHold) => match h.eng with
    | .fill id =>
      let (own, rest) := (s.copies.filter fun c => froze c id).partition fun c => mine c.brick
      (if rest.isEmpty then [] else [h]) ++ own.map fun c => { h with eng := .copy c.id }
    | _ => [h]
  { s with engines := s.engines.flatMap split }

/-- The operations that stayed with the brick go on from its new core; a fill's rest is read on its own (09:R207,
12:R250). -/
def State.moveOps (s : State) (mine : BKey → Bool) : State :=
  let s := s.ownHolds mine
  let coreOf := fun (k : BKey) (old : Nat) => ((s.brick? k).map Brick.core).getD old
  let copy := fun (c : CopyOp) => if mine c.brick then { c with core := coreOf c.brick c.core, fill := 0 } else c
  let idx := fun (c : IdxOp) => if mine c.brick then { c with core := coreOf c.brick c.core } else c
  let samp := fun (q : SampReq) => if mine q.brick then { q with core := coreOf q.brick q.core } else q
  { s with copies := s.copies.map copy, idxops := s.idxops.map idx, samples := s.samples.map samp }

/-- The saved bindings of a brick on its core, and those of its lanes on the cores of other bricks of the set (06:R142). -/
def State.rebind (s : State) (b : Brick) : State :=
  let s := b.savedTx.foldl (fun s t =>
    let c := s.core b.core
    if (vget c.tx t.1).bound.isSome then s
    else
      let d := t.2.1.toNat
      s.setCore b.core { c with tx := vset c.tx t.1 ⟨some (d % 512, d / 512), some b.key, t.2.2⟩ }) s
  let s := b.farTx.foldl (fun s t =>
    match s.brick? t.1 with
    | none => s
    | some h =>
      let c := s.core h.core
      if (vget c.tx t.2.1).bound.isSome then s
      else s.setCore h.core { c with tx := vset c.tx t.2.1 ⟨some t.2.2.1, some b.key, t.2.2.2⟩ }) s
  match s.brick? b.key with
  | some b => s.setBrick { b with savedTx := [], farTx := [] }
  | none => s

/-- On another footing the brick leaves its groups and joins those of the same numbers there (09:R212). -/
def State.rejoin (s : State) (b : Brick) (old new : Nat) : State :=
  if old = new then s
  else (List.range 64).foldl (fun s n =>
    let timer := (s.mcGroup old n).timer
    let s := s.mcLeave b.key old n
    if b.enrolled.getLsbD n then
      match s.mcJoin b.key new n timer (s.asidOf b.key.wall) with
      | some s => s
      | none => s.setEnrolled b.key (· &&& ~~~(BitVec.ofNat 64 (2 ^ n)))
    else s) s

/-- The lead counters of a brick reloaded from its neighbours (11:R236). -/
def State.reloadLead (s : State) (k : BKey) : State :=
  (s.neighbours k).foldl (fun s x =>
    match s.brick? k with
    | some b => s.setBrick (if x.1 then { b with lowph := x.2.phase } else { b with highph := x.2.phase })
    | none => s) s

/-- The last part of a restore: bindings, engines, then the gangs in ascending seat, and the set is resident. A restore counts as
a placement for 16:R326's 'most recently placed' (DESIGN CHOICE, log 55). -/
def State.finishRestore (s : State) (p : PSet) (foot : Nat) (gangs : List Gang) : State :=
  let bs := (s.setBricks p).filter fun b => !b.retired
  let mine := fun (k : BKey) => bs.any fun b => b.key == k
  let s := bs.foldl (fun s b => (((s.rejoin b p.foot foot).rebind b).reloadLead b.key).dropPlain b.core) s
  let gs := gangs.insertionSort fun x y => 512 * x.seat + x.core ≤ 512 * y.seat + y.core
  let s := gs.foldl (fun s g => match s.brick? g.brick with
    | some b => s.seatGang g b.core
    | none => s) s
  let s := ((s.reenter mine).moveOps mine).raiseAll foot (s.relSeen p.foot)
  let s := { s with nofit := s.nofit.filter fun x => !(x.wall == p.wall && x.num == p.num) }
  s.setPSet { p with foot := foot, phase := .resident, restorable := false, swapped := false, placedAt := s.cycle,
                     joins := [] }

/-- Where each brick of a set goes in a placement. -/
def State.coresOf (s : State) (p : PSet) (x : Fit) (k : BKey) : Nat :=
  let c := s.coord k
  match (x.courses.drop c.s).head? with
  | none => 0
  | some (_, cores) => cores.getD ((s.packet p.wall).obrick c) 0

/-- The courses of a set read back onto the groups of a placement. -/
def State.loadCourses (s : State) (p : PSet) (x : Fit) : EngRes Unit :=
  let packet := s.packet p.wall
  let keys := (List.range x.courses.length).map fun st => (st, (⟨p.wall, p.num + packet.sets * st⟩ : CKey))
  (readAll (fun s y =>
    match s.course? y.2, s.brickU y.2 0 with
    | some c, some b =>
      (s.ctxRead x.foot (s.asidOf p.wall) (s.ctxVa b.key + 0x10000) 0x900).then fun m s =>
        .ok () (s.setCourse { c.fromRecord m with group := ((x.courses.drop y.1).head?.map Prod.fst).getD 0 })
    | some c, none => .ok () (s.setCourse { c with group := ((x.courses.drop y.1).head?.map Prod.fst).getD 0 })
    | none, _ => .ok () s) keys s).then fun _ s => .ok () s

/-- The bricks of a set read back. -/
def State.loadBricks (s : State) (p : PSet) (x : Fit) (acct : Nat) : EngRes Unit :=
  let bs := (s.setBricks p).filter fun b => !b.retired
  (readAll (fun s b => (s.loadBrick x.foot b (s.coresOf p x b.key) acct).then fun b s => .ok () (s.setBrick b)) bs s).then
    fun _ s => .ok () s

/-- The gangs of a set, those in memory read back. -/
def State.loadGangs (s : State) (p : PSet) (foot : Nat) : EngRes (List Gang) :=
  readAll (fun s g =>
    match g.place with
    | .memory .. =>
      (s.ctxRead foot (s.asidOf p.wall) (s.ctxVa g.brick) 0xC00).then fun r s => s.loadGang foot g r
    | _ => .ok g s) (s.setGangs p) s

/-- A set whose brick state is in memory is placed again and read back. -/
def State.restoreStored (s : State) (p : PSet) (h : LHeader) (x : Fit) : Out :=
  let r := (s.loadCourses p x).then fun _ s => (s.loadBricks p x h.acct).then fun _ s => s.loadGangs p x.foot
  match r with
  | .fault c va => s.holdUnit p.foot (s.asidOf p.wall) 0 (.context p.wall p.num) c va
  | .ok gs s => .next (((s.afterWalk x).unhold (.context p.wall p.num)).finishRestore p x.foot gs)
  | _ => .refused .cannotOccur

/-- RESTORE (02:R37, 14:R301). A set on its way to memory is not restored before it is there (14:R300, R445), nor on another footing
before that one shows all that its gangs may have read (20:R387, R393; log 59). -/
def execRestore (wall set : Nat) (s : State) : Out :=
  match s.set? wall set, s.wall? wall with
  | some p, some w =>
    if !p.restorable ∨ s.isDead (.context wall set) ∨ !s.turnOf w.cls (.restore p) then .refused .cannotOccur
    else match p.phase, w.header with
      | .parked, _ =>
        let gs := (s.setBricks p).map fun b => groupOf b.core
        if s.parkedReady p && s.mayAct gs 3 then .next ((s.finishRestore p p.foot (s.setGangs p)).noteAct gs 3)
        else .refused .cannotOccur
      | .stored, some h =>
        if s.stillParked p then .refused .cannotOccur else
        match s.fit w h set with
        | none => s.noteNoFit wall set w.cls
        | some x =>
          let gs := x.courses.map Prod.fst
          if s.hasApplied x.foot (s.relSeen p.foot) && s.caughtUp p.foot x.foot && s.mayAct gs 3 then (s.noteAct gs 3).restoreStored p h x
          else .refused .cannotOccur
      | _, _ => .refused .cannotOccur
  | _, _ => .refused .cannotOccur

/-! ### Termination (14:R295, R445) -/

/-- The engine operations of a brick stop. A value that one of them would still have delivered is open (log 3). -/
def State.dropOps (s₀ : State) (k : BKey) : State :=
  let s := s₀
  let s := s.cores.toList.zipIdx.foldl (fun s x =>
    if x.1.mq.any fun e => e.brick == k then
      let s := if x.1.mq.head?.any fun e => e.brick == k then s.dropEngine (.matrix x.2) else s
      s.setMq x.2 (x.1.mq.filter fun e => e.brick != k) ((x.1.mq.head?.map fun e => ({ e with frozen := none } : MatEntry).mp false).getD x.1.mp)
    else s) s
  let s := s.groups.toList.zipIdx.foldl (fun s x =>
    if x.1.quants.any fun q => q.brick == k then
      let s := if x.1.quants.head?.any fun q => q.brick == k then s.dropEngine (.quant x.2) else s
      s.setGroup x.2 { s.group x.2 with quants := x.1.quants.filter fun q => q.brick != k }
    else s) s
  let gone := (s.copies.filter fun c => c.brick == k).map CopyOp.id
  let hold := fun (h : McHold) => { h with copies := h.copies.filter fun c => !gone.contains c }
  let own := fun (h : EngineHold) => match h.eng with
    | .copy id => gone.contains id
    | .fill id => s.copies.all fun c => c.fill != id || c.frozen.isNone || gone.contains c.id
    | .sample id => s.samples.any fun q => q.id == id && q.brick == k
    | _ => false
  let ends := (s₀.cores.toList.flatMap Core.mq ++ s.matArrivals.map MatArrival.entry ++ s.savedMat).filterMap
    (fun e => if e.brick = k then some e.id else none) ++ (s.samples.filter fun q => q.brick == k).map SampReq.id
  let (v, s) := s.fresh
  let late := fun (x : LateVal) =>
    if ends.contains x.id && !x.ready then { x with vals := Vector.replicate 32 v, ready := true } else x
  { s with
    lates := s.lates.map late,
    copies := s.copies.filter (fun c => c.brick != k), mcreqs := s.mcreqs.filter (fun r => r.brick != k),
    mcholds := s.mcholds.map hold, idxops := s.idxops.filter (fun c => c.brick != k),
    savedMat := s.savedMat.filter (fun e => e.brick != k), savedQuant := s.savedQuant.filter (fun q => q.brick != k),
    matArrivals := s.matArrivals.filter (fun a => a.entry.brick != k),
    engines := s.engines.filter (fun h => !own h), samples := s.samples.filter fun q => q.brick != k }

/-- The requests of a gang that will not be made: held ones, and those of a gang that has left. -/
def State.dropHeld (s : State) (gid : Nat) : State :=
  { s with reqs := s.reqs.filter fun r => !(r.gid == gid && r.accs.any fun a => !a.done && a.fault.isSome) }

/-- Lanes of a brick leave a gang as by KILL; what held it goes with its last lane, and so does what holds a gang of the brick that
has none left. -/
def State.killLanes (s : State) (gid : Nat) (k : BKey) : State :=
  match s.gang? gid with
  | none => s
  | some g =>
    let m := maskOf fun l => g.live.getLsbD l && (g.lane l).brick == k
    if m = 0 then
      (if g.live = 0 ∧ g.brick = k then (s.dropHeld gid).setGang { g with hold := none } else s)
    else
      let s := (s.markKilled [k]).leave g m id
      match s.gang? gid with
      | none => s
      | some g =>
        if g.live = 0 then
          (s.dropHeld gid).setGang { g with wait := .ready, hold := none, xfer := none, pendfault := none }
        else s

/-- A brick is terminated (14:R295): its REORDER is rolled back, its operations stop, its lanes leave; its record has KILLED
set. -/
def State.terminate (s : State) (k : BKey) : State :=
  let s := s.markKilled [k]
  let holds := fun (g : Gang) => (lanesOf g.live).any fun l => (g.lane l).brick == k
  let s := match s.courseOf k with
    | some c => if c.arrived.any fun i => (s.gang? i).any holds then s.haltRiddle c.key else s
    | none => s
  (s.gangs.map Gang.gid).foldl (fun s i => s.killLanes i k) (s.dropOps k)

/-- Every brick of a set is terminated (14:R445). -/
def State.terminateSet (s : State) (p : PSet) : State :=
  (s.setBricks p).foldl (fun s b => if b.retired then s else s.terminate b.key) s

end Sys2Proof.Machine
end

