-- ==== Sys2Proof/Machine/Control.lean ====
section
/-! DEFINITION. The control transfers, traps and no-operations (06:R123, R126-R128, 14:R291-R293, 03:R71). -/

namespace Sys2Proof.Machine

open Sys2Proof

/-- The target of a relative transfer (06:R126). -/
def Gang.target (g : Gang) (off : BitVec 40) : Addr := g.pc + (off.signExtend 56 <<< 3)

/-- The target an operand names: its bits 55:0 (06:R126). -/
def State.targetOf (s : State) (g : Gang) (a : Opnd) (l : Nat) : Addr := (s.opnd g 0 a l).setWidth 56

/-- NOP (03:R71). -/
def execNop (_ : Guard) (s : State) : Out := s.withGang fun G => s.done G

/-- The packed code `0xFFFF` (03:R51). -/
def execNopCode (s : State) : Out := s.withGang fun G => s.done G

/-- BRA (06:R126, R128), with spin detection at a backward one (06:R138). -/
def execBra (g : Guard) (off : BitVec 40) (s : State) : Out :=
  s.transfer g [] fun G _ =>
    let t := G.target off
    if t.toNat ≤ G.pc.toNat then
      match G.spinArrive with
      | (G, none) => .next (s.setGang (G.jump t))
      | (G, some line) => .next (s.setGang ((G.jump t).spinWait line s.cycle))
    else .next (s.setGang (G.jump t))

/-- BRX (06:R128). -/
def execBrx (g : Guard) (a : Opnd) (s : State) : Out :=
  s.transfer g [a] fun G l => .next (s.setGang (G.jump (s.targetOf G a l)))

/-- CALL (06:R128). -/
def execCall (g : Guard) (d : Dest) (off : BitVec 40) (s : State) : Out :=
  s.transfer g [] fun G _ =>
    .next (s.setGang ((G.invalidate.writeDest G.em d (G.next.setWidth 64)).jump (G.target off)))

/-- CALLX (06:R128). -/
def execCallx (g : Guard) (d : Dest) (a : Opnd) (s : State) : Out :=
  s.transfer g [a] fun G l =>
    .next (s.setGang ((G.invalidate.writeDest G.em d (G.next.setWidth 64)).jump (s.targetOf G a l)))

/-- RET (06:R128). -/
def execRet (g : Guard) (a : Opnd) (s : State) : Out :=
  s.transfer g [a] fun G l => .next (s.setGang (G.invalidate.jump (s.targetOf G a l)))

/-- SPLIT (06:R123). A push beyond H entries waits for the spill of the lowest resident one (06:R124). -/
def execSplit (g : Guard) (p : PRef) (off : BitVec 40) (s : State) : Out :=
  s.transfer g [] (fun G _ =>
    if G.depth = 64 then s.trapEm G 0x0A 0
    else match (if s.stackH G ≤ G.stack.length then G.stack.getLast? else none) with
      | some e => s.stall { G with xfer := some (.spill e (G.depth - G.stack.length)) }
      | none =>
        let t := maskOf fun l => G.em.getLsbD l && (G.lane l).pref p
        let f := G.em &&& ~~~t
        let e : SSEntry := ⟨G.em, if t = 0 then 0 else f, 0, G.next, 0, false⟩
        let G' := { G with stack := e :: G.stack, depth := G.depth + 1, em := if t = 0 then f else t }
        .next (s.setGang (G'.jump (if t = 0 then G.next else G.target off)))) true

/-- JOIN (06:R123). A pop that leaves fewer than H entries waits for the fill (06:R124). -/
def execJoin (g : Guard) (s : State) : Out :=
  s.transfer g [] fun G _ =>
    match G.stack with
    | [] => s.trapEm G 0x0B 0
    | e :: r =>
      let e : SSEntry := { e with arr := e.arr ||| G.em, jpc := G.next, jv := true }
      if e.pend ≠ 0 then
        .next (s.setGang ({ G with stack := { e with pend := 0 } :: r, em := e.pend }.jump e.cont))
      else match G.fillNeeded (s.stackH G + 1) with
        | some x => s.stall { G with xfer := some x }
        | none => .next (s.setGang ({ G with stack := r, depth := G.depth - 1, em := e.rejoin &&& G.live }.jump e.jpc))

/-- EXIT (06:R121, R128). -/
def execExit (g : Guard) (s : State) : Out :=
  s.perLane g [] fun G m => if m = 0 then s.done G else .next (s.leave G m Gang.advance)

/-- KILL (06:R128). -/
def execKill (g : Guard) (s : State) : Out :=
  s.perLane g [] fun G m =>
    if m = 0 then s.done G else .next ((s.markKilled (G.originsOf m)).leave G m Gang.advance)

/-- YIELD (06:R128). -/
def execYield (g : Guard) (s : State) : Out := s.transfer g [] fun G _ => .next (s.setGang (G.goto G.next 1))

/-- TRAP (06:R128). -/
def execTrap (g : Guard) (n : BitVec 16) (s : State) : Out := s.transfer g [] fun G _ => s.trapUser G 0x10 n.toNat

/-- SYSC (06:R128). -/
def execSysc (g : Guard) (n : BitVec 16) (s : State) : Out := s.transfer g [] fun G _ => s.trapUser G 0x11 n.toNat

/-- BRK (06:R128). -/
def execBrk (g : Guard) (n : BitVec 16) (s : State) : Out := s.transfer g [] fun G _ => s.trapUser G 0x12 n.toNat

/-- Resume at a clause and a position (14:R293, 03:R48). -/
def Gang.resumeAt (g : Gang) (pc : Addr) (pos : Nat) : Gang := { g.goto pc 0 with pos := pos, waited := pos != 0 }

/-- TEPC's clause and position (14:R291). -/
def Gang.tepcClause (g : Gang) : Addr := g.tepc.setWidth 56

def Gang.tepcPos (g : Gang) : Nat := bits g.tepc 56 6

/-- Return from a trap (14:R293): the frame restored, trap mode left, the gang at `(pc, pos)`. -/
def State.leaveHandler (s : State) (g : Gang) (pa : Nat) (pc : Addr) (pos : Nat) : State :=
  let g1 := { g.restoreFrame (s.mem (s.viewFoot (s.gangPart g) (footOf g.core) pa)) pa with tmode := false }
  let g2 := (g1.resumeAt pc pos).resume (s.stackH g)
  (s.readBy (s.gangPart g) (footOf g.core) pa 0x1088).afterDepart g g2

/-- DEPTH of the frame at an address (14:R293). -/
def State.depthAt (s : State) (g : Gang) (pa : Nat) : Nat := frameDepth (s.mem (s.viewFoot (s.gangPart g) (footOf g.core) pa)) pa

/-- The frame's address for reading, or the walk that finds it. A poisoned line of the frame holds the gang (14:R297), and so does
a port that is not enabled (22:R422). -/
def State.withFrame (s : State) (g : Gang) (k : Nat → Out) : Out :=
  let va := s.recordVa g + 0x6000
  match s.lookup g.core (s.asidOf g.brick.wall) va .read with
  | none => s.askWalk g va .read
  | some e =>
    let pa := e.phys (footOf g.core) va
    if s.portBusy pa then s.stall g
    else if s.portShut pa then .next (s.holdGang g 0x4E (BitVec.ofNat 64 va) true)
    else match (List.range 34).find? fun i => s.poisoned (pa + 128 * i) with
    | some i => .next (s.holdGang g 0x4D (BitVec.ofNat 64 (va + 128 * i)) false)
    | none => k pa

/-- ERET (14:R293). -/
def execEret (g : Guard) (s : State) : Out :=
  s.transfer g [] fun G _ =>
    if !G.tmode then s.trapEm G 0x0D 0
    else s.withFrame G fun pa =>
      if s.depthAt G pa ≠ G.depth then s.trapEm G 0x0D 0
      else .next (s.leaveHandler G pa G.tepcClause G.tepcPos)

/-- The next position after `pos` of the clause at `pc` whose header word is `w` (14:R291); the position itself where
the header fails. -/
def afterPos (pc : Addr) (pos : Nat) (w : Word) : Addr × Nat :=
  match parseHeader w with
  | .error _ => (pc, pos)
  | .ok h =>
    match nextPosition h pos with
    | some p => (pc, p)
    | none => (pc + BitVec.ofNat 56 (8 * (h.count + 1)), 0)

/-- ERET.SKIP (14:R291, R293). -/
def execEretSkip (g : Guard) (s : State) : Out :=
  s.transfer g [] fun G _ =>
    if !G.tmode then s.trapEm G 0x0D 0
    else s.withFrame G fun pa =>
      if s.depthAt G pa ≠ G.depth then s.trapEm G 0x0D 0
      else if G.tepcClause.toNat % 8 ≠ 0 then .next (s.leaveHandler G pa G.tepcClause G.tepcPos)
      else
        match s.lookup G.core (s.asidOf G.brick.wall) G.tepcClause.toNat .fetch with
        | none => s.askWalk G G.tepcClause.toNat .fetch
        | some e =>
          let x := e.phys (footOf G.core) G.tepcClause.toNat
          if s.portBusy x then s.stall G
          else if s.portShut x then .next (s.holdGang G 0x4E (G.tepcClause.setWidth 64) true)
          else if s.poisoned x then .next (s.holdGang G 0x4D (G.tepcClause.setWidth 64) false)
          else
            let t := afterPos G.tepcClause G.tepcPos ((s.mem (s.viewFoot (s.gangPart G) (footOf G.core) x)).word x)
            .next ((s.fetchOut G G.tepcClause.toNat 1).leaveHandler G pa t.1 t.2)

end Sys2Proof.Machine
end

