-- ==== Sys2Proof/Machine/Issue.lean ====
section
/-! DEFINITION. Fetching and decoding a clause, and what stands before the issue of a gang's next position (02:R35,
03:R46-R53, R72-R74, 14:R296, 16:R336). -/

namespace Sys2Proof.Machine

open Sys2Proof

/-! ### Fetch (03:R72, 08:R177, R178) -/

/-- What was fetched, or how the attempt ends. -/
inductive Fetched (α : Type)
  | got (x : α)
  | stop (o : Out)

/-- A word of code or of an image, at an 8-byte-aligned address. It is read in the footing's view as it is at the decode: of a
store that runs at the same time, what the view holds then (03:R53 leaves open which value a later decode reads; DESIGN CHOICE,
log 32). -/
def State.fetchWord (s : State) (g : Gang) (va : Nat) : Fetched (BitVec 64) :=
  match s.lookup g.core (s.asidOf g.brick.wall) va .fetch with
  | none => .stop (s.askWalk g va .fetch)
  | some e =>
    let pa := e.phys (footOf g.core) va
    let w := (s.mem (s.viewFoot (s.gangPart g) (footOf g.core) pa)).word pa
    match s.portOf pa with
    | some p =>
      if !(vget s.peers p).enable then .stop (.next (s.holdGang g 0x4E (BitVec.ofNat 64 va) true))
      else if !(vget s.peers p).ready then .stop (s.stall g (g.waitOr .stalled))
      else .got w
    | none => if s.poisoned pa then .stop (.next (s.holdGang g 0x4D (BitVec.ofNat 64 va) false)) else .got w

/-- `n` words from an address. -/
def State.fetchWords (s : State) (g : Gang) (va : Nat) : Nat → Fetched (List (BitVec 64))
  | 0 => .got []
  | n + 1 =>
    match s.fetchWord g (va % 2 ^ 56) with
    | .stop o => .stop o
    | .got w =>
      match s.fetchWords g (va + 8) n with
      | .stop o => .stop o
      | .got ws => .got (w :: ws)

/-! ### The dictionary store (03:R52, R53) -/

/-- The image of a gang's role. -/
def State.image? (s : State) (g : Gang) : Option Image :=
  s.images.find? fun i => i.core == g.core && i.asid == s.asidOf g.brick.wall && i.addr == g.dict

/-- An image used by a decode stands first; a core keeps four. -/
def State.keepImage (s : State) (i : Image) : State :=
  let others := s.images.filter fun x => !(x.core == i.core && x.asid == i.asid && x.addr == i.addr)
  let mine := (others.filter fun x => x.core == i.core).take 3
  { s with images := i :: mine ++ others.filter fun x => x.core != i.core }

/-- The entries of a gang's dictionary, filled from memory when its core does not hold them. A DICTADDR that is not aligned to
64 bytes is taken as it is (03:R52 gives it no fate; DESIGN CHOICE, log 31). -/
def State.dictionary (s : State) (g : Gang) : Fetched (State × List (BitVec 64)) :=
  if g.dict = 0 then .got (s, [])
  else match s.image? g with
    | some i => .got (s.keepImage i, i.words)
    | none =>
      match s.fetchWord g g.dict.toNat with
      | .stop o => .stop o
      | .got head =>
        let n := (head.extractLsb' 0 11).toNat
        match s.fetchWords g (g.dict.toNat + 8) (if head.extractLsb' 11 53 ≠ 0 ∨ 1024 < n then 0 else n) with
        | .stop o => .stop o
        | .got es =>
          let ws := imageEntries head es
          .got ((s.fetchOut g g.dict.toNat (1 + es.length)).keepImage ⟨g.core, s.asidOf g.brick.wall, g.dict, ws⟩, ws)

/-! ### Decode (03:R72-R74, 14:R291) -/

/-- A decode fault: TEPC names position 0, TVAL the failing position, or 64. -/
def State.decodeTrap (s : State) (g : Gang) (e : ClauseErr) (pos : Nat) : Out :=
  s.takeTrap g ⟨e.cause, BitVec.ofNat 64 pos, g.em, 0, 0, g.pc, 0, 0, false⟩ false

/-- A gang with a decoded clause, at the lowest position from its own on; none when there is none. A gang that resumes at a
position that is none of the clause's goes on at the lowest one above it (03:R49 gives no fate; DESIGN CHOICE, log 33). -/
def Gang.withClause (g : Gang) (h : Header) (is : List (Nat × Instr)) : Option Gang :=
  ((is.map Prod.fst).find? (g.pos ≤ ·)).map fun p =>
    { g with clause := is, header := some h, pos := p, waited := p != 0, wait := g.waitOr .stalled }

/-- Decode the clause at a gang's address: the state and the gang with the clause. A gang that resumes at a position above the
last of the clause goes on at the next clause (03:R72 gives no fate; DESIGN CHOICE, log 33). -/
def State.decodeGang (s : State) (g : Gang) : Fetched (State × Gang) :=
  if g.pc.toNat % 8 ≠ 0 then .stop (s.decodeTrap g .clauseForm 64)
  else match s.fetchWord g g.pc.toNat with
    | .stop o => .stop o
    | .got w =>
      match parseHeader w with
      | .error e => .stop ((s.fetchOut g g.pc.toNat 1).decodeTrap g e 64)
      | .ok h =>
        match s.fetchWords g (g.pc.toNat + 8) h.count with
        | .stop o => .stop o
        | .got slots =>
          let s := s.fetchOut g g.pc.toNat (1 + h.count)
          match if h.packed = 0 then .got (s, []) else s.dictionary g with
          | .stop o => .stop o
          | .got (s, dict) =>
            let acct := ((s.header? g.brick.wall).map LHeader.acct).getD 0
            match decodeClause g.named acct dict h slots with
            | .error (e, p) => .stop (s.decodeTrap g e p)
            | .ok is =>
              match g.withClause h is with
              | some g => .got (s.setGang g, g)
              | none =>
                let g := { g with header := some h }
                .stop (.next (s.setGang (g.jump g.next)))

/-! ### Before an issue (02:R35, 14:R294-R296) -/

/-- A gang that may not issue: held, its set away from its seats, a split-stack transfer open, or one of its accesses
held. -/
def State.blocked (s : State) (g : Gang) : Bool :=
  g.hold.isSome || g.xfer.isSome || !((s.setOfBrick g.brick).all fun p => p.phase == .resident) ||
  s.reqs.any fun r => r.gid == g.gid && r.accs.any fun a => !a.done && a.fault.isSome

/-- The gang may take a stop that is pending or owed now: it stands before an issue, or waits in an instruction that it would
try again (14:R296). -/
def State.takes (s : State) (g : Gang) : Bool :=
  !s.blocked g && match g.wait with
    | .ready | .stalled | .joinc .. | .monitor _ => true
    | _ => false

/-- ENGINE_FAULT_TAKEN (14:R296): before the gang next issues. -/
def execEngineFaultTaken (core seat : Nat) (s : State) : Out :=
  match s.gangAt core seat with
  | none => .refused .cannotOccur
  | some g =>
    match g.pendfault with
    | some (c, v) => if s.takes g then s.takeTrap g (g.pendTrap c v) true else .refused .cannotOccur
    | none => .refused .cannotOccur

/-- The gang owes a stop of accesses it had sent; it takes it now where it can, else at its next issue, an engine fault
first (14:R290, R296; log 30). -/
def State.owe (s : State) (g : Gang) (x : Nat × Word × Mask) : State :=
  if g.live = 0 then s
  else
    let g' := { g with owed := g.owed ++ [x] }
    let s := s.setGang g'
    if s.takes { g' with wait := g.wait.unwalked } && g.pendfault.isNone && g.owed.isEmpty then
      orKeep s (s.takeTrap g' (g'.owedTrap x) true)
    else s

/-- The gang's clause can be decoded: nothing it takes first stands before it. -/
def State.decodable (s : State) (g : Gang) : Bool :=
  g.clause.isEmpty && !s.blocked g && match g.wait with
    | .ready | .stalled | .joinc .. | .monitor _ => g.pendfault.isNone && g.owed.isEmpty
    | .syncing .. => true
    | _ => false

/-- CLAUSE_DECODE (03:R72): at any time before the first position issues. -/
def execClauseDecode (core seat : Nat) (s : State) : Out :=
  match s.gangAt core seat with
  | none => .refused .cannotOccur
  | some g =>
    if !s.decodable g then .refused .cannotOccur
    else s.moved g (match s.decodeGang g with
      | .stop o => o
      | .got (s, _) => .next s)

/-- READYT of a clause that passes its WAIT mask (16:R336). -/
def Gang.passWait (g : Gang) (now : Nat) : Gang :=
  let old := g.hint = 2 ∧ !g.inherited
  { g with waited := true, inherited := decide old,
           readyT := if g.hint = 1 then now + 64 else if old then g.readyT else now }

/-- The tokens of a clause's WAIT mask are complete (03:R48). -/
def Gang.waitDone (g : Gang) : Bool :=
  (List.range 8).all fun j => !((g.header.map Header.wait).getD 0).getLsbD j || g.outOf (BitVec.ofNat 3 j) == 0

/-- What an issue leads to: it ends here, or an instruction runs. -/
inductive Prep
  | stop (o : Out)
  | run (i : Instr) (s : State)

/-- The position issues, once the clause's WAIT mask is passed; spin detection records it once (06:R138). -/
def State.issuePos (s : State) (g : Gang) : Prep :=
  match g.instr with
  | none => .stop (.next s)
  | some i =>
    if !g.waited && !g.waitDone then .stop (s.stall g)
    else
      let g := if g.waited then g else g.passWait s.cycle
      let again := g.wait != .ready && g.spin.any fun h => h.cur.positions.getLast? == some (g.pc.toNat, g.pos)
      .run i (s.setGang (if g.spin.isEmpty || again then g else g.spinIssue i))

/-- A gang with its clause, decoded when it is not (03:R72): a halt drops the decoded words. -/
def State.withCode (s : State) (g : Gang) (k : State → Gang → Prep) : Prep :=
  if !g.clause.isEmpty then k s g
  else match (s.setGang g).decodeGang g with
    | .stop o => .stop o
    | .got (s, g) => k s g

/-- A gang that nothing holds: its pending engine fault, a stop it owes, its clause, its position. -/
def State.issueGang (s : State) (g : Gang) : Prep :=
  let g := { g with since := some s.cycle }
  match g.pendfault, g.owed with
  | some (c, v), _ => .stop ((s.setGang g).takeTrap g (g.pendTrap c v) true)
  | none, x :: _ => .stop ((s.setGang g).takeTrap g (g.owedTrap x) true)
  | none, [] => s.withCode g State.issuePos

/-- The issue of the gang in a seat. A woken monitor and a JOINC run again; a barrier's wait ends or goes on. -/
def State.prepare (s : State) (core seat : Nat) : Prep :=
  let s := { s with cur := (core, seat) }
  match s.gangAt core seat with
  | none => .stop (.next s)
  | some g =>
    if s.blocked g then .stop (.next s)
    else match g.wait with
      | .walk _ | .gathered => .stop (.next s)
      | .posted id =>
        if s.reqs.any fun r => r.id == id && !r.performed then .stop (.next s) else s.issueGang g.advance
      | .monitor m =>
        if !m.woken then .stop (.next s) else s.issueGang (if m.spin then { g with wait := .ready } else g)
      | .syncing x phc m => s.withCode g fun s g => .stop (s.syncWait g x phc m)
      | .trapping t fault => .stop (s.takeTrap g t fault)
      | .reaching .. => s.withCode g State.issuePos
      | .joinc .. | .ready | .stalled => s.issueGang g

end Sys2Proof.Machine
end

