-- ==== Sys2Proof/Machine/Sampling.lean ====
section
/-! DEFINITION. Sampling (18:R363-R367). -/

namespace Sys2Proof.Machine

open Sys2Proof

/-! ### The descriptor (18:R363) -/

/-- A request's fields. -/
structure SampDesc where
  vec : Nat
  n : Nat
  k : Nat
  nb : Nat
  digit : Nat
  pre : Nat
  aux : Bool × Nat
  mask : Nat
deriving DecidableEq, Repr

def sampFields (ws : List Word) : SampDesc :=
  let w1 := ws.getD 1 0
  let w2 := ws.getD 2 0
  { vec := bits (ws.getD 0 0) 0 56, n := bits w1 0 24, k := bits w1 32 11, nb := bits w1 32 20, digit := bits w1 32 2,
    pre := bits w1 40 24, aux := (w2.getLsbD 63, bits w2 0 56), mask := bits (ws.getD 3 0) 0 56 }

/-- Bytes of AUX and its alignment. -/
def SampDesc.auxLen (d : SampDesc) : SampOp → Nat × Nat
  | .topk => (8 * d.k, 8)
  | .rhist => (1024, 4)
  | .biasadd => (8 * d.nb, 8)

/-- The checks of a descriptor for an allotment of `size` bytes and logits of `w` bytes. -/
def SampDesc.ok (d : SampDesc) (ws : List Word) (op : SampOp) (size w : Nat) : Bool :=
  let w1 := ws.getD 1 0
  let (len, al) := d.auxLen op
  bits (ws.getD 0 0) 56 8 == 0 && bits w1 24 8 == 0 && bits (ws.getD 2 0) 56 7 == 0 && bits (ws.getD 3 0) 56 8 == 0 &&
  d.vec % w == 0 && d.aux.2 % al == 0 && (!d.aux.1 || decide (d.aux.2 + len ≤ size)) &&
  match op with
  | .topk => decide (1 ≤ d.k) && decide (d.k ≤ 1024) && bits w1 43 21 == 0 && d.mask % 8 == 0
  | .rhist => decide (d.digit < w) && bits w1 34 6 == 0 && decide (d.pre < 2 ^ (8 * d.digit)) && d.mask % 8 == 0
  | .biasadd => bits w1 52 12 == 0

/-- TOPK, RHIST and BIASADD at their issue: the descriptor read and checked, the request entered, the status pending. -/
def State.sample (s : State) (g : Guard) (op : SampOp) (t : FTy) (tok : Tok) (a : Opnd) : Out :=
  s.once g [a] true fun G m l =>
    match s.brick? (G.lane l).brick with
    | none => s.done G
    | some bk =>
      let av := s.opnd G 0 a l
      let off := bits av 0 19
      let bad := s.trapEm G 0x74 (BitVec.ofNat 64 off)
      if bits av 19 45 ≠ 0 ∨ off % 8 ≠ 0 ∨ bk.size < off + 32 then bad
      else if bk.held off 32 then s.stall G
      else if !bk.allWritten off 32 then bad
      else match s.badSpad bk off 32 with
        | some word => .next (s.holdGang G 0x4A (BitVec.ofNat 64 word) false)
        | none =>
          let ws := bk.words off 4
          if !(sampFields ws).ok ws op bk.size (FTy.bytes t) then bad
          else if G.tokFull tok || (s.samples.filter fun r => r.core == G.core).length ≥ 8 then s.stall G
          else
            let (id, s) := s.newId
            let r : SampReq :=
              { id := id, gid := G.gid, core := G.core, tok := tok, brick := bk.key, asid := s.asidOf bk.key.wall, op := op,
                t := t, lanes := m, words := ws, next := 0, skipped := 0, nans := 0, frozen := none, deps := s.engDeps G }
            let v : LateVal := ⟨id, G.gid, .none, m, Vector.replicate 32 0, false⟩
            ({ s with samples := s.samples ++ [r], lates := s.lates ++ [v] } : State).done
              ((G.arm tok).pushPending m .none id)

/-- TOPK (18:R366). -/
def execTopk (g : Guard) (t : FTy) (tok : Tok) (a : Opnd) (s : State) : Out := s.sample g .topk t tok a

/-- RHIST (18:R364). -/
def execRhist (g : Guard) (t : FTy) (tok : Tok) (a : Opnd) (s : State) : Out := s.sample g .rhist t tok a

/-- BIASADD (18:R365). -/
def execBiasadd (g : Guard) (t : FTy) (tok : Tok) (a : Opnd) (s : State) : Out := s.sample g .biasadd t tok a

/-! ### Values (18:R364-R366) -/

/-- The order map of a pattern of `w` bits. -/
def orderMap (w x : Nat) : Nat := if x.testBit (w - 1) then 2 ^ w - 1 - x else x + 2 ^ (w - 1)

/-- RHIST: the 256 counts and ABOVE, of the keys of the permitted logits. -/
def histogram (w digit pre : Nat) (keys : List Nat) : List Nat × Nat :=
  let u := fun y => y / 2 ^ (w - 8 * digit)
  let d := fun y => y / 2 ^ (w - 8 - 8 * digit) % 256
  let mine := (keys.filter fun y => u y == pre).map d
  ((List.range 256).map mine.count, (keys.filter fun y => decide (pre < u y)).length)

/-- A logit as F32, exactly. -/
def logitF32 (t : FTy) (x : Nat) : Nat :=
  match (ftyFmt t).val x with
  | .nan => Fmt.f32.nan
  | .inf neg => Fmt.f32.infPat neg
  | .num neg m e => if m = 0 then Fmt.f32.signed neg 0 else Fmt.f32.round .rne false neg m e

/-- TOPK's choice among the permitted logits, each with its index: the entries in order, ALLNEG, EMPTY. -/
def topkPick (t : FTy) (k : Nat) (xs : List (Nat × Nat)) : List (Nat × Nat) × Bool × Bool :=
  let f := ftyFmt t
  let neg := f.infPat true
  let y := fun (x : Nat × Nat) => orderMap f.width x.2
  let best := ((xs.filter fun x => x.2 != neg).insertionSort fun a b => y b < y a || y a == y b && a.1 ≤ b.1).take k
  if !best.isEmpty then (best, false, false)
  else match xs.head? with
    | some x => ([x], true, false)
    | none => ([], false, true)

/-- TOPK's output. -/
def topkBytes (t : FTy) (k : Nat) (es : List (Nat × Nat)) : List Byte :=
  (es.flatMap fun e => natLe 4 e.1 ++ natLe 4 (logitF32 t e.2)) ++
    (List.replicate (k - es.length) (natLe 4 0xFFFF_FFFF ++ natLe 4 0xFF80_0000)).flatten

/-- BIASADD's sum of a logit and an F32 bias, one rounding. -/
def biasSum (t : FTy) (x b : Nat) : Nat :=
  let f := ftyFmt t
  match f.val x, Fmt.f32.val b with
  | .nan, _ | _, .nan => f.nan
  | .inf p, .inf q => if p = q then f.infPat p else f.nan
  | .inf p, _ | _, .inf p => f.infPat p
  | .num n1 m1 e1, .num n2 m2 e2 => f.sum .rne n1 m1 e1 n2 m2 e2

/-! ### The engine (18:R367) -/

def State.setSample (s : State) (r : SampReq) : State :=
  { s with samples := s.samples.map fun x => if x.id = r.id then r else x }

/-- A request is complete: its status arrives, its token completes. -/
def State.endSample (s : State) (r : SampReq) (status : Word) : State :=
  let set := fun (v : LateVal) => if v.id = r.id then { v with vals := Vector.replicate 32 status, ready := true } else v
  ({ s with samples := s.samples.filter fun x => x.id != r.id, lates := s.lates.map set } : State).complete r.gid r.tok

/-- A fault freezes a request. -/
def State.freezeSample (s : State) (r : SampReq) (cause va : Nat) : State :=
  (s.setSample { r with frozen := some (cause, BitVec.ofNat 64 va) }).holdEngine (.sample r.id) r.gid r.core r.asid cause va

/-- A read of any length. -/
def State.longRead (s : State) (r : SampReq) (va n : Nat) : Nat → EngRes (List Byte)
  | 0 => .ok [] s
  | fuel + 1 =>
    if n = 0 then .ok [] s
    else
      let k := Nat.min n 65536
      match s.engRead r.gid r.core r.asid va k r.deps with
      | .ok bs s =>
        match s.longRead r ((va + k) % 2 ^ 56) (n - k) fuel with
        | .ok cs s => .ok (bs ++ cs) s
        | e => e
      | e => e

/-- The permitted logits with their indices, and NANS (18:R363). -/
def State.permitted (s : State) (r : SampReq) (d : SampDesc) : EngRes (List (Nat × Nat) × Nat) :=
  let w := FTy.bytes r.t
  match s.longRead r d.vec (w * d.n) 1025 with
  | .ok vs s =>
    match if d.mask = 0 then EngRes.ok [] s else s.longRead r d.mask (8 * ((d.n + 63) / 64)) 1025 with
    | .ok ms s =>
      let on := fun i => d.mask == 0 || (ms.getD (i / 8) 0).getLsbD (i % 8)
      let xs := ((List.range d.n).map fun i => (i, leNat ((vs.drop (w * i)).take w))).filter fun x => on x.1
      let isNan := fun (x : Nat × Nat) => (ftyFmt r.t).isNan x.2
      .ok (xs.filter fun x => !isNan x, (xs.filter isNan).length) s
    | .wait => .wait
    | .fault c v => .fault c v
    | .poison c x => .poison c x
  | .wait => .wait
  | .fault c v => .fault c v
  | .poison c x => .poison c x

/-- What TOPK or RHIST writes to AUX, and its status. -/
def sampResult (r : SampReq) (d : SampDesc) (xs : List (Nat × Nat)) (nans : Nat) : List Byte × Word :=
  match r.op with
  | .topk =>
    let (es, allneg, empty) := topkPick r.t d.k xs
    (topkBytes r.t d.k es,
     BitVec.ofNat 64 (es.length + field 11 (bit allneg) + field 12 (bit empty) + field 24 (nans % 2 ^ 24)))
  | _ =>
    let w := 8 * FTy.bytes r.t
    let (cs, above) := histogram w d.digit d.pre (xs.map fun x => orderMap w x.2)
    (cs.flatMap (natLe 4), BitVec.ofNat 64 (above + field 24 (nans % 2 ^ 24)))

/-- TOPK and RHIST whole: nothing is written before every place is known to take it. -/
def State.sampleAll (s : State) (r : SampReq) (d : SampDesc) : Out :=
  match s.permitted r d with
  | .wait => .refused .cannotOccur
  | .fault c va => .next (s.freezeSample r c va)
  | .poison c w => s.engineError r.gid c w
  | .ok (xs, nans) s =>
    let (bs, status) := sampResult r d xs nans
    match s.spaceCheck r.gid r.core r.asid d.aux bs.length with
    | .fault c va => .next (s.freezeSample r c va)
    | .ok _ s => .next ((s.spaceWrite ⟨r.id, r.gid, r.core⟩ r.asid r.brick d.aux bs).endSample r status)
    | _ => .refused .cannotOccur

/-- One pair of BIASADD (18:R365). -/
def State.biasPair (s : State) (r : SampReq) (d : SampDesc) : EngRes SampReq :=
  let w := FTy.bytes r.t
  match s.spaceRead r.gid r.id r.core r.asid r.brick (d.aux.1, (d.aux.2 + 8 * r.next) % 2 ^ 56) 8 r.deps with
  | .wait => .wait
  | .fault c v => .fault c v
  | .poison c x => .poison c x
  | .ok bs s =>
    let p := leNat bs
    let i := p % 2 ^ 32
    let r := { r with next := r.next + 1 }
    if d.n ≤ i then .ok { r with skipped := r.skipped + 1 } s
    else
      let va := (d.vec + w * i) % 2 ^ 56
      match s.engRead r.gid r.core r.asid va w r.deps with
      | .wait => .wait
      | .fault c v => .fault c v
      | .poison c x => .poison c x
      | .ok x s =>
        let y := biasSum r.t (leNat x) (p / 2 ^ 32)
        match s.engWrite ⟨r.id, r.gid, r.core⟩ r.asid va (natLe w y) r.deps with
        | .ok _ s => .ok { r with nans := r.nans + bit ((ftyFmt r.t).isNan y) } s
        | .wait => .wait
        | .fault c v => .fault c v
        | .poison c x => .poison c x

/-- The pairs of BIASADD from the next one on, until the last or until one must wait or faults. -/
def State.biasAll (s : State) (r : SampReq) (d : SampDesc) (moved : Bool) : Nat → Out
  | 0 =>
    .next (s.endSample r (BitVec.ofNat 64 (r.skipped % 2 ^ 24 + field 24 (r.nans % 2 ^ 24))))
  | n + 1 =>
    match s.biasPair r d with
    | .ok r s => s.biasAll r d true n
    | .fault c va => .next (s.freezeSample r c va)
    | .poison c w => (s.setSample r).engineError r.gid c w
    | .wait => if moved then .next (s.setSample r) else .refused .cannotOccur

/-- SAMPLE_COMPLETE (18:R367). -/
def execSampleComplete (req : Nat) (s : State) : Out :=
  match s.samples.find? fun r => r.id == req with
  | none => .refused .cannotOccur
  | some r =>
    if r.frozen.isSome || !s.working r.brick || s.gangHeld r.gid ||
        s.samples.any (fun x => x.gid == r.gid && decide (x.id < r.id)) then .refused .cannotOccur
    else
      let d := sampFields r.words
      match r.op with
      | .biasadd => s.biasAll r d false (d.nb - r.next)
      | _ => s.sampleAll r d

/-- System software resolves a request's fault. -/
def State.resumeSample (s : State) (id : Nat) : State :=
  { s with samples := s.samples.map fun r => if r.id = id then { r with frozen := none } else r }

/-- It declares the fault unresolvable. -/
def State.failSample (s : State) (id : Nat) : State :=
  match s.samples.find? fun r => r.id == id with
  | none => s
  | some r => (s.endSample r 0).engineFault r.gid r.core r.asid 0x75 ((r.frozen.map Prod.snd).getD 0)

end Sys2Proof.Machine
end

