-- ==== Sys2Proof/Machine/Streams.lean ====
section
/-! DEFINITION. Stream and page instructions, the close of a step and its launch (18:R350-R362, R444). -/

namespace Sys2Proof.Machine

open Sys2Proof

/-! ### What the instructions share (18:R359) -/

/-- The gang's brick is the stream's running step. -/
def Stream.runsIn (x : Stream) (k : BKey) : Bool := x.running.any fun r => r.wall == k.wall

/-- The admitted stream of the gang's address space that operand A names, or STREAM_ACCESS. -/
def State.onStream (s : State) (gd : Guard) (os : List Opnd) (a : Opnd) (produces : Bool)
    (k : Gang → Mask → Nat → Stream → Out) : Out :=
  s.once gd os produces fun g m l =>
    let av := s.opnd g 0 a l
    match s.stream? (bits av 0 18) with
    | none => s.trapEm g 0x70 av
    | some x => if x.asid = s.asidOf g.brick.wall then k g m l x else s.trapEm g 0x70 av

/-- The same by the running step, or STREAM_STATE. -/
def State.inStep (s : State) (gd : Guard) (os : List Opnd) (a : Opnd) (k : Gang → Mask → Nat → Stream → Out) : Out :=
  s.onStream gd os a true fun g m l x =>
    if x.runsIn g.brick then k g m l x else s.trapEm g 0x71 (s.opnd g 0 a l)

/-- The value pushed late in every acting lane (04:R81). -/
def State.doneLate (s : State) (g : Gang) (m : Mask) (d : Dest) (v : Word) : Out :=
  let (s, g) := s.late g m d fun _ => v
  s.done g

/-! ### STRM (18:R360) -/

/-- STRM.STAT. -/
def execStrmStat (g : Guard) (d : Dest) (a : Opnd) (s : State) : Out :=
  s.onStream g [a] a true fun G m _ x => s.doneLate G m d x.status

/-- Entry `x` of PT or SPT as STRM.PAGE gives it. -/
def State.pageEntry (s : State) (st : Stream) (x : Nat) : Word :=
  match if x < 256 then entryOf st.pt x else entryOf st.spt (x - 256) with
  | some p => BitVec.ofNat 64 (s.pageVa p + 2 ^ 63)
  | none => 0

/-- STRM.PAGE. -/
def execStrmPage (g : Guard) (d : Dest) (a b : Opnd) (s : State) : Out :=
  s.onStream g [a, b] a true fun G m l st =>
    let bv := s.opnd G 0 b l
    let x := bits bv 0 9
    if x < st.nslot ∨ (256 ≤ x ∧ x ≤ 271) then s.doneLate G m d (s.pageEntry st x) else s.trapEm G 0x72 bv

/-- STRM.PAGE.W. -/
def execStrmPageW (g : Guard) (d : Dest) (a b c : Opnd) (s : State) : Out :=
  s.inStep g [a, b, c] a fun G m l st =>
    let bv := s.opnd G 0 b l
    let cv := s.opnd G 0 c l
    let x := bits bv 0 9
    let p := bits cv 0 24
    if st.nslot ≤ x ∨ 256 ≤ x ∨ bits cv 24 7 ≠ 0 ∨ s.sys.npool ≤ p then s.trapEm G 0x72 bv
    else if cv.getLsbD 31 && !s.owns st.num p then s.trapEm G 0x73 (BitVec.ofNat 64 p)
    else (s.setStream { st with pt := st.pt.set x ⟨p, cv.getLsbD 31⟩ }).doneLate G m d (s.pageEntry st x)

/-- STRM.PAGE.C. -/
def execStrmPageC (g : Guard) (d : Dest) (a b c : Opnd) (s : State) : Out :=
  s.inStep g [a, b, c] a fun G m l st =>
    let bv := s.opnd G 0 b l
    let x := bits bv 0 9
    let w := bits (s.opnd G 0 c l) 0 6
    if st.nslot ≤ x ∨ 256 ≤ x ∨ st.pgtok ≤ w then s.trapEm G 0x72 bv
    else (s.setStream { st with wslot := x, woff := w }).doneLate G m d (s.pageEntry st x)

/-! ### Speculative rows (18:R362) -/

/-- RESERVE's loop: pages until `want` rows fit; none while one waits to be zeroed. -/
def State.reservePages (s : State) (x : Stream) (want : Nat) : Nat → Option (State × Stream)
  | 0 => some (s, x)
  | fuel + 1 =>
    if x.specheld < x.spec ∧ x.specheld * x.pgtok < want ∧ 0 < s.unreserved then
      match s.takePage x.num with
      | none => some (s, x)
      | some (p, s) => (s.zeroPage x p).bind fun s =>
        s.reservePages { x with spt := x.spt.set x.specheld ⟨p, true⟩, specheld := x.specheld + 1 } want fuel
    else some (s, x)

/-- STRM.RESERVE. -/
def execStrmReserve (g : Guard) (d : Dest) (a b : Opnd) (s : State) : Out :=
  s.inStep g [a, b] a fun G m l st =>
    let n := bits (s.opnd G 0 b l) 0 11
    match s.reservePages st (st.rsv + n) 16 with
    | none => s.stall G
    | some (s, st) =>
      let granted := Nat.min n (st.specheld * st.pgtok - st.rsv)
      (s.setStream { st with rsv := st.rsv + granted }).doneLate G m d (BitVec.ofNat 64 granted)

/-- The address of speculative row `r`. -/
def State.rowVa (s : State) (x : Stream) (r : Nat) : Nat :=
  (s.pageVa ((entryOf x.spt (r / x.pgtok)).getD 0) + x.tokBytes * (r % x.pgtok)) % 2 ^ 56

/-- COMMIT's rows from `r` on, `m` of them, each read and written in turn. -/
def State.commitRows (s : State) (g : Gang) (n : Nat) (r : Nat) : Nat → EngRes Unit
  | 0 => .ok () s
  | m + 1 =>
    match s.stream? n with
    | none => .ok () s
    | some x =>
      match s.engRead g.gid g.core x.asid (s.rowVa x r) x.tokBytes (s.undoneWrites g.gid) with
      | .ok bs s =>
        match s.writeToken x bs with
        | .ok _ s => s.commitRows g n (r + 1) m
        | e => e
      | .wait => .wait
      | .fault c v => .fault c v
      | .poison c w => .poison c w

/-- The cursor as COMMIT pushes it (18:R360). -/
def Stream.cursor (x : Stream) : Word := BitVec.ofNat 64 (x.wslot + field 8 x.woff + field 32 (x.wpos % 2 ^ 32))

/-- STRM.COMMIT. A row or a window page that does not translate holds the gang, and nothing has changed. -/
def execStrmCommit (g : Guard) (d : Dest) (a b : Opnd) (s : State) : Out :=
  s.inStep g [a, b] a fun G m l st =>
    let n := bits (s.opnd G 0 b l) 0 11
    if st.rsv < n then s.trapEm G 0x71 (s.opnd G 0 a l)
    else match s.commitRows G st.num 0 n with
      | .wait => s.stall G
      | .fault c va => .next (s.holdGang G c (BitVec.ofNat 64 va) true)
      | .poison c w => .next (s.holdGang G c (BitVec.ofNat 64 w) false)
      | .ok _ s =>
        match s.stream? st.num with
        | none => s.done G
        | some x =>
          let (s, x) := s.dropSpec x
          (s.setStream x).doneLate G m d x.cursor

/-! ### PGALLOC and PGFREE (18:R361) -/

/-- PGALLOC. -/
def execPgalloc (g : Guard) (a : Opnd) (s : State) : Out :=
  s.onStream g [a] a true fun G m _ st =>
    match if st.held < st.cbud then s.takePage st.num else none with
    | none => s.doneLate G m .none (BitVec.allOnes 64)
    | some (p, t) =>
      match t.zeroPage st p with
      | none => s.stall G
      | some t => (t.setStream { st with held := st.held + 1 }).doneLate G m .none (BitVec.ofNat 64 p)

/-- PGFREE. -/
def execPgfree (g : Guard) (tok : Tok) (a b : Opnd) (s : State) : Out :=
  s.onStream g [a, b] a false fun G _ l st =>
    let bv := s.opnd G 0 b l
    let p := bits bv 0 24
    if s.sys.npool ≤ p then s.trapEm G 0x72 bv
    else if !s.owns st.num p ∨ (st.pt ++ st.spt).any (fun e => e.valid && e.page == p) ∨ st.held = 0 then
      s.trapEm G 0x73 (BitVec.ofNat 64 p)
    else if G.tokFull tok then s.stall G
    else ((s.freePage p).setStream { st with held := st.held - 1 }).done G

/-! ### The close (18:R355, R444) -/

/-- A read by the tick unit, in pieces within pages, after the epochs observed: none where a page is dead. -/
def State.closeRead (s : State) (x : Stream) (seen : Vector Nat 4) : Nat → Nat → Nat →
    EngRes (Option (List Byte × Vector Nat 4))
  | 0, _, _ => .ok (some ([], Vector.replicate 4 0)) s
  | fuel + 1, va, n =>
    if n = 0 then .ok (some ([], Vector.replicate 4 0)) s
    else
      let k := Nat.min n (65536 - va % 65536)
      match s.unitRead x.homef x.asid va k with
      | .fault c v => if x.dead.contains (v / 65536) then .ok none s else .fault c v
      | .wait => .wait
      | .poison c w => .poison c w
      | .ok d s =>
        if !s.hasApplied d.home seen then .wait
        else
          let obs := seenOf (s.tagsAt d.home d.pa k)
          match s.closeRead x seen fuel ((va + k) % 2 ^ 56) (n - k) with
          | .ok (some (r, o)) s => .ok (some (d.bytes ++ r, maxVec obs o)) s
          | r => r

/-- Record `b` of a stream. -/
def Stream.recordVa (x : Stream) (b : Nat) : Nat := x.ctx.toNat + 0x80 + 16 * b

/-- A record's fields (18:R354). -/
def recValid (r : Word × Word) : Bool := r.1.getLsbD 63

def recSeq (r : Word × Word) : Nat := bits r.1 0 32

/-- What the records ask for: the drops counted, and the work left. A record that cannot be read counts as not arrived, and no
drop for it (18:R444, R355; DESIGN CHOICE, log 56). -/
def Stream.plan (x : Stream) (recs : List (Option (Word × Word))) : Stream × List CloseItem :=
  let old := recs.zipIdx.filterMap fun (r, b) => match r with
    | some r => if recValid r && decide (recSeq r < x.step) then some (b, r) else none
    | none => none
  let owed := fun (r : Word × Word) => x.policy && x.owed && recSeq r + 1 == x.step
  let items := old.map fun (b, r) => if owed r then CloseItem.frame b false else .clear b
  let lost := (old.filter fun (_, r) => !owed r).length
  let b := x.step % 4
  let now := match recs.getD b none with
    | some r => recValid r && recSeq r == x.step && decide ((r.2.toNat : Int) ≤ x.closeAt)
    | none => false
  ({ x with drops := x.drops + BitVec.ofNat 32 lost, owed := false },
   items ++ [if now then CloseItem.frame b true else .late])

/-- The close begins: STATUS rebuilt. -/
def Stream.beginClose (x : Stream) : Stream :=
  { x with
    status := BitVec.ofNat 64 (field 1 (bit x.overrun) + field 3 (bit x.stepfail) + field 8 x.wslot + field 16 x.woff)
    dead := [], close := some ⟨[], none, x.wpos, Vector.replicate 4 0⟩ }

/-- An access of the close has been declared unresolvable: FAULTED. -/
def Stream.faulted (x : Stream) : Stream := { x with status := x.status ||| 16 }

/-- The bytes of a frame, and its tokens. -/
def Stream.frameBytes (x : Stream) : Nat := x.frtok * x.tokBytes

def Stream.tokens (x : Stream) (bs : List Byte) : List CloseItem :=
  (List.range x.frtok).map fun i => .token ((bs.drop (x.tokBytes * i)).take x.tokBytes)

/-- The close is done: NIN, and the next state; a RETIRE that waited for it goes on (18:R352). -/
def State.endClose (s : State) (x : Stream) (p : CloseProg) : State :=
  let x := { x with
    status := x.status ||| BitVec.ofNat 64 (field 32 ((x.wpos - p.w0) % 512)), state := 2, close := none, dead := [] }
  let s := ((s.setStream x).raiseAll x.homef p.seen).unhold (.close x.num)
  (if x.retiring && !s.eventDue x then s.endRetire x else none).getD s

/-- One item of a close; true when the close is done. -/
def State.closeItem (s : State) (x : Stream) (p : CloseProg) (i : CloseItem) (rest : List CloseItem) : EngRes Bool :=
  let put := fun (s : State) (x : Stream) (l : List CloseItem) =>
    EngRes.ok false (s.setStream { x with close := some { p with items := some l } })
  match i with
  | .late =>
    put s { x with status := x.status ||| 1, lates := x.lates + 1, owed := x.policy } (.filler :: rest)
  | .filler =>
    match s.closeRead x (Vector.replicate 4 0) 2 x.filler.toNat x.tokBytes with
    | .ok (some (bs, _)) s => put s x (List.replicate x.frtok (.token bs) ++ rest)
    | .ok none s =>
      put s (((List.range x.frtok).foldl (fun y _ => Stream.lose y) x).faulted) rest
    | .wait => .wait
    | .fault c v => .fault c v
    | .poison c w => .poison c w
  | .frame b now =>
    match s.closeRead x p.seen 20 ((x.arrbase.toNat + b * x.frameBytes) % 2 ^ 56) x.frameBytes with
    | .ok (some (bs, _)) s => put s x (x.tokens bs ++ .clear b :: rest)
    | .ok none s =>
      if now then put s x.faulted (.late :: rest) else put s { x.faulted with drops := x.drops + 1 } rest
    | .wait => .wait
    | .fault c v => .fault c v
    | .poison c w => .poison c w
  | .clear b =>
    match p.recs.getD b none with
    | none => put s x rest
    | some r =>
      match s.vaWrite x.homef x.asid (x.recordVa b) (natLe 8 (r.1.toNat % 2 ^ 63)) with
      | .ok _ s => put s x rest
      | .fault c v => if x.dead.contains (v / 65536) then put s x.faulted rest else .fault c v
      | .wait => .wait
      | .poison c w => .poison c w
  | .token bs =>
    let dead := (s.writeToken x bs)
    match dead with
    | .fault c v =>
      if x.dead.contains (v / 65536) then
        match s.writeToken x.faulted bs x.dead with
        | .ok _ s =>
          match s.stream? x.num with
          | some y => put s y rest
          | none => .ok true s
        | .wait => .wait
        | .fault c v => .fault c v
        | .poison c w => .poison c w
      else .fault c v
    | .ok _ s =>
      match s.stream? x.num with
      | some y => put s y rest
      | none => .ok true s
    | .wait => .wait
    | .poison c w => .poison c w

/-- One step of a close; true when it is done. -/
def State.closeOne (s : State) (x : Stream) (p : CloseProg) : EngRes Bool :=
  match p.items with
  | some [] => .ok true (s.endClose x p)
  | some (i :: rest) => s.closeItem x p i rest
  | none =>
    if p.recs.length < 4 then
      match s.closeRead x (Vector.replicate 4 0) 1 (x.recordVa p.recs.length) 16 with
      | .ok (some (bs, obs)) s =>
        let w := fun i => BitVec.ofNat 64 (leNat ((bs.drop (8 * i)).take 8))
        .ok false (s.setStream { x with close := some { p with recs := p.recs ++ [some (w 0, w 1)],
                                                               seen := maxVec p.seen obs } })
      | .ok none s => .ok false (s.setStream { x.faulted with close := some { p with recs := p.recs ++ [none] } })
      | .wait => .wait
      | .fault c v => .fault c v
      | .poison c w => .poison c w
    else
      let (x, items) := x.plan p.recs
      .ok false (s.setStream { x with close := some { p with items := some items } })

/-- A close goes on until it is done, held, or has to wait. -/
def State.closeRun (n : Nat) : Nat → State → Bool → Out
  | 0, s, _ => .next s
  | fuel + 1, s, moved =>
    match s.stream? n with
    | none => .refused .cannotOccur
    | some x =>
      match x.close with
      | none => .next s
      | some p =>
        match s.closeOne x p with
        | .ok true s => .next s
        | .ok false s => State.closeRun n fuel s true
        | .fault c va => s.holdUnit x.homef x.asid 1 (.close n) c va
        | _ => if moved then .next s else .refused .cannotOccur

/-- The close of a stream's next step, or the rest of it (18:R352). -/
def State.closeStream (s : State) (n : Nat) : Out :=
  match s.stream? n with
  | none => .refused .cannotOccur
  | some x =>
    if x.state ≠ 1 ∨ ((vget s.foots x.homef).ptp : Int) < x.closeAt then .refused .cannotOccur
    else match x.close with
      | none => State.closeRun n 2000 (s.setStream x.beginClose) true
      | some _ => State.closeRun n 2000 s false

/-- STREAM_CLOSE (18:R352, R355). -/
def execStreamClose (stream : Nat) (s : State) : Out := s.closeStream stream

/-- STREAM_STEP_LAUNCH (18:R352, R353). -/
def execStreamStepLaunch (stream : Nat) (s : State) : Out :=
  match s.stream? stream with
  | none => .refused .cannotOccur
  | some x =>
    if x.state ≠ 2 ∨ (vget s.foots x.homef).ptp < x.tick then .refused .cannotOccur
    else
      let args : Vector Word 8 := Vector.ofFn fun i =>
        if i.val < 4 then vget x.arg i.val
        else if i.val = 4 then BitVec.ofNat 64 x.num
        else if i.val = 5 then BitVec.ofNat 64 x.step
        else if i.val = 6 then x.status
        else x.ctx.setWidth 64
      let seen := (vget s.foots x.homef).observed
      let s := s.addWall x.asid x.homef 0 (.stream x.num) (newRecord (x.hdr.setWidth 64) 0 0) seen args
      .next (s.setStream { x with state := 3 })

end Sys2Proof.Machine
end

