-- ==== Sys2Proof/Machine/Commands.lean ====
section
/-! DEFINITION. What system software does about faults (14:R295, R445, 22:R424), the retries of held unit accesses, and
invalidations (08:R179, 22:R417). -/

namespace Sys2Proof.Machine

open Sys2Proof

/-! ### Fields of FAULTCMD (22:R413) -/

def cmdAsid (v : Nat) : Nat := v % 2 ^ 11
def cmdCore (v : Nat) : Nat := v / 2 ^ 12 % 2 ^ 9
def cmdSeat (v : Nat) : Nat := v / 2 ^ 21 % 2 ^ 4

/-! ### Gangs (14:R295) -/

/-- A held access of the gang, that has not ended. -/
def MemReq.heldFor (r : MemReq) (g : Gang) : Bool := r.gid == g.gid && r.accs.any fun a => !a.done && a.fault.isSome

/-- The gang a command names, if it is held: one with lanes before one that has retired. -/
def State.heldGang? (s : State) (v : Nat) : Option Gang :=
  let held := fun (g : Gang) => g.core == cmdCore v && g.seat == cmdSeat v && s.asidOf g.brick.wall == cmdAsid v &&
    (g.hold.isSome || s.reqs.any fun r => r.heldFor g)
  (s.gangs.find? fun g => g.live != 0 && held g).or (s.gangs.find? held)

/-- A gang goes on at a clause and a position; one that stands there keeps its clause. -/
def Gang.goAt (g : Gang) (pc : Addr) (pos : Nat) : Gang := if g.pc = pc ∧ g.pos = pos then g else g.resumeAt pc pos

/-- TEPC of a hold. -/
def Hold.clause (h : Hold) : Addr := h.tepc.setWidth 56

def Hold.pos (h : Hold) : Nat := bits h.tepc 56 6

/-- Its held accesses are made again. -/
def State.replay (s : State) (g : Gang) : State :=
  { s with reqs := s.reqs.map fun r =>
      if r.gid = g.gid then { r with accs := r.accs.map fun a => { a with fault := none } } else r }

/-- Resume: the gang retries at TEPC; at a trap's interlock the entry goes on. A gang that has retired has nothing to retry. -/
def State.resumeGang (s : State) (g : Gang) : State :=
  let s := s.replay g
  match g.hold with
  | none => s
  | some h =>
    let g' := { g with hold := none }
    if g.live = 0 then s.setGang g'
    else match g.wait with
    | .trapping .. => s.setGang g'
    | _ => s.setGang (g'.goAt h.clause h.pos)

/-- A held access ends with no effect; what it would have returned is open (log 3). -/
def State.endAccess (s : State) (r : MemReq) (i : Nat) (a : Access) : State :=
  let (w, s) := s.fresh
  s.perform r i { a with fault := none } w

/-- The held accesses of a gang that meet `p` end by `f`. -/
def State.endHeld (s : State) (g : Gang) (p : MemReq → Access → Bool) (f : State → MemReq → Nat → Access → State) : State :=
  s.reqs.foldl (fun s r =>
    if r.gid = g.gid then
      (List.range r.accs.length).foldl (fun s i =>
        match s.reqs.find? fun x => x.id == r.id with
        | some x =>
          match x.accs[i]? with
          | some a => if !a.done && a.fault.isSome && p x a then f s x i a else s
          | none => s
        | none => s) s
    else s) s

/-- The word of a clause's header, where it can be fetched; 0, which no header is, elsewhere. -/
def State.headerWord (s : State) (g : Gang) (pc : Addr) : Word :=
  match s.walkPage (s.gangPart g) (s.asidOf g.brick.wall) pc.toNat with
  | some e =>
    let pa := e.phys (footOf g.core) pc.toNat
    if e.x && pc.toNat % 8 == 0 && !s.poisoned pa && !s.portShut pa && !s.portBusy pa then
      (s.mem (s.viewFoot (s.gangPart g) (footOf g.core) pa)).word pa
    else 0
  | none => 0

/-- What the read of that word does at its slice (22:R410). -/
def State.headerOut (s : State) (g : Gang) (pc : Addr) : State :=
  match s.walkPage (s.gangPart g) (s.asidOf g.brick.wall) pc.toNat with
  | some e =>
    let pa := e.phys (footOf g.core) pc.toNat
    if e.x && pc.toNat % 8 == 0 && !s.poisoned pa && !s.portShut pa && !s.portBusy pa then
      (s.walkOut (s.gangPart g) (s.asidOf g.brick.wall) pc.toNat).readBy (s.gangPart g) (footOf g.core) pa 8
    else s
  | none => s

/-- Resume skipping: the gang goes on at the position after TEPC. A held access of it ends; a deque operation's end leaves
its position by itself. -/
def State.skipGang (s : State) (g : Gang) : State :=
  let s := s.endHeld g (fun _ _ => true) State.endAccess
  let go := fun (pc : Addr) (pos : Nat) =>
    let t := afterPos pc pos (s.headerWord g pc)
    ((s.headerOut g pc).setGang ({ g with hold := none }.resumeAt t.1 t.2)).tidy
  if g.live = 0 then (s.setGang { g with hold := none }).tidy
  else match g.hold, g.wait with
  | some h, _ => go h.clause h.pos
  | none, .posted _ => s.tidy
  | none, _ => go g.pc g.pos

/-- The address of each lane of an instruction whose lanes translate their own: guard, operand, offset, width, need. -/
def laneAddr : Instr → Option (Guard × Opnd × BitVec 11 × Nat × Need)
  | .ld g t _ a off | .ldRo g t _ a off | .ldAcq g t _ a _ off => some (g, a, off, t.bytes, .read)
  | .st g t a _ off | .stRel g t a _ _ off | .stP g t _ a _ off | .stMc g t a _ off => some (g, a, off, t.bytes, .write)
  | .mirrorSync g a => some (g, a, 0, 1, .write)
  | .atomAdd g t _ a _ m | .atomMin g t _ a _ m | .atomMax g t _ a _ m | .atomAnd g t _ a _ m | .atomOr g t _ a _ m
  | .atomXor g t _ a _ m | .atomXchg g t _ a _ m | .atomCas g t _ a _ _ m | .redAdd g t a _ m | .redMin g t a _ m
  | .redMax g t a _ m => some (g, a, m.off, t.bytes, .write)
  | .atomInc g _ a _ m => some (g, a, m.off, 4, .write)
  | .atomPush g _ a _ _ _ | .atomPop g _ a _ _ | .atomSteal g _ a _ _ => some (g, a, 0, 8, .write)
  | _ => none

/-- The lanes whose translation fails at the gang's instruction: `em` where it does not translate per lane. -/
def State.faultLanes (s : State) (g : Gang) : Mask :=
  match g.instr.bind laneAddr with
  | none => g.em
  | some (gd, a, off, w, need) =>
    let acts := g.acts gd
    let bad := maskOf fun l => acts.getLsbD l &&
      (s.walkPage (s.gangPart g) (s.asidOf g.brick.wall) (s.vaOf g a off w l)).all fun e => !e.allows need
    if bad = 0 then g.em else bad

/-- MEM_FAULT at a gang whose instruction has done nothing (08:R178). An engine fault that is pending is taken first, and the
instruction issues again after it (14:R290, R296). -/
def State.memFault (s : State) (g : Gang) (tval : Word) (lanes : Mask) : State :=
  orKeep s (match g.pendfault with
    | none => s.takeTrap g ⟨0x19, tval, lanes, 0, 0, g.pc, g.pos, 0, false⟩ false
    | some (c, v) => s.takeTrap g (g.pendTrap c v) true)

/-- Declare unresolvable at a gang's hold: MEM_FAULT, or TRAP_FRAME at a trap's interlock; none when it applies to no
part of the hold (14:R292, R295). -/
def State.failHold (s : State) (g : Gang) : Option State :=
  match g.hold with
  | none => none
  | some h =>
    if h.cause ≠ 0x40 ∧ h.cause ≠ 0x4E then none
    else match g.wait with
      | .trapping t fault =>
        let g' := { (if fault then g.took t else g) with
          wait := .stalled, hold := some ⟨0x42, h.tval, t.tepc, some { t with cause := 0x42, tval := h.tval, forced := true }⟩ }
        some ((s.reportGang g 0x42 h.tval t.tepc false false (if fault && g.pends t then g.lost else t.lost)).setGang g')
      | _ => some (s.memFault { g with hold := none, wait := .stalled, xfer := none } h.tval (s.faultLanes g))

/-- The held accesses of a gang, with their requests. -/
def State.heldAccs (s : State) (g : Gang) : List (MemReq × Access) :=
  (s.reqs.filter fun r => r.gid == g.gid).flatMap fun r => (r.accs.filter fun a => !a.done && a.fault.isSome).map fun a => (r, a)

/-- Declare unresolvable at a gang's held accesses: a deque operation returns E (08:R190); any other ends, and the gang
takes MEM_FAULT (22:R422). -/
def State.failAccesses (s : State) (g : Gang) : Option State :=
  let isDeque := fun (r : MemReq) => match r.kind with
    | .deque .. => true
    | _ => false
  let cause := fun (a : Access) => (a.fault.map Prod.fst).getD 0
  let ring := fun r a => isDeque r && cause a == 0x40
  let down := fun r a => !(isDeque r && cause a == 0x40) && (cause a == 0x40 || cause a == 0x4E)
  let held := s.heldAccs g
  if !(held.any fun x => ring x.1 x.2 || down x.1 x.2) then none
  else
    let s := s.endHeld g ring fun s r i a => s.perform r i { a with fault := none } dequeE
    match held.find? fun x => down x.1 x.2 with
    | none => some s.tidy
    | some x =>
      let s := (s.endHeld g down State.endAccess).tidy
      let lanes := maskOf fun l => held.any fun y => down y.1 y.2 && y.2.lane == l
      let tval := (x.2.fault.map Prod.snd).getD 0
      match s.gang? g.gid with
      | some g => some (s.owe g (0x19, tval, lanes))
      | none => some s

/-- Deliver at a gang's held accesses: those of the first one's cause end, and the gang takes it. -/
def State.deliverAccesses (s : State) (g : Gang) : Option State :=
  match (s.heldAccs g).head?.bind fun x => x.2.fault with
  | none => none
  | some (c, v) =>
    let of := fun (a : Access) => a.fault.any fun x => x.1 == c
    let lanes := maskOf fun l => (s.heldAccs g).any fun x => of x.2 && x.2.lane == l
    let s := (s.endHeld g (fun _ a => of a) State.endAccess).tidy
    (s.gang? g.gid).map fun g => s.owe g (c, v, lanes)

/-- Deliver: the gang takes the cause through its handler. -/
def State.deliverGang (s : State) (g : Gang) : Option State :=
  if g.tvec = 0 ∨ g.tmode ∨ g.live = 0 then none
  else match g.hold with
  | some h => h.trap.map fun t => orKeep s (s.takeTrap { g with hold := none, wait := .stalled } t false)
  | none => s.deliverAccesses g

/-! ### Engines (14:R295, R296) -/

/-- The engines a command names. -/
def State.heldEngines (s : State) (v : Nat) : List EngineHold :=
  s.engines.filter fun h => h.asid == cmdAsid v && h.core == cmdCore v && h.seat == cmdSeat v

/-- An engine goes on. -/
def State.resumeEngine (s : State) (h : EngineHold) : State :=
  let s := s.dropEngine h.eng
  match h.eng with
  | .matrix c => s.resumeMatrix c
  | .copy _ | .fill _ => s.resumeCopy h.eng
  | .quant g => s.resumeQuant g
  | .sample id => s.resumeSample id
  | .riddle k => s.resumeRiddle k

/-- An engine's fault is unresolvable. -/
def State.failEngine (s : State) (h : EngineHold) : State :=
  let s := s.dropEngine h.eng
  match h.eng with
  | .matrix c => s.failMatrix c
  | .copy _ | .fill _ => s.failCopy h.eng
  | .quant g => s.failQuant g
  | .sample id => s.failSample id
  | .riddle k => s.failRiddle k

/-- The brick of the operation an engine is held for. -/
def State.engineBrick (s : State) (h : EngineHold) : Option BKey :=
  match h.eng with
  | .matrix c => (s.core c).mq.head?.map MatEntry.brick
  | .copy id => (s.copies.find? fun c => c.id == id).map CopyOp.brick
  | .fill id =>
    let cs := s.copies.filter fun c => c.fill == id && c.frozen.isSome
    ((cs.find? fun c => c.core == h.core && (s.gang? c.gid).any fun g => g.seat == h.seat).or cs.head?).map CopyOp.brick
  | .quant g => ((s.group g).quants.find? fun q => q.frozen.isSome).map QuantReq.brick
  | .sample id => (s.samples.find? fun r => r.id == id).map SampReq.brick
  | .riddle _ => (s.gangs.find? fun g => g.core == h.core && g.seat == h.seat && s.asidOf g.brick.wall == h.asid).map
      Gang.brick

/-! ### Units (14:R445, 18:R444) -/

/-- A held access made again whatever else its work waits for: it is held no more, or meets its fault again. -/
def State.reaccess (s : State) (foot asid : Nat) (w : UnitWork) (need : Nat → Need) : Out :=
  match s.unitHolds.find? fun h => h.work == w && h.faulted with
  | none => .refused .cannotOccur
  | some h =>
    match s.unitPage foot asid (h.addr % 2 ^ 56) (need h.addr) with
    | .ok .. => .next (s.unhold w)
    | .fault c va => s.holdUnit foot asid h.seat w c va
    | _ => .refused .cannotOccur

/-- The first of two outcomes that is no refusal. -/
def orElse (o : Out) (p : Unit → Out) : Out :=
  match o with
  | .refused _ => p ()
  | o => o

/-- A unit's work makes its access again, where it is its turn the whole of it. -/
def State.unitWork (s : State) (w : UnitWork) : Out :=
  match w with
  | .queueRead a d =>
    match s.queues.find? fun q => q.asid == a && q.desc == d with
    | some q => orElse (s.serve q true) fun _ =>
      s.reaccess (s.atHomeOf q).home a w fun va => if va = d + 8 then .write else .read
    | none => .refused .cannotOccur
  | .counter wall =>
    match s.wall? wall with
    | some x => orElse (execWallReady wall s) fun _ => s.reaccess x.foot x.asid w fun _ => .read
    | none => .refused .cannotOccur
  | .header wall =>
    match s.wall? wall with
    | some x => orElse (execPlaceSet wall x.nextSet s) fun _ => s.reaccess x.foot x.asid w fun _ => .read
    | none => .refused .cannotOccur
  | .completion b => execBrickRetire b.wall b.idx s
  | .increment wall =>
    match s.wall? wall with
    | some x => if s.allRetired x then s.endWall x else .refused .cannotOccur
    | none => .refused .cannotOccur
  | .context wall set =>
    match s.set? wall set with
    | some p =>
      if p.phase = .stored then orElse (execRestore wall set s) fun _ => s.reaccess p.foot (s.asidOf wall) w fun _ => .read
      else orElse (execContextToMemory wall set s) fun _ => s.reaccess p.foot (s.asidOf wall) w fun _ => .write
    | none => .refused .cannotOccur
  | .close n => s.closeStream n

/-- UNIT_ACCESS_RETRY (14:R445): a held access, or one that waits its turn, is made again. -/
def execUnitAccessRetry (hold : Nat) (s : State) : Out :=
  match s.unitHolds[hold]? with
  | some h => s.unitWork h.work
  | none => .refused .cannotOccur

/-- The holds of a unit in an address space. -/
def State.heldUnits (s : State) (v : Nat) : List UnitHold :=
  s.unitHolds.filter fun h => h.faulted && h.asid == cmdAsid v && h.seat == cmdSeat v && cmdCore v == 511

/-- Resume: every one of them is retried at once; one that faults again stays held, with no further record. -/
def State.resumeUnit (s : State) (h : UnitHold) : State := orKeep s (s.unitWork h.work)

/-- A unit's hold is dead: its work goes on without the access. -/
def State.killHold (s : State) (h : UnitHold) : State :=
  { s with unitHolds := s.unitHolds.map fun x => if x.work = h.work then { x with faulted := false, dead := true } else x }

/-- Declare unresolvable, by the table of 14:R445. -/
def State.failUnit (s : State) (h : UnitHold) : State :=
  match h.work with
  | .queueRead a d =>
    let set := fun (q : Queue) => if q.asid = a ∧ q.desc = d then { q with served := false } else q
    { s with queues := s.queues.map set }.unhold h.work
  | .counter wall | .header wall =>
    match s.wall? wall with
    | some x => (s.unhold h.work).rejectStep x 0x55
    | none => s.unhold h.work
  | .completion b => let s := s.killHold h; orKeep s (execBrickRetire b.wall b.idx s)
  | .increment _ => let s := s.killHold h; orKeep s (s.unitWork h.work)
  | .context wall set =>
    match s.set? wall set with
    | some p => (s.killHold h).terminateSet p
    | none => s.unhold h.work
  | .close n =>
    let s := s.unhold h.work
    match s.stream? n with
    | some x => let s := s.setStream { x with dead := h.addr / 65536 :: x.dead }; orKeep s (s.closeStream n)
    | none => s

/-! ### FAULTCMD (14:R295, 22:R413, R424) -/

/-- FAULTCMD reads as written, with its action in bits 27:25 and zero in its reserved bits, and IGN when the command acted on
nothing. -/
def State.faultcmd (s : State) (v action : Nat) (acted : Option State) : Out :=
  let done := fun (s : State) (ign : Bool) =>
    Host.Outcome.next { s with sys := { s.sys with
      faultcmd := v % 2 ^ 11 + v / 2 ^ 12 % 2 ^ 13 * 2 ^ 12 + action * 2 ^ 25, faultIgn := ign } }
  match acted with
  | some s => done s false
  | none => done s true

/-- FAULTCMD_RESUME. -/
def execFaultcmdResume (v : Nat) (s : State) : Out :=
  let gs := (s.heldGang? v).toList
  let es := s.heldEngines v
  let us := s.heldUnits v
  s.faultcmd v 0 (if gs.isEmpty && es.isEmpty && us.isEmpty then none
    else some (us.foldl State.resumeUnit (es.foldl State.resumeEngine (gs.foldl State.resumeGang s))))

/-- FAULTCMD_RESUME_SKIP: it ends no engine's and no unit's hold. -/
def execFaultcmdResumeSkip (v : Nat) (s : State) : Out := s.faultcmd v 1 ((s.heldGang? v).map s.skipGang)

/-- FAULTCMD_UNRESOLVABLE. -/
def execFaultcmdUnresolvable (v : Nat) (s : State) : Out :=
  let es := s.heldEngines v
  let us := s.heldUnits v
  let gang := (s.heldGang? v).bind fun g =>
    match s.failHold g with
    | some s => some (((s.gang? g.gid).bind s.failAccesses).getD s)
    | none => s.failAccesses g
  s.faultcmd v 2 (if gang.isNone && es.isEmpty && us.isEmpty then none
    else some (us.foldl State.failUnit (es.foldl State.failEngine (gang.getD s))))

/-- FAULTCMD_DELIVER. -/
def execFaultcmdDeliver (v : Nat) (s : State) : Out := s.faultcmd v 3 ((s.heldGang? v).bind s.deliverGang)

/-- FAULTCMD_TERMINATE: the brick of the held gang, or of the held engine's operation. -/
def execFaultcmdTerminate (v : Nat) (s : State) : Out :=
  let ks := ((s.heldGang? v).toList.map Gang.brick ++ (s.heldEngines v).filterMap s.engineBrick).eraseDups
  s.faultcmd v 4 (if ks.isEmpty then none else some (ks.foldl State.terminate s))

/-- FAULTCMD_RESERVED (22:R424): actions 5 to 7. An action that applies to nothing is the meaning of its own event. -/
def execFaultcmdReserved (v : Nat) (s : State) : Out :=
  if v / 2 ^ 25 % 8 < 5 then .refused .cannotOccur else s.faultcmd v (v / 2 ^ 25 % 8) none

/-! ### Invalidations (08:R179, 22:R417, R424) -/

/-- An entry an invalidation removes. -/
def TlbEntry.struck (v : Nat) (e : TlbEntry) : Bool :=
  match v / 2 ^ 11 % 4 with
  | 0 => e.covers (v % 2 ^ 11) (v / 65536 % 2 ^ 40 * 65536)
  | 1 => e.asid == v % 2 ^ 11
  | _ => true

/-- A REORDER episode holds spill translations of the address space (13:R273). -/
def State.holdsSpill (s : State) (v : Nat) (c : Course) : Bool :=
  (c.state == .binning || c.state == .frozen || c.state == .rebuilding) && c.tags.any (fun t => t.spill.isSome) &&
    (v / 2 ^ 11 % 4 == 2 || s.asidOf c.key.wall == v % 2 ^ 11)

/-- An access that the invalidation `v`, written when the next request had the number `n`, must wait for: it may have been
translated with an entry the invalidation removes, before it was written; of one page, the whole page it was translated with
counts (08:R179). A fence translates nothing. -/
def oldAccess (v n : Nat) (r : MemReq) : Bool :=
  decide (r.id < n) && r.accs.any fun a => !a.done && a.page != 0 &&
    match v / 2 ^ 11 % 4 with
    | 0 => r.asid == v % 2 ^ 11 && a.va / a.page == v / 65536 % 2 ^ 40 * 65536 / a.page
    | 1 => r.asid == v % 2 ^ 11
    | _ => true

/-- TLBINV written: entries go at once; the invalidation waits behind an earlier one. -/
def State.tlbinv (s : State) (v : Nat) : Out :=
  let keep := fun (x : Nat × TlbEntry) => !x.2.struck v
  .next { s with
    tlb := s.tlb.filter keep, gtlb := s.gtlb.filter keep
    sys := { s.sys with tlbinvReg := v, tlbinv := s.sys.tlbinv ++ [(v, s.nextId)], tlbBusy := true, tlbBad := false } }

/-- TLBINV_PAGE. -/
def execTlbinvPage (v : Nat) (s : State) : Out := s.tlbinv (v % 2 ^ 11 + v / 2 ^ 16 % 2 ^ 40 * 2 ^ 16)

/-- TLBINV_ASID. -/
def execTlbinvAsid (v : Nat) (s : State) : Out := s.tlbinv (v % 2 ^ 11 + 2 ^ 11 + v / 2 ^ 16 % 2 ^ 40 * 2 ^ 16)

/-- TLBINV_ALL. -/
def execTlbinvAll (v : Nat) (s : State) : Out := s.tlbinv (v % 2 ^ 11 + 2 * 2 ^ 11 + v / 2 ^ 16 % 2 ^ 40 * 2 ^ 16)

/-- TLBINV_RESERVED: KIND 3 starts nothing and sets TLBSTAT bit 1. -/
def execTlbinvReserved (v : Nat) (s : State) : Out :=
  .next { s with sys := { s.sys with tlbinvReg := v % 2 ^ 11 + 3 * 2 ^ 11 + v / 2 ^ 16 % 2 ^ 40 * 2 ^ 16, tlbBad := true } }

/-- A write that a footing's slice stood in for, of an access older than the request number `n`, has not reached its home slice, where
alone it is performed (08:R172, R179). A travelling write names no page: one of any page counts (log 9). -/
def State.oldWrite (s : State) (n : Nat) : Bool := s.writes.any fun w => w.order.isNone && decide (w.req < n)

/-- INVALIDATION_COMPLETE (08:R179): the oldest, once the accesses it waits for have been performed and no REORDER
holds a spill translation; TLBSTAT bit 0 falls with the last. -/
def execInvalidationComplete (s : State) : Out :=
  match s.sys.tlbinv with
  | [] => .refused .cannotOccur
  | (v, n) :: rest =>
    if s.reqs.any (oldAccess v n) || s.oldWrite n || s.courses.any (s.holdsSpill v) then .refused .cannotOccur
    else
      let keep := fun (x : Nat × TlbEntry) => !x.2.struck v
      let s := { s with
        tlb := s.tlb.filter keep, gtlb := s.gtlb.filter keep
        sys := { s.sys with tlbinv := rest, tlbBusy := !rest.isEmpty } }
      .next (if rest.isEmpty then s.msix none 9 else s)

end Sys2Proof.Machine
end

