-- ==== Sys2Proof/Machine/Lms.lean ====
section
/-! DEFINITION. SHA-256 (FIPS 180-4) and the LMS signatures of RFC 8554 with the parameter sets that the spec names
(22:R425, R426; log 14). The two standards are not part of the spec, which names them: what stands here is PRESUMED from their
texts. -/

namespace Sys2Proof.Machine

open Sys2Proof

/-! ### SHA-256 -/

/-- The first 32 bits of the fractional parts of the cube roots of the first 64 primes. -/
def shaK : List (BitVec 32) :=
  [0x428a2f98, 0x71374491, 0xb5c0fbcf, 0xe9b5dba5, 0x3956c25b, 0x59f111f1, 0x923f82a4, 0xab1c5ed5,
   0xd807aa98, 0x12835b01, 0x243185be, 0x550c7dc3, 0x72be5d74, 0x80deb1fe, 0x9bdc06a7, 0xc19bf174] ++
  [0xe49b69c1, 0xefbe4786, 0x0fc19dc6, 0x240ca1cc, 0x2de92c6f, 0x4a7484aa, 0x5cb0a9dc, 0x76f988da,
   0x983e5152, 0xa831c66d, 0xb00327c8, 0xbf597fc7, 0xc6e00bf3, 0xd5a79147, 0x06ca6351, 0x14292967] ++
  [0x27b70a85, 0x2e1b2138, 0x4d2c6dfc, 0x53380d13, 0x650a7354, 0x766a0abb, 0x81c2c92e, 0x92722c85,
   0xa2bfe8a1, 0xa81a664b, 0xc24b8b70, 0xc76c51a3, 0xd192e819, 0xd6990624, 0xf40e3585, 0x106aa070] ++
  [0x19a4c116, 0x1e376c08, 0x2748774c, 0x34b0bcb5, 0x391c0cb3, 0x4ed8aa4a, 0x5b9cca4f, 0x682e6ff3,
   0x748f82ee, 0x78a5636f, 0x84c87814, 0x8cc70208, 0x90befffa, 0xa4506ceb, 0xbef9a3f7, 0xc67178f2]

/-- The eight words of the hash. -/
structure Sha where
  a : BitVec 32
  b : BitVec 32
  c : BitVec 32
  d : BitVec 32
  e : BitVec 32
  f : BitVec 32
  g : BitVec 32
  h : BitVec 32
deriving DecidableEq, Repr

def Sha.init : Sha :=
  ⟨0x6a09e667, 0xbb67ae85, 0x3c6ef372, 0xa54ff53a, 0x510e527f, 0x9b05688c, 0x1f83d9ab, 0x5be0cd19⟩

/-- A 32-bit word of the message, most significant byte first. -/
def be32 (bs : List Byte) : BitVec 32 := BitVec.ofNat 32 (bs.foldl (fun n b => 256 * n + b.toNat) 0)

/-- A number in `n` bytes, most significant first. -/
def natBe (n x : Nat) : List Byte := (List.range n).reverse.map fun i => BitVec.ofNat 8 (x / 256 ^ i)

/-- The message schedule, newest word first: `n` words more. -/
def shaSchedule : Nat → List (BitVec 32) → List (BitVec 32)
  | 0, ws => ws
  | n + 1, ws =>
    let x := ws.getD 14 0
    let y := ws.getD 1 0
    shaSchedule n ((ws.getD 15 0 + (x.rotateRight 7 ^^^ x.rotateRight 18 ^^^ (x >>> 3)) + ws.getD 6 0
      + (y.rotateRight 17 ^^^ y.rotateRight 19 ^^^ (y >>> 10))) :: ws)

/-- One round with its constant and its word of the schedule. -/
def Sha.round (v : Sha) (kw : BitVec 32 × BitVec 32) : Sha :=
  let t1 := v.h + (v.e.rotateRight 6 ^^^ v.e.rotateRight 11 ^^^ v.e.rotateRight 25) + ((v.e &&& v.f) ^^^ (~~~v.e &&& v.g))
    + kw.1 + kw.2
  let t2 := (v.a.rotateRight 2 ^^^ v.a.rotateRight 13 ^^^ v.a.rotateRight 22)
    + ((v.a &&& v.b) ^^^ (v.a &&& v.c) ^^^ (v.b &&& v.c))
  ⟨t1 + t2, v.a, v.b, v.c, v.d + t1, v.e, v.f, v.g⟩

/-- One block of 64 bytes. -/
def Sha.block (v : Sha) (bs : List Byte) : Sha :=
  let ws := (List.range 16).map fun i => be32 ((bs.drop (4 * i)).take 4)
  let r := (shaK.zip (shaSchedule 48 ws.reverse).reverse).foldl Sha.round v
  ⟨v.a + r.a, v.b + r.b, v.c + r.c, v.d + r.d, v.e + r.e, v.f + r.f, v.g + r.g, v.h + r.h⟩

/-- The blocks of a padded message. -/
def Sha.blocks (v : Sha) : Nat → List Byte → Sha
  | 0, _ => v
  | n + 1, bs => (v.block (bs.take 64)).blocks n (bs.drop 64)

/-- SHA-256 of a message. -/
def sha256 (m : List Byte) : List Byte :=
  let zeros := (119 - m.length % 64) % 64
  let v := Sha.init.blocks ((m.length + 9 + zeros) / 64) (m ++ 0x80 :: List.replicate zeros 0 ++ natBe 8 (8 * m.length))
  [v.a, v.b, v.c, v.d, v.e, v.f, v.g, v.h].flatMap fun w => natBe 4 w.toNat

/-! ### One-time signatures (RFC 8554, section 4) -/

/-- A parameter set of the one-time signatures: its typecode, the width of a coefficient, the count of coefficients, the left
shift of the checksum. -/
structure OtsParams where
  type : Nat
  w : Nat
  p : Nat
  ls : Nat
deriving DecidableEq, Repr

/-- LMOTS_SHA256_N32_W4, of a firmware image (22:R425). -/
def otsW4 : OtsParams := ⟨3, 4, 67, 4⟩

/-- LMOTS_SHA256_N32_W8, of the device's identity (22:R426). -/
def otsW8 : OtsParams := ⟨4, 8, 34, 0⟩

/-- Coefficient `i` of a string, of `w` bits. -/
def coef (s : List Byte) (i w : Nat) : Nat :=
  (s.getD (i * w / 8) 0).toNat / 2 ^ (8 - (w * (i % (8 / w)) + w)) % 2 ^ w

/-- The coefficients of a digest with its checksum. -/
def OtsParams.coefs (x : OtsParams) (q : List Byte) : List Nat :=
  let sum := ((List.range (256 / x.w)).map fun i => 2 ^ x.w - 1 - coef q i x.w).sum
  let s := q ++ natBe 2 (sum * 2 ^ x.ls % 65536)
  (List.range x.p).map fun i => coef s i x.w

/-- The Winternitz chain of element `i` from step `j` on, `n` steps; `pre` is the key's identifier with its index. -/
def otsChain (pre : List Byte) (i : Nat) : Nat → Nat → List Byte → List Byte
  | 0, _, t => t
  | n + 1, j, t => otsChain pre i n (j + 1) (sha256 (pre ++ natBe 2 i ++ natBe 1 j ++ t))

/-- The digest that a one-time key signs. -/
def otsDigest (pre c m : List Byte) : List Byte := sha256 (pre ++ natBe 2 0x8181 ++ c ++ m)

/-- The public key that a one-time signature with randomizer `c` and elements `y` leads to. -/
def OtsParams.candidate (x : OtsParams) (pre c : List Byte) (y : List (List Byte)) (m : List Byte) : List Byte :=
  let zs := (y.zip (x.coefs (otsDigest pre c m))).zipIdx.map fun z =>
    otsChain pre z.2 (2 ^ x.w - 1 - z.1.2) z.1.2 z.1.1
  sha256 (pre ++ natBe 2 0x8080 ++ zs.flatten)

/-- A one-time signature by the private elements `key`. -/
def OtsParams.sign (x : OtsParams) (pre c : List Byte) (key : Nat → List Byte) (m : List Byte) : List Byte :=
  natBe 4 x.type ++ c ++ (x.coefs (otsDigest pre c m)).zipIdx.flatMap fun z => otsChain pre z.2 z.1 0 (key z.2)

/-! ### The tree (RFC 8554, section 5): LMS_SHA256_M32_H15 -/

/-- The typecode of LMS_SHA256_M32_H15. -/
def lmsType : Nat := 7

/-- `n` pieces of 32 bytes. -/
def pieces (bs : List Byte) (n : Nat) : List (List Byte) := (List.range n).map fun i => (bs.drop (32 * i)).take 32

/-- From a node up along a path to the root. -/
def lmsRoot (ident : List Byte) : Nat → List Byte → List (List Byte) → List Byte
  | _, t, [] => t
  | node, t, x :: path =>
    let sides := if node % 2 = 1 then x ++ t else t ++ x
    lmsRoot ident (node / 2) (sha256 (ident ++ natBe 4 (node / 2) ++ natBe 2 0x8383 ++ sides)) path

/-- A public key of 56 bytes with these parameters signs a message (22:R425): the signature's own typecodes and length, its index,
and the root that it leads to. -/
def lmsVerify (x : OtsParams) (key m sig : List Byte) : Bool :=
  let be := fun (bs : List Byte) (off : Nat) => (be32 ((bs.drop off).take 4)).toNat
  let ident := (key.drop 8).take 16
  let q := be sig 0
  let pre := ident ++ natBe 4 q
  let ots := 36 + 32 * x.p
  let y := pieces (sig.drop 40) x.p
  let leaf := x.candidate pre ((sig.drop 8).take 32) y m
  let node := 2 ^ 15 + q
  decide (key.length = 56) && be key 0 == lmsType && be key 4 == x.type &&
    decide (sig.length = 4 + ots + 4 + 32 * 15) && be sig 4 == x.type && be sig (4 + ots) == lmsType && decide (q < 2 ^ 15) &&
    lmsRoot ident node (sha256 (ident ++ natBe 4 node ++ natBe 2 0x8282 ++ leaf)) (pieces (sig.drop (8 + ots)) 15)
      == key.drop 24

/-- The path of leaf `q` in the tree of the device's identity. -/
def identityPath (q : Nat) : List Byte := (List.range 15).flatMap fun i => (Config.identityNode ((2 ^ 15 + q) / 2 ^ i ^^^ 1)).toList

/-- The signature that one-time key `q` of the device's identity makes of a message (22:R426). -/
def identitySign (q : Nat) (m : List Byte) : List Byte :=
  natBe 4 q ++ otsW8.sign (Config.identityId.toList ++ natBe 4 q) (Config.identityRandom q).toList
    (fun i => (Config.identitySecret q i).toList) m ++ natBe 4 lmsType ++ identityPath q

end Sys2Proof.Machine
end

