-- ==== Sys2Proof/Machine/Host.lean ====
section
/-! DEFINITION. The host, the peers, the clock of the streams, the register block, attestation, the monitors, resets and
soft errors (14:R297, R298, 16:R316, R327, 18:R349, R351, 20:R389, 22:R411-R427). -/

namespace Sys2Proof.Machine

open Sys2Proof

/-! ### Agents outside the device (22:R411, R420) -/

/-- A run of bytes that lies in device memory. -/
def State.inHbm (s : State) (pa n : Nat) : Bool :=
  match s.target pa, s.target (pa + n - 1) with
  | .hbm .., .hbm .. => true
  | _, _ => false

/-- The slices of a footing have room for an agent's access to `n` bytes (08:R176). -/
def State.agentRoom (s : State) (foot pa n : Nat) : Bool := !s.inHbm pa n || s.room foot pa n

/-- A write by an agent on a footing; one that releases ends the footing's epoch before it (20:R389). None while a miss table has
no room for it. -/
def State.agentWrite (s : State) (foot pa : Nat) (bs : List Byte) (release : Bool) : Option State :=
  if bs.isEmpty || !s.inHbm pa bs.length then some s
  else if !s.room foot pa bs.length then none
  else
    let rel : RelInfo := ⟨0, 96 * foot, [], some .system, []⟩
    let s := if release then (s.endEpoch foot).putWrite { foot := foot, chain := [rel] } (s.partOf foot) pa bs
      else s.putWrite { foot := foot } (s.partOf foot) pa bs
    some (s.touch foot pa bs.length true)

/-- `n` bytes that are open (log 3). -/
def State.openBytes (s : State) (n : Nat) : List Byte × State :=
  (List.range n).foldl (fun (x : List Byte × State) _ =>
    let (w, s) := x.2.fresh
    (x.1 ++ [w.setWidth 8], s)) ([], s)

/-- A read by an agent on a footing; what it gets is open outside device memory, and of a poisoned line, whose bytes are delivered to
no one (14:R297; log 11). -/
def State.agentRead (s : State) (foot pa n : Nat) (acquire : Bool) : List Byte × State :=
  if s.inHbm pa n then
    let t := s.touch foot pa n false
    let (bs, t) := if s.poisonedIn pa n then t.openBytes n else ((s.mem foot).readN pa n, t)
    (bs, if acquire then t.observe foot (s.tagsAt foot pa n) else t)
  else s.openBytes n

/-- The home slice can perform an agent's atomic on `n` bytes now: earlier writes of the footing have reached it, and it has room. -/
def State.agentReady (s : State) (foot pa n : Nat) : Bool :=
  let home := s.homeFoot (s.partOf foot) pa
  s.homeReady (96 * foot) pa n && (home == foot || s.mayApply home (s.stampOf foot)) && s.room home pa n

/-- The core that a write stands under which an agent on a footing has made by an atomic. -/
def agentCore (foot : Nat) : Nat := 385 + foot

/-- No write that an agent on the footing has made by an atomic at another footing's slice is still to come to these bytes, so that a
read there does not go back (20:R387). -/
def State.agentSees (s : State) (foot pa n : Nat) : Bool :=
  !(s.writes.any fun w => w.core == agentCore foot && w.src != foot && w.waits.contains foot && w.reaches pa n)

/-- An agent's atomic leaves its bytes at the home slice. -/
def State.agentPut (s : State) (foot pa : Nat) (bs : List Byte) : State :=
  let home := s.homeFoot (s.partOf foot) pa
  let s := (s.putWrite { foot := home, core := agentCore foot } (s.partOf foot) pa bs).touch home pa bs.length true
  s.raise foot home ((vget s.foots home).epoch + 1)

/-- An atomic by an agent on a footing, performed at the home slice (08:R188, R189): the old value, or none while the slice
cannot perform it. On a poisoned line what it returns is open and it writes nothing (14:R297; log 11). -/
def State.agentAtomic (s : State) (foot pa : Nat) (op : AtomOp) (t : Ty) (b c : Nat) : Option (Nat × State) :=
  if !s.inHbm pa t.bytes then let (w, s) := s.fresh; some (w.toNat % 2 ^ t.width, s)
  else if !s.agentReady foot pa t.bytes then none
  else if s.poisoned pa then let (w, s) := s.fresh; some (w.toNat % 2 ^ t.width, s)
  else
    let o := leNat ((s.mem (s.homeFoot (s.partOf foot) pa)).readN pa t.bytes)
    some (o, s.agentPut foot pa (natLe t.bytes (atomNew op t o b c)))

/-- A deque operation by an agent (08:R190): what it returns. The ring is one of the address space `asid`; where its entry cannot
be reached the operation returns E and changes nothing (DESIGN CHOICE, log 25). Of the operations of one cycle it comes behind those
of its class that gangs make (08:R191 ranks no agent; DESIGN CHOICE, log 25). -/
def State.agentDeque (s : State) (foot pa : Nat) (op : DequeOp) (b : Word) (asid : Nat) : Option (Nat × State) :=
  let home := s.homeFoot (s.partOf foot) pa
  let plan := s.dequeAt home pa op b
  let k := s.sliceAt home pa
  let rank := dequeRankOf op 384 0 0
  if !s.inHbm pa 32 then let (w, s) := s.fresh; some (w.toNat, s)
  else if !s.agentReady foot pa 32 || !s.ringFree foot asid plan || !s.dequeOpen k pa rank || s.dequeBefore 0 pa rank (s.cycle + 1) then
    none
  else if s.poisoned pa then let (w, s) := s.fresh; some (w.toNat, s)
  else
    let s : State := { s with slices := vset s.slices k ((vget s.slices k).dequeDone s.cycle pa rank) }
    let fail := some (dequeE.toNat, s.touch home pa 32 false)
    let take := fun (va off : Nat) (w : Word) =>
      match s.ringPage foot asid va .read with
      | .error _ => fail
      | .ok ra =>
        if s.poisoned ra then fail
        else
          let (v, s) := s.ringTake foot asid va ra
          some (v.toNat, s.agentPut foot (pa + off) (natLe 8 w.toNat))
    match plan with
    | .fail => fail
    | .push va bottom cnt =>
      match s.ringPage foot asid va .write with
      | .error _ => fail
      | .ok ra => some (cnt.toNat, (s.ringPut foot asid va ra b).agentPut foot (pa + 8) (natLe 8 bottom.toNat))
    | .pop va bottom => take va 8 bottom
    | .steal va top => take va 0 top

/-! ### The host (22:R411) -/

/-- The footing of a host link. -/
def linkFoot (link : Nat) : Nat := 2 * link

/-- The physical address of an offset into BAR2. -/
def State.windowPa (s : State) (off : Nat) : Nat := s.sys.winbase + off

/-- An access of `n` bytes lies in the BAR2 of a link's function. -/
def State.inBar2 (s : State) (link off n : Nat) : Bool := decide (link < 2) && decide (off + n ≤ 2 ^ vget s.sys.bar2 link)

/-- HOST_WRITE: without the Relaxed Ordering attribute a release at system scope of the link's earlier writes. -/
def execHostWrite (link addr : Nat) (data : List Nat) (relaxed : Bool) (s : State) : Out :=
  if !s.inBar2 link addr data.length then .refused .cannotOccur
  else match s.agentWrite (linkFoot link) (s.windowPa addr) (data.map (BitVec.ofNat 8)) !relaxed with
    | some s => .next s
    | none => .refused .cannotOccur

/-- HOST_READ: its completion acts as an acquire at system scope. -/
def execHostRead (link addr len : Nat) (s : State) : Out :=
  let foot := linkFoot link
  if s.inBar2 link addr len && s.agentRoom foot (s.windowPa addr) len && s.agentSees foot (s.windowPa addr) len then
    let (bs, s) := s.agentRead (linkFoot link) (s.windowPa addr) len true
    .next (s.send (8 + link) (bs.map BitVec.toNat))
  else .refused .cannotOccur

/-- The AtomicOps of the host: FetchAdd, Swap and CAS. -/
def hostOp : Nat → Option AtomOp
  | 0 => some .add
  | 1 => some .xchg
  | 2 => some .cas
  | _ => none

/-- HOST_ATOMIC: relaxed, of 4 or 8 bytes. -/
def execHostAtomic (link addr op width b c : Nat) (s : State) : Out :=
  match hostOp op with
  | none => .refused .cannotOccur
  | some o =>
    if !s.inBar2 link addr width || !(width == 4 || width == 8) || s.windowPa addr % width != 0 then .refused .cannotOccur
    else
      match s.agentAtomic (linkFoot link) (s.windowPa addr) o (if width = 4 then .z32 else .s64) b c with
      | none => .refused .cannotOccur
      | some (v, s) => .next (s.send (8 + link) (natLe width v |>.map BitVec.toNat))

/-! ### Peer ports (22:R419-R422) -/

/-- The footing of a port. -/
def portFoot (port : Nat) : Nat := port / 2

/-- The operations and the types of a peer atomic (log 25). -/
def peerOp (n : Nat) : Option AtomOp := [AtomOp.add, .min, .max, .and, .or, .xor, .xchg, .cas, .inc][n]?

def peerDeque (n : Nat) : Option DequeOp := if n < 9 then none else [DequeOp.push, .pop, .steal][n - 9]?

def peerTy (n : Nat) : Ty := [Ty.z32, .s32, .s64, .f32, .f16, .bf16].getD n .z32

/-- A flit performed (22:R420, log 25): a write (1), an atomic or a deque operation (2), a read (3), or nothing. What it returns
goes out as flits, of one line each. None while it cannot be performed. -/
def State.deliverFlit (s : State) (port : Nat) : List Nat → Option State
  | 1 :: off :: bs => s.agentWrite (portFoot port) off (bs.map (BitVec.ofNat 8)) true
  | 2 :: off :: op :: ty :: b :: c :: _ =>
    let r := match peerOp op, peerDeque op with
      | some o, _ => s.agentAtomic (portFoot port) off o (peerTy ty) b c
      | none, some o => s.agentDeque (portFoot port) off o (BitVec.ofNat 64 b) c
      | none, none => none
    match r with
    | some (v, s) => some (s.sendFlit port [2, v])
    | none => if (peerOp op).isNone && (peerDeque op).isNone then some s else none
  | 3 :: off :: n :: _ =>
    if !s.agentRoom (portFoot port) off n || !s.agentSees (portFoot port) off n then none
    else
      let (bs, s) := s.agentRead (portFoot port) off n false
      some ((lineParts off n).foldl (fun s x => s.sendFlit port (3 :: ((bs.drop x.1).take x.2).map BitVec.toNat)) s)
  | _ => some s

/-- The next flit in order goes into the input queue (22:R419, R420). -/
def State.queueFlit (s : State) (port : Nat) (payload : List Nat) : State :=
  let p := vget s.peers port
  s.setPeer port { p with expect := (p.expect + 1) % 65536, naks := 0, inq := p.inq ++ [payload] }

/-- Held flits follow in order, while the input queue has room. -/
def State.queueHeld (s : State) (port : Nat) : Nat → State
  | 0 => s
  | fuel + 1 =>
    let p := vget s.peers port
    match p.held.find? fun x => x.1 == p.expect with
    | none => s
    | some x =>
      if 512 ≤ p.inq.length then s
      else ((s.setPeer port { p with held := p.held.filter fun y => y.1 != x.1 }).queueFlit port x.2).queueHeld port fuel

/-- The flits of the input queue performed in order, up to one that has to wait. -/
def State.drainQueue (s : State) (port : Nat) : Nat → State
  | 0 => s
  | fuel + 1 =>
    match (vget s.peers port).inq with
    | [] => s
    | x :: r =>
      match s.deliverFlit port x with
      | none => s
      | some t => (t.setPeer port { vget t.peers port with inq := r }).drainQueue port fuel

/-- The other end is told to stop at 384 flits in the input queue, and to go on at 256 (22:R419; log 25). -/
def State.stopGo (s : State) (port : Nat) : State :=
  let p := vget s.peers port
  if !p.inStop && decide (384 ≤ p.inq.length) then (s.setPeer port { p with inStop := true }).send port [4, 1]
  else if p.inStop && decide (p.inq.length ≤ 256) then (s.setPeer port { p with inStop := false }).send port [4, 0]
  else s

/-- What has come in over a port is performed, and what waits goes out. -/
def State.servePort (s : State) (port : Nat) : State :=
  let s := s.queueHeld port 64
  let s := (s.stopGo port).drainQueue port (vget s.peers port).inq.length
  (s.stopGo port).flush port

/-- The ports serve what could not be served before. -/
def State.servePorts (s : State) : State := (List.range 8).foldl State.servePort s

/-- A cumulative ACK, and the stop or go of the other end (22:R419). -/
def Peer.acked (p : Peer) (ack : Nat) (stop : Bool) : Peer :=
  let p := { p with stop := stop }
  if (p.nextseq + 65536 - ack) % 65536 ≤ (p.nextseq + 65536 - p.ack) % 65536 then
    { p with ack := ack % 65536,
             buffer := p.buffer.filter fun x => decide ((p.nextseq + 65536 - x.1) % 65536 ≤ (p.nextseq + 65536 - ack) % 65536) }
  else p

/-- A later flit than the one expected (22:R420): held, with a NAK at the first of every eight; a hold that overflows, or a ninth
NAK, makes the link retrain (log 25). -/
def State.gapFlit (s : State) (port seq : Nat) (payload : List Nat) : State :=
  let p := vget s.peers port
  let nak := p.held.length % 8 == 0
  if p.held.any fun x => x.1 == seq then s
  else if decide (64 ≤ p.held.length) || nak && decide (8 ≤ p.naks) then s.setPeer port { p with mustTrain := true }
  else
    let s := s.setPeer port { p with held := p.held ++ [(seq, payload)], naks := p.naks + bit nak }
    if nak then s.send port [0, p.expect] else s

/-- PEER_FLIT_RECEIVE (22:R419, R420): CRC good, SEQ, ACK, stop, then what the flit carries. A flit that fails its CRC is
discarded; one already delivered is not delivered again. A link that must retrain takes none. A flit has 256 bytes and carries at
most a line's (log 25). -/
def execPeerFlitReceive (port : Nat) (flit : List Nat) (s : State) : Out :=
  if 8 ≤ port ∨ !(vget s.peers port).up ∨ (vget s.peers port).mustTrain then .refused .cannotOccur
  else match flit with
    | 1 :: seq :: ack :: stop :: payload =>
      if 130 < payload.length then .refused .cannotOccur
      else
      let p := (vget s.peers port).acked ack (stop != 0)
      let s := s.setPeer port p
      let ahead := (seq + 65536 - p.expect) % 65536
      if ahead = 0 then
        if 512 ≤ p.inq.length then .refused .cannotOccur else .next ((s.queueFlit port payload).servePort port)
      else if ahead < 32768 then .next ((s.gapFlit port seq payload).servePort port)
      else .next (s.servePort port)
    | _ => .next s

/-- The other end has sent its NAK for `seq` once more. -/
def Peer.askedFor (p : Peer) (seq : Nat) : Peer :=
  { p with asked := (seq, if p.asked.1 = seq then p.asked.2 + 1 else 1) }

/-- PEER_NAK (22:R420): that one flit is sent again from the retry buffer. -/
def execPeerNak (port seq : Nat) (s : State) : Out :=
  let p := vget s.peers port
  if 8 ≤ port ∨ !p.up then .refused .cannotOccur
  else match p.buffer.find? fun x => x.1 == seq with
    | none => .refused .cannotOccur
    | some x => .next ((s.setPeer port { p.askedFor seq with replay := p.replay + 1 }).send port (x.1 :: p.expect :: x.2))

/-- The link has a cause to retrain (22:R420): here, an overflow of the hold or eight NAKs with no answer; at the other end, whose
state this one does not see, the same, which takes more than 64 flits on their way or eight NAKs for one of them (DEDUCED,
log 25). -/
def Peer.mayTrain (p : Peer) : Bool :=
  p.mustTrain || decide (8 ≤ p.naks) || decide (64 < p.buffer.length) ||
    decide (8 ≤ p.asked.2) && p.buffer.any fun x => x.1 == p.asked.1

/-- PEER_RETRAIN (22:R420, R412): both ends drain; everything past ACK is replayed once the link has trained. -/
def execPeerRetrain (port : Nat) (s : State) : Out :=
  let p := vget s.peers port
  if 8 ≤ port ∨ !p.up ∨ !p.mayTrain then .refused .cannotOccur
  else
    .next ((s.setPeer port { p with up := false, held := [], naks := 0, mustTrain := false, asked := (0, 0),
                                    retrain := p.retrain + 1 }).msix none (16 + port))

/-- PEER_TRAINED (22:R421, R422, R412): accesses that wait go on; the retry buffer is replayed. -/
def execPeerTrained (port : Nat) (s : State) : Out :=
  let p := vget s.peers port
  if 8 ≤ port ∨ p.up ∨ !p.enable then .refused .cannotOccur
  else
    let s := s.setPeer port { p with up := true, stop := false }
    .next (((p.buffer.foldl (fun s x => s.send port (x.1 :: p.expect :: x.2)) s).msix none (16 + port)).servePort port)

/-- The accesses that wait for a port end at once (22:R422). -/
def State.portEnds (s : State) (port : Nat) : State :=
  (s.reqs.flatMap fun r => (List.range r.accs.length).map fun i => (r.id, i)).foldl (fun s x =>
    match s.reqs.find? fun r => r.id == x.1 with
    | none => s
    | some r =>
      match r.accs[x.2]? with
      | none => s
      | some a => if s.accReady r x.2 a && s.portOf a.pa == some port then s.doDown r x.2 a port else s) s

/-- What waits to go out over a port that is disabled ends: the writes are discarded and counted (22:R422). -/
def State.dropOut (s : State) (port : Nat) : State :=
  let p := vget s.peers port
  p.outq.foldl (fun s x => if x.head? = some 1 then s.discard port else s) (s.setPeer port { p with outq := [] })

/-- PEER_WRITE (22:R421, R422): ENABLE and DISC. -/
def execPeerWrite (port v : Nat) (s : State) : Out :=
  if 8 ≤ port then .refused .cannotOccur
  else
    let p := vget s.peers port
    let en := v / 2 % 2 == 1
    let s := s.setPeer port { p with enable := en, disc := BitVec.ofNat 8 (v / 256) }
    .next (if en then s else ((s.dropOut port).portEnds port).tidy)

/-! ### The stream clock (18:R349, 22:R423) -/

/-- A PTM exchange is due: one is taken every PTMCTL bits 15:0 µs, and none when they are 0 (22:R423). -/
def State.ptmDue (s : State) : Bool := s.sys.ptmctl % 65536 != 0 && decide (s.sys.ptmAt ≤ s.time)

/-- PTM_EXCHANGE: a forward correction above 1 ms jumps; any other is slewed. -/
def execPtmExchange (ns : Int) (s : State) : Out :=
  if !s.ptmDue then .refused .cannotOccur
  else
  let s := { s with sys := { s.sys with ptmAt := s.sys.ptmAt + 1000 * (s.sys.ptmctl % 65536) } }
  if 1000000 < ns then
    .next { s with
      foots := s.foots.map fun (f : Footing) => { f with ptp := f.ptp + ns.toNat }
      sys := { s.sys with ptp := s.sys.ptp + ns.toNat } }
  else .next { s with sys := { s.sys with slew := s.sys.slew + ns } }

/-! ### Commands of the register block (22:R413-R418, R423, R424) -/

/-- A stream is admitted. -/
def State.anyStream (s : State) : Bool := !s.streams.isEmpty

/-- PARTCFG_WRITE (22:R416). -/
def execPartcfgWrite (v : Nat) (s : State) : Out :=
  if s.openWalls ≠ 0 ∨ s.anyStream then .next s
  else .next { s with sys := { s.sys with partcfg := if v % 4 = 3 then 0 else v % 4, ss4 := v / 16 % 16 } }

/-- QREG takes the command, with REMOVE in bit 60, and QSTAT its value (22:R412, R418). -/
def State.queueDone (s : State) (v : Nat) (remove : Bool) (q : Nat) : Out :=
  .next (({ s with sys := { s.sys with qreg := v % 2 ^ 60 + field 60 (bit remove), qstat := q } } : State).msix none 11)

/-- Fields of QREG (22:R418). -/
def qregDesc (v : Nat) : Nat := v % 2 ^ 56 / 128 * 128

/-- The registered queue a command names, in the address space of TICKCTX. -/
def State.regQueue? (s : State) (v : Nat) : Option Queue :=
  s.queues.find? fun q => q.wall.isNone && q.asid == s.sys.tickctx % 2 ^ 11 && q.desc == qregDesc v

/-- QREG_REGISTER (16:R316, 22:R418). -/
def execQregRegister (v : Nat) (s : State) : Out :=
  let q : Queue :=
    { desc := qregDesc v, asid := s.sys.tickctx % 2 ^ 11, maxcls := v / 2 ^ 56 % 4, home := v / 2 ^ 58 % 4, served := true,
      wall := none }
  match s.regQueue? v with
  | some old => ({ s with queues := s.queues.map fun x => if x = old then q else x } : State).queueDone v false 1
  | none =>
    if 4096 ≤ (s.queues.filter fun x => x.wall.isNone).length then s.queueDone v false 2
    else ({ s with queues := s.queues ++ [q] } : State).queueDone v false 1

/-- QREG_REMOVE (22:R418, R424). -/
def execQregRemove (v : Nat) (s : State) : Out :=
  match s.regQueue? v with
  | some q => (({ s with queues := s.queues.erase q } : State).unhold (.queueRead q.asid q.desc)).queueDone v true 1
  | none => s.queueDone v true 3

/-- TICKCMD_ADMIT (18:R351, 22:R423). -/
def execTickcmdAdmit (v : Nat) (s : State) : Out := .next (s.tickWrite (v % 2 ^ 18 + 2 ^ 18))

/-- TICKCMD_RETIRE (18:R351, 22:R423, R424). -/
def execTickcmdRetire (v : Nat) (s : State) : Out := .next (s.tickWrite (v % 2 ^ 18 + 2 * 2 ^ 18))

/-- TICKCMD_NONE: OP 0 runs nothing. -/
def execTickcmdNone (v : Nat) (s : State) : Out := .next { s with sys := { s.sys with tickcmd := v % 2 ^ 18 } }

/-- TICKCMD_RESERVED: OP 3 sets TICKSTAT to 7. -/
def execTickcmdReserved (v : Nat) (s : State) : Out :=
  .next { s with sys := { s.sys with tickcmd := v % 2 ^ 18 + 3 * 2 ^ 18, tickstat := 7 } }

/-- A fault queue replaced. -/
def State.setFq (s : State) (part : Nat) (q : FaultQ) : State := { s with sys := { s.sys with fq := vset s.sys.fq part q } }

/-- FQHEAD_WRITE (22:R414). -/
def execFqheadWrite (part v : Nat) (s : State) : Out :=
  if 4 ≤ part then .refused .cannotOccur
  else
    let q := vget s.sys.fq part
    .next (if q.tail < v then s else s.setFq part { q with head := v })

/-- FQ_RECONFIGURE (22:R414). The size that a write of one above 16 leaves is open (log 3). -/
def execFqReconfigure (part size base : Nat) (s : State) : Out :=
  if 4 ≤ part then .refused .cannotOccur
  else
    let (size, s) := if size ≤ 16 then (size, s) else let (w, s) := s.fresh; (w.toNat % 17, s)
    .next (s.setFq part { vget s.sys.fq part with base := base % 2 ^ 52 / 32 * 32, size := size, head := 0, tail := 0 })

/-- Remote lines beyond the remote ways of their sets leave (08:R176). -/
def State.drainWays (s : State) (slice : Nat) (x : Slice) : Slice :=
  (x.lines.foldl (fun (a : Slice × List Nat) l =>
    if s.isLocal slice l.1 then a
    else
      let k := setOfLine l.1
      if (a.2.filter (· == k)).length < x.rways then (a.1, k :: a.2) else (a.1.evict l, a.2)) (x, [])).1

/-- SLICECTL_WRITE (08:R176). -/
def execSlicectlWrite (slice v : Nat) (s : State) : Out :=
  if 96 ≤ slice then .refused .cannotOccur
  else
    let x := { vget s.slices slice with rways := Nat.min (v % 16) 8 }
    .next { s with slices := vset s.slices slice (s.drainWays slice x) }

/-- SLICECTL_READ (08:R176): a read clears MISSHI. -/
def execSlicectlRead (slice : Nat) (s : State) : Out :=
  if 96 ≤ slice then .refused .cannotOccur
  else .next { s with slices := vset s.slices slice { vget s.slices slice with misshi := 0 } }

/-- A write to PLACECTL or RATECAP of a footing (02:R31, 22:R413). -/
def State.footReg (s : State) (foot off v : Nat) : State :=
  let f := vget s.foots foot
  if off = 0 then
    s.setFoot foot
      { f with skipen := v % 2 == 1, tmargin := BitVec.ofNat 8 (v / 2 ^ 8), dmargin := BitVec.ofNat 8 (v / 2 ^ 16) }
  else if off = 8 then s.setFoot foot { f with ratecap := BitVec.ofNat 64 v }
  else s

/-- Eight bytes of the nonce written (22:R426). -/
def State.setNonce (s : State) (i v : Nat) : State :=
  { s with sys := { s.sys with attNonce := s.sys.attNonce.mapIdx fun j b =>
      if 8 * i ≤ j ∧ j < 8 * i + 8 then BitVec.ofNat 8 (v / 256 ^ (j - 8 * i)) else b } }

/-- The alignment of WINBASE: the size of BAR2, of the two functions' the larger (DESIGN CHOICE, log 25). -/
def Sys.barBits (y : Sys) : Nat := Nat.max (vget y.bar2 0) (vget y.bar2 1)

/-- A write to a register with no behaviour of its own (22:R413); reserved fields and offsets take nothing (00:R7). -/
def State.regWrite (s : State) (off v : Nat) : State :=
  let y := s.sys
  if off = 0x200 then { s with sys := { y with asidbase := v % 2 ^ 52 } }
  else if off = 0x400 then { s with sys := { y with winbase := v % 2 ^ 52 / 2 ^ y.barBits * 2 ^ y.barBits } }
  else if 0x1020 ≤ off ∧ off < 0x1100 ∧ (off - 0x1020) % 0x40 = 0 then
    let p := (off - 0x1020) / 0x40
    s.setFq p { vget y.fq p with lost := BitVec.ofNat 32 v }
  else if off = 0x3000 then { s with sys := { y with swapth := v % 2 ^ 16, highdelay := v / 2 ^ 16 % 2 ^ 16 } }
  else if off = 0x4008 then { s with sys := { y with tickctx := v % 2 ^ 11 + v % 2 ^ 56 / 2 ^ 13 * 2 ^ 13 } }
  else if off = 0x4018 then { s with sys := { y with ptmctl := v % 2 ^ 16, ptmAt := s.time + 1000 * (v % 2 ^ 16) } }
  else if off = 0x5000 then if s.anyStream then s else { s with sys := { y with poolva := v % 2 ^ 56 } }
  else if off = 0x5008 then
    if s.anyStream then s
    else
      let n := Nat.min v (2 ^ 24)
      { s with sys := { y with npool := n }, pool := ⟨List.range n, []⟩ }
  else if 0x800100 ≤ off ∧ off < 0x800120 then s.setNonce ((off - 0x800100) / 8) v
  else if 0x1000000 ≤ off ∧ off < 0x1400000 then s.footReg ((off - 0x1000000) / 0x100000) (off % 0x100000) v
  else s

/-- A multicast group record as its register reads (09:R195). -/
def McGroup.word (r : McGroup) : Nat := r.owner + field 11 r.members.length + field 18 r.timer

/-- A footing's part of the register block read (22:R413): PLACECTL, RATECAP, MCREC, SLICECTL, MON and PEER (02:R31, 08:R176,
09:R195, 18:R351, 22:R421, R427). -/
def State.footRead (s : State) (foot off : Nat) : Nat :=
  let f := vget s.foots foot
  let c := s.group (24 * foot + (off - 0x3000) / 16)
  let x := vget s.slices (24 * foot + (off - 0x2000) / 8)
  let p := vget s.peers (2 * foot + (off - 0x4000) / 0x100)
  if off = 0 then
    bit f.skipen + field 8 f.tmargin.toNat + field 16 f.dmargin.toNat + field 24 f.ptr + field 40 f.skipcnt.toNat
  else if off = 8 then f.ratecap.toNat
  else if 0x1000 ≤ off ∧ off < 0x1200 then (vget f.mc ((off - 0x1000) / 8)).word
  else if 0x2000 ≤ off ∧ off < 0x20C0 then x.rways + field 16 x.misshi + field 32 x.bypass.toNat
  else if 0x3000 ≤ off ∧ off < 0x3180 ∧ off % 16 = 0 then c.temp.toNat + field 16 c.droop.toNat + field 32 c.proc.toNat
  else if off = 0x4000 ∨ off = 0x4100 then
    bit p.up + field 1 (bit p.enable) + field 8 p.disc.toNat + field 16 p.retrain.toNat + field 32 p.replay.toNat
  else 0

/-- A fault queue's register (22:R413, R414). -/
def FaultQ.reg (q : FaultQ) (i : Nat) : Nat := [q.base, q.size, q.head, q.tail, q.lost.toNat].getD i 0

/-- The attestation mailbox, below every footing's part (22:R413). -/
def inMailbox (off : Nat) : Bool := decide (0x800000 ≤ off) && decide (off < 0x1000000)

/-- The 64-bit register at an offset of the block as system software reads it (22:R413). What a read of SLICECTL clears is
`execSlicectlRead`'s (08:R176). In recovery only DEVID and the mailbox answer; any other register reads 0 then (22:R425; DESIGN
CHOICE, log 14). -/
def State.regRead (s : State) (off : Nat) : Nat :=
  let y := s.sys
  if off = 0 then 0x0009 + field 16 Config.stepping.toNat
  else if !y.firmware && !inMailbox off then 0
  else if off = 0x100 then y.partcfg + field 4 y.ss4
  else if off = 0x200 then y.asidbase
  else if off = 0x300 then y.tlbinvReg
  else if off = 0x308 then bit y.tlbBusy + field 1 (bit y.tlbBad)
  else if off = 0x400 then y.winbase
  else if 0x1000 ≤ off ∧ off < 0x1100 then (vget y.fq ((off - 0x1000) / 0x40)).reg (off % 0x40 / 8)
  else if off = 0x1800 then y.faultcmd + field 63 (bit y.faultIgn)
  else if off = 0x2000 then y.qreg
  else if off = 0x2008 then y.qstat
  else if off = 0x3000 then y.swapth + field 16 y.highdelay + field 32 s.openWalls
  else if off = 0x4000 then y.tickcmd
  else if off = 0x4008 then y.tickctx
  else if off = 0x4010 then y.tickstat
  else if off = 0x4018 then y.ptmctl
  else if off = 0x5000 then y.poolva
  else if off = 0x5008 then y.npool
  else if 0x6000 ≤ off ∧ off < 0x6080 then (y.fusemap.extractLsb' (8 * (off - 0x6000)) 64).toNat
  else if off = 0x800000 then y.attState
  else if 0x800100 ≤ off ∧ off < 0x800120 then leNat ((y.attNonce.toList.drop (off - 0x800100)).take 8)
  else if 0x801000 ≤ off ∧ off < 0x1000000 then leNat (((y.attMsg ++ y.attSig).drop (off - 0x801000)).take 8)
  else if 0x1000000 ≤ off ∧ off < 0x1400000 then s.footRead ((off - 0x1000000) / 0x100000) (off % 0x100000)
  else 0

/-- REGISTER_WRITE (22:R413). -/
def execRegisterWrite (off v : Nat) (s : State) : Out := .next (s.regWrite off v)

/-! ### Attestation (22:R426) -/

/-- The message of a quote with key `q`. -/
def State.quote (s : State) (q : Nat) : List Byte :=
  s.sys.attNonce.toList ++ sha256 s.sys.image
    ++ sha256 (Config.fuseWords s.sys.fusemap.toNat (s.sys.partcfg + 16 * s.sys.ss4)) ++ natLe 4 q

/-- ATTEST_QUOTE: the next key index is committed, or the mailbox reads EXHAUSTED. A request while one runs does nothing
(log 14). -/
def execAttestQuote (s : State) : Out :=
  let y := s.sys
  if y.attState = 1 then .next s
  else if 32768 ≤ y.attNext then .next (({ s with sys := { y with attState := 3 } } : State).msix none 12)
  else .next { s with sys := { y with attState := 1, attNext := y.attNext + 1, attMsg := s.quote y.attNext, attSig := [] } }

/-- ATTEST_SIGN_DONE: the signature with the committed key. -/
def execAttestSignDone (s : State) : Out :=
  let y := s.sys
  if y.attState ≠ 1 then .refused .cannotOccur
  else
    .next (({ s with sys := { y with attState := 2, attSig := identitySign (y.attNext - 1) y.attMsg } } : State).msix none 12)

/-! ### Monitors (22:R427) -/

/-- New readings of a group's monitor. -/
def State.readings (s : State) (group temp droop proc : Nat) : State :=
  s.setGroup group
    { s.group group with temp := BitVec.ofNat 12 temp, droop := BitVec.ofNat 8 droop, proc := BitVec.ofNat 16 proc }

/-- A group reads 115 °C or more. -/
def State.overheated (s : State) : Bool := s.groups.any fun g => decide (460 ≤ g.temp.toNat)

/-- THERMAL_THROTTLE: new readings of a group; above 105 °C or 2,800 W the arithmetic clock falls by 25 MHz. -/
def execThermalThrottle (group temp droop proc : Nat) (overPower : Bool) (s : State) : Out :=
  if 96 ≤ group then .refused .cannotOccur
  else
    let s := s.readings group temp droop proc
    let hot := decide (420 < temp % 4096) || overPower
    .next (if hot then { s with sys := { s.sys with clock := Nat.max 650 (s.sys.clock - 25) } } else s)

/-- THERMAL_STOP: at 115 °C the device stops, and reports a machine error to every partition. -/
def execThermalStop (s : State) : Out :=
  if !s.overheated then .refused .cannotOccur
  else .next (({ s with sys := { s.sys with stopped := true } } : State).msix none 0)

/-! ### Resets (11:R239, 22:R425, R426) -/

/-- Device memory and the memory beyond the links as the home slices have them. -/
def State.homeMem (s : State) : Memory :=
  ((List.range 4).flatMap fun f => (s.mem f).filter fun c => decide (c.1 < 2 ^ 40) && c.1 / 2 ^ 38 == f)
    ++ (s.mem 0).filter fun c => decide (2 ^ 40 ≤ c.1)

/-- The device starts over with a memory; what is fused or stored monotonically stays, and so does what the device has
already sent. -/
def State.restart (s : State) (m : Memory) : State :=
  { State.reset with
    agenda := s.agenda, free := s.free, nextId := s.nextId, sent := s.sent
    foots := Vector.replicate 4 { Footing.reset with mem := m }
    sys := { Sys.reset with
      fusemap := s.sys.fusemap, msix := s.sys.msix, attNext := s.sys.attNext, secver := s.sys.secver } }

/-- The boot ROM's checks of a firmware image (22:R425): a public key with the fused digest, its signature of the image, and a
security version of at least the fused counter. -/
def Sys.accepts (y : Sys) (image key sig : List Byte) : Bool :=
  sha256 key == Config.bootKey.toList && lmsVerify otsW4 key image sig && decide (y.secver.val ≤ Config.imageVersion image)

/-- DEVICE_RESET, with FIRMWARE_BOOT (22:R425): an image that fails a check, with the public key and the signature that come
with it, leaves the device in recovery. Memory keeps its bytes
(log 17). -/
def execDeviceReset (image : List Nat) (signed : List Nat × List Nat) (s : State) : Out :=
  let t := s.restart s.homeMem
  let b := fun (l : List Nat) => l.map (BitVec.ofNat 8)
  let ok := s.sys.accepts (b image) (b signed.1) (b signed.2)
  .next { t with sys := { t.sys with firmware := ok, image := if ok then b image else [] } }

/-- POWER_FAILURE (22:R426): device memory is lost; a committed key index stays committed. -/
def execPowerFailure (s : State) : Out :=
  let t := s.restart (s.homeMem.filter fun c => decide (2 ^ 40 ≤ c.1))
  .next { t with sys := { t.sys with stopped := true } }

/-! ### Soft errors (04:R86, R87, 14:R297, R298) -/

/-- A corrected or an uncorrectable word counted, for units 0 to 5. -/
def State.countScrub (s : State) (core unit : Nat) (double : Bool) : State :=
  let up := fun (x : BitVec 32 × BitVec 32) => if double then (x.1, x.2 + 1) else (x.1 + 1, x.2)
  if unit = 1 then
    let g := groupOf core
    s.setGroup g { s.group g with scrub := up (s.group g).scrub }
  else if unit ≤ 5 then
    let c := s.core core
    s.setCore core { c with scrub := vset c.scrub unit (up (vget c.scrub unit)) }
  else s

/-- An uncorrectable word marked. A TLB word never is one: 14:R290 has no code and 14:R298 no count for it (DESIGN CHOICE,
log 11). -/
def State.markWord (s : State) (core unit : Nat) (m : Nat × Nat × Nat) : State :=
  let (a, b, w) := m
  let add := fun (owner word : Nat) => { s with marks := s.marks ++ [⟨unit, owner, word⟩] }
  match unit with
  | 0 =>
    match s.gangAt core a with
    | some g => s.setGang (g.markReg b w)
    | none => s
  | 1 =>
    match s.course? ⟨a, b⟩ with
    | some c => if c.group = groupOf core ∧ c.state ≠ .idle then add c.key.code w else s
    | none => s
  | 2 | 3 =>
    match s.brick? ⟨a, b⟩ with
    | some k => add k.serial w
    | none => s
  | 4 => add a w
  | 5 =>
    { s with l1 := s.l1.map fun x =>
        if x.core == core && x.line == w && x.ro == (a != 0) then { x with bad := x.bad ++ [b % 32] } else x }
  | 6 => add 0 w
  | _ => s

/-- SCRUBBER_READ (04:R87, 14:R297, R298): a word of a core's store is clean, or has an error that is corrected, or one
that is not (log 11). Units 0 to 5 are those of SCRUB.ST, 6 the slices and HBM, where a line becomes poisoned. -/
def execScrubberRead (core unit : Nat) (double : Bool) (mark : Option (Nat × Nat × Nat)) (s : State) : Out :=
  if 384 ≤ core ∨ 6 < unit then .refused .cannotOccur
  else match mark with
    | none => .next s
    | some m =>
      let s := s.countScrub core unit double
      .next (if double then s.markWord core unit m else s)

end Sys2Proof.Machine
end

