-- ==== Sys2Proof/Machine/Integer.lean ====
section
/-! DEFINITION. The integer, address and selection instructions of class 0 (file 04). -/

namespace Sys2Proof.Machine

open Sys2Proof

/-! ### Results (04:R89-R94) -/

/-- ADD and SUB: modulo 2^N, or the A56 rule with b signed (04:R89, R92). -/
def addVal (t : Ty) (a b : Word) : Word :=
  match t with
  | .a56 => red 56 (uval 56 a + sval 64 b)
  | _ => red (nbits t) (tval t a + tval t b)

def subVal (t : Ty) (a b : Word) : Word :=
  match t with
  | .a56 => red 56 (uval 56 a - sval 64 b)
  | _ => red (nbits t) (tval t a - tval t b)

def mulVal (t : Ty) (a b : Word) : Word := red (nbits t) (tval t a * tval t b)

/-- Bits 2N-1:N of the exact product. -/
def mulhiVal (t : Ty) (a b : Word) : Word := red (nbits t) (tval t a * tval t b / 2 ^ nbits t)

/-- The exact 64-bit product of 32-bit operands. -/
def mulwVal (t : Ty) (a b : Word) : Word := red 64 (tval t a * tval t b)

def madVal (t : Ty) (a b c : Word) : Word := red (nbits t) (tval t a * tval t b + tval t c)

def addSatVal (t : Ty) (a b : Word) : Word := red (nbits t) (clamp (tyMin t) (tyMax t) (tval t a + tval t b))

def subSatVal (t : Ty) (a b : Word) : Word := red (nbits t) (clamp (tyMin t) (tyMax t) (tval t a - tval t b))

def minVal (t : Ty) (a b : Word) : Word := red (nbits t) (if tval t b < tval t a then tval t b else tval t a)

def maxVal (t : Ty) (a b : Word) : Word := red (nbits t) (if tval t a < tval t b then tval t b else tval t a)

/-- |a|, the most negative value giving the most positive. -/
def absVal (t : Ty) (a : Word) : Word := red (nbits t) (clamp (tyMin t) (tyMax t) (tval t a).natAbs)

/-- The low N bits of a word. -/
def lowN (t : Ty) (x : Word) : Word := BitVec.ofNat 64 (uval (nbits t) x)

def notVal (t : Ty) (a : Word) : Word := lowN t (~~~a)

/-- The number of one bits among the low `n`. -/
def popcN (x : Nat) : Nat → Nat
  | 0 => 0
  | n + 1 => popcN x n + if x.testBit n then 1 else 0

/-- The number of zero bits above the highest one bit, among the low `n`. -/
def clzN (x : Nat) : Nat → Nat
  | 0 => 0
  | n + 1 => if x.testBit n then 0 else clzN x n + 1

/-- Bit `i` moved to bit `n - 1 - i`. -/
def revN (x : Nat) : Nat → Nat
  | 0 => 0
  | n + 1 => 2 * revN x n + if x.testBit n then 1 else 0

def popcVal (t : Ty) (a : Word) : Word := BitVec.ofNat 64 (popcN a.toNat (nbits t))

def clzVal (t : Ty) (a : Word) : Word := BitVec.ofNat 64 (clzN a.toNat (nbits t))

def brevVal (t : Ty) (a : Word) : Word := BitVec.ofNat 64 (revN a.toNat (nbits t))

/-- The shift count (04:R90). -/
def shCount (b : Word) : Nat := b.toNat % 64

def shlVal (t : Ty) (a b : Word) : Word :=
  if shCount b < nbits t then BitVec.ofNat 64 (uval (nbits t) a * 2 ^ shCount b % 2 ^ nbits t) else 0

def shrVal (t : Ty) (a b : Word) : Word := BitVec.ofNat 64 (uval (nbits t) a / 2 ^ shCount b)

def sarVal (t : Ty) (a b : Word) : Word := red (nbits t) (tval t a / 2 ^ shCount b)

def rotlVal (t : Ty) (a b : Word) : Word :=
  let n := nbits t
  let k := shCount b % n
  BitVec.ofNat 64 (uval n a * 2 ^ k % 2 ^ n + uval n a / 2 ^ (n - k))

/-- BFX's and BFI's position and effective width (04:R91). -/
def bfPos (ctl : Word) : Nat := ctl.toNat % 64

def bfWidth (t : Ty) (ctl : Word) : Nat :=
  if bfPos ctl < nbits t then Nat.min (ctl.toNat / 256 % 128) (nbits t - bfPos ctl) else 0

def bfxVal (t : Ty) (a ctl : Word) : Word :=
  let we := bfWidth t ctl
  let f := uval (nbits t) a / 2 ^ bfPos ctl % 2 ^ we
  if t = .z32 ∨ we = 0 ∨ f < 2 ^ (we - 1) then BitVec.ofNat 64 f else red (nbits t) ((f : Int) - 2 ^ we)

def bfiVal (t : Ty) (a ctl ins : Word) : Word :=
  let we := bfWidth t ctl
  let x := uval (nbits t) a
  let pos := bfPos ctl
  BitVec.ofNat 64
    (x % 2 ^ pos + (ins.toNat % 2 ^ we) * 2 ^ pos + x / 2 ^ (pos + we) * 2 ^ (pos + we))

/-- ADDSC: an S32 index, or a signed 64-bit one under `.W` (04:R92). -/
def addscVal (wide : Bool) (a b : Word) (sh : Nat) : Word :=
  red 56 (uval 56 a + (if wide then sval 64 b else sval 32 b) * 2 ^ sh)

/-- MOVI (04:R94). -/
def moviVal (t : Ty) (v : BitVec 40) : Word :=
  match t with
  | .s64 => v.signExtend 64
  | .a56 => v.setWidth 64
  | _ => (v.setWidth 32).setWidth 64

/-! ### Meanings (04:R88) -/

/-- One operand under a type. -/
def unary (f : Ty → Word → Word) (g : Guard) (t : Ty) (d : Dest) (a : Opnd) (imm : BitVec 16) (s : State) : Out :=
  s.value g d [a] fun G l => f t (s.opnd G imm a l)

/-- Two operands under a type. -/
def binary (f : Ty → Word → Word → Word) (g : Guard) (t : Ty) (d : Dest) (a b : Opnd) (imm : BitVec 16)
    (s : State) : Out :=
  s.value g d [a, b] fun G l => f t (s.opnd G imm a l) (s.opnd G imm b l)

/-- Three operands under a type. -/
def ternary (f : Ty → Word → Word → Word → Word) (g : Guard) (t : Ty) (d : Dest) (a b c : Opnd) (imm : BitVec 16)
    (s : State) : Out :=
  s.value g d [a, b, c] fun G l => f t (s.opnd G imm a l) (s.opnd G imm b l) (s.opnd G imm c l)

/-- ADD (04:R89, R92). -/
def execAdd := binary addVal
/-- SUB (04:R89, R92). -/
def execSub := binary subVal
/-- MUL (04:R89). -/
def execMul := binary mulVal
/-- MULHI (04:R89). -/
def execMulhi := binary mulhiVal
/-- MULW (04:R89). -/
def execMulw := binary mulwVal
/-- MAD (04:R89). -/
def execMad := ternary madVal
/-- ADD.SAT (04:R89). -/
def execAddSat := binary addSatVal
/-- SUB.SAT (04:R89). -/
def execSubSat := binary subSatVal
/-- MIN (04:R89). -/
def execMin := binary minVal
/-- MAX (04:R89). -/
def execMax := binary maxVal
/-- ABS (04:R89). -/
def execAbs := unary absVal
/-- AND (04:R89). -/
def execAnd := binary fun t a b => lowN t (a &&& b)
/-- OR (04:R89). -/
def execOr := binary fun t a b => lowN t (a ||| b)
/-- XOR (04:R89). -/
def execXor := binary fun t a b => lowN t (a ^^^ b)
/-- NOT (04:R89). -/
def execNot := unary notVal
/-- SHL (04:R90). -/
def execShl := binary shlVal
/-- SHR (04:R90). -/
def execShr := binary shrVal
/-- SAR (04:R90). -/
def execSar := binary sarVal
/-- ROTL (04:R90). -/
def execRotl := binary rotlVal
/-- BFX (04:R91). -/
def execBfx := binary bfxVal
/-- BFI (04:R91). -/
def execBfi := ternary bfiVal
/-- POPC (04:R89). -/
def execPopc := unary popcVal
/-- CLZ (04:R89). -/
def execClz := unary clzVal
/-- BREV (04:R89). -/
def execBrev := unary brevVal
/-- MOV (04:R89). -/
def execMov := unary lowN

/-- SEL: the selecting predicate is read in the lane, independently of the guard (04:R93). -/
def execSel (g : Guard) (t : Ty) (d : Dest) (a b : Opnd) (p : PRef) (s : State) : Out :=
  s.value g d [a, b] (fun G l => lowN t (if (G.lane l).pref p then s.opnd G 0 a l else s.opnd G 0 b l)) true

/-- CMP: a predicate written in the acting lanes; nothing pushed (04:R95). -/
def execCmp (g : Guard) (t : Ty) (cc : ICond) (pd : BitVec 3) (a b : Opnd) (imm : BitVec 16) (s : State) : Out :=
  s.perLane g [a, b] fun G m =>
    s.done (G.setPreds m pd fun l => ICond.eval cc t (s.opnd G imm a l) (s.opnd G imm b l))

/-- MOVI (04:R94). -/
def execMovi (g : Guard) (t : Ty) (d : Dest) (v : BitVec 40) (s : State) : Out :=
  s.value g d [] fun _ _ => moviVal t v

/-- ADDSC.A56 (04:R92). -/
def execAddsc (g : Guard) (d : Dest) (a b : Opnd) (sh : BitVec 3) (s : State) : Out :=
  s.value g d [a, b] fun G l => addscVal false (s.opnd G 0 a l) (s.opnd G 0 b l) sh.toNat

/-- ADDSC.A56.W (04:R92). -/
def execAddscW (g : Guard) (d : Dest) (a b : Opnd) (sh : BitVec 3) (s : State) : Out :=
  s.value g d [a, b] fun G l => addscVal true (s.opnd G 0 a l) (s.opnd G 0 b l) sh.toNat

end Sys2Proof.Machine
end

