-- ==== Sys2Proof/Machine/Masks.lean ====
section
/-! DEFINITION. Votes, predicate logic and the mask instructions (06:R130, R131). -/

namespace Sys2Proof.Machine

open Sys2Proof

/-- The acting lanes in which a predicate reference is true. -/
def Gang.ballot (g : Gang) (m : Mask) (p : PRef) : Mask := maskOf fun l => m.getLsbD l && (g.lane l).pref p

/-- VOTE.BALLOT (06:R130). -/
def execVoteBallot (g : Guard) (d : Dest) (pa : PRef) (s : State) : Out :=
  s.perLane g [] (fun G m => s.done (G.push m d fun _ => (G.ballot m pa).setWidth 64)) true

/-- VOTE.ANY (06:R130). -/
def execVoteAny (g : Guard) (pd : BitVec 3) (pa : PRef) (s : State) : Out :=
  s.perLane g [] (fun G m => s.done (G.setPreds m pd fun _ => G.ballot m pa != 0)) true

/-- VOTE.ALL (06:R130). -/
def execVoteAll (g : Guard) (pd : BitVec 3) (pa : PRef) (s : State) : Out :=
  s.perLane g [] (fun G m => s.done (G.setPreds m pd fun _ => G.ballot m pa == m)) true

/-- VOTE.LEADEQ (06:R130). -/
def execVoteLeadeq (g : Guard) (pd : BitVec 3) (a : Opnd) (s : State) : Out :=
  s.perLane g [a] fun G m =>
    let lead := (lowest m).getD 0
    s.done (G.setPreds m pd fun l => s.opnd G 0 a l == s.opnd G 0 a lead)

/-- PLOP of one operation. -/
def plop (f : Bool → Bool → Bool) (g : Guard) (pd : BitVec 3) (pa pb : PRef) (s : State) : Out :=
  s.perLane g [] (fun G m => s.done (G.setPreds m pd fun l => f ((G.lane l).pref pa) ((G.lane l).pref pb))) true

/-- PLOP.AND (06:R130). -/
def execPlopAnd (g : Guard) (pd : BitVec 3) (pa pb : PRef) (s : State) : Out := plop (fun x y => x && y) g pd pa pb s

/-- PLOP.OR (06:R130). -/
def execPlopOr (g : Guard) (pd : BitVec 3) (pa pb : PRef) (s : State) : Out := plop (fun x y => x || y) g pd pa pb s

/-- PLOP.XOR (06:R130). -/
def execPlopXor (g : Guard) (pd : BitVec 3) (pa pb : PRef) (s : State) : Out := plop (fun x y => x != y) g pd pa pb s

/-- PLOP.ANDN (06:R130). -/
def execPlopAndn (g : Guard) (pd : BitVec 3) (pa pb : PRef) (s : State) : Out := plop (fun x y => x && !y) g pd pa pb s

/-- MOVEM.GET (06:R130). -/
def execMovemGet (g : Guard) (d : Dest) (s : State) : Out :=
  s.perLane g [] fun G m => s.done (G.push m d fun _ => G.em.setWidth 64)

/-- The LIVE lanes of the current level (06:R131). -/
def Gang.levelLanes (g : Gang) : Mask :=
  match g.stack with
  | [] => g.live
  | e :: _ => e.rejoin &&& ~~~e.pend &&& ~~~e.arr &&& g.live

/-- MOVEM.SET (06:R131). -/
def execMovemSet (g : Guard) (d : Dest) (a : Opnd) (s : State) : Out :=
  s.once g [a] true fun G m l =>
    let v := s.opnd G 0 a l
    let em := v.setWidth 32 &&& G.levelLanes
    if em = 0 then s.trapEm G 0x0C v
    else s.done { G.push m d (fun _ => G.em.setWidth 64) with em := em }

/-- MOVEM.GETFM (06:R130). -/
def execMovemGetfm (g : Guard) (d : Dest) (s : State) : Out :=
  s.perLane g [] fun G m => s.done (G.push m d fun _ => G.fm.setWidth 64)

/-- MOVEM.GETP (06:R130). -/
def execMovemGetp (g : Guard) (d : Dest) (s : State) : Out :=
  s.perLane g [] (fun G m => s.done (G.push m d fun l => (G.lane l).p.setWidth 64 ||| 0x80)) true

/-- MOVEM.SETP (06:R130). -/
def execMovemSetp (g : Guard) (a : Opnd) (s : State) : Out :=
  s.perLane g [a] fun G m =>
    let ls := G.lanes.mapIdx fun l x => if m.getLsbD l then { x with p := (s.opnd G 0 a l).setWidth 7 } else x
    s.done { G with lanes := ls }

end Sys2Proof.Machine
end

