-- ==== Sys2Proof/Machine/Refill.lean ====
section
/-! DEFINITION. Landing, and what the refill of a released stage follows (09:R197, R210). -/

namespace Sys2Proof.Machine

open Sys2Proof

/-! ### The scratchpad reads an operation has still to make: offsets and lengths in its brick's allotment -/

/-- A matrix entry's, from its next step on (07:R151, R152). -/
def MatEntry.readsLeft (e : MatEntry) : List (Nat × Nat) :=
  let a := matAddr e.a
  let b := matAddr e.b
  match productOf e.instr with
  | some p =>
    (List.range (matSteps e.instr - e.step)).flatMap fun i =>
      let j := (e.step + i) / p.shape.bands
      let r0 := p.shape.band * ((e.step + i) % p.shape.bands)
      (if p.m.asp then (List.range p.shape.band).flatMap fun r =>
        (p.partsA j).map fun x => (a + 32 * p.m.sa.toNat * (r0 + r) + x.1, x.2) else []) ++
      (if p.m.bsp then (List.range 64).map fun c => (b + 32 * p.m.sb.toNat * c + p.shape.bytes * j, p.shape.bytes) else [])
  | none =>
    match e.instr with
    | .accScale _ _ _ _ _ _ _ asp bsp =>
      if e.scales.isSome then [] else (if asp then [(a, 256)] else []) ++ if bsp then [(b, 256)] else []
    | .accLd _ t _ _ _ stride true =>
      (List.range (64 - 8 * e.step)).map fun i => (a + 32 * stride.toNat * (8 * e.step + i), 64 * t.bytes)
    | _ => []

/-- A quantisation request's, from its next block on (12:R257). -/
def QuantReq.readsLeft (q : QuantReq) : List (Nat × Nat) :=
  match quantDesc q.words with
  | none => []
  | some d =>
    let w := FTy.bytes q.src
    if !d.src.1 then []
    else (List.range (d.rows * d.nblk - q.block)).map fun i =>
      (d.src.2 + d.stride * ((q.block + i) % d.rows) + 256 * ((q.block + i) / d.rows) * w, 256 * w)

/-- A gather's or a scatter's (12:R245). -/
def IdxOp.readsLeft (c : IdxOp) : List (Nat × Nat) :=
  (if c.read.isSome then [] else [(c.list, 4 * c.n)] ++ if c.m then [(maskOff c.list c.n, maskLen c.n)] else []) ++
    if c.gather then [] else ((List.range c.n).filter c.todo).map fun e => (c.base + e * c.t.bytes, c.t.bytes)

/-- BIASADD's pairs in the scratchpad (18:R365). -/
def SampReq.readsLeft (r : SampReq) : List (Nat × Nat) :=
  let d := sampFields r.words
  if r.op = .biasadd ∧ d.aux.1 then (List.range (d.nb - r.next)).map fun i => (d.aux.2 + 8 * (r.next + i), 8) else []

/-- A copy's rows in course memory: offsets in the course (09:R201). -/
def CopyOp.readsLeft (c : CopyOp) : List (Nat × Nat) :=
  if c.space ≠ .course then []
  else (List.range (if c.loop then c.iters - c.iter else 1)).flatMap fun i =>
    let (r0, x0) := if i = 0 then (c.row, c.x) else (0, 0)
    (List.range (rowsOf c.dims - r0)).map fun r =>
      let x := if r = 0 then x0 else 0
      (((bits c.src 0 22 : Int) + c.step * ((c.iter + i : Nat) : Int) + rowOff Dim.s c.dims (r0 + r) + x).toNat, c.e0 - x)

/-- A range of length `n` meets `len` bytes from `lo`. -/
def rangeMeets (lo len : Nat) (r : Nat × Nat) : Bool := decide (r.1 < lo + len) && decide (lo < r.1 + r.2)

/-- A gang's operations issued before `upTo`, `but` apart, read bytes of a brick's allotment after now. -/
def State.readsBefore (s : State) (k : BKey) (gid upTo but lo len : Nat) : Bool :=
  let old := fun (g id : Nat) => g == gid && decide (id < upTo) && id != but
  let hits := fun (b : BKey) (l : List (Nat × Nat)) => b == k && l.any (rangeMeets lo len)
  let mats := s.cores.toList.flatMap Core.mq ++ s.matArrivals.map MatArrival.entry ++ s.savedMat
  let quants := s.groups.toList.flatMap Group.quants ++ s.savedQuant
  let unit := ((s.brick? k).map Brick.obrick).getD 0
  mats.any (fun e => old e.gid e.id && hits e.brick e.readsLeft) ||
  quants.any (fun q => old q.gid q.id && hits q.brick q.readsLeft) ||
  s.idxops.any (fun c => old c.gid c.id && !c.finished && hits c.brick c.readsLeft) ||
  s.samples.any (fun r => old r.gid r.id && hits r.brick r.readsLeft) ||
  s.copies.any fun c => old c.gid c.id && !c.finished && s.courseOf c.brick == s.courseOf k &&
    c.readsLeft.any (rangeMeets (2 ^ 19 * unit + lo) len)

/-- The refill of a released stage waits for the releasing gang's earlier reads of the stage (09:R210). -/
def State.refillHeld (s : State) (c : CopyOp) : Bool :=
  c.loop && !c.isEmpty && (s.wmark c.brick c.w).rels.any fun r =>
    r.iter == c.iter && s.readsBefore c.brick r.gid r.upTo c.id c.start (stageSize (spanFrom c.e0 c.dims))

/-! ### Landing (09:R197) -/

/-- COPY_PIECE_LAND (09:R197). A loop whose next iteration is empty lands it. The source of a piece is read as it lands, which
09:R197 allows at any time after the issue (DESIGN CHOICE, log 15). -/
def execCopyPieceLand (copy : Nat) (s : State) : Out :=
  match s.copies.find? fun c => c.id == copy with
  | none => .refused .cannotOccur
  | some c =>
    if c.finished || c.waiting || c.frozen.isSome || !s.working c.brick || s.gangHeld c.gid then .refused .cannotOccur
    else if c.loop && !decide (c.iter < (s.wmark c.brick c.w).released.toNat + c.nstg + 1) then .refused .cannotOccur
    else if s.refillHeld c then .refused .cannotOccur
    else if c.isEmpty then
      let (s, c) := s.landEmpty c (c.nstg + 1)
      .next (if c.iter = c.iters then s else s.setCopy c)
    else
      let off := c.dst c.row c.x
      let n := Nat.min (c.e0 - c.x) (32 - off % 32)
      match s.pieceBytes c (c.step * c.iter + rowOff Dim.s c.dims c.row + c.x) n with
      | .wait => .refused .cannotOccur
      | .fault cause va => .next (s.freezeCopy c cause va)
      | .poison cause word => s.engineError c.gid cause word
      | .ok bs s => .next ((s.landBytes c.brick c.id off bs).afterPiece c n)

end Sys2Proof.Machine
end

