-- ==== Sys2Proof/Machine/System.lean ====
section
/-! DEFINITION. Special registers, CSRs and messages between cores (06:R133-R136, R139-R141, 14:R291, R298, 22:R413). -/

namespace Sys2Proof.Machine

open Sys2Proof

/-- A late value known when its instruction issues, pushed pending (04:R81). -/
def State.pushLate (s : State) (g : Gang) (m : Mask) (d : Dest) (f : Nat → Word) : Out :=
  if m = 0 then s.done (g.push 0 d f)
  else
    let (id, s) := s.newId
    let v : LateVal := ⟨id, g.gid, d, m, Vector.ofFn fun i => f i.val, true⟩
    ({ s with lates := s.lates ++ [v] } : State).done (g.pushPending m d id)

/-- A special register in a lane, but `%gtsc`, `%ptp` and the receive registers (06:R135). -/
def State.special (s : State) (g : Gang) (x l : Nat) : Word :=
  let ln := g.lane l
  let c := s.coord ln.brick
  let b := s.brick? ln.brick
  match x with
  | 0x00 => BitVec.ofNat 64 l
  | 0x01 => BitVec.ofNat 64 g.seat
  | 0x02 => BitVec.ofNat 64 g.core
  | 0x03 => ln.oid.setWidth 64
  | 0x04 => ln.obrick.setWidth 64
  | 0x05 => ln.role.setWidth 64
  | 0x06 => BitVec.ofNat 64 ln.brick.idx
  | 0x07 => BitVec.ofNat 64 c.x
  | 0x08 => BitVec.ofNat 64 c.y
  | 0x09 => BitVec.ofNat 64 c.z
  | 0x0A => BitVec.ofNat 64 c.s
  | 0x0B => BitVec.ofNat 64 ((b.map Brick.course).getD 0)
  | 0x0C => ln.key.setWidth 64
  | 0x0D => ln.rank.setWidth 64
  | 0x0E => ln.binbase.setWidth 64
  | 0x0F => ((b.map Brick.phase).getD 0).setWidth 64
  | 0x10 => BitVec.ofNat 64 (vget s.foots (footOf g.core)).gtsc
  | 0x11 => BitVec.ofNat 64 (vget s.foots (footOf g.core)).ptp
  | 0x12 => g.live.setWidth 64
  | 0x13 => BitVec.ofNat 64 g.depth
  | 0x14 => g.spins.setWidth 64
  | 0x15 => BitVec.ofNat 64 s.cycle
  | _ => s.gReg ln (BitVec.ofNat 4 x)

/-- MOVS (06:R135); `%gtsc` and `%ptp` are sampled at issue and arrive late. -/
def execMovs (g : Guard) (d : Dest) (x : BitVec 10) (s : State) : Out :=
  s.perLane g [] fun G m =>
    if x.toNat = 0x10 ∨ x.toNat = 0x11 then s.pushLate G m d (s.special G x.toNat)
    else s.done (G.push m d (s.special G x.toNat))

/-- A receive queue changed, with its stop and go signals (06:R140). -/
def Core.setRx (c : Core) (r : Nat) (q : List (Word × MsgInfo)) : Core :=
  { c with rx := vset c.rx r q, stop := vset c.stop r (decide (12 ≤ q.length) || (vget c.stop r && decide (8 < q.length))) }

/-- What a message read by some lanes adds to what a later FENCE.ACQ of its receiver takes over (06:R142). -/
def State.sawMsg (s : State) (g : Gang) (m : Mask) (x : MsgInfo) : Gang :=
  { g with seen := Vector.ofFn fun i => Nat.max g.seen[i] x.seen[i],
           seenRel := s.openSeen (g.seenRel ++ x.rels.map fun r => (r, g.originsOf m)),
           seenIds := (s.openOf g.seenIds ++ s.needsOf (footOf g.core) x.seen).eraseDups }

/-- MOVS of a receive register (06:R141). -/
def execMovsRx (g : Guard) (d : Dest) (r : BitVec 2) (s : State) : Out :=
  s.perLane g [] fun G m =>
    if m = 0 then s.done (G.push 0 d fun _ => 0)
    else match vget (s.core G.core).rx r.toNat with
      | [] => s.stall G
      | (v, x) :: q =>
        let c := s.core G.core
        (s.setCore G.core (c.setRx r.toNat q)).done ((s.sawMsg G m x).push m d fun _ => v)

/-- MOVSP of `%spins` and the `g` registers (06:R133-R135). -/
def execMovsp (g : Guard) (x : BitVec 10) (a : Opnd) (s : State) : Out :=
  s.once g [a] false fun G _ l =>
    let v := s.opnd G 0 a l
    if x.toNat = 0x14 then s.done { G with spins := v.setWidth 32 }
    else (s.setG G (G.lane l).brick (x.toNat % 16) v).done G

/-- The binding of a send register as a brick's (06:R139, R142; log 24). -/
def Tx.boundBy (t : Tx) (k : BKey) : Bool := t.bound.isSome && t.owner == some k

/-- What a message of a lane carries of its sender's release fences (06:R142): the ended epochs its footing has seen, and the
open requests of those of narrow scope. -/
def State.msgInfo (s : State) (g : Gang) (l : Nat) : MsgInfo :=
  let foot := footOf g.core
  let x := vget s.foots foot
  { seen := if g.fences.any fun x => Scope.far x.1 then Vector.ofFn fun i => if i.val = foot then x.epoch else x.observed[i]
      else Vector.replicate 4 0,
    rels := s.openRels (g.fences.map fun x => ⟨g.gid, g.core, [(g.lane l).brick], some x.1, x.2⟩) }

/-- MOVSP of a send register (06:R140), after the release fences before it (06:R142). -/
def execMovspTx (g : Guard) (r : BitVec 2) (a : Opnd) (s : State) : Out :=
  s.once g [a] false fun G _ l =>
    let v := s.opnd G 0 a l
    let c := s.core G.core
    let t := vget c.tx r.toNat
    if !t.boundBy (G.lane l).brick then s.trapEm G 0x15 v
    else if t.flit.isSome || !(s.waitsFor G G.afterSt).isEmpty then s.stall G
    else (s.setCore G.core { c with tx := vset c.tx r.toNat { t with flit := some (v, s.msgInfo G l) } }).done G

/-- A CSR's value, if a wall may read it (14:R291, 22:R413). -/
def State.csr (s : State) (g : Gang) (n : Nat) : Option Word :=
  match n with
  | 0x010 => some (g.tvec.setWidth 64)
  | 0x011 => some g.tcause
  | 0x012 => some g.tepc
  | 0x013 => some g.tval
  | 0x014 => some (g.tlanes.setWidth 64)
  | 0x015 => some (BitVec.ofNat 64 (bit g.tmode))
  | 0x020 => some (BitVec.ofNat 64 (s.asidOf g.brick.wall))
  | 0x021 => some (BitVec.ofNat 64 (s.gangPart g))
  | 0x022 => some (BitVec.ofNat 64 (maskNat (fun c => s.sys.fusemap.getLsbD (4 * groupOf g.core + c)) 4))
  | _ => none

/-- A CSR written, if a wall may write it: TVEC, and TEPC in trap mode (14:R291). -/
def Gang.writeCsr (g : Gang) (n : Nat) (v : Word) : Option Gang :=
  match n with
  | 0x010 => some { g with tvec := v.setWidth 56 &&& ~~~7 }
  | 0x012 => if g.tmode then some { g with tepc := v &&& 0x3FFF_FFFF_FFFF_FFFF } else none
  | _ => none

/-- CSRR (06:R136). -/
def execCsrr (g : Guard) (d : Dest) (n : BitVec 12) (s : State) : Out :=
  s.perLane g [] fun G m =>
    if m = 0 then s.done (G.push 0 d fun _ => 0)
    else match s.csr G n.toNat with
      | some v => s.done (G.push m d fun _ => v)
      | none => s.trapEm G 0x13 (n.setWidth 64)

/-- CSRW (06:R136). -/
def execCsrw (g : Guard) (n : BitVec 12) (a : Opnd) (s : State) : Out :=
  s.once g [a] false fun G _ l =>
    match G.writeCsr n.toNat (s.opnd G 0 a l) with
    | some G' => s.done G'
    | none => s.trapEm G 0x13 (n.setWidth 64)

/-- CSRX (06:R136): of the CSRs that can be written it changes TVEC only (14:R291, R309). -/
def execCsrx (g : Guard) (d : Dest) (n : BitVec 12) (a : Opnd) (s : State) : Out :=
  s.once g [a] true fun G m l =>
    match s.csr G n.toNat, (if n.toNat = 0x010 then G.writeCsr n.toNat (s.opnd G 0 a l) else none) with
    | some v, some G' => s.done (G'.push m d fun _ => v)
    | _, _ => s.trapEm G 0x13 (n.setWidth 64)

/-- SCRUB.ST (14:R298): the riddle counts are the group's, the others the core's. -/
def execScrubSt (g : Guard) (d : Dest) (u : BitVec 4) (s : State) : Out :=
  s.perLane g [] fun G m =>
    let c := if u = 1 then (s.group (groupOf G.core)).scrub else vget (s.core G.core).scrub u.toNat
    s.done (G.push m d fun _ => c.2 ++ c.1)

/-- TXBIND (06:R139). It reaches the registers of the issuing gang's core, wherever the lowest acting lane's origin brick is, and a
flit not yet sent on a register bound anew goes to the new destination (the rule settles neither; DESIGN CHOICE, log 24). -/
def execTxbind (g : Guard) (r : BitVec 2) (a : Opnd) (s : State) : Out :=
  s.once g [a] false fun G _ l =>
    let v := s.opnd G 0 a l
    let dst := bits v 0 9
    let c := s.core G.core
    let t := vget c.tx r.toNat
    let k := (G.lane l).brick
    if dst ≥ 384 || s.sys.fusemap.getLsbD dst || s.partOf (footOf dst) != s.gangPart G
        || (t.bound.isSome && t.owner != some k) then s.trapEm G 0x14 v
    else
      (s.setCore G.core { c with tx := vset c.tx r.toNat { t with bound := some (dst, bits v 9 2), owner := some k } }).done
        G

/-- TXUNBIND (06:R139). By a brick that does not own the binding it waits for the buffer and then leaves the binding in place
(the rule names no owner; DESIGN CHOICE, log 24). -/
def execTxunbind (g : Guard) (r : BitVec 2) (s : State) : Out :=
  s.once g [] false fun G _ l =>
    let c := s.core G.core
    let t := vget c.tx r.toNat
    if t.flit.isSome then s.stall G
    else if t.boundBy (G.lane l).brick then
      (s.setCore G.core { c with tx := vset c.tx r.toNat ⟨none, none, none⟩ }).done G
    else s.done G

/-- RXPOLL (06:R141). -/
def execRxpoll (g : Guard) (d : Dest) (r : BitVec 2) (s : State) : Out :=
  s.perLane g [] fun G m =>
    s.done (G.push m d fun _ => BitVec.ofNat 64 (vget (s.core G.core).rx r.toNat).length)

/-- FLIT_DEPARTURE (06:R140): an unsent flit leaves for a receive register that has not signalled stop. -/
def execFlitDeparture (core tx : Nat) (s : State) : Out :=
  if core ≥ 384 ∨ tx ≥ 4 then .refused .cannotOccur
  else
    let c := s.core core
    let t := vget c.tx tx
    match t.bound, t.flit with
    | some d, some v =>
      if vget (s.core d.1).stop d.2 then .refused .cannotOccur
      else
        let s := s.setCore core { c with tx := vset c.tx tx { t with flit := none } }
        .next { s with flits := s.flits ++ [⟨d.1, d.2, 4 * core + tx, v.1, v.2⟩] }
    | _, _ => .refused .cannotOccur

/-- The core groups a flit travels between. -/
def Flit.path (f : Flit) : Nat × Nat := (groupOf (f.src / 4), groupOf f.dstCore)

/-- FLIT_ARRIVAL (06:R140, R141): the flits from one core group to one core group arrive in the order sent (02:R17); none is
dropped. -/
def execFlitArrival (i : Nat) (s : State) : Out :=
  match s.flits[i]? with
  | none => .refused .cannotOccur
  | some f =>
    let c := s.core f.dstCore
    let q := vget c.rx f.rx
    if q.length ≥ 16 ∨ (s.flits.take i).any fun x => x.path == f.path then
      .refused .cannotOccur
    else .next ({ s with flits := s.flits.eraseIdx i }.setCore f.dstCore (c.setRx f.rx (q ++ [(f.val, f.info)])))

end Sys2Proof.Machine
end

