-- ==== Sys2Proof/Machine/Dispatch.lean ====
section
/-! DEFINITION. Which meaning each instruction and each event has: one direct call per constructor. -/

namespace Sys2Proof.Machine

open Sys2Proof

/-- What instruction or event `i` does (03:R54, file 95). -/
def exec (i : Instr) (s : State) : Host.Outcome State Fault Refusal :=
  match i with
  | .add g t d a b imm => Sys2Proof.Machine.execAdd g t d a b imm s
  | .sub g t d a b imm => Sys2Proof.Machine.execSub g t d a b imm s
  | .mul g t d a b imm => Sys2Proof.Machine.execMul g t d a b imm s
  | .mulhi g t d a b imm => Sys2Proof.Machine.execMulhi g t d a b imm s
  | .mulw g t d a b imm => Sys2Proof.Machine.execMulw g t d a b imm s
  | .mad g t d a b c imm => Sys2Proof.Machine.execMad g t d a b c imm s
  | .addSat g t d a b imm => Sys2Proof.Machine.execAddSat g t d a b imm s
  | .subSat g t d a b imm => Sys2Proof.Machine.execSubSat g t d a b imm s
  | .min g t d a b imm => Sys2Proof.Machine.execMin g t d a b imm s
  | .max g t d a b imm => Sys2Proof.Machine.execMax g t d a b imm s
  | .abs g t d a imm => Sys2Proof.Machine.execAbs g t d a imm s
  | .and g t d a b imm => Sys2Proof.Machine.execAnd g t d a b imm s
  | .or g t d a b imm => Sys2Proof.Machine.execOr g t d a b imm s
  | .xor g t d a b imm => Sys2Proof.Machine.execXor g t d a b imm s
  | .not g t d a imm => Sys2Proof.Machine.execNot g t d a imm s
  | .shl g t d a b imm => Sys2Proof.Machine.execShl g t d a b imm s
  | .shr g t d a b imm => Sys2Proof.Machine.execShr g t d a b imm s
  | .sar g t d a b imm => Sys2Proof.Machine.execSar g t d a b imm s
  | .rotl g t d a b imm => Sys2Proof.Machine.execRotl g t d a b imm s
  | .bfx g t d a b imm => Sys2Proof.Machine.execBfx g t d a b imm s
  | .bfi g t d a b c imm => Sys2Proof.Machine.execBfi g t d a b c imm s
  | .popc g t d a imm => Sys2Proof.Machine.execPopc g t d a imm s
  | .clz g t d a imm => Sys2Proof.Machine.execClz g t d a imm s
  | .brev g t d a imm => Sys2Proof.Machine.execBrev g t d a imm s
  | .sel g t d a b p => Sys2Proof.Machine.execSel g t d a b p s
  | .cmp g t cc pd a b imm => Sys2Proof.Machine.execCmp g t cc pd a b imm s
  | .mov g t d a imm => Sys2Proof.Machine.execMov g t d a imm s
  | .movi g t d v => Sys2Proof.Machine.execMovi g t d v s
  | .addsc g d a b sv => Sys2Proof.Machine.execAddsc g d a b sv s
  | .addscW g d a b sv => Sys2Proof.Machine.execAddscW g d a b sv s
  | .voteBallot g d pa => Sys2Proof.Machine.execVoteBallot g d pa s
  | .voteAny g pd pa => Sys2Proof.Machine.execVoteAny g pd pa s
  | .voteAll g pd pa => Sys2Proof.Machine.execVoteAll g pd pa s
  | .voteLeadeq g pd a => Sys2Proof.Machine.execVoteLeadeq g pd a s
  | .plopAnd g pd pa pb => Sys2Proof.Machine.execPlopAnd g pd pa pb s
  | .plopOr g pd pa pb => Sys2Proof.Machine.execPlopOr g pd pa pb s
  | .plopXor g pd pa pb => Sys2Proof.Machine.execPlopXor g pd pa pb s
  | .plopAndn g pd pa pb => Sys2Proof.Machine.execPlopAndn g pd pa pb s
  | .movemGet g d => Sys2Proof.Machine.execMovemGet g d s
  | .movemSet g d a => Sys2Proof.Machine.execMovemSet g d a s
  | .movemGetfm g d => Sys2Proof.Machine.execMovemGetfm g d s
  | .movemGetp g d => Sys2Proof.Machine.execMovemGetp g d s
  | .movemSetp g a => Sys2Proof.Machine.execMovemSetp g a s
  | .addF g t r d a b imm => Sys2Proof.Machine.execAddF g t r d a b imm s
  | .subF g t r d a b imm => Sys2Proof.Machine.execSubF g t r d a b imm s
  | .mulF g t r d a b imm => Sys2Proof.Machine.execMulF g t r d a b imm s
  | .fma g t r d a b c imm => Sys2Proof.Machine.execFma g t r d a b c imm s
  | .minF g t d a b imm => Sys2Proof.Machine.execMinF g t d a b imm s
  | .maxF g t d a b imm => Sys2Proof.Machine.execMaxF g t d a b imm s
  | .absF g t d a imm => Sys2Proof.Machine.execAbsF g t d a imm s
  | .neg g t d a imm => Sys2Proof.Machine.execNeg g t d a imm s
  | .cmpF g t cc pd a b imm => Sys2Proof.Machine.execCmpF g t cc pd a b imm s
  | .rcp g t d a imm => Sys2Proof.Machine.execRcp g t d a imm s
  | .rsq g t d a imm => Sys2Proof.Machine.execRsq g t d a imm s
  | .sqrt g t d a imm => Sys2Proof.Machine.execSqrt g t d a imm s
  | .ex2 g t d a imm => Sys2Proof.Machine.execEx2 g t d a imm s
  | .lg2 g t d a imm => Sys2Proof.Machine.execLg2 g t d a imm s
  | .rint g t r d a imm => Sys2Proof.Machine.execRint g t r d a imm s
  | .frc g t d a imm => Sys2Proof.Machine.execFrc g t d a imm s
  | .cvt g d a m => Sys2Proof.Machine.execCvt g d a m s
  | .cvtX2 g d a b m => Sys2Proof.Machine.execCvtX2 g d a b m s
  | .packB16X2 g d a b imm => Sys2Proof.Machine.execPackB16X2 g d a b imm s
  | .packB32X2 g d a b imm => Sys2Proof.Machine.execPackB32X2 g d a b imm s
  | .unpkLo16 g d a imm => Sys2Proof.Machine.execUnpkLo16 g d a imm s
  | .unpkHi16 g d a imm => Sys2Proof.Machine.execUnpkHi16 g d a imm s
  | .unpkHi32 g d a imm => Sys2Proof.Machine.execUnpkHi32 g d a imm s
  | .swzb g d a b c imm => Sys2Proof.Machine.execSwzb g d a b c imm s
  | .bpack g d a => Sys2Proof.Machine.execBpack g d a s
  | .bpext g d a p => Sys2Proof.Machine.execBpext g d a p s
  | .ld g t d a off => Sys2Proof.Machine.execLd g t d a off s
  | .ldRo g t d a off => Sys2Proof.Machine.execLdRo g t d a off s
  | .ldAcq g t d a sc off => Sys2Proof.Machine.execLdAcq g t d a sc off s
  | .st g t a b off => Sys2Proof.Machine.execSt g t a b off s
  | .stRel g t a b sc off => Sys2Proof.Machine.execStRel g t a b sc off s
  | .stP g t d a b off => Sys2Proof.Machine.execStP g t d a b off s
  | .stMc g t a b off => Sys2Proof.Machine.execStMc g t a b off s
  | .lds g t d a imm => Sys2Proof.Machine.execLds g t d a imm s
  | .sts g t a b imm => Sys2Proof.Machine.execSts g t a b imm s
  | .ldc g t d a imm => Sys2Proof.Machine.execLdc g t d a imm s
  | .stc g t a b imm => Sys2Proof.Machine.execStc g t a b imm s
  | .fenceAcq g sc => Sys2Proof.Machine.execFenceAcq g sc s
  | .fenceRel g sc => Sys2Proof.Machine.execFenceRel g sc s
  | .fenceFull g sc => Sys2Proof.Machine.execFenceFull g sc s
  | .fenceAck g => Sys2Proof.Machine.execFenceAck g s
  | .pref g a l2 => Sys2Proof.Machine.execPref g a l2 s
  | .cctlInv g => Sys2Proof.Machine.execCctlInv g s
  | .cctlInvro g => Sys2Proof.Machine.execCctlInvro g s
  | .cctlLine g a => Sys2Proof.Machine.execCctlLine g a s
  | .mirrorSync g a => Sys2Proof.Machine.execMirrorSync g a s
  | .atomAdd g t d a b m => Sys2Proof.Machine.execAtomAdd g t d a b m s
  | .atomMin g t d a b m => Sys2Proof.Machine.execAtomMin g t d a b m s
  | .atomMax g t d a b m => Sys2Proof.Machine.execAtomMax g t d a b m s
  | .atomAnd g t d a b m => Sys2Proof.Machine.execAtomAnd g t d a b m s
  | .atomOr g t d a b m => Sys2Proof.Machine.execAtomOr g t d a b m s
  | .atomXor g t d a b m => Sys2Proof.Machine.execAtomXor g t d a b m s
  | .atomXchg g t d a b m => Sys2Proof.Machine.execAtomXchg g t d a b m s
  | .atomCas g t d a b c m => Sys2Proof.Machine.execAtomCas g t d a b c m s
  | .atomInc g d a b m => Sys2Proof.Machine.execAtomInc g d a b m s
  | .atomPush g d a b sc ord => Sys2Proof.Machine.execAtomPush g d a b sc ord s
  | .atomPop g d a sc ord => Sys2Proof.Machine.execAtomPop g d a sc ord s
  | .atomSteal g d a sc ord => Sys2Proof.Machine.execAtomSteal g d a sc ord s
  | .redAdd g t a b m => Sys2Proof.Machine.execRedAdd g t a b m s
  | .redMin g t a b m => Sys2Proof.Machine.execRedMin g t a b m s
  | .redMax g t a b m => Sys2Proof.Machine.execRedMax g t a b m s
  | .copy g tok w sp dims a b base => Sys2Proof.Machine.execCopy g tok w sp dims a b base s
  | .copyl g tok w sp dims a b base => Sys2Proof.Machine.execCopyl g tok w sp dims a b base s
  | .wmarkRel g w => Sys2Proof.Machine.execWmarkRel g w s
  | .wmarkWaitg g w a => Sys2Proof.Machine.execWmarkWaitg g w a s
  | .wmarkGet g w => Sys2Proof.Machine.execWmarkGet g w s
  | .wmarkGen g w => Sys2Proof.Machine.execWmarkGen g w s
  | .mcJoin g tok a b => Sys2Proof.Machine.execMcJoin g tok a b s
  | .mcLeave g tok a => Sys2Proof.Machine.execMcLeave g tok a s
  | .mcLd g tok w dims a b base grp => Sys2Proof.Machine.execMcLd g tok w dims a b base grp s
  | .gather g t tok w a b base sh m => Sys2Proof.Machine.execGather g t tok w a b base sh m s
  | .scatter g t tok a b src sh m => Sys2Proof.Machine.execScatter g t tok a b src sh m s
  | .scatterAdd g t tok a b src sh m => Sys2Proof.Machine.execScatterAdd g t tok a b src sh m s
  | .quant g f tok a src => Sys2Proof.Machine.execQuant g f tok a src s
  | .waitt g j => Sys2Proof.Machine.execWaitt g j s
  | .lrecNew g a b => Sys2Proof.Machine.execLrecNew g a b s
  | .lrecSetGrid g a b c => Sys2Proof.Machine.execLrecSetGrid g a b c s
  | .lrecSetCourse g a b c => Sys2Proof.Machine.execLrecSetCourse g a b c s
  | .lrecSetClass g a => Sys2Proof.Machine.execLrecSetClass g a s
  | .lrecSetCounter g a => Sys2Proof.Machine.execLrecSetCounter g a s
  | .lrecWait g a b => Sys2Proof.Machine.execLrecWait g a b s
  | .launch g tok => Sys2Proof.Machine.execLaunch g tok s
  | .joinc g a b => Sys2Proof.Machine.execJoinc g a b s
  | .strmStat g d a => Sys2Proof.Machine.execStrmStat g d a s
  | .strmCommit g d a b => Sys2Proof.Machine.execStrmCommit g d a b s
  | .strmReserve g d a b => Sys2Proof.Machine.execStrmReserve g d a b s
  | .strmPage g d a b => Sys2Proof.Machine.execStrmPage g d a b s
  | .strmPageW g d a b c => Sys2Proof.Machine.execStrmPageW g d a b c s
  | .strmPageC g d a b c => Sys2Proof.Machine.execStrmPageC g d a b c s
  | .pgalloc g a => Sys2Proof.Machine.execPgalloc g a s
  | .pgfree g tok a b => Sys2Proof.Machine.execPgfree g tok a b s
  | .topk g t tok a => Sys2Proof.Machine.execTopk g t tok a s
  | .rhist g t tok a => Sys2Proof.Machine.execRhist g t tok a s
  | .biasadd g t tok a => Sys2Proof.Machine.execBiasadd g t tok a s
  | .mma g t tok c a b m => Sys2Proof.Machine.execMma g t tok c a b m s
  | .mmaSr g sv tok c a b m => Sys2Proof.Machine.execMmaSr g sv tok c a b m s
  | .mmaSp g t tok c a b m => Sys2Proof.Machine.execMmaSp g t tok c a b m s
  | .mmaBp g p tok c a b m => Sys2Proof.Machine.execMmaBp g p tok c a b m s
  | .accZero g tok c => Sys2Proof.Machine.execAccZero g tok c s
  | .accMov g tok c sv => Sys2Proof.Machine.execAccMov g tok c sv s
  | .accCvtS32F32 g tok c sv => Sys2Proof.Machine.execAccCvtS32F32 g tok c sv s
  | .accCvtF32S32 g tok c sv => Sys2Proof.Machine.execAccCvtF32S32 g tok c sv s
  | .accScale g t tok c sv a b asp bsp => Sys2Proof.Machine.execAccScale g t tok c sv a b asp bsp s
  | .accLd g t tok c a stride asp => Sys2Proof.Machine.execAccLd g t tok c a stride asp s
  | .accSt g t tok c a stride asp => Sys2Proof.Machine.execAccSt g t tok c a stride asp s
  | .accGet g t c a => Sys2Proof.Machine.execAccGet g t c a s
  | .accPut g t c a b => Sys2Proof.Machine.execAccPut g t c a b s
  | .accPutAdd g t c a b => Sys2Proof.Machine.execAccPutAdd g t c a b s
  | .reorderPack g key base mask => Sys2Proof.Machine.execReorderPack g key base mask s
  | .reorderAlign g key base mask => Sys2Proof.Machine.execReorderAlign g key base mask s
  | .reorderCount g d key => Sys2Proof.Machine.execReorderCount g d key s
  | .riddleStat g d => Sys2Proof.Machine.execRiddleStat g d s
  | .seatmap g d => Sys2Proof.Machine.execSeatmap g d s
  | .nop g => Sys2Proof.Machine.execNop g s
  | .nopCode => Sys2Proof.Machine.execNopCode s
  | .bra g off => Sys2Proof.Machine.execBra g off s
  | .brx g a => Sys2Proof.Machine.execBrx g a s
  | .call g d off => Sys2Proof.Machine.execCall g d off s
  | .callx g d a => Sys2Proof.Machine.execCallx g d a s
  | .ret g a => Sys2Proof.Machine.execRet g a s
  | .split g p off => Sys2Proof.Machine.execSplit g p off s
  | .join g => Sys2Proof.Machine.execJoin g s
  | .exit g => Sys2Proof.Machine.execExit g s
  | .kill g => Sys2Proof.Machine.execKill g s
  | .yield g => Sys2Proof.Machine.execYield g s
  | .trap g n => Sys2Proof.Machine.execTrap g n s
  | .sysc g n => Sys2Proof.Machine.execSysc g n s
  | .brk g n => Sys2Proof.Machine.execBrk g n s
  | .eret g => Sys2Proof.Machine.execEret g s
  | .eretSkip g => Sys2Proof.Machine.execEretSkip g s
  | .barInit g x a => Sys2Proof.Machine.execBarInit g x a s
  | .barArrive g x d => Sys2Proof.Machine.execBarArrive g x d s
  | .barWait g x a => Sys2Proof.Machine.execBarWait g x a s
  | .barSync g x => Sys2Proof.Machine.execBarSync g x s
  | .barPeek g x d => Sys2Proof.Machine.execBarPeek g x d s
  | .phase g => Sys2Proof.Machine.execPhase g s
  | .monitor g d a b => Sys2Proof.Machine.execMonitor g d a b s
  | .leadRd g d => Sys2Proof.Machine.execLeadRd g d s
  | .movs g d x => Sys2Proof.Machine.execMovs g d x s
  | .movsRx g d r => Sys2Proof.Machine.execMovsRx g d r s
  | .movsp g x a => Sys2Proof.Machine.execMovsp g x a s
  | .movspTx g r a => Sys2Proof.Machine.execMovspTx g r a s
  | .csrr g d n => Sys2Proof.Machine.execCsrr g d n s
  | .csrw g n a => Sys2Proof.Machine.execCsrw g n a s
  | .csrx g d n a => Sys2Proof.Machine.execCsrx g d n a s
  | .scrubSt g d u => Sys2Proof.Machine.execScrubSt g d u s
  | .txbind g r a => Sys2Proof.Machine.execTxbind g r a s
  | .txunbind g r => Sys2Proof.Machine.execTxunbind g r s
  | .rxpoll g d r => Sys2Proof.Machine.execRxpoll g d r s
  | .clauseDecode core seat => Sys2Proof.Machine.execClauseDecode core seat s
  | .lateValueArrival req => Sys2Proof.Machine.execLateValueArrival req s
  | .splitStackTransfer core seat => Sys2Proof.Machine.execSplitStackTransfer core seat s
  | .monitorTimeout core seat => Sys2Proof.Machine.execMonitorTimeout core seat s
  | .trapEntry core seat => Sys2Proof.Machine.execTrapEntry core seat s
  | .engineFaultTaken core seat => Sys2Proof.Machine.execEngineFaultTaken core seat s
  | .sliceAccess req entry => Sys2Proof.Machine.execSliceAccess req entry s
  | .sliceMissFill slice line => Sys2Proof.Machine.execSliceMissFill slice line s
  | .translationWalkDone walk => Sys2Proof.Machine.execTranslationWalkDone walk s
  | .scrubberRead core unit double mark => Sys2Proof.Machine.execScrubberRead core unit double mark s
  | .matrixStepComplete core => Sys2Proof.Machine.execMatrixStepComplete core s
  | .matrixRemoteArrival core => Sys2Proof.Machine.execMatrixRemoteArrival core s
  | .copyPieceLand copy => Sys2Proof.Machine.execCopyPieceLand copy s
  | .mcRequest req => Sys2Proof.Machine.execMcRequest req s
  | .mcHoldExpiry footing slice grp => Sys2Proof.Machine.execMcHoldExpiry footing slice grp s
  | .gatherElementReturn op elem => Sys2Proof.Machine.execGatherElementReturn op elem s
  | .scatterElementAck op elem => Sys2Proof.Machine.execScatterElementAck op elem s
  | .quantBlockDone group => Sys2Proof.Machine.execQuantBlockDone group s
  | .sampleComplete req => Sys2Proof.Machine.execSampleComplete req s
  | .leadUpdate iv => Sys2Proof.Machine.execLeadUpdate iv s
  | .flitDeparture core tx => Sys2Proof.Machine.execFlitDeparture core tx s
  | .flitArrival iv => Sys2Proof.Machine.execFlitArrival iv s
  | .reorderCommit wall course => Sys2Proof.Machine.execReorderCommit wall course s
  | .reorderRebuildDone wall course => Sys2Proof.Machine.execReorderRebuildDone wall course s
  | .preemptRequest wall set => Sys2Proof.Machine.execPreemptRequest wall set s
  | .parkMoveDone gang => Sys2Proof.Machine.execParkMoveDone gang s
  | .contextToMemory wall set => Sys2Proof.Machine.execContextToMemory wall set s
  | .restore wall set => Sys2Proof.Machine.execRestore wall set s
  | .swapOut wall set => Sys2Proof.Machine.execSwapOut wall set s
  | .swapConditionEnd wall set => Sys2Proof.Machine.execSwapConditionEnd wall set s
  | .highDelayExpiry wall set => Sys2Proof.Machine.execHighDelayExpiry wall set s
  | .placeSet wall set => Sys2Proof.Machine.execPlaceSet wall set s
  | .brickRetire wall brick => Sys2Proof.Machine.execBrickRetire wall brick s
  | .packetTake queue => Sys2Proof.Machine.execPacketTake queue s
  | .queueReread queue => Sys2Proof.Machine.execQueueReread queue s
  | .wallReady wall => Sys2Proof.Machine.execWallReady wall s
  | .pendingLaunchTake wall brick => Sys2Proof.Machine.execPendingLaunchTake wall brick s
  | .overflowClaim req => Sys2Proof.Machine.execOverflowClaim req s
  | .unitAccessRetry hold => Sys2Proof.Machine.execUnitAccessRetry hold s
  | .streamClose stream => Sys2Proof.Machine.execStreamClose stream s
  | .streamStepLaunch stream => Sys2Proof.Machine.execStreamStepLaunch stream s
  | .ptmExchange ns => Sys2Proof.Machine.execPtmExchange ns s
  | .epochEnd footing => Sys2Proof.Machine.execEpochEnd footing s
  | .remoteWriteApply write dst => Sys2Proof.Machine.execRemoteWriteApply write dst s
  | .peerFlitReceive port flit => Sys2Proof.Machine.execPeerFlitReceive port flit s
  | .peerNak port seq => Sys2Proof.Machine.execPeerNak port seq s
  | .peerRetrain port => Sys2Proof.Machine.execPeerRetrain port s
  | .peerTrained port => Sys2Proof.Machine.execPeerTrained port s
  | .hostWrite link addr data relaxed => Sys2Proof.Machine.execHostWrite link addr data relaxed s
  | .hostRead link addr len => Sys2Proof.Machine.execHostRead link addr len s
  | .hostAtomic link addr op width b c => Sys2Proof.Machine.execHostAtomic link addr op width b c s
  | .partcfgWrite v => Sys2Proof.Machine.execPartcfgWrite v s
  | .tlbinvPage v => Sys2Proof.Machine.execTlbinvPage v s
  | .tlbinvAsid v => Sys2Proof.Machine.execTlbinvAsid v s
  | .tlbinvAll v => Sys2Proof.Machine.execTlbinvAll v s
  | .tlbinvReserved v => Sys2Proof.Machine.execTlbinvReserved v s
  | .invalidationComplete => Sys2Proof.Machine.execInvalidationComplete s
  | .faultcmdResume v => Sys2Proof.Machine.execFaultcmdResume v s
  | .faultcmdResumeSkip v => Sys2Proof.Machine.execFaultcmdResumeSkip v s
  | .faultcmdUnresolvable v => Sys2Proof.Machine.execFaultcmdUnresolvable v s
  | .faultcmdDeliver v => Sys2Proof.Machine.execFaultcmdDeliver v s
  | .faultcmdTerminate v => Sys2Proof.Machine.execFaultcmdTerminate v s
  | .faultcmdReserved v => Sys2Proof.Machine.execFaultcmdReserved v s
  | .qregRegister v => Sys2Proof.Machine.execQregRegister v s
  | .qregRemove v => Sys2Proof.Machine.execQregRemove v s
  | .tickcmdAdmit v => Sys2Proof.Machine.execTickcmdAdmit v s
  | .tickcmdRetire v => Sys2Proof.Machine.execTickcmdRetire v s
  | .tickcmdNone v => Sys2Proof.Machine.execTickcmdNone v s
  | .tickcmdReserved v => Sys2Proof.Machine.execTickcmdReserved v s
  | .fqheadWrite part v => Sys2Proof.Machine.execFqheadWrite part v s
  | .fqReconfigure part size base => Sys2Proof.Machine.execFqReconfigure part size base s
  | .slicectlWrite slice v => Sys2Proof.Machine.execSlicectlWrite slice v s
  | .slicectlRead slice => Sys2Proof.Machine.execSlicectlRead slice s
  | .attestQuote => Sys2Proof.Machine.execAttestQuote s
  | .attestSignDone => Sys2Proof.Machine.execAttestSignDone s
  | .registerWrite off v => Sys2Proof.Machine.execRegisterWrite off v s
  | .deviceReset image signed => Sys2Proof.Machine.execDeviceReset image signed s
  | .thermalThrottle group temp droop proc overPower => Sys2Proof.Machine.execThermalThrottle group temp droop proc overPower s
  | .thermalStop => Sys2Proof.Machine.execThermalStop s
  | .peerWrite port v => Sys2Proof.Machine.execPeerWrite port v s
  | .monitorEarlyWake core seat => Sys2Proof.Machine.execMonitorEarlyWake core seat s
  | .powerFailure => Sys2Proof.Machine.execPowerFailure s

end Sys2Proof.Machine
end

