-- ==== Sys2Proof/Machine/Schedule.lean ====
section
/-! DEFINITION. How the device goes on (log 1): the passing of time (log 2), the actions of the schedule, the schedule the
model takes when none is given, and the machine that fetches an instruction first (log 5). -/

namespace Sys2Proof.Machine

open Sys2Proof

/-! ### Time (11:R239, 18:R349; log 2) -/

/-- Digit `i` of a number in base `b`. -/
def digit (b n i : Nat) : Nat := n / b ^ i % b

/-- What a slew adds to the stream clock while the GTSC runs from `t` on for `ns`: at most 200 ppm of it, and no more
than what is left; the rate is open (log 3). -/
def State.slewBy (s : State) (ns : Nat) : Int × State :=
  if s.sys.slew = 0 then (0, s)
  else
    let most := 200 * (s.time + ns) / 1000000 - 200 * s.time / 1000000
    let (w, s) := s.fresh
    let d := Nat.min (w.toNat % (Nat.min most ns + 1)) s.sys.slew.natAbs
    ((if s.sys.slew < 0 then -(d : Int) else d), s)

/-- A footing's epoch ends at the latest 4,096 mesh cycles after it began, which are 3,328 cycles (20:R389, 02:R17, 00:R5). -/
def Footing.endEpochs (f : Footing) (now : Nat) : Footing :=
  let n := (now - f.epochAt) / 3328
  { f with epoch := f.epoch + n, epochAt := f.epochAt + 3328 * n }

/-- Time passes: cycles, and nanoseconds on every clock; write-back buffers drain, and epochs end. -/
def State.passTime (s : State) (cycles ns skew pskew : Nat) : State :=
  let (d, s) := s.slewBy ns
  let time := s.time + ns
  let ptp := (s.sys.ptp + ns + d).toNat
  let s := s.landG fun x => decide (x.due < s.cycle + cycles)
  { s with
    cycle := s.cycle + cycles, picks := none, fours := [], acted := [], mctests := [], time := time
    foots := s.foots.mapIdx fun i f =>
      { f.endEpochs (s.cycle + cycles) with
        gtsc := Nat.max f.gtsc (time + digit 3 skew i), ptp := Nat.max f.ptp (ptp + digit 51 pskew i) }
    slices := s.slices.map fun (x : Slice) => { x with wb := x.wb.drop cycles }
    sys := { s.sys with ptp := ptp, slew := s.sys.slew - d } }

/-! ### Actions (log 1) -/

/-- Register accesses that BAR0 does not answer in recovery (22:R425): all but the attestation mailbox. -/
def unanswered : Instr → Bool
  | .registerWrite off _ => !inMailbox off
  | .partcfgWrite _ | .tlbinvPage _ | .tlbinvAsid _ | .tlbinvAll _ | .tlbinvReserved _ | .faultcmdResume _
  | .faultcmdResumeSkip _ | .faultcmdUnresolvable _ | .faultcmdDeliver _ | .faultcmdTerminate _ | .faultcmdReserved _
  | .qregRegister _ | .qregRemove _ | .tickcmdAdmit _ | .tickcmdRetire _ | .tickcmdNone _ | .tickcmdReserved _
  | .fqheadWrite .. | .fqReconfigure .. | .slicectlWrite .. | .slicectlRead _ | .peerWrite .. => true
  | _ => false

/-- What a device does at 115 °C: it stops, or is reset, or loses power (22:R426, R427). -/
def Action.stops : Action → Bool
  | .event .thermalStop | .event (.deviceReset ..) | .event .powerFailure => true
  | _ => false

/-- An event happens. -/
def State.happen (s : State) (i : Instr) : Out :=
  if (encode i).isSome then .refused .cannotOccur
  else if !s.sys.firmware && unanswered i then .next s
  else exec i s

/-- The device has stopped (22:R426, R427): only a reset goes on. -/
def Action.revives : Action → Bool
  | .event (.deviceReset ..) => true
  | _ => false

/-- The issue of a seat's gang: what stands before it, then its instruction. -/
def State.issue (s : State) (core seat : Nat) : Out :=
  match s.prepare core seat with
  | .stop o => o
  | .run i s => exec i s

/-! ### The schedule taken when none is given (log 1) -/

/-- Events of requests, values, walks and writes on their way. -/
def State.memoryEvents (s : State) : List Instr :=
  List.flatten
    [s.reqs.map fun r => .lateValueArrival r.id,
     s.lates.map fun l => .lateValueArrival l.id,
     s.reqs.flatMap fun r => (List.range r.accs.length).map fun i => .sliceAccess r.id i,
     s.slices.toList.zipIdx.flatMap fun x => x.1.misses.map fun l => .sliceMissFill x.2 l,
     s.walks.map fun w => .translationWalkDone w.id,
     s.writes.flatMap fun w => w.waits.map fun d => .remoteWriteApply w.id d]

/-- Events of the engines, the mesh and the riddles. -/
def State.engineEvents (s : State) : List Instr :=
  List.flatten
    [(s.cores.toList.zipIdx.filter fun x => !x.1.mq.isEmpty).map fun x => .matrixStepComplete x.2,
     ((s.matArrivals.map MatArrival.core).eraseDups).map .matrixRemoteArrival,
     s.copies.map fun c => .copyPieceLand c.id,
     s.mcreqs.map fun r => .mcRequest r.copy,
     s.mcholds.map fun h => .mcHoldExpiry h.foot h.slice h.grp,
     s.idxops.flatMap fun c => (List.range (Nat.max c.n 1)).map fun e =>
       if c.gather then .gatherElementReturn c.id e else .scatterElementAck c.id e,
     (s.groups.toList.zipIdx.filter fun x => !x.1.quants.isEmpty).map fun x => .quantBlockDone x.2,
     s.samples.map fun q => .sampleComplete q.id,
     (List.range s.leads.length).map .leadUpdate,
     s.cores.toList.zipIdx.flatMap fun x =>
       ((List.range 4).filter fun t => (vget x.1.tx t).flit.isSome).map fun t => .flitDeparture x.2 t,
     (List.range s.flits.length).map .flitArrival,
     s.courses.flatMap fun c => [.reorderCommit c.key.wall c.key.course, .reorderRebuildDone c.key.wall c.key.course]]

/-- Events of the dispatcher, the tick unit and system registers. -/
def State.unitEvents (s : State) : List Instr :=
  List.flatten
    [s.nofit.flatMap fun x => [.highDelayExpiry x.wall x.num, .preemptRequest x.wall x.num],
     s.bricks.map fun b => .brickRetire b.key.wall b.key.idx,
     s.gangs.map fun g => .parkMoveDone g.gid,
     s.sets.flatMap fun p =>
       [.contextToMemory p.wall p.num, .swapOut p.wall p.num, .swapConditionEnd p.wall p.num, .restore p.wall p.num],
     s.bricks.map fun b => .pendingLaunchTake b.key.wall b.key.idx,
     s.walls.flatMap fun w => [.wallReady w.id, .placeSet w.id w.nextSet],
     s.ovf.map fun r => .overflowClaim r.id,
     (List.range s.unitHolds.length).map .unitAccessRetry,
     s.streams.flatMap fun x => [.streamClose x.num, .streamStepLaunch x.num],
     (List.range s.queues.length).map .packetTake,
     if s.sys.tlbinv.isEmpty then [] else [.invalidationComplete],
     if s.ptmDue then [.ptmExchange 0] else [],
     ((List.range 8).filter fun p => (vget s.peers p).mustTrain).map .peerRetrain,
     if s.sys.attState = 1 then [.attestSignDone] else []]

/-- Events of gangs. -/
def State.gangEvents (s : State) : List Instr :=
  s.gangs.flatMap fun g =>
    (if g.xfer.isSome then [.splitStackTransfer g.core g.seat] else [])
      ++ (if g.seated && g.pendfault.isSome then [.engineFaultTaken g.core g.seat] else [])
      ++ (if g.seated && g.clause.isEmpty then [.clauseDecode g.core g.seat] else [])
      ++ match g.wait with
        | .monitor _ => [.monitorTimeout g.core g.seat]
        | .trapping .. => [.trapEntry g.core g.seat]
        | _ => []

/-- The first of these events that can happen now, done. -/
def State.firstOfEvents (s : State) : List Instr → Option State
  | [] => none
  | i :: r =>
    match s.happen i with
    | .next s' => some s'
    | _ => s.firstOfEvents r

/-! ### The choice of a cycle (02:R19, 16:R336) -/

/-- An issue of the gang's seat would find a wait or an interlock: the gang and the walks stay as they are. -/
def State.waits (s : State) (g : Gang) : Bool :=
  match s.issue g.core g.seat with
  | .next t =>
    t.walks == s.walks && (t.gang? g.gid).any fun h =>
      { h with since := g.since, spin := g.spin, wait := if h.wait == .stalled then g.wait else h.wait } == g
  | _ => false

/-- A gang whose next position could issue now: not one about to enter its handler, nor one whose clause is not decoded. -/
def State.candidate (s : State) (g : Gang) : Bool :=
  let free := match g.wait with
    | .trapping .. => false
    | .syncing .. | .posted _ | .reaching .. => true
    | _ => g.pendfault.isNone
  g.seated && g.live != 0 && free && (!g.clause.isEmpty || !g.owed.isEmpty) && !s.blocked g && !s.waits g

/-- The order of 16:R336 among the candidates of a core. -/
def State.issueKey (s : State) (g : Gang) : Nat :=
  ((s.classOf g.brick.wall - (s.cycle - g.since.getD s.cycle) / 256) * 2 ^ 128 + g.readyT) * 16 + g.seat

/-- A class-4 instruction (07:R147). -/
def isClass4 (i : Instr) : Bool := (encodeRaw i).any fun w => w.maj.toNat / 32 == 4

/-- The gang's next instruction is of class 4. -/
def State.stands4 (s : State) (g : Gang) : Bool :=
  match s.prepare g.core g.seat with
  | .run i _ => isClass4 i
  | .stop _ => false

/-- At most four of a core's candidates, at most one at a class-4 instruction (16:R336). -/
def takeFour (class4 : Gang → Bool) : List Gang → Nat → Bool → List Gang
  | [], _, _ => []
  | _, 0, _ => []
  | g :: r, n + 1, four =>
    if class4 g && four then takeFour class4 r (n + 1) four else g :: takeFour class4 r n (four || class4 g)

/-- Every clause that can be decoded is (03:R72), before it passes its WAIT mask. -/
def State.decodeAll (s : State) : State :=
  (s.gangs.filter fun g => g.seated && g.live != 0 && s.decodable g).foldl (fun s g =>
    orKeep s (execClauseDecode g.core g.seat s)) s

/-- READYT of every clause that passes its WAIT mask in this cycle (16:R336). -/
def State.passMasks (s : State) : State :=
  { s with gangs := s.gangs.map fun g =>
      if g.seated && !g.clause.isEmpty && !g.waited && g.waitDone then g.passWait s.cycle else g }

/-- The cores that hold gangs. -/
def State.busyCores (s : State) : List Nat := ((s.gangs.filter Gang.seated).map Gang.core).eraseDups

/-- The choice of a cycle: the gangs that can issue, since when each is Ready, and of each core at most four; beside them those
whose issued access reaches other cores (13:R276). They act in ascending order of (core, seat) (06:R133, 08:R170, 11:R226, 13:R268, 18:R359). -/
def State.openCycle (s : State) : State :=
  let s := s.decodeAll.passMasks
  let ready := s.gangs.filter s.candidate
  let isReady := fun (g : Gang) => ready.any fun h => h.gid == g.gid
  let since := fun (g : Gang) => if isReady g then some (g.since.getD s.cycle) else none
  let s := { s with gangs := s.gangs.map fun (g : Gang) => ({ g with since := since g } : Gang) }
  let mine := fun (c : Nat) => (s.gangs.filter fun (g : Gang) => g.core == c && isReady g).insertionSort
    fun x y => s.issueKey x ≤ s.issueKey y
  let picks := s.busyCores.flatMap fun c =>
    let (there, here) := (mine c).partition Gang.reaching
    (there ++ takeFour s.stands4 here 4 false).map fun (g : Gang) => (c, g.seat)
  { s with picks := some (picks.insertionSort fun x y => x.1 < y.1 || x.1 == y.1 && x.2 ≤ y.2) }

/-- The state with this cycle's choice made. -/
def State.chosen (s : State) : State := if s.picks.isSome then s else s.openCycle

/-! ### Actions (log 1) -/

/-- A chosen gang issues: the first of those chosen that have not. One that has come to stand at a second class-4 instruction of
its core's cycle does not issue in it (07:R147). -/
def State.issueNext (s : State) (core seat : Nat) : Out :=
  let s := s.chosen
  match s.picks with
  | some (p :: r) =>
    if p ≠ (core, seat) then .refused .cannotOccur
    else
      let s := { s with picks := some r }
      if !(s.gangAt core seat).any s.stands4 then s.issue core seat
      else if s.fours.contains core then .next s
      else ({ s with fours := core :: s.fours } : State).issue core seat
  | _ => .refused .cannotOccur

/-- The cycle in which every gang of a set has waited at a JOINC for the swap threshold, if all wait so now (16:R334). -/
def State.swapDue (s : State) (p : PSet) : Option Nat :=
  let ts := (s.setGangs p).map fun g => match g.wait with
    | .joinc _ _ t => if g.seated && g.hold.isNone then some (t + 256 * s.sys.swapth) else none
    | _ => none
  if s.sys.swapth = 0 ∨ p.phase ≠ .resident ∨ ts.isEmpty ∨ ts.contains none then none
  else some (ts.foldl (fun n t => Nat.max n (t.getD 0)) 0)

/-- The cycles in which the device does something whatever else it does, so that no more time passes before it is done: a hold
entry's timer (09:R214), a monitor's (06:R137), a waiting set's (16:R326), a swap-out (16:R334), a phase on its way for 2,048
cycles (11:R236), an access over the mortar (13:R276). -/
def State.deadlines (s : State) : List Nat :=
  ((s.mcholds.filter fun h => !h.tail).map McHold.expiry) ++
  ((s.nofit.filter fun x => s.classOf x.wall == 1 && !x.asked).map fun x => x.since + 256 * s.sys.highdelay) ++
  s.sets.filterMap s.swapDue ++ s.leads.map (fun m => m.sent + 2048) ++
  s.gangs.filterMap fun g => match g.wait with
    | .monitor m => if g.seated && !m.woken then some (m.since + 65536) else none
    | .reaching due _ _ => if s.cycle < due then some due else none
    | _ => none

/-- A close or a step launch of a stream can be taken now, which its clock has reached (18:R352). -/
def State.tickNow (s : State) : Bool :=
  let can := fun (o : Out) => match o with
    | .next _ => true
    | _ => false
  s.streams.any fun x => can (execStreamClose x.num s) || can (execStreamStepLaunch x.num s)

/-- The nanosecond of a stream's clock at which its next close or tick falls, while it is to come. -/
def Stream.nextEvent (x : Stream) : Option Int :=
  if x.state = 1 ∧ x.close.isNone then some x.closeAt
  else if x.state = 2 then some (x.tick : Int)
  else none

/-- Between `s` and `t` a stream's clock runs beyond a close or a tick that falls in between (18:R349, R352). -/
def State.runsPast (s t : State) : Bool :=
  s.streams.any fun x => x.nextEvent.any fun e =>
    decide (((vget s.foots x.homef).ptp : Int) < e) && decide (e < ((vget t.foots x.homef).ptp : Int))

/-- A PTM exchange falls within the next `ns` nanoseconds (22:R423). -/
def State.ptmWithin (s : State) (ns : Nat) : Bool := s.sys.ptmctl % 65536 != 0 && decide (s.sys.ptmAt < s.time + ns)

/-- What waited for memory or for a link is tried again. -/
def State.serveWaiting (s : State) : State := ((List.range 4).foldl State.serveMarks s.servePorts).serveTick

/-- Time passes once every chosen gang has issued and every close and tick that is due is taken, no further than a deadline, a PTM
exchange (22:R423) or, in more than one nanosecond, the next close or tick (18:R349). Beyond one cycle it passes only while no gang
can issue. -/
def State.pass (s : State) (cycles ns skew pskew : Nat) : Out :=
  let s := s.chosen
  if cycles = 0 ∨ s.picks ≠ some [] ∨ s.ptmDue ∨ s.ptmWithin ns ∨ s.tickNow ∨
      s.deadlines.any fun d => decide (d < s.cycle + cycles) then .refused .cannotOccur
  else
    let t := s.passTime 1 ns skew pskew
    if decide (1 < ns) && s.runsPast t then .refused .cannotOccur
    else if cycles = 1 then .next t.serveWaiting
    else
      let t := t.openCycle
      if t.picks ≠ some [] then .refused .cannotOccur else .next (t.passTime (cycles - 1) 0 skew pskew).serveWaiting

/-- What the host does on its own side (22:R410-R412; log 25). -/
def State.outsideActs (s : State) (x : Outside) : Out :=
  match x with
  | .memory pa bytes =>
    match s.target pa, s.target (pa + bytes.length - 1) with
    | .host .., .host .. | .peer .., .peer .. => .next (s.putAll pa bytes)
    | _, _ => .refused .cannotOccur
  | .mask link vector on => .next { s with sys := s.sys.setMask (link, vector) on }
  | .bar2 link size =>
    if size < 28 ∨ 40 < size then .refused .cannotOccur
    else .next { s with sys := { s.sys with bar2 := vset s.sys.bar2 (link / 2) size } }

/-- One action. A device at 115 °C does nothing more before it stops (22:R427). -/
def State.act (s : State) (a : Action) : Out :=
  if s.sys.stopped && !a.revives then .fault .deviceStopped
  else if !s.sys.stopped && s.overheated && !a.stops then .refused .cannotOccur
  else match a with
    | .issue c p => s.issueNext c p
    | .event i => s.happen i
    | .outside x => s.outsideActs x
    | .pass c n k p => s.pass c n k p

/-- Without a schedule: the stop of a device at 115 °C, an event that can happen, or else the issues chosen for the cycle, and the
cycle passes. -/
def State.idle (s : State) : Out :=
  if s.sys.stopped then .fault .deviceStopped
  else if s.overheated then s.happen .thermalStop
  else match s.firstOfEvents (s.memoryEvents ++ s.engineEvents ++ s.unitEvents ++ s.gangEvents) with
    | some s' => .next s'
    | none =>
      let s := s.chosen
      .next { s with agenda := ((s.picks.getD []).map fun p => Action.issue p.1 p.2) ++ [.pass 1 1 0 0] }

/-! ### The machine that fetches an instruction first (log 5) -/

/-- The header of the wall that holds it: one gang of one brick, with every register bank and tile. -/
def fetchHeader : LHeader :=
  { stages := 1, lead := 1, spadk := 512, acct := 8, rshare := 2048, spillbase := 0, ovfq := 0, ssovf := 0, ctxbase := 0,
    crecbase := 0,
    roles := [{ entry := 0x10000, named := 64, gangs := 1, reord := true, dict := 0, dictaddr := 0 }] }

/-- A gang in seat 0 of core 0: the one there, or one of a wall placed now. -/
def State.withGang00 (s : State) : State :=
  match s.gangAt 0 0 with
  | some _ => s
  | none =>
    let id := s.nextId
    let s := s.addWall 0 0 0 (.queue 0 0) (newRecord 0x1000 0 1) (Vector.replicate 4 0)
    match s.wall? id with
    | some w => s.placeAt { w with header := some fetchHeader } fetchHeader 0 ⟨0, [(0, [0])], 0, 0⟩
    | none => s

/-- The two words of a clause with one slot: a full word of its class, or a packed slot with the code first and the code
`0xFFFF` in its other places (03:R46-R51). -/
def fetchClause (nbits w : Nat) : List Byte :=
  if nbits ≤ 16 then natLe 8 (0xA * 2 ^ 60 + 6 * 2 ^ 57 + 2 ^ 36) ++ natLe 8 (w % 2 ^ 16 + 0xFFFF_FFFF_FFFF_0000)
  else natLe 8 (0xA * 2 ^ 60 + w / 2 ^ 61 % 8 * 2 ^ 57) ++ natLe 8 w

/-- The gang stands at the clause, free to issue. -/
def Gang.standAt (g : Gang) (pc : Addr) : Gang :=
  { g with pc := pc, pos := 0, clause := [], header := none, waited := false, wait := .ready, hold := none, xfer := none,
           pendfault := none, owed := [] }

/-- The clause lies at 0x10000, mapped there for the gang of seat 0 of core 0, whose issue comes next. -/
def State.fetchNext (s : State) (nbits w : Nat) : State :=
  let s := s.withGang00
  match s.gangAt 0 0 with
  | none => s
  | some g =>
    let s := s.setGang (g.standAt 0x10000)
    let e : TlbEntry :=
      { asid := s.asidOf g.brick.wall, va := 0x10000, size := 65536, pa := 0x10000, w := true, x := true, mirror := false }
    let s := s.putAll 0x10000 (fetchClause nbits w)
    { s with tlb := (0, e) :: s.tlb, picks := some [(0, 0)], fours := s.fours.filter (· != 0), agenda := .issue 0 0 :: s.agenda }

end Sys2Proof.Machine
end

