-- ==== Sys2Proof/Safety.lean ====
section
/-! DEFINITION. What the claims are stated in: a safe run, memory in canonical form, when a gang can read what its
instruction names, and what a class of instructions leaves behind. -/

namespace Sys2Proof.Machine

open Sys2Proof

/-! ### Runs and memory -/

/-- Every footing's view of memory is in canonical form. -/
def State.MemOk (s : State) : Prop := ∀ f : Fin 4, s.foots[f].mem.wf = true

/-- A run of `k` steps that meets no fault. -/
def State.SafeFor (s : State) (k : Nat) : Prop :=
  match Sys2Proof.core.run k s with
  | .fault _ => False
  | _ => True

/-- The two states hold the same bytes in every footing's view. -/
def State.SameMem (s t : State) : Prop := ∀ f a, (t.mem f).read a = (s.mem f).read a

/-- The two states differ in the records of gangs at most. -/
def State.OnlyGangs (s t : State) : Prop := t = { s with gangs := t.gangs }

/-! ### What an instruction can read (04:R80, R81, R86) -/

/-- The register an operand names is uncorrectable in a lane. -/
def Gang.opndBad (g : Gang) (o : Opnd) (l : Nat) : Bool :=
  match o with
  | .q i => (vget (g.lane l).q i.toNat).bad
  | .n i => (vget (g.lane l).n i.toNat).bad
  | .k i => (vget g.k i.toNat).bad
  | _ => false

/-- In every acting lane the operands hold values that have arrived, are valid and correctable, and the predicates of
`em` are correctable. -/
def Gang.Ready (g : Gang) (gd : Guard) (os : List Opnd) : Prop :=
  (∀ l < 32, g.em.getLsbD l = true → (g.lane l).pbad = false) ∧
  ∀ l < 32, (g.acts gd).getLsbD l = true → ∀ o ∈ os,
    g.opndPending o l = false ∧ g.opndInvalid o l = false ∧ g.opndBad o l = false

/-- A control transfer acts in every lane of `em`, and its operands agree there (06:R127). -/
def State.Uniform (s : State) (g : Gang) (gd : Guard) (os : List Opnd) : Prop :=
  g.em ≠ 0 ∧ g.acts gd = g.em ∧
  ∀ o ∈ os, ∀ l < 32, ∀ m < 32, g.em.getLsbD l = true → g.em.getLsbD m = true → s.opnd g 0 o l = s.opnd g 0 o m

end Sys2Proof.Machine
end

