-- ==== Sys2Proof/Claims.lean ====
section
/-! DEFINITION. The shapes of instructions that the claims group, with the results of the integer instructions written
from the tables of file 04 over bit vectors, apart from the meanings. -/

namespace Sys2Proof.Machine

open Sys2Proof

/-! ### Results of class 0 over bit vectors (04:R76, R89-R95) -/

/-- Types read as signed numbers. -/
def Ty.sgnd : Ty → Bool
  | .s32 | .s64 => true
  | _ => false

/-- A one-operand operation at the width of a type; a 32-bit result has bits 63:32 zero (04:R76). -/
def atN1 (t : Ty) (f : (n : Nat) → BitVec n → BitVec n) (a : Word) : Word :=
  match t with
  | .z32 | .s32 => (f 32 (a.setWidth 32)).setWidth 64
  | _ => f 64 a

/-- A two-operand operation at the width of a type. -/
def atN2 (t : Ty) (f : (n : Nat) → BitVec n → BitVec n → BitVec n) (a b : Word) : Word :=
  match t with
  | .z32 | .s32 => (f 32 (a.setWidth 32) (b.setWidth 32)).setWidth 64
  | _ => f 64 a b

/-- A three-operand operation at the width of a type. -/
def atN3 (t : Ty) (f : (n : Nat) → BitVec n → BitVec n → BitVec n → BitVec n) (a b c : Word) : Word :=
  match t with
  | .z32 | .s32 => (f 32 (a.setWidth 32) (b.setWidth 32) (c.setWidth 32)).setWidth 64
  | _ => f 64 a b c

/-- An integer clamped to `n` signed bits. -/
def clampSigned (n : Nat) (x : Int) : BitVec n :=
  if x < -2 ^ (n - 1) then BitVec.intMin n else if 2 ^ (n - 1) ≤ x then BitVec.intMax n else BitVec.ofInt n x

/-- Bits 2n-1:n of a product. -/
def mulHigh (sg : Bool) (n : Nat) (x y : BitVec n) : BitVec n :=
  if sg then (x.signExtend (2 * n) * y.signExtend (2 * n)).extractLsb' n n
  else (x.setWidth (2 * n) * y.setWidth (2 * n)).extractLsb' n n

/-- ADD.SAT and SUB.SAT. -/
def addClamped (sg : Bool) (n : Nat) (x y : BitVec n) : BitVec n :=
  if sg then clampSigned n (x.toInt + y.toInt) else if x + y < x then BitVec.allOnes n else x + y

def subClamped (sg : Bool) (n : Nat) (x y : BitVec n) : BitVec n :=
  if sg then clampSigned n (x.toInt - y.toInt) else if x < y then 0 else x - y

/-- The lesser and the greater. -/
def lesser (sg : Bool) (n : Nat) (x y : BitVec n) : BitVec n := if (if sg then y.slt x else y.ult x) then y else x

def greater (sg : Bool) (n : Nat) (x y : BitVec n) : BitVec n := if (if sg then x.slt y else x.ult y) then y else x

/-- ABS. -/
def absOf (n : Nat) (x : BitVec n) : BitVec n := if x = BitVec.intMin n then BitVec.intMax n else if x.msb then -x else x

/-- The shift count. -/
def count6 (b : Word) : Nat := (b.setWidth 6).toNat

/-- The position and the effective width of a control word (04:R91). -/
def ctlPos (ctl : Word) : Nat := (ctl.setWidth 6).toNat

def ctlWidth (n : Nat) (ctl : Word) : Nat :=
  if ctlPos ctl < n then Nat.min (ctl.extractLsb' 8 7).toNat (n - ctlPos ctl) else 0

/-- BFX. -/
def bfxOf (sg : Bool) (ctl : Word) (n : Nat) (x : BitVec n) : BitVec n :=
  let f := x.extractLsb' (ctlPos ctl) (ctlWidth n ctl)
  if sg then f.signExtend n else f.setWidth n

/-- BFI. -/
def bfiOf (ctl : Word) (n : Nat) (x ins : BitVec n) : BitVec n :=
  let m := (BitVec.allOnes (ctlWidth n ctl)).setWidth n <<< ctlPos ctl
  (x &&& ~~~m) ||| ((ins <<< ctlPos ctl) &&& m)

/-- The low 56 bits. -/
def low56 (x : Word) : Word := (x.setWidth 56).setWidth 64

/-- The comparison of CMP (04:R95). -/
def compare (c : ICond) (t : Ty) (a b : Word) : Bool :=
  let at' := fun (n : Nat) (sg : Bool) =>
    let x := a.setWidth n
    let y := b.setWidth n
    match c with
    | .eq => x == y
    | .ne => x != y
    | .lt => if sg then x.slt y else x.ult y
    | .le => if sg then x.sle y else x.ule y
    | .gt => if sg then y.slt x else y.ult x
    | .ge => if sg then y.sle x else y.ule x
    | .tst => x &&& y != 0
    | .ntst => x &&& y == 0
  match t with
  | .z32 => at' 32 false
  | .s32 => at' 32 true
  | .a56 => at' 56 false
  | _ => at' 64 true

/-! ### Instructions that push a value known at issue -/

/-- Such an instruction: its guard, its destination, the operands it reads, and its value in a lane. -/
structure ValueForm where
  gd : Guard
  d : Dest
  os : List Opnd
  val : State → Gang → Nat → Word

/-- Forms of one, two and three operands and an immediate. -/
def form1 (gd : Guard) (d : Dest) (imm : BitVec 16) (a : Opnd) (f : Word → Word) : ValueForm :=
  ⟨gd, d, [a], fun s g l => f (s.opnd g imm a l)⟩

def form2 (gd : Guard) (d : Dest) (imm : BitVec 16) (a b : Opnd) (f : Word → Word → Word) : ValueForm :=
  ⟨gd, d, [a, b], fun s g l => f (s.opnd g imm a l) (s.opnd g imm b l)⟩

def form3 (gd : Guard) (d : Dest) (imm : BitVec 16) (a b c : Opnd) (f : Word → Word → Word → Word) : ValueForm :=
  ⟨gd, d, [a, b, c], fun s g l => f (s.opnd g imm a l) (s.opnd g imm b l) (s.opnd g imm c l)⟩

/-- 04:R89: the arithmetic, logical and bit instructions, but the A56 forms of ADD and SUB. -/
def arithForm : Instr → Option ValueForm
  | .add g t d a b imm => if t = .a56 then none else some (form2 g d imm a b (atN2 t fun _ x y => x + y))
  | .sub g t d a b imm => if t = .a56 then none else some (form2 g d imm a b (atN2 t fun _ x y => x - y))
  | .mul g t d a b imm => some (form2 g d imm a b (atN2 t fun _ x y => x * y))
  | .mulhi g t d a b imm => some (form2 g d imm a b (atN2 t (mulHigh (Ty.sgnd t))))
  | .mulw g t d a b imm =>
    some (form2 g d imm a b fun x y =>
      if Ty.sgnd t then (x.setWidth 32).signExtend 64 * (y.setWidth 32).signExtend 64
      else (x.setWidth 32).setWidth 64 * (y.setWidth 32).setWidth 64)
  | .mad g t d a b c imm => some (form3 g d imm a b c (atN3 t fun _ x y z => x * y + z))
  | .addSat g t d a b imm => some (form2 g d imm a b (atN2 t (addClamped (Ty.sgnd t))))
  | .subSat g t d a b imm => some (form2 g d imm a b (atN2 t (subClamped (Ty.sgnd t))))
  | .min g t d a b imm => some (form2 g d imm a b (atN2 t (lesser (Ty.sgnd t))))
  | .max g t d a b imm => some (form2 g d imm a b (atN2 t (greater (Ty.sgnd t))))
  | .abs g t d a imm => some (form1 g d imm a (atN1 t absOf))
  | .and g t d a b imm => some (form2 g d imm a b (atN2 t fun _ x y => x &&& y))
  | .or g t d a b imm => some (form2 g d imm a b (atN2 t fun _ x y => x ||| y))
  | .xor g t d a b imm => some (form2 g d imm a b (atN2 t fun _ x y => x ^^^ y))
  | .not g t d a imm => some (form1 g d imm a (atN1 t fun _ x => ~~~x))
  | .popc g t d a imm => some (form1 g d imm a (atN1 t fun _ x => x.cpop))
  | .clz g t d a imm => some (form1 g d imm a (atN1 t fun _ x => x.clz))
  | .brev g t d a imm => some (form1 g d imm a (atN1 t fun _ x => x.reverse))
  | .mov g t d a imm => some (form1 g d imm a (atN1 t fun _ x => x))
  | _ => none

/-- 04:R90: the shifts. -/
def shiftForm : Instr → Option ValueForm
  | .shl g t d a b imm => some (form2 g d imm a b fun x y => atN1 t (fun _ x => x <<< count6 y) x)
  | .shr g t d a b imm => some (form2 g d imm a b fun x y => atN1 t (fun _ x => x >>> count6 y) x)
  | .sar g t d a b imm => some (form2 g d imm a b fun x y => atN1 t (fun _ x => x.sshiftRight (count6 y)) x)
  | .rotl g t d a b imm => some (form2 g d imm a b fun x y => atN1 t (fun _ x => x.rotateLeft (count6 y)) x)
  | _ => none

/-- 04:R91: the bit fields. -/
def fieldForm : Instr → Option ValueForm
  | .bfx g t d a b imm => some (form2 g d imm a b fun x y => atN1 t (bfxOf (Ty.sgnd t) y) x)
  | .bfi g t d a b c imm => some (form3 g d imm a b c fun x y z => atN2 t (bfiOf y) x z)
  | _ => none

/-- 04:R92: the address forms. -/
def addressForm : Instr → Option ValueForm
  | .add g t d a b imm => if t = .a56 then some (form2 g d imm a b fun x y => low56 (x + y)) else none
  | .sub g t d a b imm => if t = .a56 then some (form2 g d imm a b fun x y => low56 (x - y)) else none
  | .addsc g d a b sh => some (form2 g d 0 a b fun x y => low56 (x + (y.setWidth 32).signExtend 64 <<< sh.toNat))
  | .addscW g d a b sh => some (form2 g d 0 a b fun x y => low56 (x + y <<< sh.toNat))
  | _ => none

/-- 04:R93 and R94: SEL and MOVI. -/
def choiceForm : Instr → Option ValueForm
  | .sel g t d a b p =>
    some ⟨g, d, [a, b], fun s G l => atN1 t (fun _ x => x) (if (G.lane l).pref p then s.opnd G 0 a l else s.opnd G 0 b l)⟩
  | .movi g t d v =>
    some ⟨g, d, [], fun _ _ _ => match t with
      | .s64 => v.signExtend 64
      | .a56 => v.setWidth 64
      | _ => (v.setWidth 32).setWidth 64⟩
  | _ => none

/-- A float value pushed (05:R108, R110). -/
def formF1 (gd : Guard) (t : FTy) (d : Dest) (imm : BitVec 16) (a : Opnd) (f : Fmt → Nat → Nat) : ValueForm :=
  ⟨gd, d, [a], fun s g l => BitVec.ofNat 64 (f (ftyFmt t) (s.fread g imm a l (ftyFmt t)))⟩

def formF2 (gd : Guard) (t : FTy) (d : Dest) (imm : BitVec 16) (a b : Opnd) (f : Fmt → Nat → Nat → Nat) : ValueForm :=
  ⟨gd, d, [a, b], fun s g l =>
    BitVec.ofNat 64 (f (ftyFmt t) (s.fread g imm a l (ftyFmt t)) (s.fread g imm b l (ftyFmt t)))⟩

/-- The bytes a gang's acting lanes put together, 8 per lane (05:R117, R118). -/
def State.gathered (s : State) (g : Gang) (gd : Guard) (a : Opnd) (i : Nat) : Nat :=
  if (g.acts gd).getLsbD (i / 8) then byteOf (s.opnd g 0 a (i / 8)) (i % 8) else 0

/-- File 05: the instructions of class 1 that push a value. -/
def floatForm : Instr → Option ValueForm
  | .addF g t r d a b imm => some (formF2 g t d imm a b fun f => f.add r)
  | .subF g t r d a b imm => some (formF2 g t d imm a b fun f => f.sub r)
  | .mulF g t r d a b imm => some (formF2 g t d imm a b fun f => f.mul r)
  | .fma g t r d a b c imm =>
    some ⟨g, d, [a, b, c], fun s G l => let f := ftyFmt t
      BitVec.ofNat 64 (f.fma r (s.fread G imm a l f) (s.fread G imm b l f) (s.fread G imm c l f))⟩
  | .minF g t d a b imm => some (formF2 g t d imm a b Fmt.min)
  | .maxF g t d a b imm => some (formF2 g t d imm a b Fmt.max)
  | .absF g t d a imm => some (formF1 g t d imm a Fmt.abs)
  | .neg g t d a imm => some (formF1 g t d imm a Fmt.negate)
  | .rcp g t d a imm => some (formF1 g t d imm a Fmt.rcp)
  | .rsq g t d a imm => some (formF1 g t d imm a Fmt.rsq)
  | .sqrt g t d a imm => some (formF1 g t d imm a Fmt.sqrt)
  | .ex2 g t d a imm => some (formF1 g t d imm a Fmt.ex2)
  | .lg2 g t d a imm => some (formF1 g t d imm a Fmt.lg2)
  | .rint g t r d a imm => some (formF1 g t d imm a fun f => f.rint r)
  | .frc g t d a imm => some (formF1 g t d imm a Fmt.frc)
  | .cvt g d a m => some ⟨g, d, [a], fun s G l => s.convert G a l m⟩
  | .cvtX2 g d a b m => some ⟨g, d, [a, b], fun s G l =>
      BitVec.ofNat 64 (uval m.dst.width (s.convert G a l m) + uval m.dst.width (s.convert G b l m) * 2 ^ m.dst.width)⟩
  | .packB16X2 g d a b imm => some (form2 g d imm a b fun x y => (y.setWidth 16 ++ x.setWidth 16 : BitVec 32).setWidth 64)
  | .packB32X2 g d a b imm => some (form2 g d imm a b fun x y => y.setWidth 32 ++ x.setWidth 32)
  | .unpkLo16 g d a imm => some (form1 g d imm a fun x => (x.setWidth 16).setWidth 64)
  | .unpkHi16 g d a imm => some (form1 g d imm a fun x => (x.extractLsb' 16 16).setWidth 64)
  | .unpkHi32 g d a imm => some (form1 g d imm a fun x => x >>> 32)
  | .swzb g d a b c imm => some (form3 g d imm a b c fun x y z => wordOf fun i =>
      let k := byteOf z i
      if k ≥ 128 then 0 else if k % 16 < 8 then byteOf x (k % 16) else byteOf y (k % 16 - 8))
  | .bpack g d a => some ⟨g, d, [a], fun s G l => wordOf fun i => bpByte (s.gathered G g a) (8 * l + i)⟩
  | .bpext g d a p => some ⟨g, d, [a], fun s G l => wordOf fun i => bpValue (s.gathered G g a) p.toNat (8 * l + i)⟩
  | _ => none

/-- The acting lanes in which a predicate holds. -/
def Gang.agree (g : Gang) (gd : Guard) (p : PRef) : Mask := maskOf fun l => (g.acts gd).getLsbD l && (g.lane l).pref p

/-- 06:R130: the masks and predicates of the gang that an instruction pushes. -/
def maskForm : Instr → Option ValueForm
  | .voteBallot g d pa => some ⟨g, d, [], fun _ G _ => (G.agree g pa).setWidth 64⟩
  | .movemGet g d => some ⟨g, d, [], fun _ G _ => G.em.setWidth 64⟩
  | .movemGetfm g d => some ⟨g, d, [], fun _ G _ => G.fm.setWidth 64⟩
  | .movemGetp g d => some ⟨g, d, [], fun _ G l => ((1 : BitVec 1) ++ (G.lane l).p : BitVec 8).setWidth 64⟩
  | _ => none

/-- The instructions that push what a register of the brick, the course, the core or the gang holds (06:R135, R141,
09:R211, 11:R227, R237, 13:R283, R284, 14:R298). -/
def readForm : Instr → Option ValueForm
  | .movs g d x =>
    if x.toNat = 0x10 ∨ x.toNat = 0x11 then none else some ⟨g, d, [], fun s G l => s.special G x.toNat l⟩
  | .barPeek g x d => some ⟨g, d, [], fun s G l =>
      let b := s.barView (G.lane l) x
      BitVec.ofNat 64 (b.phc.toNat + field 16 b.arr.toNat + field 32 b.expect.toNat)⟩
  | .leadRd g d => some ⟨g, d, [], fun s G l =>
      match s.brick? (G.lane l).brick with
      | some b => b.highph ++ b.lowph
      | none => 0⟩
  | .riddleStat g d => some ⟨g, d, [], fun s G _ => ((s.courseOf G.brick).map Course.stat).getD 0⟩
  | .seatmap g d => some ⟨g, d, [], fun s G _ => s.seatmap G⟩
  | .wmarkGet g w => some ⟨g, .none, [], fun s G l => (s.wmark (G.lane l).brick w.toNat).word0⟩
  | .wmarkGen g w => some ⟨g, .none, [], fun s G l => (s.wmark (G.lane l).brick w.toNat).word1⟩
  | .scrubSt g d u => some ⟨g, d, [], fun s G _ =>
      let c := if u = 1 then (s.group (groupOf G.core)).scrub else vget (s.core G.core).scrub u.toNat
      c.2 ++ c.1⟩
  | .rxpoll g d r => some ⟨g, d, [], fun s G _ => BitVec.ofNat 64 (vget (s.core G.core).rx r.toNat).length⟩
  | _ => none

/-- What an instruction with a value form leaves: the value pushed and written, the gang at its next position. -/
def ValueForm.after (f : ValueForm) (s : State) (g : Gang) : State :=
  s.setGang (g.push (g.acts f.gd) f.d (f.val s g)).advance

/-- Every instruction of a form runs to its effect when the gang can read what it names. -/
def Pushes (form : Instr → Option ValueForm) : Prop :=
  ∀ (i : Instr) (f : ValueForm) (s : State) (g : Gang), i.wf = true → form i = some f → s.curGang = some g →
    g.Ready f.gd f.os → exec i s = .next (f.after s g)

/-! ### Instructions that write predicates (04:R85, R95, 05:R109, 06:R130) -/

/-- Such an instruction: its guard, its predicate, its operands, the bit it writes in a lane. -/
structure PredForm where
  gd : Guard
  pd : BitVec 3
  os : List Opnd
  bit : State → Gang → Nat → Bool

def predForm : Instr → Option PredForm
  | .cmp g t cc pd a b imm => some ⟨g, pd, [a, b], fun s G l => compare cc t (s.opnd G imm a l) (s.opnd G imm b l)⟩
  | .cmpF g t cc pd a b imm =>
    some ⟨g, pd, [a, b], fun s G l => (ftyFmt t).cmp cc (s.fread G imm a l (ftyFmt t)) (s.fread G imm b l (ftyFmt t))⟩
  | .voteAny g pd pa => some ⟨g, pd, [], fun _ G _ => G.agree g pa != 0⟩
  | .voteAll g pd pa => some ⟨g, pd, [], fun _ G _ => G.agree g pa == G.acts g⟩
  | .voteLeadeq g pd a => some ⟨g, pd, [a], fun s G l => s.opnd G 0 a l == s.opnd G 0 a ((lowest (G.acts g)).getD 0)⟩
  | .plopAnd g pd pa pb => some ⟨g, pd, [], fun _ G l => (G.lane l).pref pa && (G.lane l).pref pb⟩
  | .plopOr g pd pa pb => some ⟨g, pd, [], fun _ G l => (G.lane l).pref pa || (G.lane l).pref pb⟩
  | .plopXor g pd pa pb => some ⟨g, pd, [], fun _ G l => (G.lane l).pref pa != (G.lane l).pref pb⟩
  | .plopAndn g pd pa pb => some ⟨g, pd, [], fun _ G l => (G.lane l).pref pa && !(G.lane l).pref pb⟩
  | _ => none

/-! ### Control transfers (06:R126, R128) -/

/-- A transfer without a condition: its guard, its operands, the target as the lowest lane gives it, the link it writes
and whether it clears the queue. -/
structure TransferForm where
  gd : Guard
  os : List Opnd
  target : State → Gang → Nat → Addr
  link : Dest
  clears : Bool

/-- The address a clause's relative target names. -/
def relative (g : Gang) (off : BitVec 40) : Addr := g.pc + 8 * off.signExtend 56

def transferForm : Instr → Option TransferForm
  | .bra gd off => some ⟨gd, [], fun _ g _ => relative g off, .none, false⟩
  | .brx gd a => some ⟨gd, [a], fun s g l => (s.opnd g 0 a l).setWidth 56, .none, false⟩
  | .call gd d off => some ⟨gd, [], fun _ g _ => relative g off, d, true⟩
  | .callx gd d a => some ⟨gd, [a], fun s g l => (s.opnd g 0 a l).setWidth 56, d, true⟩
  | .ret gd a => some ⟨gd, [a], fun s g l => (s.opnd g 0 a l).setWidth 56, .none, true⟩
  | .yield gd => some ⟨gd, [], fun _ g _ => g.next, .none, false⟩
  | _ => none

/-- The queue cleared, the link written. -/
def TransferForm.regs (f : TransferForm) (g : Gang) : Gang :=
  (if f.clears then g.invalidate else g).writeDest g.em f.link (g.next.setWidth 64)

/-! ### Requests to memory (08:R181-R190, 12:R251) -/

/-- A request of the acting lanes: guard, operands, width, what it needs of the page, the address of a lane, its kind, its
destination and whether it pushes, and the accesses that the lanes' pages make. -/
structure MemForm where
  gd : Guard
  os : List Opnd
  width : Nat
  need : Need
  va : State → Gang → Nat → Nat
  kind : AccKind
  d : Dest
  push : Bool
  accs : State → Gang → List (Nat × TlbEntry) → List Access

/-- The address of a lane: `a[55:0] + w × off`, modulo 2^56. -/
def addrOf (a : Opnd) (off : BitVec 11) (w : Nat) (s : State) (g : Gang) (l : Nat) : Nat := s.vaOf g a off w l

def loadForm (gd : Guard) (t : Ty) (d : Dest) (a : Opnd) (off : BitVec 11) (acq : Option Scope) (ro : Bool) : MemForm :=
  ⟨gd, [a], t.bytes, .read, addrOf a off t.bytes, .load t acq ro, d, true,
   fun s g ps => s.accsOf g t.bytes (addrOf a off t.bytes s g) a a ps⟩

def storeForm (gd : Guard) (t : Ty) (a b : Opnd) (off : BitVec 11) (k : AccKind) (d : Dest) (push : Bool) : MemForm :=
  ⟨gd, [a, b], t.bytes, .write, addrOf a off t.bytes, k, d, push,
   fun s g ps => s.accsOf g t.bytes (addrOf a off t.bytes s g) b b ps⟩

def atomForm (gd : Guard) (t : Ty) (d : Dest) (a b c : Opnd) (off : BitVec 11) (k : AccKind) (push : Bool) : MemForm :=
  ⟨gd, [a, b, c], t.bytes, .write, addrOf a off t.bytes, k, d, push,
   fun s g ps => s.accsOf g t.bytes (addrOf a off t.bytes s g) b c ps⟩

def memForm : Instr → Option MemForm
  | .ld g t d a off => some (loadForm g t d a off none false)
  | .ldRo g t d a off => some (loadForm g t d a off none true)
  | .ldAcq g t d a sc off => some (loadForm g t d a off (some sc) false)
  | .st g t a b off => some (storeForm g t a b off (.store none) .none false)
  | .stRel g t a b sc off => some (storeForm g t a b off (.store (some sc)) .none false)
  | .stP g t d a b off => some (storeForm g t a b off .posted d true)
  | .stMc g t a b off =>
    some { storeForm g t a b off .storeMc .none false with
      accs := fun s G ps => (s.accsOf G t.bytes (addrOf a off t.bytes s G) b b ps).flatMap fun x =>
        if x.mirror then (List.range 4).map fun f => { x with pa := replica f x.pa } else [x] }
  | .atomAdd g t d a b m => some (atomForm g t d a b b m.off (.atom .add t m.sc m.ord) true)
  | .atomMin g t d a b m => some (atomForm g t d a b b m.off (.atom .min t m.sc m.ord) true)
  | .atomMax g t d a b m => some (atomForm g t d a b b m.off (.atom .max t m.sc m.ord) true)
  | .atomAnd g t d a b m => some (atomForm g t d a b b m.off (.atom .and t m.sc m.ord) true)
  | .atomOr g t d a b m => some (atomForm g t d a b b m.off (.atom .or t m.sc m.ord) true)
  | .atomXor g t d a b m => some (atomForm g t d a b b m.off (.atom .xor t m.sc m.ord) true)
  | .atomXchg g t d a b m => some (atomForm g t d a b b m.off (.atom .xchg t m.sc m.ord) true)
  | .atomCas g t d a b c m => some (atomForm g t d a b c m.off (.atom .cas t m.sc m.ord) true)
  | .atomInc g d a b m => some (atomForm g .z32 d a b b m.off (.atom .inc .z32 m.sc m.ord) true)
  | .redAdd g t a b m => some (atomForm g t .none a b b m.off (.red .add t m.sc m.ord) false)
  | .redMin g t a b m => some (atomForm g t .none a b b m.off (.red .min t m.sc m.ord) false)
  | .redMax g t a b m => some (atomForm g t .none a b b m.off (.red .max t m.sc m.ord) false)
  | _ => none

/-- The deque operations (08:R190). -/
def dequeForm : Instr → Option MemForm
  | .atomPush g d a b sc o => some (dq g d a b (.deque .push sc o))
  | .atomPop g d a sc o => some (dq g d a a (.deque .pop sc o))
  | .atomSteal g d a sc o => some (dq g d a a (.deque .steal sc o))
  | _ => none
where
  dq (gd : Guard) (d : Dest) (a b : Opnd) (k : AccKind) : MemForm :=
    ⟨gd, [a, b], 8, .write, addrOf a 0 8, k, d, true,
     fun s g ps => (s.accsOf g 8 (addrOf a 0 8 s g) b b ps).map fun x => { x with bytes := 32 }⟩

/-- The gang stands at an instruction that acts, whose operands can be read, whose addresses are aligned and whose pages
`ps` the core's TLBs hold. -/
structure MemForm.Goes (f : MemForm) (s : State) (g : Gang) (ps : List (Nat × TlbEntry)) : Prop where
  cur : s.curGang = some g
  ready : g.Ready f.gd f.os
  acts : g.acts f.gd ≠ 0
  aligned : ∀ l < 32, (g.acts f.gd).getLsbD l = true → f.va s g l % f.width = 0
  lanes : ps.map Prod.fst = lanesOf (g.acts f.gd)
  pages : ∀ p ∈ ps, s.lookup g.core (s.asidOf g.brick.wall) (f.va s g p.1) f.need = some p.2

/-- The state differs by the issue of a request at most: gangs, requests, lines of the L1 and the next number. -/
def State.IssueOnly (s t : State) : Prop :=
  t = { s with gangs := t.gangs, reqs := t.reqs, l1 := t.l1, nextId := t.nextId }

/-- Two records of a gang differ at most in what its later accesses follow and in spin detection's history. -/
def Gang.OrderOnly (a b : Gang) : Prop :=
  b = { a with after := b.after, afterSt := b.afterSt, hb := b.hb, seen := b.seen, seenRel := b.seenRel,
               seenIds := b.seenIds, fences := b.fences, spin := b.spin }

/-- A request as it enters: whose it is, what it is, and for each access its lane, its addresses, its bytes and its
data. -/
structure MemReq.IsNew (r : MemReq) (s : State) (g : Gang) (k : AccKind) (d : Dest) (push : Bool) (accs : List Access) :
    Prop where
  id : r.id = s.nextId
  gid : r.gid = g.gid
  core : r.core = g.core
  kind : r.kind = k
  dest : r.dest = d
  pushes : r.push = push
  accs : r.accs.map (fun a => (a.lane, a.va, a.pa, a.bytes, a.b, a.c)) =
    accs.map fun a => (a.lane, a.va, a.pa, a.bytes, a.b, a.c)

/-! ### Instructions that act once, values that arrive late -/

/-- The gang stands at an instruction that acts once for the gang, in the lanes `m` of which `l` is the lowest, with
operands it can read. -/
structure State.Once (s : State) (g : Gang) (gd : Guard) (os : List Opnd) (l : Nat) : Prop where
  cur : s.curGang = some g
  ready : g.Ready gd os
  low : lowest (g.acts gd) = some l

/-- A value known now, pushed as one that arrives late (04:R81). -/
def State.pushesLate (s : State) (g : Gang) (m : Mask) (d : Dest) (v : Nat → Word) : State :=
  ({ s with nextId := s.nextId + 1,
            lates := s.lates ++ [⟨s.nextId, g.gid, d, m, Vector.ofFn fun i => v i.val, true⟩] } : State).setGang
    (g.pushPending m d s.nextId).advance

/-- A value that comes when a unit has done its work. -/
def State.awaitsLate (s : State) (g : Gang) (m : Mask) : State :=
  ({ s with nextId := s.nextId + 1, lates := s.lates ++ [⟨s.nextId, g.gid, .none, m, Vector.replicate 32 0, false⟩] } :
    State).setGang (g.pushPending m .none s.nextId).advance

/-! ### Scratchpad stores (08:R168-R171) -/

/-- What the lanes `ls` of a store leave, lane `l` with its `n` bytes at `at' l` where it has a place: the bytes of a lane that no
higher lane overwrites, every other byte as before; nothing but scratchpads, what they remember of releases (20:R390) and their
marks changes. -/
def State.Stored (s u : State) (ls : List Nat) (n : Nat) (at' : Nat → Except Nat (Brick × Nat)) (v : Nat → Word) : Prop :=
  u = { s with bricks := u.bricks, marks := u.marks } ∧ u.bricks.map Brick.key = s.bricks.map Brick.key ∧
  ∀ x ∈ s.bricks, ∃ y ∈ u.bricks, y = { x with spad := y.spad, written := y.written, stags := y.stags } ∧
    (∀ off, (∀ l ∈ ls, ∀ b o, at' l = .ok (b, o) → b.key = x.key → off < o ∨ o + n ≤ off) → y.byte off = x.byte off) ∧
    ∀ l ∈ ls, ∀ b o, at' l = .ok (b, o) → b.key = x.key →
      (∀ m ∈ ls, l < m → ∀ c p, at' m = .ok (c, p) → c.key = x.key → p + n ≤ o ∨ o + n ≤ p) →
      ∀ k < n, y.byte (o + k) = (v l).extractLsb' (8 * k) 8

/-! ### Copies, gathers, samples (files 09, 12, 18) -/

/-- COPY, COPYL and MC.LD: guard, token, watermark, source space, dimensions, operands, destination, whether a loop,
and the group of a fill. -/
structure CopyForm where
  gd : Guard
  tok : Tok
  w : Nat
  sp : CopySpace
  n : Nat
  a : Opnd
  b : Opnd
  base : Nat
  loop : Bool
  grp : Option Nat

def copyForm : Instr → Option CopyForm
  | .copy g tok w sp dims a b base => some ⟨g, tok, w.toNat, sp, dims.toNat + 1, a, b, base.toNat, false, none⟩
  | .copyl g tok w sp dims a b base => some ⟨g, tok, w.toNat, sp, dims.toNat + 1, a, b, base.toNat, true, none⟩
  | .mcLd g tok w dims a b base grp =>
    some ⟨g, tok, w.toNat, .global, dims.toNat + 1, a, b, 32 * base.toNat, false, some grp.toNat⟩
  | _ => none

/-- The first destination offset past a copy of a box. -/
def CopyForm.limit (f : CopyForm) (x : Box) : Nat :=
  f.base + (if f.loop then (x.nstg + 1) * ((x.span + 31) / 32 * 32) else x.span)

/-- The conditions under which a copy of the box `x` enters its pipe for the brick `bk` of lane `l` (09:R200). -/
structure CopyForm.Goes (f : CopyForm) (s : State) (g : Gang) (l : Nat) (bk : Brick) (x : Box) : Prop where
  once : s.Once g f.gd [f.a, f.b] l
  brick : s.brick? (g.lane l).brick = some bk
  sound : f.n = 1 ∧ f.loop = false ∨ s.badSpad bk (bits (s.opnd g 0 f.b l) 0 19) (16 * f.n) = none
  box : bk.boxAt f.loop f.n (s.opnd g 0 f.a l) (s.opnd g 0 f.b l) = .ok x
  room : f.limit x ≤ bk.size
  aligned : f.loop = true ∨ f.grp.isSome = true → f.base % 32 = 0
  source : s.sourceOk bk f.sp (s.opnd g 0 f.a l) x = true
  idle : (vget bk.w f.w).loop = true → (vget bk.w f.w).iters.toNat ≤ (vget bk.w f.w).landed.toNat
  member : ∀ n, f.grp = some n → s.enrolled bk n = true
  free : (vget bk.w f.w).landing = false
  places : s.copiesOn g.core < 32
  token : g.tokFull f.tok = false

/-- The copy as it enters its pipe. -/
def CopyForm.op (f : CopyForm) (s : State) (g : Gang) (l : Nat) (bk : Brick) (x : Box) : CopyOp :=
  { id := s.nextId, gid := g.gid, core := g.core, tok := f.tok, brick := bk.key, w := f.w, space := f.sp,
    asid := s.asidOf bk.key.wall, src := s.opnd g 0 f.a l, base := f.base, e0 := x.e0, dims := x.dims, loop := f.loop,
    iters := x.iters, nstg := x.nstg, step := x.step, row := 0, x := 0, iter := 0, frozen := none, deps := s.engDeps g,
    waiting := f.grp.isSome, fill := 0, finished := false }

/-- A watermark armed for a copy (09:R195, R209). -/
def CopyForm.armed (f : CopyForm) (w : Wmark) (id : Nat) (x : Box) : Wmark :=
  let y := { w with armed := true, base := BitVec.ofNat 20 f.base, limit := BitVec.ofNat 20 (f.limit x),
                    value := BitVec.ofNat 20 f.base, frozen := false, failed := false, late := false, loop := f.loop,
                    armer := id, rels := [] }
  if f.loop then
    { y with iters := BitVec.ofNat 20 x.iters, nstg := BitVec.ofNat 4 x.nstg, landed := 0, released := 0 }
  else y

/-- GATHER, SCATTER and SCATTER.ADD. -/
structure IdxForm where
  gd : Guard
  gather : Bool
  add : Bool
  t : Ty
  tok : Tok
  w : Nat
  a : Opnd
  b : Opnd
  base : Nat
  sh : Nat
  m : Bool

def idxForm : Instr → Option IdxForm
  | .gather g t tok w a b base sh m => some ⟨g, true, false, t, tok, w.toNat, a, b, base.toNat, sh.toNat, m⟩
  | .scatter g t tok a b src sh m => some ⟨g, false, false, t, tok, 0, a, b, src.toNat, sh.toNat, m⟩
  | .scatterAdd g t tok a b src sh m => some ⟨g, false, true, t, tok, 0, a, b, src.toNat, sh.toNat, m⟩
  | _ => none

/-- The index list's offset and the number of elements, from operand B (12:R243). -/
def IdxForm.list (f : IdxForm) (s : State) (g : Gang) (l : Nat) : Nat := bits (s.opnd g 0 f.b l) 0 19

def IdxForm.count (f : IdxForm) (s : State) (g : Gang) (l : Nat) : Nat := bits (s.opnd g 0 f.b l) 20 17

/-- The conditions under which it enters its pipe (12:R243, R244). -/
structure IdxForm.Goes (f : IdxForm) (s : State) (g : Gang) (l : Nat) (bk : Brick) : Prop where
  once : s.Once g f.gd [f.a, f.b] l
  brick : s.brick? (g.lane l).brick = some bk
  aligned : bits (s.opnd g 0 f.a l) 0 56 % f.t.bytes = 0
  reserved : (s.opnd g 0 f.b l).getLsbD 19 = false ∧ bits (s.opnd g 0 f.b l) 37 27 = 0
  small : f.count s g l ≤ 65536
  list : f.list s g l % 4 = 0 ∧ f.list s g l + 4 * f.count s g l ≤ bk.size
  mask : maskOff (f.list s g l) (f.count s g l) + maskLen (f.count s g l) ≤ bk.size
  window : f.base % f.t.bytes = 0 ∧ f.base + f.count s g l * f.t.bytes ≤ bk.size
  idle : f.gather = true → (vget bk.w f.w).landing = false ∧
    ((vget bk.w f.w).loop = true → (vget bk.w f.w).iters.toNat ≤ (vget bk.w f.w).landed.toNat)
  places : s.idxOn g.core < 16
  token : g.tokFull f.tok = false

def IdxForm.op (f : IdxForm) (s : State) (g : Gang) (l : Nat) (bk : Brick) : IdxOp :=
  { id := s.nextId, gid := g.gid, core := g.core, tok := f.tok, brick := bk.key, asid := s.asidOf bk.key.wall,
    gather := f.gather, add := f.add, t := f.t, w := f.w, a := bits (s.opnd g 0 f.a l) 0 56, list := f.list s g l,
    n := f.count s g l, base := f.base, sh := f.sh, m := f.m, read := none, got := [], landed := 0, deps := s.engDeps g,
    finished := false }

/-- TOPK, RHIST and BIASADD. -/
def sampForm : Instr → Option (Guard × SampOp × FTy × Tok × Opnd)
  | .topk g t tok a => some (g, .topk, t, tok, a)
  | .rhist g t tok a => some (g, .rhist, t, tok, a)
  | .biasadd g t tok a => some (g, .biasadd, t, tok, a)
  | _ => none

/-- A descriptor of 32 bytes in the brick's allotment that an instruction may read (12:R258, 18:R363). -/
structure Brick.Describes (bk : Brick) (s : State) (v : Word) : Prop where
  zero : bits v 19 45 = 0
  aligned : bits v 0 19 % 8 = 0
  room : bits v 0 19 + 32 ≤ bk.size
  written : bk.allWritten (bits v 0 19) 32 = true
  sound : s.badSpad bk (bits v 0 19) 32 = none

/-! ### The matrix engine (07:R147, R150) -/

/-- An instruction of the matrix engine: guard, operands, token, the operands in memory it names, and those it hands
over. -/
structure MatForm where
  gd : Guard
  os : List Opnd
  tok : Tok
  a : Opnd
  b : Opnd
  ops : Word → Word → List MatOp

def matForm : Instr → Option MatForm
  | .mma g _ tok _ a b m | .mmaSr g _ tok _ a b m | .mmaSp g _ tok _ a b m => some ⟨g, [a, b], tok, a, b, prodOps m 256 32⟩
  | .mmaBp g p tok _ a b m => some ⟨g, [a, b], tok, a, b, prodOps m (32 * p.toNat) 256⟩
  | .accZero g tok _ | .accMov g tok _ _ | .accCvtS32F32 g tok _ _ | .accCvtF32S32 g tok _ _ =>
    some ⟨g, [], tok, .cst 0, .cst 0, fun _ _ => []⟩
  | .accScale g _ tok _ _ a b asp bsp =>
    some ⟨g, [a, b], tok, a, b, fun u v => [⟨u, asp, 0, 256, 32⟩, ⟨v, bsp, 0, 256, 32⟩]⟩
  | .accLd g t tok _ a stride asp | .accSt g t tok _ a stride asp =>
    some ⟨g, [a], tok, a, a, fun u _ => [⟨u, asp, 32 * stride.toNat, 64 * t.bytes, 32⟩]⟩
  | .accPut g _ _ a b | .accPutAdd g _ _ a b => some ⟨g, [a, b], none, a, b, fun _ _ => []⟩
  | _ => none

/-- The conditions under which an instruction of the matrix engine issues for the brick `b` of lane `l` (07:R147, R150). -/
structure MatForm.Goes (f : MatForm) (s : State) (g : Gang) (l : Nat) (b : Brick) : Prop where
  once : s.Once g f.gd f.os l
  brick : s.brick? (g.lane l).brick = some b
  aligned : ∀ o ∈ f.ops (s.opnd g 0 f.a l) (s.opnd g 0 f.b l), bits o.addr 0 56 % o.align = 0
  inside : ∀ o ∈ f.ops (s.opnd g 0 f.a l) (s.opnd g 0 f.b l), o.spad = true →
    bits o.addr 0 56 + 63 * o.stride + o.row ≤ b.size
  room : b.core = g.core → s.mqHolds b.core = false
  token : g.tokFull f.tok = false

/-- An entry of the matrix engine's queue as it enters: whose it is, what it is, its operand values. -/
structure MatEntry.IsNew (e : MatEntry) (s : State) (g : Gang) (b : Brick) (i : Instr) (tok : Tok) (l : Nat) : Prop where
  id : e.id = s.nextId
  gid : e.gid = g.gid
  seat : e.seat = g.seat
  tok : e.tok = tok
  brick : e.brick = b.key
  instr : e.instr = i
  lane : e.lane0 = l
  step : e.step = 0

/-- What the issue of a matrix instruction leaves: its entry at the tail of the queue of its brick's core, or on its way
there over the mortar (07:R147, 13:R275). -/
def State.MatIssued (s t : State) (g : Gang) (b : Brick) (e : MatEntry) : Prop :=
  if b.core = g.core then (t.core b.core).mq = (s.core b.core).mq ++ [e] ∧ t.matArrivals = s.matArrivals
  else t.matArrivals = s.matArrivals ++ [⟨b.core, g.core, s.cycle + 3, e⟩] ∧ t.cores = s.cores

/-- The pseudocode of 13:R271 over the keys of the sorted entries not yet placed: the seat and the seat lane of each, from lane `l` of
seat `g` on, the key before being `prev`. -/
def placesFrom (align : Bool) (seats : Nat) (g l : Nat) (prev : Option (BitVec 16)) : List (BitVec 16) → List (Nat × Nat)
  | [] => []
  | k :: ks =>
    let fresh := align && prev != some k && l != 0 && decide ((ks.length + 32) / 32 ≤ seats - g - 1)
    let g := if fresh then g + 1 else g
    let l := if fresh then 0 else l
    (g, l) :: (if l = 31 then placesFrom align seats (g + 1) 0 (some k) ks else placesFrom align seats g (l + 1) (some k) ks)

/-- A launch record changed by LREC.SET and LREC.WAIT (16:R329): guard, operands, the record after. -/
def recordForm (i : Instr) (v : Opnd → Word) (p : Packet) : Option (Guard × List Opnd × Packet) :=
  match i with
  | .lrecSetGrid g a b c =>
    some (g, [a, b, c], Packet.setWord p 2
      ((vget p 2).extractLsb' 48 16 ++ ((v c).setWidth 16 ++ ((v b).setWidth 16 ++ (v a).setWidth 16))))
  | .lrecSetClass g a =>
    some (g, [a], Packet.setWord p 2 ((vget p 2).extractLsb' 59 5 ++ ((v a).setWidth 2 ++ (vget p 2).setWidth 57)))
  | .lrecSetCounter g a =>
    let x := (v a).setWidth 56
    let w7 := (vget p 7).extractLsb' 56 8 ++ x
    let w2 := (vget p 2).extractLsb' 62 2 ++ ((if x = 0 then 0 else 1 : BitVec 1) ++ (vget p 2).setWidth 61)
    some (g, [a], Packet.setWord (Packet.setWord p 7 w7) 2 w2)
  | .lrecSetCourse g a b c =>
    let x := fun o => (v o).setWidth 4
    let bad := [a, b, c].any fun o => x o == 0 || decide (8 < (x o).toNat)
    let w := (vget p 2).extractLsb' 63 1 ++ ((if bad then 1 else 0 : BitVec 1) ++ ((vget p 2).extractLsb' 57 5 ++
      (((v c).setWidth 3 - 1) ++ (((v b).setWidth 3 - 1) ++ (((v a).setWidth 3 - 1) ++ (vget p 2).setWidth 48)))))
    some (g, [a, b, c], Packet.setWord p 2 w)
  | .lrecWait g a b =>
    let n := ((vget p 2).extractLsb' 59 2).toNat
    if 2 ≤ n then none
    else
      let p' := Packet.setWord p (3 + 2 * n) ((vget p (3 + 2 * n)).extractLsb' 56 8 ++ (v a).setWidth 56)
      let w2 := (vget p 2).extractLsb' 61 3 ++ (BitVec.ofNat 2 (n + 1) ++ (vget p 2).setWidth 59)
      some (g, [a, b], Packet.setWord (Packet.setWord p' (4 + 2 * n) (v b)) 2 w2)
  | _ => none

end Sys2Proof.Machine
end

