-- ==== Sys2Proof/Certificates/Slice0/Obligations.lean ====
section
/-! DEFINITION. The statements for the provers. -/

open Sys2Proof Sys2Proof.Machine

/-! ### Encoding and the step -/

/-- Every well-formed instruction is what the decoder reads from its words (03:R54-R71). -/
def Obligations.EncodedInstructionsDecode : Prop :=
  ∀ (i : Instr) (n w : Nat), i.wf = true → encode i = some (n, w) → decodeTableWord n w = some i

/-- A word that decodes is the encoding of one well-formed instruction: no bit of it is dropped (03:R54-R71, R73). -/
def Obligations.DecodedWordsEncodeBack : Prop :=
  ∀ (w : BitVec 64) (i : Instr), decodeWord w = .ok i → i.wf = true ∧ encode i = some (64, w.toNat)

/-- The words that the encoding table after 04:R95 writes out decode to the instructions it names. -/
def Obligations.SpecWordsDecode : Prop :=
  decodeTableWord 64 0x0B070000F900000F = some (.and ⟨false, 7⟩ .z32 .none (.q 0) .immz 15) ∧
  decodeTableWord 64 0x0F078300F2000000 = some (.shl ⟨false, 7⟩ .z32 (.n 3) (.q 0) (.cst 2) 0) ∧
  decodeTableWord 64 0x0037C1C0F0000000 = some (.add ⟨false, 7⟩ .a56 (.k 1) (.k 0) (.cst 0) 0) ∧
  decodeTableWord 64 0x1B07C20000000040 = some (.movi ⟨false, 7⟩ .z32 (.k 2) 64) ∧
  decodeTableWord 64 0x1907034100000000 = some (.cmp ⟨false, 7⟩ .z32 .eq 3 (.q 1) (.q 0) 0) ∧
  decodeTableWord 64 0x1C3782C100000003 = some (.addsc ⟨false, 7⟩ (.n 2) (.k 1) (.q 0) 3) ∧
  decodeTableWord 64 0x1807850041000003 = some (.sel ⟨false, 7⟩ .z32 (.n 5) (.q 0) (.q 1) ⟨false, 3⟩) ∧
  decodeTableWord 64 0x00170041F9000064 = some (.add ⟨false, 7⟩ .s32 .none (.q 1) .immz 100) ∧
  decodeTableWord 64 0x02170043F2000000 = some (.mul ⟨false, 7⟩ .s32 .none (.q 3) (.cst 2) 0)

/-- A step whose next action issues a seat's gang runs the instruction the gang stands at: one decoded before, or the one
the fetched clause decodes to, once the clause's WAIT mask is passed (02:R35, 03:R46-R49, R72, 16:R336); of class-4 instructions a
core issues one in a cycle (07:R147). A device at 115 °C issues nothing any more (22:R427). -/
def Obligations.StepRunsDecodedInstruction : Prop :=
  ∀ (s : State) (c p : Nat) (rest : List Action) (more : List (Nat × Nat)) (g : Gang) (i : Instr),
    s.agenda = .issue c p :: rest → s.picks = some ((c, p) :: more) → s.sys.stopped = false → s.overheated = false → s.gangAt c p = some g → s.blocked g = false →
    g.wait = .ready → g.pendfault = none → g.owed = [] → g.spin = [] → (isClass4 i = true → c ∉ s.fours) →
    let s' : State := { s with agenda := rest, picks := some more, cur := (c, p),
                               fours := if isClass4 i then c :: s.fours else s.fours }
    let g' : Gang := { g with since := some s.cycle }
    (g.clause ≠ [] → g.waited = true → g.instr = some i → step s = exec i (s'.setGang g')) ∧
    (∀ (w : Word) (h : Header) (slots : List Word) (is : List (Nat × Instr)),
      g.clause = [] → g.pc.toNat % 8 = 0 → g.pos = 0 → (s'.setGang g').fetchWord g' g.pc.toNat = .got w →
      parseHeader w = .ok h → h.packed = 0 → (s'.setGang g').fetchWords g' (g.pc.toNat + 8) h.count = .got slots →
      decodeClause g.named (((s.header? g.brick.wall).map LHeader.acct).getD 0) [] h slots = .ok ((0, i) :: is) →
      h.wait = 0 →
      let d : Gang := { g' with clause := (0, i) :: is, header := some h, wait := .stalled }
      step s = exec i ((((s'.setGang g').fetchOut g' g.pc.toNat (1 + h.count)).setGang { d with waited := false }).setGang
        (d.passWait s.cycle)))

/-! ### Whole-machine rules -/

/-- After reset every footing's memory has the canonical form (the model's own, log 4). -/
def Obligations.ResetMemoryIsCanonical : Prop := State.reset.MemOk

/-- Every step keeps the canonical form of every footing's memory. -/
def Obligations.StepKeepsMemoryCanonical : Prop := ∀ s t : State, s.MemOk → step s = .next t → t.MemOk

/-- A stopped device goes on by a reset alone (22:R426, R427). -/
def Obligations.StoppedDeviceRunsOnlyAReset : Prop :=
  ∀ s : State, s.sys.stopped = true →
    (∀ t, step s = .next t → ∃ image signed rest, s.agenda = .event (.deviceReset image signed) :: rest) ∧
    (∀ image signed rest, s.agenda = .event (.deviceReset image signed) :: rest →
      ∃ t, step s = .next t ∧ t.sys.stopped = false ∧ t.gangs = [] ∧ t.bricks = [] ∧ t.walls = [] ∧
        t.sys.fusemap = s.sys.fusemap ∧ t.sys.attNext = s.sys.attNext)

/-! ### Class 0 (file 04) -/

/-- 04:R89: every arithmetic, logical and bit instruction runs and pushes the result its row of the table gives, reduced to the
type's width, in each acting lane. -/
def Obligations.ArithmeticResults : Prop := Pushes arithForm

/-- 04:R90: SHL, SHR, SAR and ROTL push their results for counts below the width and up to 63; bits 63:6 of the count have no
effect. -/
def Obligations.ShiftResults : Prop := Pushes shiftForm

/-- 04:R91: BFX extracts the field its control word names, and BFI inserts one, each of the effective width. -/
def Obligations.BitFieldResults : Prop := Pushes fieldForm

/-- 04:R92: ADD.A56, SUB.A56, ADDSC.A56 and ADDSC.A56.W push an address modulo 2^56; bits 63:56 of the first operand have no
effect. -/
def Obligations.AddressResults : Prop := Pushes addressForm

/-- 04:R93, R94: SEL pushes one of its operands by a predicate of the lane, MOVI its immediate extended by its type. -/
def Obligations.SelectedAndImmediateResults : Prop := Pushes choiceForm

/-- 04:R77, R85, 03:R56: what a push leaves: every lane's queue shifted, the acting lanes' results at `q1` and in the
named destination; the predicates, and every other register, as before. -/
def Obligations.PushShiftsEveryLane : Prop :=
  ∀ (g : Gang) (m : Mask) (d : Dest) (f : Nat → Word) (l : Nat), l < 32 →
    let x := g.lane l
    let y := (g.push m d f).lane l
    (∀ a : Fin 16, a.val ≠ 0 → y.q[a] = vget x.q (a.val - 1)) ∧
    y.q[0] = (if m.getLsbD l = true then ⟨f l, true, none, false⟩ else x.q[0]) ∧
    (∀ j : Fin 64, y.n[j] =
      (if m.getLsbD l = true ∧ d = .n (BitVec.ofNat 6 j.val) then ⟨f l, none, false⟩ else x.n[j])) ∧
    y = { x with q := y.q, n := y.n } ∧
    (∀ j : Fin 32, (g.push m d f).k[j] =
      (if m ≠ 0 ∧ d = .k (BitVec.ofNat 5 j.val) then ⟨f ((lowest m).getD 0), none, false⟩ else g.k[j])) ∧
    g.push m d f = { g with lanes := (g.push m d f).lanes, k := (g.push m d f).k }

/-- 04:R95, 05:R109, 06:R130: the instructions that write a predicate, in the lanes where they act; `p7` stays 1. -/
def Obligations.PredicatesWritten : Prop :=
  ∀ (i : Instr) (f : PredForm) (s : State) (g : Gang), i.wf = true → predForm i = some f → s.curGang = some g →
    g.Ready f.gd f.os →
    ∃ g' : Gang, exec i s = .next (s.setGang g'.advance) ∧ g' = { g with lanes := g'.lanes } ∧
      ∀ l < 32, (g'.lane l) = { g.lane l with p := (g'.lane l).p } ∧
        ∀ j : Fin 7, (g'.lane l).p[j] =
          (if (g.acts f.gd).getLsbD l = true ∧ f.pd = BitVec.ofNat 3 j.val then f.bit s g l else (g.lane l).p[j])

/-! ### Class 1 (file 05) -/

/-- 05:R108, R110, R112, R113, R116-R118: the instructions of class 1 that push run to their values. -/
def Obligations.FloatInstructionsPush : Prop := Pushes floatForm

/-! ### Masks, special registers, messages (file 06) -/

/-- 06:R130, R131: ballots and masks pushed; MOVEM.SET's new `em`, or EM_EMPTY; MOVEM.SETP. -/
def Obligations.MaskInstructionsRun : Prop :=
  Pushes maskForm ∧
  (∀ (gd : Guard) (d : Dest) (a : Opnd) (s : State) (g : Gang) (l : Nat), s.Once g gd [a] l →
    let level := match g.stack with
      | [] => g.live
      | e :: _ => e.rejoin &&& ~~~e.pend &&& ~~~e.arr &&& g.live
    let em := (s.opnd g 0 a l).setWidth 32 &&& level
    (em ≠ 0 → exec (.movemSet gd d a) s =
      .next (s.setGang ({ g.push (g.acts gd) d (fun _ => g.em.setWidth 64) with em := em } : Gang).advance)) ∧
    (em = 0 → exec (.movemSet gd d a) s = s.trapEm g 0x0C (s.opnd g 0 a l))) ∧
  (∀ (gd : Guard) (a : Opnd) (s : State) (g : Gang), s.curGang = some g → g.Ready gd [a] →
    let put := fun (l : Nat) (x : Lane) =>
      if (g.acts gd).getLsbD l then { x with p := (s.opnd g 0 a l).setWidth 7 } else x
    exec (.movemSetp gd a) s = .next (s.setGang ({ g with lanes := g.lanes.mapIdx put } : Gang).advance))

/-- 06:R135, R141, 09:R211, 11:R227, R237, 13:R283, R284, 14:R298: the instructions that push what a register holds; a MOVS
of `%gtsc` or `%ptp` pushes a pending value, sampled at its issue (04:R81). -/
def Obligations.RegisterReadsPush : Prop :=
  Pushes readForm ∧
  ∀ (gd : Guard) (d : Dest) (x : BitVec 10) (s : State) (g : Gang), s.curGang = some g → g.Ready gd [] → g.acts gd ≠ 0 →
    (x = 0x10 → exec (.movs gd d x) s =
      .next (s.pushesLate g (g.acts gd) d fun _ => BitVec.ofNat 64 (vget s.foots (footOf g.core)).gtsc)) ∧
    (x = 0x11 → exec (.movs gd d x) s =
      .next (s.pushesLate g (g.acts gd) d fun _ => BitVec.ofNat 64 (vget s.foots (footOf g.core)).ptp))

/-- 06:R133-R136, 13:R276, 14:R291: MOVSP of `%spins` and of the `g` registers, whose write takes effect after its cycle, from
another core 3 cycles later (that cycle is read from 06:R133 and 13:R276 by inference, log 38); CSRR, CSRW and CSRX; a number no wall
may read or write is CSR_ACCESS. -/
def Obligations.SpecialRegistersWritten : Prop :=
  (∀ (gd : Guard) (x : BitVec 10) (a : Opnd) (s : State) (g : Gang) (l : Nat) (b : Brick), s.Once g gd [a] l →
    (x = 0x14 → exec (.movsp gd x a) s =
      .next (s.setGang ({ g with spins := (s.opnd g 0 a l).setWidth 32 } : Gang).advance)) ∧
    (0x20 ≤ x.toNat → x.toNat ≤ 0x2F → s.brick? (g.lane l).brick = some b → exec (.movsp gd x a) s =
      .next (({ s with gnext := s.gnext ++ [⟨s.cycle + (if b.core = g.core then 0 else 3), 16 * g.core + g.seat,
        (g.lane l).brick, x.toNat % 16, s.opnd g 0 a l⟩] } : State).setGang g.advance))) ∧
  (∀ (s : State) (x : GWrite) (b : Brick) (n : Nat), s.gnext = [x] → s.brick? x.brick = some b →
    (s.passTime n 0 0 0).brick? x.brick =
      some (if x.due < s.cycle + n then { b with g := vset b.g x.reg x.val } else b)) ∧
  (∀ (gd : Guard) (d : Dest) (n : BitVec 12) (s : State) (g : Gang), s.curGang = some g → g.Ready gd [] → g.acts gd ≠ 0 →
    (∀ v, s.csr g n.toNat = some v →
      exec (.csrr gd d n) s = .next (s.setGang (g.push (g.acts gd) d fun _ => v).advance)) ∧
    (s.csr g n.toNat = none → exec (.csrr gd d n) s = s.trapEm g 0x13 (n.setWidth 64))) ∧
  (∀ (gd : Guard) (n : BitVec 12) (a : Opnd) (s : State) (g : Gang) (l : Nat), s.Once g gd [a] l →
    let v := s.opnd g 0 a l
    (n = 0x010 → exec (.csrw gd n a) s = .next (s.setGang ({ g with tvec := v.setWidth 56 &&& ~~~7 } : Gang).advance)) ∧
    (n = 0x012 → g.tmode = true →
      exec (.csrw gd n a) s = .next (s.setGang ({ g with tepc := v &&& 0x3FFFFFFFFFFFFFFF } : Gang).advance)) ∧
    (n ≠ 0x010 → (n ≠ 0x012 ∨ g.tmode = false) → exec (.csrw gd n a) s = s.trapEm g 0x13 (n.setWidth 64))) ∧
  (∀ (gd : Guard) (d : Dest) (n : BitVec 12) (a : Opnd) (s : State) (g : Gang) (l : Nat), s.Once g gd [a] l →
    let v := s.opnd g 0 a l
    (n = 0x010 → exec (.csrx gd d n a) s = .next (s.setGang (({ g with tvec := v.setWidth 56 &&& ~~~7 } : Gang).push (g.acts gd) d
      fun _ => g.tvec.setWidth 64).advance)) ∧
    (n ≠ 0x010 → exec (.csrx gd d n a) s = s.trapEm g 0x13 (n.setWidth 64)))

/-- 06:R139-R141: binding, sending after the release fences before it (R142), the flight of a flit, receiving. TXBIND reaches
the registers of the issuing gang's core, and an unsent flit goes to the new destination: both are the model's choice (log 24). -/
def Obligations.MessagesBetweenCores : Prop :=
  (∀ (gd : Guard) (r : BitVec 2) (a : Opnd) (s : State) (g : Gang) (l : Nat), s.Once g gd [a] l →
    let v := s.opnd g 0 a l
    let dst := bits v 0 9
    let c := s.core g.core
    let t := vget c.tx r.toNat
    let k := (g.lane l).brick
    dst < 384 → s.sys.fusemap.getLsbD dst = false → s.partOf (footOf dst) = s.gangPart g →
    let t' : Tx := { t with bound := some (dst, bits v 9 2), owner := some k }
    (t.bound = none ∨ t.owner = some k) → exec (.txbind gd r a) s =
      .next ((s.setCore g.core { c with tx := vset c.tx r.toNat t' }).setGang g.advance)) ∧
  (∀ (gd : Guard) (r : BitVec 2) (a : Opnd) (s : State) (g : Gang) (l : Nat), s.Once g gd [a] l →
    let c := s.core g.core
    let t := vget c.tx r.toNat
    t.bound.isSome = true → t.owner = some (g.lane l).brick → t.flit = none → s.waitsFor g g.afterSt = [] →
    exec (.movspTx gd r a) s =
      .next ((s.setCore g.core { c with tx := vset c.tx r.toNat { t with flit := some (s.opnd g 0 a l, s.msgInfo g l) } }).setGang
        g.advance)) ∧
  (∀ (gd : Guard) (r : BitVec 2) (s : State) (g : Gang) (l : Nat), s.Once g gd [] l →
    let c := s.core g.core
    let t := vget c.tx r.toNat
    t.bound.isSome = true → t.owner = some (g.lane l).brick → t.flit = none → exec (.txunbind gd r) s =
      .next ((s.setCore g.core { c with tx := vset c.tx r.toNat ⟨none, none, none⟩ }).setGang g.advance)) ∧
  (∀ (c j : Nat) (s : State) (d : Nat × Nat) (v : Word × MsgInfo), c < 384 → j < 4 → (vget (s.core c).tx j).bound = some d →
    (vget (s.core c).tx j).flit = some v → vget (s.core d.1).stop d.2 = false →
    ∃ t, exec (.flitDeparture c j) s = .next t ∧ t.flits = s.flits ++ [⟨d.1, d.2, 4 * c + j, v.1, v.2⟩] ∧
      (vget (t.core c).tx j).flit = none) ∧
  (∀ (s : State) (f : Flit) (rest : List Flit), s.flits = f :: rest → (vget (s.core f.dstCore).rx f.rx).length < 16 →
    ∃ t, exec (.flitArrival 0) s = .next t ∧ t.flits = rest ∧
      vget (t.core f.dstCore).rx f.rx = vget (s.core f.dstCore).rx f.rx ++ [(f.val, f.info)]) ∧
  (∀ (gd : Guard) (d : Dest) (r : BitVec 2) (s : State) (g : Gang) (v : Word) (x : MsgInfo) (q : List (Word × MsgInfo)),
    s.curGang = some g → g.Ready gd [] → g.acts gd ≠ 0 → vget (s.core g.core).rx r.toNat = (v, x) :: q →
    ∃ t : State, exec (.movsRx gd d r) s =
        .next (t.setGang ((s.sawMsg g (g.acts gd) x).push (g.acts gd) d fun _ => v).advance) ∧
      t = { s with cores := t.cores } ∧ vget (t.core g.core).rx r.toNat = q)

/-! ### Control transfers, traps (files 06, 14) -/

/-- 06:R126, R128: BRA, BRX, CALL, CALLX, RET and YIELD go to their target at position 0; a call writes its link and a
call or a return leaves the queue unreadable; nothing else of the gang changes but what spin detection keeps. NOP and the
packed code `0xFFFF` only move on (03:R51, R71). -/
def Obligations.TransfersGoToTheirTarget : Prop :=
  (∀ (s : State) (g : Gang), s.curGang = some g →
    (∀ gd, exec (.nop gd) s = .next (s.setGang g.advance)) ∧ exec .nopCode s = .next (s.setGang g.advance)) ∧
  ∀ (i : Instr) (f : TransferForm) (s : State) (g : Gang), i.wf = true → transferForm i = some f →
    s.curGang = some g → g.Ready f.gd f.os → s.Uniform g f.gd f.os →
    ∃ (l : Nat) (g' : Gang), lowest g.em = some l ∧ exec i s = .next (s.setGang g') ∧
      g' = { f.regs g with pc := f.target s g l, pos := 0, clause := [], header := none, waited := false,
                           hint := g'.hint, wait := g'.wait, spin := g'.spin, spins := g'.spins } ∧
      g'.hint = (match i with
        | .yield _ => 1
        | _ => (g.header.map Header.yield).getD 0) ∧
      (g'.wait = .ready ∧ g'.spins = g.spins ∨
        ∃ gd off, i = .bra gd off ∧ (relative g off).toNat ≤ g.pc.toNat ∧ g'.spins = g.spins + 1)

/-- 06:R123: SPLIT pushes an entry and goes to its taken lanes; JOIN goes on with the pending lanes, or rejoins; a full
or empty stack traps. -/
def Obligations.SplitAndJoin : Prop :=
  (∀ (gd : Guard) (p : PRef) (off : BitVec 40) (s : State) (g : Gang), s.curGang = some g → g.Ready gd [] →
    s.Uniform g gd [] →
    let t := maskOf fun l => g.em.getLsbD l && (g.lane l).pref p
    (g.depth = 64 → exec (.split gd p off) s = s.trapEm g 0x0A 0) ∧
    (g.depth ≠ 64 → g.stack.length < s.stackH g → t ≠ 0 → exec (.split gd p off) s =
      .next (s.setGang (({ g with stack := ⟨g.em, g.em &&& ~~~t, 0, g.next, 0, false⟩ :: g.stack, depth := g.depth + 1,
                                  em := t } : Gang).jump (relative g off)))) ∧
    (g.depth ≠ 64 → g.stack.length < s.stackH g → t = 0 → exec (.split gd p off) s =
      .next (s.setGang (({ g with stack := ⟨g.em, 0, 0, g.next, 0, false⟩ :: g.stack, depth := g.depth + 1 } :
        Gang).jump g.next)))) ∧
  (∀ (gd : Guard) (s : State) (g : Gang), s.curGang = some g → g.Ready gd [] → s.Uniform g gd [] →
    (g.stack = [] → exec (.join gd) s = s.trapEm g 0x0B 0) ∧
    (∀ e r, g.stack = e :: r → e.pend ≠ 0 → exec (.join gd) s =
      .next (s.setGang (({ g with
        stack := { e with arr := e.arr ||| g.em, jpc := g.next, jv := true, pend := 0 } :: r, em := e.pend } : Gang).jump
          e.cont))) ∧
    (∀ e r, g.stack = e :: r → e.pend = 0 → g.fillNeeded (s.stackH g + 1) = none → exec (.join gd) s =
      .next (s.setGang (({ g with stack := r, depth := g.depth - 1, em := e.rejoin &&& g.live } : Gang).jump g.next))))

/-- 06:R121, R123, R124, R128: EXIT and KILL take the acting lanes out of LIVE, `em` and every entry, and the lanes that stay go on
at the next position; with none left in `em`, the first entry from the top that has lanes is resumed, its pending lanes at CONT or all
of them at JPC, and without one the gang ends, or waits for the entry below; KILL marks the bricks the lanes started in; barriers and a
gathering are settled afterwards. -/
def Obligations.LanesLeave : Prop :=
  ∀ (gd : Guard) (s : State) (g : Gang), s.curGang = some g → g.Ready gd [] → g.acts gd ≠ 0 → g.em &&& ~~~g.live = 0 →
    let live := g.live &&& ~~~g.acts gd
    let em := g.em &&& ~~~g.acts gd
    let st := g.stack.map fun (e : SSEntry) => e.within live
    let stays := { g with live := live, em := em, stack := st }
    let ends := { g with live := 0, em := 0, stack := [], depth := 0, xfer := none, place := .retired g.core g.seat }
    let kept := fun (em : Mask) (stack : List SSEntry) (depth : Nat) => ({ stays with
      em := em, stack := stack, depth := depth
      xfer := if stack.length < s.stackH g ∧ stack.length < depth then some (.fill (depth - stack.length - 1)) else none } : Gang)
    let leaves := fun (g' : Gang) => exec (.exit gd) s = .next (s.afterDepart g g') ∧
      exec (.kill gd) s = .next ((s.markKilled (g.originsOf (g.acts gd))).afterDepart g g')
    (em ≠ 0 → leaves stays.advance) ∧
    (em = 0 → (∀ e ∈ st, e.rejoin = 0 ∧ e.pend = 0) →
      (g.depth = st.length → leaves ends) ∧
      (st.length < g.depth → live ≠ 0 → leaves (kept 0 [] (g.depth - st.length)))) ∧
    ∀ (gone : List SSEntry) (e : SSEntry) (r : List SSEntry), em = 0 → st = gone ++ e :: r →
      (∀ x ∈ gone, x.rejoin = 0 ∧ x.pend = 0) →
      (e.pend ≠ 0 → leaves ((kept e.pend ({ e with pend := 0 } :: r) (g.depth - gone.length)).jump e.cont)) ∧
      (e.pend = 0 → e.jv = true → e.rejoin ≠ 0 → leaves ((kept e.rejoin r (g.depth - gone.length - 1)).jump e.jpc))

/-- 06:R128, 14:R291, R292: TRAP enters the gang's handler: the frame written, the trap registers set, trap mode on, the
gang at TVEC; SYSC and BRK report to system software and hold the gang (14:R294; NOHANDLER is 0 at TVEC 0 too, by the model's choice,
log 39). All resume at the next position. That every footing sees the frame at once is the model's choice (log 13). -/
def Obligations.TrapsTaken : Prop :=
  ∀ (gd : Guard) (n : BitVec 16) (s : State) (g : Gang) (e : TlbEntry), s.curGang = some g → g.Ready gd [] →
    s.Uniform g gd [] → s.lateOpen g.gid = false → g.tmode = false →
    s.lookup g.core (s.asidOf g.brick.wall) (s.recordVa g + 0x6000) .write = some e →
    let epc := epcWord g.advance.pc g.advance.pos
    (g.tvec ≠ 0 → g.frameBad = none → s.portBusy (e.phys (footOf g.core) (s.recordVa g + 0x6000)) = false →
      exec (.trap gd n) s =
      .next ((s.writeAll (s.gangPart g) (e.phys (footOf g.core) (s.recordVa g + 0x6000)) g.frame).setGang
      { g with tcause := BitVec.ofNat 64 (0x10 + 65536 * n.toNat), tepc := epc, tval := 0, tlanes := g.em, tmode := true,
               pc := g.tvec, pos := 0, clause := [], header := none, waited := false, hint := 0, wait := .ready })) ∧
    (∀ (i : Instr) (c : Nat), i = .sysc gd n ∧ c = 0x11 ∨ i = .brk gd n ∧ c = 0x12 → exec i s =
      .next ((s.reportGang g c 0 epc false false 0).setGang
        { g with wait := .stalled,
                 hold := some ⟨c, 0, epc, some ⟨c, 0, g.em, n.toNat, 0, g.advance.pc, g.advance.pos, 0, true⟩⟩ }))

/-- 14:R291, R293: ERET restores the frame and resumes where TEPC names, ERET.SKIP at the position after it; where no lane of the
restored `em` is live, the split stack says where the gang goes on, or the gang ends (06:R123); outside trap mode, or with another
split-stack depth, both trap. The slices take the lines read (08:R176), and a read beyond the device goes out (22:R410). -/
def Obligations.ReturnsFromTraps : Prop :=
  ∀ (gd : Guard) (s : State) (g : Gang), s.curGang = some g → g.Ready gd [] → s.Uniform g gd [] →
    (g.tmode = false → exec (.eret gd) s = s.trapEm g 0x0D 0 ∧ exec (.eretSkip gd) s = s.trapEm g 0x0D 0) ∧
    (∀ e : TlbEntry, g.tmode = true →
      s.lookup g.core (s.asidOf g.brick.wall) (s.recordVa g + 0x6000) .read = some e →
      let pa := e.phys (footOf g.core) (s.recordVa g + 0x6000)
      let m := s.mem (s.viewFoot (s.gangPart g) (footOf g.core) pa)
      s.portBusy pa = false → s.portShut pa = false → (∀ i < 34, s.poisoned (pa + 128 * i) = false) →
      let g1 := { g.restoreFrame m pa with tmode := false }
      let out := fun (s : State) => s.readBy (s.gangPart g) (footOf g.core) pa 0x1088
      let at' := fun (g : Gang) (pc : Addr) (pos : Nat) =>
        ({ g with pc := pc, pos := pos, clause := [], header := none, waited := pos != 0, hint := 0, wait := .ready } : Gang)
      let pc : Addr := g.tepc.setWidth 56
      let pos := (g.tepc.toNat / 2 ^ 56) % 64
      (frameDepth m pa ≠ g.depth → exec (.eret gd) s = s.trapEm g 0x0D 0) ∧
      (frameDepth m pa = g.depth →
        (g1.em ≠ 0 → exec (.eret gd) s = .next ((out s).setGang (at' g1 pc pos))) ∧
        (g1.em = 0 → g.stack = [] → g.depth = 0 → exec (.eret gd) s = .next ((out s).afterDepart g
          (at' { g1 with live := 0, em := 0, xfer := none, place := .retired g.core g.seat } pc pos))) ∧
        (∀ e r, g1.em = 0 → g.stack = e :: r → (e.within g.live).pend ≠ 0 → exec (.eret gd) s = .next ((out s).setGang
          (at' { g1 with
            em := (e.within g.live).pend
            stack := { e.within g.live with pend := 0 } :: r.map fun (x : SSEntry) => x.within g.live
            xfer := if g.stack.length < s.stackH g ∧ g.stack.length < g.depth then some (.fill (g.depth - g.stack.length - 1))
              else none } e.cont 0)))) ∧
      (∀ (x : TlbEntry) (h : Header), frameDepth m pa = g.depth → g1.em ≠ 0 → pc.toNat % 8 = 0 →
        s.lookup g.core (s.asidOf g.brick.wall) pc.toNat .fetch = some x →
        let y := x.phys (footOf g.core) pc.toNat
        s.portBusy y = false → s.portShut y = false → s.poisoned y = false →
        parseHeader ((s.mem (s.viewFoot (s.gangPart g) (footOf g.core) y)).word y) = .ok h →
        (∀ p, nextPosition h pos = some p →
          exec (.eretSkip gd) s = .next ((out (s.fetchOut g pc.toNat 1)).setGang (at' g1 pc p))) ∧
        (nextPosition h pos = none → exec (.eretSkip gd) s =
          .next ((out (s.fetchOut g pc.toNat 1)).setGang (at' g1 (pc + BitVec.ofNat 56 (8 * (h.count + 1))) 0)))))

/-- 14:R293, R303: a trap frame holds what a return restores: every queue entry and its validity, the predicates, `em`
within LIVE, the split-stack depth and `k28` to `k31`. -/
def Obligations.TrapFrameHoldsTheRegisters : Prop :=
  ∀ (g : Gang) (m : Memory) (pa : Nat), g.depth < 128 →
    let m' := m.write pa g.frame
    let r := g.restoreFrame m' pa
    frameDepth m' pa = g.depth ∧ r.em = g.em &&& g.live ∧
    (∀ l < 32, (r.lane l).p = (g.lane l).p ∧ (r.lane l).n = (g.lane l).n ∧
      ∀ a : Fin 16, (r.lane l).q[a].val = (g.lane l).q[a].val ∧ (r.lane l).q[a].valid = (g.lane l).q[a].valid) ∧
    (∀ j : Fin 32, (r.k[j]).val = (g.k[j]).val)

/-! ### Barriers, phases, tokens (file 11) -/

/-- 11:R226: an arrival at a barrier of the brick or of the course sets the lane's bit and adds 1; the phase advances, and the
arrivals are cleared, when EXPECT lanes have arrived, or with EXPECT 0 every live lane. -/
def Obligations.ArrivalsAdvancePhases : Prop :=
  (∀ (s : State) (ln : Lane) (i : BitVec 4) (b : Brick) (ids : List Nat), s.brick? ln.brick = some b →
    let x := vget b.bars i.toNat
    let am := x.amask ||| BitVec.ofNat 512 (2 ^ ln.oid.toNat)
    let full := (x.expect ≠ 0 ∧ x.arr + 1 = x.expect) ∨ (x.expect = 0 ∧ am ≠ 0 ∧ s.liveOids b.key &&& ~~~am = 0)
    ∃ y : Bar 512, s.arrive ln (.brick i) ids = s.setBrick { b with bars := vset b.bars i.toNat y } ∧
      y.expect = x.expect ∧
      (full → y.phc = x.phc + 1 ∧ y.arr = 0 ∧ y.amask = 0) ∧
      (¬ full → y.phc = x.phc ∧ y.arr = x.arr + 1 ∧ y.amask = am)) ∧
  (∀ (s : State) (ln : Lane) (i : BitVec 2) (c : Course) (ids : List Nat), s.courseOf ln.brick = some c →
    let x := vget c.cbars i.toNat
    let am := x.amask ||| BitVec.ofNat 4096 (2 ^ (512 * ln.obrick.toNat + ln.oid.toNat))
    let full := (x.expect ≠ 0 ∧ x.arr + 1 = x.expect) ∨ (x.expect = 0 ∧ am ≠ 0 ∧ s.liveCourse c.key &&& ~~~am = 0)
    ∃ y : Bar 4096, s.arrive ln (.course i) ids = s.setCourse { c with cbars := vset c.cbars i.toNat y } ∧
      y.expect = x.expect ∧
      (full → y.phc = x.phc + 1 ∧ y.arr = 0 ∧ y.amask = 0) ∧
      (¬ full → y.phc = x.phc ∧ y.arr = x.arr + 1 ∧ y.amask = am))

/-- 11:R227-R230: BAR.INIT sets EXPECT or traps, BAR.ARRIVE arrives and pushes the phases of arrival, BAR.WAIT goes on when
every acting lane's barrier has advanced and waits otherwise, BAR.SYNC arrives and does the same. Lanes whose barrier is on
another core arrive there 3 cycles after the others (11:R226; that cycle is read by inference, log 38); the instruction is done once
every lane has arrived, and its arrivals wait for the gang's writes of `g` registers (R229). -/
def Obligations.BarrierInstructionsRun : Prop :=
  (∀ (gd : Guard) (x : BarRef) (a : Opnd) (s : State) (g : Gang) (l : Nat), s.Once g gd [a] l →
    let e : BitVec 13 := (s.opnd g 0 a l).setWidth 13
    ((s.barView (g.lane l) x).arr = 0 → e.toNat ≤ s.barLanes (g.lane l).brick x →
      exec (.barInit gd x a) s = .next ((s.setExpect (g.lane l) x e).setGang g.advance)) ∧
    ((s.barView (g.lane l) x).arr ≠ 0 ∨ s.barLanes (g.lane l).brick x < e.toNat →
      exec (.barInit gd x a) s = s.trapEm g 0x28 (BitVec.ofNat 64 (BarRef.index x)))) ∧
  (∀ (gd : Guard) (x : BarRef) (d : Dest) (s : State) (g : Gang), s.curGang = some g → g.Ready gd [] →
    let far := s.farBar g x
    ∀ ls : List Nat,
      (g.reaching = false ∧ s.gOpen g = false ∧ s.reArrival g (g.acts gd) x = false ∧
          ls = (lanesOf (g.acts gd)).filter (fun l => !far l) ∨
        ∃ due load got, g.wait = .reaching due load got ∧ due ≤ s.cycle ∧
          ls = (lanesOf (g.acts gd)).filter fun l => got.all fun x => x.1 != l) →
      let t := s.arriveAll g x (s.covered g) ls
      let got := g.got ++ t.2.map fun p => (p.1, 0, p.2.setWidth 64)
      (g.reaching = false → (∃ l ∈ lanesOf (g.acts gd), far l = true) →
        exec (.barArrive gd x d) s = .next (t.1.setGang { g with wait := .reaching (s.cycle + 3) false got }) ∧
        exec (.barSync gd x) s = .next (t.1.setGang { g with wait := .reaching (s.cycle + 3) false got })) ∧
      (g.reaching = true ∨ (∀ l ∈ lanesOf (g.acts gd), far l = false) →
        exec (.barArrive gd x d) s = .next (t.1.setGang (g.push (g.acts gd) d (valueOf got)).advance) ∧
        (g.acts gd ≠ 0 →
          (∀ l ∈ lanesOf (g.acts gd), advancedPast (t.1.barView (g.lane l) x).phc ((valueOf got l).setWidth 16) = true) →
          ∃ (u : State) (g' : Gang), exec (.barSync gd x) s = .next (u.setGang g'.advance) ∧ u = { t.1 with l1 := u.l1 } ∧
            g' = { g with hb := g'.hb }) ∧
        (∀ l ∈ lanesOf (g.acts gd), advancedPast (t.1.barView (g.lane l) x).phc ((valueOf got l).setWidth 16) = false →
          exec (.barSync gd x) s = .next (t.1.setGang
            { g with wait := .syncing x (Vector.ofFn fun i => (valueOf got i.val).setWidth 16) (g.acts gd) })))) ∧
  (∀ (gd : Guard) (x : BarRef) (d : Dest) (s : State) (g : Gang), s.curGang = some g → g.Ready gd [] →
    g.reaching = false → s.reArrival g (g.acts gd) x = true →
    exec (.barArrive gd x d) s = .next (s.setGang { g with wait := .stalled }) ∧
    exec (.barSync gd x) s = .next (s.setGang { g with wait := .stalled })) ∧
  (∀ (gd : Guard) (x : BarRef) (a : Opnd) (s : State) (g : Gang), s.curGang = some g → g.Ready gd [a] →
    g.acts gd ≠ 0 →
    ((∀ l ∈ lanesOf (g.acts gd),
        advancedPast (s.barView (g.lane l) x).phc ((s.opnd g 0 a l).setWidth 16) = true) →
      ∃ (u : State) (g' : Gang), exec (.barWait gd x a) s = .next (u.setGang g'.advance) ∧ u = { s with l1 := u.l1 } ∧
        g' = { g with hb := g'.hb }) ∧
    (∀ l ∈ lanesOf (g.acts gd), advancedPast (s.barView (g.lane l) x).phc ((s.opnd g 0 a l).setWidth 16) = false →
      exec (.barWait gd x a) s = .next (s.setGang { g with wait := .stalled })))

/-- 11:R234-R236: PHASE adds 1 and tells the stage neighbours when the lead allowance lets it, and waits otherwise; a
phase arrives; WAITT waits for its token. -/
def Obligations.PhasesAndTokens : Prop :=
  (∀ (gd : Guard) (s : State) (g : Gang) (l : Nat) (b : Brick), s.Once g gd [] l → s.brick? (g.lane l).brick = some b →
    let n := b.phase + 1
    let lead := ((s.header? b.key.wall).map LHeader.lead).getD 0
    let lets := fun (h : BitVec 32) => h = 0xFFFFFFFF ∨ (n - h).toInt ≤ (lead : Int)
    (lets b.lowph → lets b.highph → exec (.phase gd) s =
      .next (((s.setBrick { b with phase := n }).sendPhase b.key n).setGang g.advance)) ∧
    (¬ (lets b.lowph ∧ lets b.highph) → exec (.phase gd) s = .next (s.setGang { g with wait := .stalled }))) ∧
  (∀ (s : State) (m : LeadMsg) (rest : List LeadMsg) (b : Brick), s.leads = m :: rest → s.brick? m.dst = some b →
    exec (.leadUpdate 0) s = .next (({ s with leads := rest } : State).setBrick
      (if m.low then { b with lowph := m.phase } else { b with highph := m.phase }))) ∧
  (∀ (gd : Guard) (j : BitVec 3) (s : State) (g : Gang) (l : Nat), s.Once g gd [] l →
    exec (.waitt gd j) s =
      .next (s.setGang (if vget g.out j.toNat = 0 then g.advance else { g with wait := .stalled })))

/-! ### Memory and scratchpad (files 08, 12) -/

/-- 08:R172, R181, R183, R188, 12:R251: a load, store, atomic or reduction whose addresses are aligned and mapped enters
the memory system as one request with one access for each acting lane, at its address and with its data; no byte of
memory changes yet, and a pushing one shifts the queue with pending entries. A load below course scope that follows nothing open has its value at once in the lanes
whose line the L1 holds (R175). A deque operation enters so too, and its gang
stays at it until it is performed (R190); its descriptor need not be aligned to 128 bytes, by the model's choice (log 40). -/
def Obligations.MemoryRequestsEnter : Prop :=
  ∀ (i : Instr) (f : MemForm) (s : State) (g : Gang) (ps : List (Nat × TlbEntry)), i.wf = true → f.Goes s g ps →
    let enters := fun (push : Bool) (after : Gang → Gang) =>
      ∃ (t : State) (r : MemReq) (g1 : Gang), exec i s = .next t ∧ s.IssueOnly t ∧ t.nextId = s.nextId + 1 ∧
        t.reqs = s.reqs ++ [r] ∧ r.IsNew s g f.kind f.d push (f.accs s g ps) ∧ g.OrderOnly g1 ∧
        t.gangs = (s.setGang (after g1)).gangs ∧ s.SameMem t
    (memForm i = some f → enters f.push fun g1 =>
      (if f.push then g1.pushPending (g.acts f.gd) f.d s.nextId else g1).advance) ∧
    (dequeForm i = some f → enters true fun g1 =>
      { g1.pushPending (g.acts f.gd) f.d s.nextId with wait := .posted s.nextId }) ∧
    (∀ (t : Ty) (acq : Option Scope) (ro : Bool), memForm i = some f → f.kind = .load t acq ro → acq.any Scope.wide = false →
      s.depsOf g f.kind ((f.accs s g ps).map fun a => (a.pa, a.bytes)) = [] →
      ∃ (u : State) (r : MemReq), exec i s = .next u ∧ u.reqs = s.reqs ++ [r] ∧
        ∀ (j : Nat) (a : Access), (f.accs s g ps)[j]? = some a → ∃ b : Access, r.accs[j]? = some b ∧
          (s.l1At g.core a.pa ro = none → b.done = false) ∧
          ∀ x, s.l1At g.core a.pa ro = some x → s.l1Bad g.core a.pa a.bytes ro = false →
            b.done = true ∧ b.val = loadVal t (lineBytes x.data a.pa a.bytes))

/-- 08:R172: a misaligned address traps, naming the lanes and the lowest one's address. -/
def Obligations.MisalignedAccessTraps : Prop :=
  ∀ (i : Instr) (f : MemForm) (s : State) (g : Gang) (l : Nat), i.wf = true → memForm i = some f → s.curGang = some g →
    g.Ready f.gd f.os →
    let bad := maskOf fun l => (g.acts f.gd).getLsbD l && f.va s g l % f.width != 0
    lowest bad = some l → exec i s = s.trap g 0x18 (BitVec.ofNat 64 (f.va s g l)) bad

/-- 08:R187: a fence enters as a request without bytes, which the accesses it orders follow; FENCE.ACK goes on once every
write of the gang is performed at its home slice and acknowledged, and waits otherwise. -/
def Obligations.FencesOrderAccesses : Prop :=
  (∀ (gd : Guard) (sc : Scope) (s : State) (g : Gang) (l : Nat), s.Once g gd [] l →
    ∀ (i : Instr) (rel acq : Bool), i = .fenceAcq gd sc ∧ rel = false ∧ acq = true ∨
        i = .fenceRel gd sc ∧ rel = true ∧ acq = false ∨ i = .fenceFull gd sc ∧ rel = true ∧ acq = true →
      ∃ (t : State) (r : MemReq) (g1 : Gang), exec i s = .next t ∧ s.IssueOnly t ∧ t.reqs = s.reqs ++ [r] ∧
        r.id = s.nextId ∧ r.gid = g.gid ∧ r.kind = .fence rel acq sc ∧ g.OrderOnly g1 ∧
        t.gangs = (s.setGang g1.advance).gangs ∧ (acq = true → s.nextId ∈ g1.after) ∧
        (rel = true → s.nextId ∈ g1.afterSt ∧ ∃ ids, (sc, ids) ∈ g1.fences) ∧ s.SameMem t) ∧
  (∀ (gd : Guard) (s : State) (g : Gang) (l : Nat), s.Once g gd [] l →
    let all := s.undoneWrites g.gid = [] ∧ (∀ r ∈ s.reqs, r.gid = g.gid → r.kind = .posted → r.arrived = true) ∧
      ∀ w ∈ s.writes, w.gid = g.gid → w.order.isSome = true
    (all → exec (.fenceAck gd) s = .next (s.setGang g.advance)) ∧
    (¬ all → exec (.fenceAck gd) s = .next (s.setGang { g with wait := .stalled })))

/-- 08:R185, R186: PREF and MIRROR.SYNC run to one request or to none, whatever translates; CCTL takes lines out of the
core's L1 alone: INV the plain ones, INVRO the read-only ones, LINE those of its lanes' addresses. PREF and CCTL.LINE wait where a
page of theirs waits for a walk (08:R177). -/
def Obligations.CacheInstructionsRun : Prop :=
  (∀ (gd : Guard) (a : Opnd) (l2 : Bool) (s : State) (g : Gang), s.curGang = some g → g.Ready gd [a] →
    let line := fun (l : Nat) => bits (s.opnd g 0 a l) 0 56 / 128 * 128
    (s.softWaits g (g.acts gd) line = false → ∃ (t : State) (g1 : Gang), exec (.pref gd a l2) s = .next t ∧ g.OrderOnly g1 ∧
      t.gangs = (s.setGang g1.advance).gangs ∧ s.SameMem t) ∧
    (s.softWaits g (g.acts gd) line = true → exec (.pref gd a l2) s = .next (s.setGang { g with wait := .stalled })) ∧
    (s.softWaits g (g.acts gd) (fun l => bits (s.opnd g 0 a l) 0 56) = true →
      exec (.cctlLine gd a) s = .next (s.setGang { g with wait := .stalled }))) ∧
  (∀ (gd : Guard) (a : Opnd) (l2 : Bool) (s : State) (g : Gang) (ps : List (Nat × TlbEntry)), s.curGang = some g →
    g.Ready gd [a] → ps.map Prod.fst = lanesOf (g.acts gd) →
    let va := fun (l : Nat) => bits (s.opnd g 0 a l) 0 56 / 128 * 128
    (∀ p ∈ ps, s.lookup g.core (s.asidOf g.brick.wall) (va p.1) .read = some p.2) →
    ∃ t : State, exec (.pref gd a l2) s = .next t ∧ s.IssueOnly t ∧ s.SameMem t ∧ (ps = [] → t.reqs = s.reqs) ∧
      (ps ≠ [] → ∃ r : MemReq, t.reqs = s.reqs ++ [r] ∧ r.gid = g.gid ∧ r.kind = .prefetch l2 ∧ r.dest = .none ∧ r.push = false ∧
        r.accs.map Access.pa = ps.map fun p => p.2.phys (footOf g.core) (va p.1))) ∧
  (∀ (gd : Guard) (a : Opnd) (l2 : Bool) (s : State) (g : Gang), s.curGang = some g → g.Ready gd [a] →
    (∀ l ∈ lanesOf (g.acts gd), let va := bits (s.opnd g 0 a l) 0 56 / 128 * 128
      s.lookup g.core (s.asidOf g.brick.wall) va .read = none ∧
      s.walkWaits (groupOf g.core) (s.gangPart g) (s.asidOf g.brick.wall) va .read = false ∧
      s.translate (groupOf g.core) (s.gangPart g) (s.asidOf g.brick.wall) va .read = none) →
    exec (.pref gd a l2) s = .next (s.setGang g.advance)) ∧
  (∀ (gd : Guard) (a : Opnd) (s : State) (g : Gang) (ps : List (Nat × TlbEntry)), s.curGang = some g → g.Ready gd [a] →
    g.acts gd ≠ 0 → ps.map Prod.fst = lanesOf (g.acts gd) →
    (∀ p ∈ ps, s.lookup g.core (s.asidOf g.brick.wall) (bits (s.opnd g 0 a p.1) 0 56 / 128 * 128) .write = some p.2) →
    ∃ (t : State) (g1 : Gang), exec (.mirrorSync gd a) s = .next t ∧ g.OrderOnly g1 ∧ s.IssueOnly t ∧
      t.gangs = (s.setGang g1.advance).gangs ∧ s.SameMem t ∧
      ((∀ p ∈ ps, p.2.mirror = false) → t.reqs = s.reqs) ∧
      ((∃ p ∈ ps, p.2.mirror = true) → ∃ r, t.reqs = s.reqs ++ [r] ∧ r.kind = .mirrorSync)) ∧
  (∀ (gd : Guard) (s : State) (g : Gang) (l : Nat), s.Once g gd [] l →
    exec (.cctlInv gd) s =
      .next (({ s with l1 := s.l1.filter fun x => x.core != g.core || x.ro } : State).setGang g.advance) ∧
    exec (.cctlInvro gd) s =
      .next (({ s with l1 := s.l1.filter fun x => x.core != g.core || !x.ro } : State).setGang g.advance)) ∧
  (∀ (gd : Guard) (a : Opnd) (s : State) (g : Gang) (ps : List (Nat × TlbEntry)), s.curGang = some g → g.Ready gd [a] →
    ps.map Prod.fst = lanesOf (g.acts gd) →
    (∀ p ∈ ps, s.lookup g.core (s.asidOf g.brick.wall) (bits (s.opnd g 0 a p.1) 0 56) .read = some p.2) →
    ∃ t : State, exec (.cctlLine gd a) s = .next (t.setGang g.advance) ∧ t = { s with l1 := t.l1 } ∧
      ∀ x, x ∈ t.l1 ↔ x ∈ s.l1 ∧ ¬ (x.core = g.core ∧
        ∃ p ∈ ps, x.line = p.2.phys (footOf g.core) (bits (s.opnd g 0 a p.1) 0 56) / 128)) ∧
  (∀ (gd : Guard) (a : Opnd) (s : State) (g : Gang), s.curGang = some g → g.Ready gd [a] →
    s.softWaits g (g.acts gd) (fun l => bits (s.opnd g 0 a l) 0 56) = false →
    ∃ t : State, exec (.cctlLine gd a) s = .next (t.setGang g.advance) ∧
      t = { s with l1 := t.l1, gtlb := t.gtlb, slices := t.slices, peers := t.peers, sent := t.sent } ∧
      ∀ x ∈ t.l1, x ∈ s.l1)

/-- 08:R168-R171, R183: LDS and LDC push, late, the bytes at their offsets when every one lies in an allotment, is
aligned, written, correctable and held by no watermark, once no acquire that they follow is open (20:R385). Lanes whose brick is on
another core read when the access has reached it, 3 cycles after its issue (that cycle is read by inference, log 38). -/
def Obligations.ScratchLoadsReturnBytes : Prop :=
  ∀ (i : Instr) (course : Bool) (gd : Guard) (t : Ty) (d : Dest) (a : Opnd) (imm : BitVec 24) (s : State) (g : Gang)
    (at' : Nat → Brick × Nat) (ls : List Nat), i.wf = true → i = (if course then .ldc gd t d a imm else .lds gd t d a imm) →
    s.curGang = some g → g.Ready gd [a] → g.acts gd ≠ 0 →
    (∀ l ∈ lanesOf (g.acts gd), s.spadPlace g course t.bytes
      ((s.opnd g 0 a l).setWidth 32 + imm.signExtend 32 : BitVec 32).toNat l = .ok (at' l)) →
    let far := fun (l : Nat) => (at' l).1.away g
    (g.reaching = false → s.waitsFor g g.after = []) → s.lanesNow g (g.acts gd) far = some ls → struckOf g.got = [] →
    (∀ l ∈ if g.reaching then ls else lanesOf (g.acts gd), (at' l).1.held (at' l).2 t.bytes = false) →
    (∀ l ∈ ls, (at' l).1.allWritten (at' l).2 t.bytes = true ∧ s.badSpad (at' l).1 (at' l).2 t.bytes = none) →
    let got := g.got ++ ls.map fun l =>
      (l, 0, tyReg t (leNat ((List.range t.bytes).map fun k => (at' l).1.byte ((at' l).2 + k))))
    ∃ x : List (RelInfo × List BKey),
      (g.goesFar (g.acts gd) far = true → exec i s =
        .next (s.setGang { g with seenRel := x, wait := .reaching (s.cycle + 3) true got })) ∧
      (g.goesFar (g.acts gd) far = false → exec i s =
        .next (s.pushesLate { g with seenRel := x } (g.acts gd) d (valueOf got)))

/-- 08:R168-R171, R183: STS and STC write the low bytes of their data, lowest lane first, where they lie in an allotment;
every other byte of every brick is as before, and nothing but scratchpads, what they remember of releases (20:R390) and
their marks changes. Lanes whose brick is on another core write when the access has reached it, 3 cycles after its issue (that
cycle is read by inference, log 38). -/
def Obligations.ScratchStoresWriteBytes : Prop :=
  ∀ (i : Instr) (course : Bool) (gd : Guard) (t : Ty) (a b : Opnd) (imm : BitVec 24) (s : State) (g : Gang)
    (at' : Nat → Brick × Nat) (ls : List Nat), i.wf = true → i = (if course then .stc gd t a b imm else .sts gd t a b imm) →
    s.curGang = some g → g.Ready gd [a, b] → (s.bricks.map Brick.key).Nodup →
    (∀ l ∈ lanesOf (g.acts gd), s.spadPlace g course t.bytes
      ((s.opnd g 0 a l).setWidth 32 + imm.signExtend 32 : BitVec 32).toNat l = .ok (at' l)) →
    let far := fun (l : Nat) => (at' l).1.away g
    (g.reaching = false → s.waitsFor g (g.after ++ g.afterSt ++ g.hb) = []) → s.lanesNow g (g.acts gd) far = some ls →
    struckOf g.got = [] →
    ∃ u : State, s.Stored u ls t.bytes (fun l => .ok (at' l)) (s.opnd g 0 b) ∧
      (g.goesFar (g.acts gd) far = true → exec i s =
        .next (u.setGang { g with wait := .reaching (s.cycle + 3) false (g.got ++ ls.map fun l => (l, 0, 0)) })) ∧
      (g.goesFar (g.acts gd) far = false → exec i s = .next (u.setGang g.advance))

/-- 08:R170, R171, 06:R122: a lane of a scratchpad load or store that has no place, or of a load that reads a granule nothing has
written, is struck: its brick is quarantined, its `fm` bit is set and it leaves; the other lanes of the access have their values or
their bytes, and go on. -/
def Obligations.StruckLanesLeave : Prop :=
  ∀ (course : Bool) (gd : Guard) (t : Ty) (d : Dest) (a b : Opnd) (imm : BitVec 24) (s : State) (g : Gang) (ls : List Nat),
    s.curGang = some g →
    let m := g.acts gd
    let place := fun (l : Nat) =>
      s.spadPlace g course t.bytes ((s.opnd g 0 a l).setWidth 32 + imm.signExtend 32 : BitVec 32).toNat l
    let far := fun (l : Nat) => g.farAt (place l)
    let out := fun (bad : List (Nat × Nat)) => maskOf fun l => bad.any fun x => x.1 == l
    m ≠ 0 → s.lanesNow g m far = some ls → g.goesFar m far = false →
    (∀ i : Instr, i.wf = true → i = (if course then .ldc gd t d a imm else .lds gd t d a imm) → g.Ready gd [a] →
      (g.reaching = false → s.waitsFor g g.after = []) → (∀ l ∈ if g.reaching then ls else lanesOf m, heldAt t.bytes (place l) = false) →
      (∀ l ∈ ls, ∀ w, s.spadRead course t (place l) ≠ .bad w) →
      let got := g.got ++ ls.filterMap fun l => (s.spadRead course t (place l)).got l
      let bad := struckOf got
      bad ≠ [] →
      (∀ l ∈ ls, (∀ c, place l = .error c → (l, c) ∈ bad) ∧
        ∀ x off, place l = .ok (x, off) →
          (x.allWritten off t.bytes = false → (l, if course then 0x04 else 0x02) ∈ bad) ∧
          (x.allWritten off t.bytes = true → (l, 0, tyReg t (leNat (x.readN off t.bytes))) ∈ got)) ∧
      ∃ y : List (RelInfo × List BKey),
        let p := s.late { g with seenRel := y } (m &&& ~~~(out bad)) d (valueOf got)
        let r := p.1.quarantine p.2 bad
        exec i s = .next (r.1.leave r.2 (out bad) Gang.advance) ∧ r.2 = { p.2 with fm := g.fm ||| out bad }) ∧
    (∀ i : Instr, i.wf = true → i = (if course then .stc gd t a b imm else .sts gd t a b imm) → g.Ready gd [a, b] →
      (s.bricks.map Brick.key).Nodup → (g.reaching = false → s.waitsFor g (g.after ++ g.afterSt ++ g.hb) = []) →
      let bad := struckOf (g.got ++ ls.map fun l => (l, match place l with
        | .error c => c
        | .ok _ => 0, 0))
      bad ≠ [] → (∀ l ∈ ls, ∀ c, place l = .error c → (l, c) ∈ bad) ∧
      ∃ u : State, s.Stored u ls t.bytes place (s.opnd g 0 b) ∧
        let r := u.quarantine g bad
        exec i s = .next (r.1.leave r.2 (out bad) Gang.advance) ∧ r.2 = { g with fm := g.fm ||| out bad })

/-! ### Engines (files 07, 09, 12, 13, 18) -/

/-- 09:R196-R205, R209, R213: COPY, COPYL and MC.LD arm their watermark and token and enter the copy pipe; a copy of an
empty box is complete at once; a descriptor, a window or a watermark that fails the checks of R200 traps, and MC.LD outside its group.
That a plain copy keeps LANDED, RELEASED, ITERS and NSTG of its watermark (log 41) and that MC_GROUP is checked last (log 15) are the
model's choices. -/
def Obligations.CopiesStart : Prop :=
  (∀ (i : Instr) (f : CopyForm) (s : State) (g : Gang) (l : Nat) (bk : Brick) (x : Box), i.wf = true →
    copyForm i = some f → f.Goes s g l bk x →
    (x.empty = false → ∃ t : State, exec i s = .next t ∧ t.copies = s.copies ++ [f.op s g l bk x] ∧
      t.gangs = (s.setGang (g.arm f.tok).advance).gangs ∧
      t.brick? bk.key = some { bk with w := vset bk.w f.w (f.armed (vget bk.w f.w) s.nextId x) } ∧
      t.mcreqs = s.mcreqs ++ (match f.grp with
        | some n => [⟨s.nextId, false, bk.key, n, (BitVec.ofNat 64 (bits (s.opnd g 0 f.a l) 0 56), x.e0, x.dims.map fun d => (d.e, d.s))⟩]
        | none => []) ∧ s.SameMem t) ∧
    (x.empty = true → ∃ t : State, exec i s = .next t ∧ s.SameMem t ∧
      (f.loop = false → t.gangs = (s.setGang g.advance).gangs ∧
        t.brick? bk.key = some { bk with w := vset bk.w f.w { f.armed (vget bk.w f.w) s.nextId x with
          value := BitVec.ofNat 20 (f.limit x), gen := (vget bk.w f.w).gen + 1 } }) ∧
      (f.loop = true → ∃ y, t.brick? bk.key = some { bk with w := vset bk.w f.w y } ∧ y.armed = true ∧ y.loop = true ∧
        y.value = y.limit ∧ y.landed = BitVec.ofNat 20 (Nat.min x.iters (x.nstg + 1)) ∧
        y.gen = (vget bk.w f.w).gen + BitVec.ofNat 16 (Nat.min x.iters (x.nstg + 1))))) ∧
  (∀ (i : Instr) (f : CopyForm) (s : State) (g : Gang) (l : Nat) (bk : Brick), i.wf = true → copyForm i = some f →
    s.Once g f.gd [f.a, f.b] l → s.brick? (g.lane l).brick = some bk →
    let av := s.opnd g 0 f.a l
    let bv := s.opnd g 0 f.b l
    let off := bits bv 0 19
    let n := 16 * f.n
    let plain := f.n = 1 ∧ f.loop = false
    let unread := bits bv 19 45 ≠ 0 ∨ off % 8 ≠ 0 ∨ bk.size < off + n ∨ bk.allWritten off n = false
    (plain → (bits bv 20 44 ≠ 0 ∨ 524288 < bits bv 0 20) → exec i s = s.trapEm g 0x20 av) ∧
    (¬ plain → unread → exec i s = s.trapEm g 0x20 (BitVec.ofNat 64 off)) ∧
    (¬ plain → ¬ unread → s.badSpad bk off n = none → boxOf f.loop (bk.words off (2 * f.n)) = none →
      exec i s = s.trapEm g 0x20 (BitVec.ofNat 64 off)) ∧
    ∀ x : Box, (plain ∨ s.badSpad bk off n = none) → bk.boxAt f.loop f.n av bv = .ok x →
      let fits := f.limit x ≤ bk.size ∧ (f.loop = true ∨ f.grp.isSome = true → f.base % 32 = 0) ∧ s.sourceOk bk f.sp av x = true
      let rings := (vget bk.w f.w).loop = true ∧ (vget bk.w f.w).landed.toNat < (vget bk.w f.w).iters.toNat
      (¬ fits → exec i s = s.trapEm g 0x21 av) ∧ (fits → rings → exec i s = s.trapEm g 0x22 av) ∧
      ∀ k, fits → ¬ rings → f.grp = some k → s.enrolled bk k = false → exec i s = s.trapEm g 0x24 av)

/-- 09:R210-R212: WMARK.REL frees a stage, waits or traps; WMARK.WAITG passes or waits; MC.JOIN makes its brick a member of a
group and sets the group's timer and owner when it was empty; MC.LEAVE ends the membership. -/
def Obligations.WatermarksAndGroups : Prop :=
  (∀ (gd : Guard) (w : BitVec 3) (s : State) (g : Gang) (l : Nat) (b : Brick), s.Once g gd [] l →
    s.brick? (g.lane l).brick = some b →
    let x := vget b.w w.toNat
    (x.loop = true → x.released ≠ x.iters → x.released ≠ x.landed → exec (.wmarkRel gd w) s =
      .next ((s.setBrick { b with w := vset b.w w.toNat { x with
        released := x.released + 1
        rels := x.rels ++ [⟨x.released.toNat + x.nstg.toNat + 1, g.gid, s.nextId⟩] } }).setGang g.advance)) ∧
    (x.loop = false ∨ x.released = x.iters → exec (.wmarkRel gd w) s = s.trapEm g 0x23 0) ∧
    (x.loop = true → x.released ≠ x.iters → x.released = x.landed →
      exec (.wmarkRel gd w) s = .next (s.setGang { g with wait := .stalled }))) ∧
  (∀ (gd : Guard) (w : BitVec 3) (a : Opnd) (s : State) (g : Gang) (l : Nat) (b : Brick), s.Once g gd [a] l →
    s.brick? (g.lane l).brick = some b →
    let ahead := ((vget b.w w.toNat).gen - (s.opnd g 0 a l).setWidth 16).toNat
    exec (.wmarkWaitg gd w a) s =
      .next (s.setGang (if ahead < 2 ^ 15 then g.advance else { g with wait := .stalled }))) ∧
  (∀ (gd : Guard) (tok : Tok) (a b : Opnd) (s : State) (g : Gang) (l : Nat) (bk : Brick), s.Once g gd [a, b] l →
    s.brick? (g.lane l).brick = some bk →
    let grp := bits (s.opnd g 0 a l) 0 6
    let r := s.mcGroup (footOf bk.core) grp
    let t := bits (s.opnd g 0 b l) 0 15
    bits (s.opnd g 0 a l) 6 58 = 0 → (r.members = [] ∨ r.owner = s.asidOf bk.key.wall) → r.members.length < 64 → 0 < t →
    t ≤ 20312 → g.tokFull tok = false → ∃ u : State, exec (.mcJoin gd tok a b) s = .next (u.setGang g.advance) ∧
      bk.key ∈ (u.mcGroup (footOf bk.core) grp).members ∧ (∀ k ∈ r.members, k ∈ (u.mcGroup (footOf bk.core) grp).members) ∧
      (r.members = [] → (u.mcGroup (footOf bk.core) grp).timer = t ∧
        (u.mcGroup (footOf bk.core) grp).owner = s.asidOf bk.key.wall)) ∧
  (∀ (gd : Guard) (tok : Tok) (a : Opnd) (s : State) (g : Gang) (l : Nat) (bk : Brick), s.Once g gd [a] l →
    s.brick? (g.lane l).brick = some bk → bits (s.opnd g 0 a l) 6 58 = 0 → g.tokFull tok = false →
    let grp := bits (s.opnd g 0 a l) 0 6
    ∃ u : State, exec (.mcLeave gd tok a) s = .next (u.setGang g.advance) ∧
      bk.key ∉ (u.mcGroup (footOf bk.core) grp).members)

/-- 12:R243, R244: GATHER, SCATTER and SCATTER.ADD arm their token, a gather its watermark, and enter the gather pipe; one
of no element is complete at once; a misaligned address, a list, mask or window that fails the checks, and a gather into a ring that
still lands trap. -/
def Obligations.GathersStart : Prop :=
  (∀ (i : Instr) (f : IdxForm) (s : State) (g : Gang) (l : Nat) (bk : Brick), i.wf = true → idxForm i = some f →
    f.Goes s g l bk →
    (f.count s g l ≠ 0 → ∃ t : State, exec i s = .next t ∧ t.idxops = s.idxops ++ [f.op s g l bk] ∧
      t.gangs = (s.setGang (g.arm f.tok).advance).gangs ∧
      (f.gather = true → ∃ y, t.brick? bk.key = some { bk with w := vset bk.w f.w y } ∧ y.armed = true ∧ y.loop = false ∧
        y.base = BitVec.ofNat 20 f.base ∧ y.value = y.base ∧
        y.limit = BitVec.ofNat 20 (f.base + f.count s g l * f.t.bytes)) ∧
      (f.gather = false → t.bricks = s.bricks) ∧ s.SameMem t) ∧
    (f.count s g l = 0 → ∃ t : State, exec i s = .next t ∧ s.SameMem t ∧ t.gangs = (s.setGang g.advance).gangs ∧
      (f.gather = true → ∃ y, t.brick? bk.key = some { bk with w := vset bk.w f.w y } ∧ y.armed = true ∧ y.loop = false ∧
        y.base = BitVec.ofNat 20 f.base ∧ y.value = y.base ∧ y.limit = y.base ∧ y.gen = (vget bk.w f.w).gen + 1) ∧
      (f.gather = false → ∀ k, t.brick? k = s.brick? k))) ∧
  (∀ (i : Instr) (f : IdxForm) (s : State) (g : Gang) (l : Nat) (bk : Brick), i.wf = true → idxForm i = some f →
    s.Once g f.gd [f.a, f.b] l → s.brick? (g.lane l).brick = some bk →
    let av := s.opnd g 0 f.a l
    let bv := s.opnd g 0 f.b l
    let list := f.list s g l
    let n := f.count s g l
    let bad := bv.getLsbD 19 = true ∨ bits bv 37 27 ≠ 0 ∨ 65536 < n ∨ list % 4 ≠ 0 ∨ f.base % f.t.bytes ≠ 0 ∨
      bk.size < list + 4 * n ∨ bk.size < maskOff list n + maskLen n ∨ bk.size < f.base + n * f.t.bytes
    (bits av 0 56 % f.t.bytes ≠ 0 → exec i s = s.trapEm g 0x18 (BitVec.ofNat 64 (bits av 0 56))) ∧
    (bits av 0 56 % f.t.bytes = 0 → (bad → exec i s = s.trapEm g 0x1C bv) ∧
      (¬ bad → f.gather = true → (vget bk.w f.w).loop = true → (vget bk.w f.w).landed.toNat < (vget bk.w f.w).iters.toNat →
        exec i s = s.trapEm g 0x22 av)))

/-- 12:R255, R256, R258: QUANT checks its descriptor and joins its group's queue; an empty request is complete; one whose
descriptor fails a check traps. -/
def Obligations.QuantisationStarts : Prop :=
  (∀ (gd : Guard) (f : QFmt) (tok : Tok) (a : Opnd) (src : FTy) (s : State) (g : Gang) (l : Nat) (bk : Brick) (d : QuantDesc),
    (Instr.quant gd f tok a src).wf = true → s.Once g gd [a] l → s.brick? (g.lane l).brick = some bk →
    let v := s.opnd g 0 a l
    bk.Describes s v → quantDesc (bk.words (bits v 0 19) 4) = some d → d.ok bk.size (FTy.bytes src) = true →
    g.tokFull tok = false →
    (d.empty = true → exec (.quant gd f tok a src) s = .next (s.setGang g.advance)) ∧
    (d.empty = false → (s.group (groupOf g.core)).quants.length < 8 → ∃ (t : State) (q : QuantReq),
      exec (.quant gd f tok a src) s = .next t ∧
      (t.group (groupOf g.core)).quants = (s.group (groupOf g.core)).quants ++ [q] ∧
      t.gangs = (s.setGang (g.arm tok).advance).gangs ∧ q.id = s.nextId ∧ q.gid = g.gid ∧ q.tok = tok ∧ q.brick = bk.key ∧
      q.fmt = f ∧ q.src = src ∧ q.words = bk.words (bits v 0 19) 4 ∧ q.block = 0 ∧ s.SameMem t)) ∧
  (∀ (gd : Guard) (f : QFmt) (tok : Tok) (a : Opnd) (src : FTy) (s : State) (g : Gang) (l : Nat) (bk : Brick),
    (Instr.quant gd f tok a src).wf = true → s.Once g gd [a] l → s.brick? (g.lane l).brick = some bk →
    let v := s.opnd g 0 a l
    let off := bits v 0 19
    let w := fun (i : Nat) => (bk.words off 4).getD i 0
    let traps := exec (.quant gd f tok a src) s = s.trapEm g 0x25 (BitVec.ofNat 64 off)
    ((bits v 19 45 ≠ 0 ∨ off % 8 ≠ 0 ∨ bk.size < off + 32 ∨ bk.allWritten off 32 = false) → traps) ∧
    (bk.Describes s v →
      ((bits (w 3) 56 8 ≠ 0 ∨ ∃ i < 3, bits (w i) 56 7 ≠ 0 ∨ (w i).getLsbD 63 = true ∧ bits (w i) 19 37 ≠ 0) → traps) ∧
      ∀ d : QuantDesc, quantDesc (bk.words off 4) = some d →
        (d.src.2 % FTy.bytes src ≠ 0 ∨ d.dst.2 % 256 ≠ 0 ∨ d.scl.2 % 4 ≠ 0 ∨
          ∃ x ∈ [(d.src, if d.empty then 0 else d.stride * (d.rows - 1) + 256 * d.nblk * FTy.bytes src),
              (d.dst, 256 * (d.rows * d.nblk)), (d.scl, 4 * (d.rows * d.nblk))],
            x.2 ≠ 0 ∧ (if x.1.1 then bk.size else 2 ^ 56) < x.1.2 + x.2) → traps))

/-- 18:R363: TOPK, RHIST and BIASADD check their descriptor, join the core's requests and push a status that comes when
the engine is done; a descriptor that a watermark holds is waited for, and one that fails a check traps. -/
def Obligations.SamplingStarts : Prop :=
  (∀ (i : Instr) (gd : Guard) (op : SampOp) (t : FTy) (tok : Tok) (a : Opnd) (s : State) (g : Gang) (l : Nat) (bk : Brick),
    i.wf = true → sampForm i = some (gd, op, t, tok, a) → s.Once g gd [a] l → s.brick? (g.lane l).brick = some bk →
    let v := s.opnd g 0 a l
    bk.Describes s v → bk.held (bits v 0 19) 32 = false →
    (sampFields (bk.words (bits v 0 19) 4)).ok (bk.words (bits v 0 19) 4) op bk.size (FTy.bytes t) = true →
    g.tokFull tok = false → (s.samples.filter fun r => r.core == g.core).length < 8 →
    ∃ (u : State) (r : SampReq), exec i s = .next u ∧ u.samples = s.samples ++ [r] ∧ r.id = s.nextId ∧ r.gid = g.gid ∧
      r.tok = tok ∧ r.brick = bk.key ∧ r.op = op ∧ r.t = t ∧ r.words = bk.words (bits v 0 19) 4 ∧
      u.gangs = (s.awaitsLate (g.arm tok) (g.acts gd)).gangs ∧ u.lates = (s.awaitsLate g (g.acts gd)).lates ∧ s.SameMem u) ∧
  (∀ (i : Instr) (gd : Guard) (op : SampOp) (t : FTy) (tok : Tok) (a : Opnd) (s : State) (g : Gang) (l : Nat) (bk : Brick),
    i.wf = true → sampForm i = some (gd, op, t, tok, a) → s.Once g gd [a] l → s.brick? (g.lane l).brick = some bk →
    let v := s.opnd g 0 a l
    let off := bits v 0 19
    let w := fun (i : Nat) => (bk.words off 4).getD i 0
    let d := sampFields (bk.words off 4)
    let traps := exec i s = s.trapEm g 0x74 (BitVec.ofNat 64 off)
    let outside := bits v 19 45 ≠ 0 ∨ off % 8 ≠ 0 ∨ bk.size < off + 32
    let room := fun (n al : Nat) => d.aux.2 % al ≠ 0 ∨ d.aux.1 = true ∧ bk.size < d.aux.2 + n
    (outside → traps) ∧
    (¬ outside → bk.held off 32 = true → exec i s = .next (s.setGang { g with wait := .stalled })) ∧
    (¬ outside → bk.held off 32 = false → bk.allWritten off 32 = false → traps) ∧
    (bk.Describes s v → bk.held off 32 = false →
      ((bits (w 0) 56 8 ≠ 0 ∨ bits (w 1) 24 8 ≠ 0 ∨ bits (w 2) 56 7 ≠ 0 ∨ bits (w 3) 56 8 ≠ 0 ∨ d.vec % FTy.bytes t ≠ 0) → traps) ∧
      (op = .topk → (room (8 * d.k) 8 ∨ d.k = 0 ∨ 1024 < d.k ∨ bits (w 1) 43 21 ≠ 0 ∨ d.mask % 8 ≠ 0) → traps) ∧
      (op = .rhist → (room 1024 4 ∨ FTy.bytes t ≤ d.digit ∨ bits (w 1) 34 6 ≠ 0 ∨ 2 ^ (8 * d.digit) ≤ d.pre ∨ d.mask % 8 ≠ 0) →
        traps) ∧
      (op = .biasadd → (room (8 * d.nb) 8 ∨ bits (w 1) 52 12 ≠ 0) → traps)))

/-- 07:R147, R150, R160, 13:R275: the instructions of the matrix engine enter the queue of their brick's core, or travel
to it, and arm their token; the first operand that is misaligned traps, then the first that leaves the allotment; ACC.GET pushes values
that come when the engine reaches it. That bits 63:56 of an operand address
are ignored is log 34, the row bytes checked for ACC.LD and ACC.ST are log 35 (DESIGN CHOICE). -/
def Obligations.MatrixInstructionsIssue : Prop :=
  (∀ (i : Instr) (f : MatForm) (s : State) (g : Gang) (l : Nat) (b : Brick), i.wf = true → matForm i = some f →
    f.Goes s g l b → ∃ (t : State) (e : MatEntry), exec i s = .next t ∧ e.IsNew s g b i f.tok l ∧
      e.a = s.opnd g 0 f.a l ∧ e.b = s.opnd g 0 f.b l ∧ s.MatIssued t g b e ∧
      t.gangs = (s.setGang (g.arm f.tok).advance).gangs ∧ t.bricks = s.bricks ∧ s.SameMem t) ∧
  (∀ (i : Instr) (f : MatForm) (s : State) (g : Gang) (l : Nat) (b : Brick) (pre post : List MatOp) (o : MatOp), i.wf = true →
    matForm i = some f → s.Once g f.gd f.os l → s.brick? (g.lane l).brick = some b →
    f.ops (s.opnd g 0 f.a l) (s.opnd g 0 f.b l) = pre ++ o :: post →
    let aligned := fun (o : MatOp) => bits o.addr 0 56 % o.align = 0
    let leaves := fun (o : MatOp) => o.spad = true ∧ b.size < bits o.addr 0 56 + 63 * o.stride + o.row
    ((∀ x ∈ pre, aligned x) → ¬ aligned o → exec i s = s.trapEm g 0x1A (BitVec.ofNat 64 (bits o.addr 0 56))) ∧
    ((∀ x ∈ pre ++ o :: post, aligned x) → (∀ x ∈ pre, ¬ leaves x) → leaves o →
      exec i s = s.trapEm g 0x1B (BitVec.ofNat 64 (bits o.addr 0 56)))) ∧
  (∀ (gd : Guard) (ty : Ty) (c : BitVec 3) (a : Opnd) (s : State) (g : Gang) (l : Nat) (b : Brick), s.Once g gd [a] l →
    s.brick? (g.lane l).brick = some b → (b.core = g.core → s.mqHolds b.core = false) →
    ∃ (t : State) (e : MatEntry), exec (.accGet gd ty c a) s = .next t ∧ e.IsNew s g b (.accGet gd ty c a) none l ∧
      (∀ j < 32, Lanes.at e.avals j = s.opnd g 0 a j) ∧ s.MatIssued t g b e ∧
      t.gangs = (s.awaitsLate g (g.acts gd)).gangs ∧ t.lates = (s.awaitsLate g (g.acts gd)).lates ∧ t.bricks = s.bricks ∧
      s.SameMem t)

/-- 13:R266-R270, R281: a gang that may reorder arrives at REORDER.PACK, REORDER.ALIGN or REORDER.COUNT and waits; when it
is the course's only participant the gathering is complete and the sorter is the course's; the issue checks trap. -/
def Obligations.ReordersArrive : Prop :=
  ∀ (i : Instr) (count : Bool) (gd : Guard) (key : Opnd) (base : BitVec 6) (mask : BitVec 16) (d : Dest) (s : State) (g : Gang)
    (l : Nat), i.wf = true →
    (i = .reorderPack gd key base mask ∨ i = .reorderAlign gd key base mask) ∧ count = false ∨
      i = .reorderCount gd d key ∧ count = true →
    s.Once g gd [key] l →
    (g.reord = false → exec i s = s.trapEm g 0x30 0) ∧
    (g.reord = true → g.depth ≠ 0 → exec i s = s.trapEm g 0x31 0) ∧
    (g.reord = true → g.depth = 0 → count = false → (∃ j : Fin 8, g.out[j] ≠ 0) → exec i s = s.trapEm g 0x32 0) ∧
    (∀ c : Course, g.reord = true → g.depth = 0 → (count = true ∨ ∀ j : Fin 8, g.out[j] = 0) → s.lateOpen g.gid = false →
      g.badTag gd key (if count then [] else payloadRegs base mask) = none →
      s.courseOf g.brick = some c → (c.state = .idle ∨ c.state = .gathering) →
      let expected := if c.state = .idle then (s.participants c.key).map Gang.gid else c.expected
      let arrived := (if c.state = .idle then [] else c.arrived) ++ [g.gid]
      ((∃ x ∈ expected, x ∉ arrived) → ∃ (t : State) (c' : Course), exec i s = .next t ∧ t.course? c.key = some c' ∧
        c'.state = .gathering ∧ c'.expected = expected ∧ c'.arrived = arrived ∧
        c'.tags.length = (if c.state = .idle then 0 else c.tags.length) + (lanesOf g.live).length ∧
        t.gangs = (s.setGang { g with wait := .gathered }).gangs ∧ s.SameMem t) ∧
      (c.state = .idle → expected = [g.gid] → g.instr = some i → (count = true ∨ s.pendingBar c = none) →
        (s.group c.group).sorter = none → ∃ (t : State) (c' : Course), exec i s = .next t ∧ t.course? c.key = some c' ∧
          c'.state = .binning ∧ (t.group c.group).sorter = some c.key ∧
          t.gangs = (s.setGang { g with wait := .gathered }).gangs ∧ s.SameMem t))

/-! ### Launches, monitors, streams (files 06, 16, 18) -/

/-- 16:R328, R329: LREC.NEW makes a record of one brick with the gang's class; LREC.SET and LREC.WAIT change one, and
trap without one, or at a third wait. -/
def Obligations.LaunchRecordsBuilt : Prop :=
  (∀ (gd : Guard) (a b : Opnd) (s : State) (g : Gang) (l : Nat), s.Once g gd [a, b] l →
    ∃ p : Packet, exec (.lrecNew gd a b) s = .next (s.setGang ({ g with lr := p, lrv := true } : Gang).advance) ∧
      vget p 0 = ((s.opnd g 0 b l).extractLsb' 8 48).setWidth 64 <<< 16 ∧
      vget p 1 = ((s.opnd g 0 a l).setWidth 56).setWidth 64 ∧
      vget p 2 = 0x100010001 + BitVec.ofNat 64 (2 ^ 57 * (s.classOf g.brick.wall % 4)) ∧
      ∀ j, 3 ≤ j → j < 8 → vget p j = 0) ∧
  (∀ (i : Instr) (gd : Guard) (os : List Opnd) (p : Packet) (s : State) (g : Gang) (l : Nat), i.wf = true →
    recordForm i (fun o => s.opnd g 0 o l) g.lr = some (gd, os, p) → s.Once g gd os l →
    (g.lrv = true → exec i s = .next (s.setGang ({ g with lr := p } : Gang).advance)) ∧
    (g.lrv = false → exec i s = s.trapEm g 0x59 0)) ∧
  (∀ (gd : Guard) (a b : Opnd) (s : State) (g : Gang) (l : Nat), s.Once g gd [a, b] l → g.lrv = true →
    2 ≤ ((vget g.lr 2).extractLsb' 59 2).toNat → exec (.lrecWait gd a b) s = s.trapEm g 0x59 0)

/-- 16:R330, R331: LAUNCH copies a record that is in form, of class 1 at least and no class above its own, to its brick's
pending queue and pushes 0; with a full queue it pushes 2, or asks the launch writer when the wall has an overflow
ring; another record traps. -/
def Obligations.LaunchesAreRouted : Prop :=
  ∀ (gd : Guard) (tok : Tok) (s : State) (g : Gang) (l : Nat) (b : Brick), s.Once g gd [] l →
    s.brick? (g.lane l).brick = some b →
    let p : Packet := g.lr
    let good := g.lrv = true ∧ p.formOk = true ∧ p.cls ≠ 0 ∧ s.classOf g.brick.wall ≤ p.cls
    let ring := ((s.header? b.key.wall).map LHeader.ovfq).getD 0
    (¬ good → exec (.launch gd tok) s = s.trapEm g 0x58 0) ∧
    (good → g.tokFull tok = false → b.pendq.length < 4 → ∃ r : PendRec, r.words = p ∧ r.entered = s.cycle ∧ r.gid = g.gid ∧
      r.tok = tok ∧ exec (.launch gd tok) s =
        .next ((s.setBrick { b with pendq := b.pendq ++ [r] }).pushesLate (g.arm tok) (g.acts gd) .none fun _ => 0)) ∧
    (good → g.tokFull tok = false → 4 ≤ b.pendq.length → ring = 0 →
      exec (.launch gd tok) s = .next (s.pushesLate g (g.acts gd) .none fun _ => 2)) ∧
    (good → g.tokFull tok = false → 4 ≤ b.pendq.length → ring ≠ 0 → ∃ (t : State) (r : OvfReq),
      exec (.launch gd tok) s = .next t ∧ t.ovf = s.ovf ++ [r] ∧ r.id = s.nextId ∧ r.words = p ∧ r.gid = g.gid ∧ r.tok = tok ∧
      t.gangs = (s.awaitsLate (g.arm tok) (g.acts gd)).gangs)

/-- 06:R137, 16:R333: MONITOR pushes the word at its home slice when it differs from operand B, or when the gang has been
woken, and waits otherwise; JOINC pushes a counter that has reached operand B, and waits otherwise. The slice takes the line
(08:R176), and the read of a host's or a peer's word goes out (22:R410). -/
def Obligations.MonitorsAndJoins : Prop :=
  (∀ (gd : Guard) (d : Dest) (a b : Opnd) (s : State) (g : Gang) (l : Nat) (e : TlbEntry), s.Once g gd [a, b] l →
    let va := bits (s.opnd g 0 a l) 0 56 / 8 * 8
    let pa := e.phys (footOf g.core) va
    let home := s.homeFoot (s.gangPart g) pa
    let w := (s.mem home).word pa
    let s1 := (s.touchLine home pa false).readOut (s.gangPart g) pa 8
    s.lookup g.core (s.asidOf g.brick.wall) va .read = some e → s.homeFree g pa = true → s.missRoom home pa = true →
    s.poisoned pa = false → s.portShut pa = false →
    (w ≠ s.opnd g 0 b l ∨ g.woken = true → ∃ (t : State) (v : LateVal), exec (.monitor gd d a b) s = .next t ∧
      t.lates = s.lates ++ [v] ∧ v.gid = g.gid ∧ v.dest = d ∧ v.lanes = g.acts gd ∧ v.ready = true ∧
      (∀ j < 32, Lanes.at v.vals j = w) ∧ s.SameMem t) ∧
    (w = s.opnd g 0 b l → g.woken = false → exec (.monitor gd d a b) s =
      .next (s1.setGang { g with spins := g.spins + 1, wait := .monitor ⟨pa / 128, pa, s.cycle, false, false⟩ }))) ∧
  (∀ (gd : Guard) (a b : Opnd) (s : State) (g : Gang) (l : Nat) (e : TlbEntry), s.Once g gd [a, b] l →
    let va := bits (s.opnd g 0 a l) 0 56
    let pa := e.phys (footOf g.core) va
    let home := s.homeFoot (s.gangPart g) pa
    let w := (s.mem home).word pa
    let s1 := (s.touchLine home pa false).readOut (s.gangPart g) pa 8
    va % 8 = 0 → s.lookup g.core (s.asidOf g.brick.wall) va .read = some e → s.homeFree g pa = true →
    s.missRoom home pa = true → s.poisoned pa = false → s.portShut pa = false →
    (0 ≤ (w - s.opnd g 0 b l).toInt → ∃ (t : State) (v : LateVal), exec (.joinc gd a b) s = .next t ∧
      t.lates = s.lates ++ [v] ∧ v.gid = g.gid ∧ v.dest = .none ∧ v.lanes = g.acts gd ∧ v.ready = true ∧
      (∀ j < 32, Lanes.at v.vals j = w) ∧ s.SameMem t) ∧
    ((w - s.opnd g 0 b l).toInt < 0 → exec (.joinc gd a b) s =
      .next (s1.setGang { g with wait := .joinc (BitVec.ofNat 56 va) (s.opnd g 0 b l) (match g.wait with
        | .joinc _ _ t => t
        | _ => s.cycle) })))

/-- 18:R359-R362: on an admitted stream of the gang's address space STRM.STAT, STRM.PAGE, STRM.RESERVE, STRM.COMMIT,
STRM.PAGE.W, STRM.PAGE.C, PGALLOC and PGFREE have their effects and push their values late; on any other they take STREAM_ACCESS,
outside the running step the writing ones take STREAM_STATE, as a commit of more rows than are reserved does, and an entry or a page out
of range PAGE_RANGE, a page that is not the stream's or is in a table PAGE_STATE. An allocation whose page cannot be zeroed yet waits,
by the model's choice (log 26). -/
def Obligations.StreamInstructionsRun : Prop :=
  (∀ (i : Instr) (gd : Guard) (os : List Opnd) (d : Dest) (tok : Tok) (a b c : Opnd) (s : State) (g : Gang) (l : Nat),
    s.Once g gd os l →
    let n := bits (s.opnd g 0 a l) 0 18
    ((i = .strmStat gd d a ∨ i = .pgalloc gd a) ∧ os = [a] ∨
        (i = .strmPage gd d a b ∨ i = .strmReserve gd d a b ∨ i = .strmCommit gd d a b ∨ i = .pgfree gd tok a b) ∧ os = [a, b] ∨
        (i = .strmPageW gd d a b c ∨ i = .strmPageC gd d a b c) ∧ os = [a, b, c] →
      (∀ x, s.stream? n = some x → x.asid ≠ s.asidOf g.brick.wall) → exec i s = s.trapEm g 0x70 (s.opnd g 0 a l)) ∧
    ((i = .strmReserve gd d a b ∨ i = .strmCommit gd d a b) ∧ os = [a, b] ∨
        (i = .strmPageW gd d a b c ∨ i = .strmPageC gd d a b c) ∧ os = [a, b, c] →
      ∀ x, s.stream? n = some x → x.asid = s.asidOf g.brick.wall → x.runsIn g.brick = false →
        exec i s = s.trapEm g 0x71 (s.opnd g 0 a l))) ∧
  (∀ (gd : Guard) (d : Dest) (a : Opnd) (s : State) (g : Gang) (l : Nat), s.Once g gd [a] l →
    ∀ x, s.stream? (bits (s.opnd g 0 a l) 0 18) = some x → x.asid = s.asidOf g.brick.wall →
      exec (.strmStat gd d a) s = .next (s.pushesLate g (g.acts gd) d fun _ => x.status)) ∧
  (∀ (gd : Guard) (d : Dest) (a b : Opnd) (s : State) (g : Gang) (l : Nat) (x : Stream), s.Once g gd [a, b] l →
    s.stream? (bits (s.opnd g 0 a l) 0 18) = some x → x.asid = s.asidOf g.brick.wall →
    let i := bits (s.opnd g 0 b l) 0 9
    ((i < x.nslot ∨ 256 ≤ i ∧ i ≤ 271) →
      exec (.strmPage gd d a b) s = .next (s.pushesLate g (g.acts gd) d fun _ => s.pageEntry x i)) ∧
    (x.nslot ≤ i → (i < 256 ∨ 271 < i) → exec (.strmPage gd d a b) s = s.trapEm g 0x72 (s.opnd g 0 b l)) ∧
    (x.runsIn g.brick = true → let n := bits (s.opnd g 0 b l) 0 11
      (∃ t, exec (.strmReserve gd d a b) s = .next t) ∧
      (x.rsv + n ≤ x.specheld * x.pgtok → exec (.strmReserve gd d a b) s =
        .next ((s.setStream { x with rsv := x.rsv + n }).pushesLate g (g.acts gd) d fun _ => BitVec.ofNat 64 n)) ∧
      (x.rsv < n → exec (.strmCommit gd d a b) s = s.trapEm g 0x71 (s.opnd g 0 a l)) ∧
      (∀ (t : State) (y : Stream), n ≤ x.rsv → s.commitRows g x.num 0 n = .ok () t → t.stream? x.num = some y →
        exec (.strmCommit gd d a b) s = .next (((t.dropSpec y).1.setStream (t.dropSpec y).2).pushesLate g (g.acts gd) d
          fun _ => y.cursor)))) ∧
  (∀ (gd : Guard) (d : Dest) (a b c : Opnd) (s : State) (g : Gang) (l : Nat) (x : Stream), s.Once g gd [a, b, c] l →
    s.stream? (bits (s.opnd g 0 a l) 0 18) = some x → x.asid = s.asidOf g.brick.wall → x.runsIn g.brick = true →
    let i := bits (s.opnd g 0 b l) 0 9
    let v := s.opnd g 0 c l
    let outside := x.nslot ≤ i ∨ 256 ≤ i
    ((outside ∨ bits v 24 7 ≠ 0 ∨ s.sys.npool ≤ bits v 0 24) →
      exec (.strmPageW gd d a b c) s = s.trapEm g 0x72 (s.opnd g 0 b l)) ∧
    (¬ outside → bits v 24 7 = 0 → bits v 0 24 < s.sys.npool → v.getLsbD 31 = true → s.owns x.num (bits v 0 24) = false →
      exec (.strmPageW gd d a b c) s = s.trapEm g 0x73 (BitVec.ofNat 64 (bits v 0 24))) ∧
    ((outside ∨ x.pgtok ≤ bits v 0 6) → exec (.strmPageC gd d a b c) s = s.trapEm g 0x72 (s.opnd g 0 b l)) ∧
    (¬ outside →
    (bits v 24 7 = 0 → bits v 0 24 < s.sys.npool → (v.getLsbD 31 = true → s.owns x.num (bits v 0 24) = true) →
      exec (.strmPageW gd d a b c) s = .next ((s.setStream { x with pt := x.pt.set i ⟨bits v 0 24, v.getLsbD 31⟩ }).pushesLate
        g (g.acts gd) d fun _ => s.pageEntry x i)) ∧
    (bits v 0 6 < x.pgtok → exec (.strmPageC gd d a b c) s =
      .next ((s.setStream { x with wslot := i, woff := bits v 0 6 }).pushesLate g (g.acts gd) d
        fun _ => s.pageEntry x i)))) ∧
  (∀ (gd : Guard) (a : Opnd) (s : State) (g : Gang) (l : Nat) (x : Stream), s.Once g gd [a] l →
    s.stream? (bits (s.opnd g 0 a l) 0 18) = some x → x.asid = s.asidOf g.brick.wall →
    (x.cbud ≤ x.held → exec (.pgalloc gd a) s = .next (s.pushesLate g (g.acts gd) .none fun _ => BitVec.allOnes 64)) ∧
    (s.takePage x.num = none → exec (.pgalloc gd a) s = .next (s.pushesLate g (g.acts gd) .none fun _ => BitVec.allOnes 64)) ∧
    (∀ (p : Nat) (t : State), x.held < x.cbud → s.takePage x.num = some (p, t) →
      (∀ u, t.zeroPage x p = some u → exec (.pgalloc gd a) s =
        .next ((u.setStream { x with held := x.held + 1 }).pushesLate g (g.acts gd) .none fun _ => BitVec.ofNat 64 p)) ∧
      (t.zeroPage x p = none → exec (.pgalloc gd a) s = .next (s.setGang { g with wait := .stalled })))) ∧
  (∀ (gd : Guard) (tok : Tok) (a b : Opnd) (s : State) (g : Gang) (l : Nat) (x : Stream), s.Once g gd [a, b] l →
    s.stream? (bits (s.opnd g 0 a l) 0 18) = some x → x.asid = s.asidOf g.brick.wall →
    let p := bits (s.opnd g 0 b l) 0 24
    let free := s.owns x.num p = true ∧ (∀ e ∈ x.pt ++ x.spt, e.valid = true → e.page ≠ p) ∧ x.held ≠ 0
    (s.sys.npool ≤ p → exec (.pgfree gd tok a b) s = s.trapEm g 0x72 (s.opnd g 0 b l)) ∧
    (p < s.sys.npool → ¬ free → exec (.pgfree gd tok a b) s = s.trapEm g 0x73 (BitVec.ofNat 64 p)) ∧
    (p < s.sys.npool → free → g.tokFull tok = false → exec (.pgfree gd tok a b) s =
      .next (((s.freePage p).setStream { x with held := x.held - 1 }).setGang g.advance)))

/-! ### The memory system's events (files 08, 20) -/

/-- 08:R184, R188, 20:R387: a plain store that has reached its slice writes its bytes in the view of that slice's footing,
and no other byte of any footing's view. -/
def Obligations.StoresWriteTheirBytes : Prop :=
  ∀ (s : State) (r : MemReq) (i : Nat) (a : Access) (id : Nat), s.reqs.find? (fun x => x.id == id) = some r →
    r.accs[i]? = some a → (r.kind = .store none ∨ r.kind = .posted ∨ r.kind = .storeMc) → s.accReady r i a = true →
    (a.arr = 0 → s.reachFree r (s.accSlice r a) = true) → s.cachable a.pa = true → s.holdsLine (s.accSlice r a) (a.pa / 128) = true → a.bytes ≤ 8 →
    ∃ t : State, exec (.sliceAccess id i) s = .next t ∧
      ∀ f x, (t.mem f).read x =
        if f % 4 = s.accFoot r a % 4 ∧ a.pa ≤ x ∧ x < a.pa + a.bytes then a.b.extractLsb' (8 * (x - a.pa)) 8
        else (s.mem f).read x

/-- 08:R175, R176, R188, R189, 20:R389: an access goes on at its slice, or misses there; a fill ends a miss; an atomic returns the
old word and leaves the new one; a load of course scope or wider returns the bytes at the slice, another those of its line of the L1, or
the slice's where that fills from it and no accepted store of the core lies over them; a footing applies a travelling write it may
apply; an epoch ends. -/
def Obligations.SlicesPerformAccesses : Prop :=
  (∀ (s : State) (r : MemReq) (i : Nat) (a : Access) (id : Nat), s.reqs.find? (fun x => x.id == id) = some r →
    r.accs[i]? = some a → s.accReady r i a = true → (a.arr = 0 → s.reachFree r (s.accSlice r a) = true) → s.portOf a.pa = none →
    let x := vget s.slices (s.accSlice r a)
    (s.holdsLine (s.accSlice r a) (a.pa / 128) = true ∨
      x.misses.contains (a.pa / 128) = false ∧ x.misses.length < 256) →
    ∃ t, exec (.sliceAccess id i) s = .next t) ∧
  (∀ (s : State) (r : MemReq) (i : Nat) (a : Access) (id : Nat) (op : AtomOp) (t : Ty) (sc : Scope),
    s.reqs.find? (fun x => x.id == id) = some r → r.accs[i]? = some a → r.kind = .atom op t sc .relaxed →
    s.accReady r i a = true → (a.arr = 0 → s.reachFree r (s.accSlice r a) = true) → s.cachable a.pa = true →
    s.holdsLine (s.accSlice r a) (a.pa / 128) = true → s.poisoned a.pa = false →
    let o := leNat ((s.mem (s.accFoot r a)).readN a.pa a.bytes)
    ∃ u : State, exec (.sliceAccess id i) s = .next u ∧
      ∀ f x, (u.mem f).read x =
        if f % 4 = s.accFoot r a % 4 ∧ a.pa ≤ x ∧ x < a.pa + a.bytes then
          BitVec.ofNat 8 (atomNew op t o a.b.toNat a.c.toNat / 256 ^ (x - a.pa))
        else (s.mem f).read x) ∧
  (∀ (s : State) (r : MemReq) (i : Nat) (a : Access) (id : Nat), s.reqs.find? (fun x => x.id == id) = some r →
    r.accs[i]? = some a → s.accReady r i a = true → (a.arr = 0 → s.reachFree r (s.accSlice r a) = true) →
    s.cachable a.pa = true → s.holdsLine (s.accSlice r a) (a.pa / 128) = true → s.poisoned a.pa = false → r.arrived = false →
    r.endsEpoch = false →
    let bs := (s.mem (s.accFoot r a)).readN a.pa a.bytes
    let returns := fun (v : Word) => ∃ u : State, exec (.sliceAccess id i) s = .next u ∧
      ∃ x ∈ u.reqs, x.id = id ∧ ∃ b : Access, x.accs[i]? = some b ∧ b.lane = a.lane ∧ b.done = true ∧ b.val = v
    (∀ op t sc o, r.kind = .atom op t sc o → returns (tyReg t (leNat bs))) ∧
    (∀ t acq ro, r.kind = .load t acq ro →
      (acq.any Scope.wide = true → returns (loadVal t bs)) ∧
      (∀ x, acq.any Scope.wide = false → s.l1At r.core a.pa ro = some x → s.l1Bad r.core a.pa a.bytes ro = false →
        returns (loadVal t (lineBytes x.data a.pa a.bytes))) ∧
      (acq.any Scope.wide = false → s.l1At r.core a.pa ro = none → a.pa % 128 + a.bytes ≤ 128 →
        (∀ x ∈ s.reqs, s.onPath r.core x = true → ∀ b ∈ x.accs, b.done = false → b.pa + b.bytes ≤ a.pa ∨ a.pa + a.bytes ≤ b.pa) →
        returns (loadVal t bs)))) ∧
  (∀ (s : State) (k line : Nat), k < 96 → (vget s.slices k).misses.contains line = true →
    ∃ t : State, exec (.sliceMissFill k line) s = .next t ∧ t = { s with slices := t.slices } ∧
      line ∉ (vget t.slices k).misses ∧
      ((if s.isLocal k line then (vget s.slices k).rways < 16 else (vget s.slices k).rways ≠ 0) →
        (line, false) ∈ (vget t.slices k).lines)) ∧
  (∀ (s : State) (w : RWrite) (d id : Nat), s.writes.find? (fun x => x.id == id) = some w → s.canApply w d = true →
    ∃ t : State, exec (.remoteWriteApply id d) s = .next t ∧
      (∀ f x, f % 4 ≠ d % 4 ∨ (∀ b ∈ w.bytes, b.1 ≠ x) → (t.mem f).read x = (s.mem f).read x) ∧
      (d = w.home → d ≠ w.src → (w.bytes.map Prod.fst).Nodup → ∀ b ∈ w.bytes, (t.mem d).read b.1 = b.2)) ∧
  (∀ (s : State) (f : Nat), f < 4 →
    let x := vget s.foots f
    exec (.epochEnd f) s = .next { s with foots := vset s.foots f { x with epoch := x.epoch + 1, epochAt := s.cycle } })

/-- 04:R81, R82: when a request's values arrive, every queue entry and named register that waits for it holds the value of
its lane, every waiting `k` register the lowest lane's; no other cell changes. A value comes behind those its slice sent to the same core
group before it (02:R17). -/
def Obligations.LateValuesFillTheirCells : Prop :=
  ∀ (s : State) (id : Nat) (g : Gang) (vals : Nat → Word) (m : Mask),
    ((∃ x, s.reqs.find? (fun r => r.id == id) = none ∧ s.lates.find? (fun y => y.id == id) = some x ∧ x.ready = true ∧
        s.gang? x.gid = some g ∧ vals = Lanes.at x.vals ∧ m = x.lanes) ∨
      (∃ r, s.reqs.find? (fun r => r.id == id) = some r ∧ r.arrived = false ∧ r.performed = true ∧
        (∀ x ∈ s.reqs, s.repliesFirst x r = false) ∧
        s.gang? r.gid = some g ∧ vals = r.value ∧ m = r.lanes)) →
    ∃ (t : State) (g' : Gang), exec (.lateValueArrival id) s = .next t ∧ t.gangs = (s.setGang g').gangs ∧
      g' = { g with lanes := g'.lanes, k := g'.k, spin := g'.spin } ∧
      (∀ l < 32, (g'.lane l) = { g.lane l with q := (g'.lane l).q, n := (g'.lane l).n } ∧
        (∀ a : Fin 16, (g'.lane l).q[a] = (let x := (g.lane l).q[a]
          if x.pend = some id then { x with val := vals l, pend := none } else x)) ∧
        ∀ j : Fin 64, (g'.lane l).n[j] = (let x := (g.lane l).n[j]
          if x.pend = some id then ⟨vals l, none, false⟩ else x)) ∧
      (∀ j : Fin 32, g'.k[j] = (let x := g.k[j]
        if x.pend = some id then ⟨vals ((lowest m).getD 0), none, false⟩ else x)) ∧ s.SameMem t

/-! ### The gangs' events (03:R72, 06:R124, R137, 14:R292, R296) -/

/-- 03:R72, 06:R124, R137, 14:R292, R296: a clause decoded ahead of its issue, split-stack transfers, after which a gang with no
lane in `em` goes on resuming and the next entry follows while fewer than H are resident, the wakes of a monitor, the entry of a trap
that waited, an engine fault taken. That every footing sees a frame and a stored entry at once is the model's choice (log 13). -/
def Obligations.GangEventsHappen : Prop :=
  ∀ (s : State) (c p : Nat) (g : Gang), s.gangAt c p = some g →
    (∀ (w : Word) (h : Header) (slots : List Word) (i : Instr) (is : List (Nat × Instr)), s.blocked g = false →
      g.clause = [] → g.pendfault = none → g.owed = [] → (g.wait = .ready ∨ g.wait = .stalled) → g.pc.toNat % 8 = 0 → g.pos = 0 →
      s.fetchWord g g.pc.toNat = .got w → parseHeader w = .ok h → h.packed = 0 →
      s.fetchWords g (g.pc.toNat + 8) h.count = .got slots →
      decodeClause g.named (((s.header? g.brick.wall).map LHeader.acct).getD 0) [] h slots = .ok ((0, i) :: is) →
      exec (.clauseDecode c p) s =
        .next ((s.fetchOut g g.pc.toNat (1 + h.count)).setGang
          { g with clause := (0, i) :: is, header := some h, waited := false, wait := .stalled })) ∧
    (∀ (x : TlbEntry) (d : Nat), g.hold = none → (∀ id, g.wait ≠ .walk id) →
      (∀ e : SSEntry, g.xfer = some (.spill e d) →
        s.lookup c (s.asidOf g.brick.wall) (s.ovfVa g d) .write = some x →
        s.portBusy (x.phys (footOf c) (s.ovfVa g d)) = false → exec (.splitStackTransfer c p) s =
          .next ((s.writeAll (s.gangPart g) (x.phys (footOf c) (s.ovfVa g d)) e.bytes).setGang
            { g with xfer := none, stack := g.stack.dropLast })) ∧
      (g.xfer = some (.fill d) → s.lookup c (s.asidOf g.brick.wall) (s.ovfVa g d) .read = some x →
        let pa := x.phys (footOf c) (s.ovfVa g d)
        let foot := s.viewFoot (s.gangPart g) (footOf c) pa
        s.poisoned pa = false → s.portBusy pa = false → s.portShut pa = false →
          let e := SSEntry.ofMem (s.mem foot) pa g.live
          let s1 := (s.touchLine foot pa false).readOut (s.gangPart g) pa 32
          let more := fun (n : Nat) => if n < s.stackH g ∧ n < g.depth then some (Xfer.fill (g.depth - n - 1)) else none
          (g.em ≠ 0 → exec (.splitStackTransfer c p) s =
            .next (s1.setGang { g with stack := g.stack ++ [e], xfer := more (g.stack.length + 1) })) ∧
          (g.em = 0 → g.stack = [] → e.pend ≠ 0 → exec (.splitStackTransfer c p) s =
            .next (s1.setGang (({ g with em := e.pend, stack := [{ e with pend := 0 }], xfer := more 1 } : Gang).jump e.cont))))) ∧
    (∀ m : MonWait, g.wait = .monitor m → m.woken = false →
      exec (.monitorEarlyWake c p) s = .next (s.setGang { g with wait := .monitor { m with woken := true } }) ∧
      (m.since + 65536 ≤ s.cycle →
        exec (.monitorTimeout c p) s = .next (s.setGang { g with wait := .monitor { m with woken := true } }))) ∧
    (∀ (x : TlbEntry) (t : TrapInfo), g.hold = none → s.lateOpen g.gid = false → g.tvec ≠ 0 → g.tmode = false →
      g.frameBad = none →
      s.lookup g.core (s.asidOf g.brick.wall) (s.recordVa g + 0x6000) .write = some x →
      s.portBusy (x.phys (footOf g.core) (s.recordVa g + 0x6000)) = false →
      (causeToSystem t.cause = false ∨ t.forced = true) →
      let enters := fun (g : Gang) => (s.writeAll (s.gangPart g) (x.phys (footOf g.core) (s.recordVa g + 0x6000)) g.frame).setGang
        { g with tcause := t.tcause, tepc := t.tepc, tval := t.tval, tlanes := t.lanes, tmode := true, pc := g.tvec, pos := 0,
                 clause := [], header := none, waited := false, hint := 0, wait := .ready }
      (g.wait = .trapping t false → exec (.trapEntry c p) s = .next (enters g)) ∧
      (∀ cause v, g.pendfault = some (cause, v) → s.takes g = true →
        t = ⟨cause, v, g.em, 0, 0, g.pc, g.pos, g.lost, false⟩ →
        exec (.engineFaultTaken c p) s = .next (enters { g with pendfault := none, lost := 0 })))

/-! ### The engines' events (files 07, 12, 13, 18) -/

/-- 07:R149, R152, R153, R157, 12:R257, 13:R271, R272, R275, R277, R278, R281, R282, 18:R364-R367: steps of the matrix engine, the
cells that a step of MMA on scratchpad operands leaves, late matrix entries, blocks of a quantisation, samples, and the commit and the end
of a REORDER: where each entry goes, what its lane is there, and that lanes without an entry are not live. -/
def Obligations.EnginesDoTheirWork : Prop :=
  (∀ (s : State) (c : Nat) (e : MatEntry) (rest : List MatEntry), c < 384 → (s.core c).mq = e :: rest → e.frozen = none →
    s.working e.brick = true → s.gangHeld e.gid = false →
    (∀ (e' : MatEntry) (u : State), s.matStep c e = .ok e' u →
      let e1 := { e' with step := e'.step + 1 }
      exec (.matrixStepComplete c) s =
        .next (if e1.step = matSteps e1.instr then u.endMat c e1 else u.setMq c (e1 :: rest) 0)) ∧
    (∀ (gd : Guard) (tok : Tok) (x : BitVec 3) (b : Brick), e.instr = .accZero gd tok x → s.brick? e.brick = some b →
      ∃ (t : State) (y : Vector (List (Nat × BitVec 32)) 8), exec (.matrixStepComplete c) s = .next t ∧
        t.brick? e.brick = some { b with tiles := y } ∧
        ∀ j k, cellAt (vget y j) k =
          if j % 8 = x.toNat ∧ 512 * e.step ≤ k ∧ k < 512 * e.step + 512 then 0 else cellAt (vget b.tiles j) k)) ∧
  (∀ (s : State) (c : Nat) (e : MatEntry) (rest : List MatEntry) (gd : Guard) (ty : Ty) (tok : Tok) (x : BitVec 3) (p q : Opnd)
    (m : MmaMod) (b : Brick), c < 384 → (s.core c).mq = e :: rest → e.frozen = none → s.working e.brick = true →
    s.gangHeld e.gid = false → e.instr = .mma gd ty tok x p q m → e.instr.wf = true → m.asp = true → m.bsp = true →
    (∀ i ∈ e.deps, s.isOpen i = false) → s.brick? e.brick = some b → s.badTile b x.toNat 0 4096 = none →
    let w := ty.bytes
    let band := match ty with
      | .f32 => 8
      | .f16 | .bf16 => 32
      | _ => 64
    let j := e.step / (64 / band)
    let r0 := band * (e.step % (64 / band))
    let a' := fun (i : Nat) => bits e.a 0 56 + 32 * m.sa.toNat * (r0 + i) + 16 * w * j
    let b' := fun (k : Nat) => bits e.b 0 56 + 32 * m.sb.toNat * k + 16 * w * j
    let free := fun (off : Nat) => b.heldFor e.gid e.id off (16 * w) = false ∧ s.badSpad b off (16 * w) = none
    let elem := fun (off n : Nat) => leNat (b.engReadN (off + w * n) w)
    (∀ i < band, free (a' i)) → (∀ k < 64, free (b' k)) → ∃ (t : State) (y : Vector (List (Nat × BitVec 32)) 8),
      exec (.matrixStepComplete c) s = .next t ∧ t.brick? e.brick = some { b with tiles := y } ∧
      (∀ n < 8, n ≠ x.toNat → vget y n = vget b.tiles n) ∧
      ∀ i < 64, ∀ k < 64, cellAt (vget y x.toNat) (64 * i + k) =
        (let old := cellAt (vget b.tiles x.toNat) (64 * i + k)
         if i < r0 ∨ r0 + band ≤ i then old
         else match tyFmt ty with
           | none => old + BitVec.ofInt 32 (((List.range 16).map fun n =>
               (BitVec.ofNat 8 (elem (a' (i - r0)) n)).toInt * (BitVec.ofNat 8 (elem (b' k) n)).toInt).sum)
           | some f => BitVec.ofNat 32 (Fmt.f32.add .rne old.toNat (Fmt.f32.ofVal (FVal.sum ((List.range 16).map fun n =>
               (f.val (elem (a' (i - r0)) n)).mul (f.val (elem (b' k) n)))))))) ∧
  (∀ (s : State) (c : Nat) (a : MatArrival), s.matArrivals = [a] → a.core = c →
    a.cycle ≤ s.cycle →
    (s.mqFull c = false → ∃ t : State, exec (.matrixRemoteArrival c) s = .next t ∧ t.matArrivals = [] ∧
      (t.core c).mq = (s.core c).mq ++ [a.entry]) ∧
    (s.mqFull c = true → exec (.matrixRemoteArrival c) s = .refused .cannotOccur)) ∧
  (∀ (s : State) (k : Nat) (q : QuantReq) (rest : List QuantReq) (d : QuantDesc) (b : Brick), k < 96 →
    (s.group k).quants = q :: rest → (∀ x ∈ rest, x.id ≠ q.id) → quantDesc q.words = some d → q.frozen = none →
    s.working q.brick = true → s.gangHeld q.gid = false → s.atHome q.gid = true → (∀ i ∈ q.deps, s.isOpen i = false) → s.brick? q.brick = some b →
    d.src.1 = true → d.dst.1 = true → d.scl.1 = true →
    let w := FTy.bytes q.src
    let off := d.src.2 + d.stride * (q.block % d.rows) + 256 * (q.block / d.rows) * w
    b.heldFor q.gid q.id off (256 * w) = false → s.badSpad b off (256 * w) = none →
    let r := quantBlock q.fmt q.src (b.engReadN off (256 * w))
    ∃ t : State, exec (.quantBlockDone k) s = .next t ∧
      t.brick? q.brick = some ((b.write (d.dst.2 + 256 * q.block) r.1).write (d.scl.2 + 4 * q.block) r.2) ∧
      (t.group k).quants = (if q.block + 1 = d.rows * d.nblk then rest else { q with block := q.block + 1 } :: rest)) ∧
  (∀ (s u v : State) (r : SampReq) (xs : List (Nat × Nat)) (nans id : Nat), s.samples.find? (fun x => x.id == id) = some r →
    r.frozen = none → s.working r.brick = true → s.gangHeld r.gid = false →
    (∀ x ∈ s.samples, x.gid = r.gid → r.id ≤ x.id) →
    let d := sampFields r.words
    let y := sampResult r d xs nans
    (r.op ≠ .biasadd → s.permitted r d = .ok (xs, nans) u → u.spaceCheck r.gid r.core r.asid d.aux y.1.length = .ok () v →
      exec (.sampleComplete id) s = .next ((v.spaceWrite ⟨r.id, r.gid, r.core⟩ r.asid r.brick d.aux y.1).endSample r y.2)) ∧
    (r.op = .biasadd → d.nb ≤ r.next → exec (.sampleComplete id) s =
      .next (s.endSample r (BitVec.ofNat 64 (r.skipped % 2 ^ 24 + 2 ^ 24 * (r.nans % 2 ^ 24)))))) ∧
  (∀ (s : State) (c : Course), s.course? c.key = some c → c.state = .binning → s.courseWorks c.key = true →
    (∀ m ∈ s.marks, m.unit ≠ 1) → c.spilled = 0 →
    ∃ (t : State) (c' : Course), exec (.reorderCommit c.key.wall c.key.course) s = .next t ∧ t.course? c.key = some c' ∧
      (c.counting = true → c'.state = .idle ∧ c'.stat = c.statOf 0 ∧ c'.regrouped = true) ∧
      (c.counting = false → c'.state = .rebuilding ∧ c'.regrouped = c.regrouped)) ∧
  (∀ (s : State) (c : Course) (align : Bool) (gd : Guard) (key : Opnd) (base : BitVec 6) (mask : BitVec 16) (ts : List Tag)
    (seats : List Gang), s.course? c.key = some c → c.state = .binning → s.courseWorks c.key = true →
    (∀ m ∈ s.marks, m.unit ≠ 1) → c.spilled = 0 →
    c.word = some (if align then .reorderAlign gd key base mask else .reorderPack gd key base mask) →
    ts.Perm c.tags → ts.Pairwise (fun x y => x.key < y.key ∨ x.key = y.key ∧ (x.obrick < y.obrick ∨ x.obrick = y.obrick ∧ x.oid < y.oid)) →
    ts.length ≤ 4096 → ts.length ≤ 32 * seats.length → (∀ e ∈ ts, ∃ g ∈ s.gangs, g.gid = e.gid) →
    (s.gangs.map Gang.gid).Nodup → (∀ g, g ∈ seats ↔ g ∈ s.gangs ∧ g.gid ∈ c.arrived) →
    seats.Pairwise (fun x y => x.core < y.core ∨ x.core = y.core ∧ x.seat < y.seat) → (∀ g ∈ seats, g.seat < 16) →
    let places := placesFrom align seats.length 0 0 none (ts.map Tag.key)
    ∃ (t : State) (c' : Course), exec (.reorderCommit c.key.wall c.key.course) s = .next t ∧ t.course? c.key = some c' ∧
      c'.state = .rebuilding ∧ ∀ (i : Nat) (g : Gang), seats[i]? = some g → ∃ g' : Gang, t.gang? g.gid = some g' ∧
        g' = { g with live := g'.live, em := g'.live, fm := 0, lanes := g'.lanes, after := g'.after } ∧
        (∀ l < 32, (g'.live.getLsbD l = true ↔ (i, l) ∈ places) ∧ ∀ a : Fin 16, (g'.lane l).q[a].valid = false) ∧
        ∀ (n l : Nat) (e : Tag) (o : Gang), ts[n]? = some e → places[n]? = some (i, l) → s.gang? e.gid = some o →
          let x := o.lane e.lane
          let y := g'.lane l
          let first := (ts.filter fun u => u.key < e.key).length
          y = { x with q := y.q, n := y.n, p := e.pred, pbad := false, key := e.key, rank := BitVec.ofNat 12 (n - first),
                       binbase := BitVec.ofNat 12 first } ∧
          ∀ (k r : Nat) (v : Word), (payloadRegs base mask)[k]? = some r → e.payload[k]? = some v → r < 64 →
            (vget y.n r).val = v) ∧
  (∀ (s : State) (c : Course), s.course? c.key = some c → c.state = .rebuilding → (∀ m ∈ s.marks, m.unit ≠ 1) →
    s.spillHeld c = false → s.gPending c.key = false → s.badSpill c = none →
    ∃ (t : State) (c' : Course), exec (.reorderRebuildDone c.key.wall c.key.course) s = .next t ∧
      t.course? c.key = some c' ∧ c'.state = .idle ∧ c'.tags = [] ∧ c'.stat = c.statOf c.merged ∧ c'.regrouped = true)

/-- 09:R197, R205, R209, R213, R214, 12:R246, R247: pieces of a copy land and the last one completes it; those of a loop land in the
stage of their iteration, once it may begin, and its last one advances LANDED, GEN and VALUE; a fill's request and the timer of a hold
entry; the elements of gathers and scatters. -/
def Obligations.CopiesAndGathersLand : Prop :=
  (∀ (s u : State) (c : CopyOp) (id : Nat) (bs : List Byte), s.copies.find? (fun x => x.id == id) = some c →
    c.finished = false → c.waiting = false → c.frozen = none → s.working c.brick = true → s.gangHeld c.gid = false →
    c.loop = false → c.e0 ≠ 0 → (∀ d ∈ c.dims, d.e ≠ 0) →
    let off := c.dst c.row c.x
    let n := Nat.min (c.e0 - c.x) (32 - off % 32)
    s.pieceBytes c (c.step * c.iter + rowOff Dim.s c.dims c.row + c.x) n = .ok bs u →
    exec (.copyPieceLand id) s = .next ((u.landBytes c.brick c.id off bs).afterPiece c n)) ∧
  (∀ (s : State) (c : CopyOp) (n : Nat) (b : Brick), s.brick? c.brick = some b → c.loop = false →
    c.e0 ≤ c.x + n → rowsOf c.dims ≤ c.row + 1 →
    let w := vget b.w c.w
    (s.afterPiece c n).brick? c.brick =
      some { b with w := vset b.w c.w { w with value := w.limit, gen := w.gen + 1 } }) ∧
  (∀ (s u : State) (c : CopyOp) (id : Nat) (bs : List Byte) (b : Brick), s.copies.find? (fun x => x.id == id) = some c →
    c.finished = false → c.waiting = false → c.frozen = none → s.working c.brick = true → s.gangHeld c.gid = false →
    c.loop = true → c.e0 ≠ 0 → (∀ d ∈ c.dims, d.e ≠ 0) → s.brick? c.brick = some b →
    let w := vget b.w c.w
    let stage := fun (i : Nat) => c.base + i % (c.nstg + 1) * ((spanFrom c.e0 c.dims + 31) / 32 * 32)
    let off := ((stage c.iter : Int) + rowOff (fun d => d.d) c.dims c.row + c.x).toNat
    let n := Nat.min (c.e0 - c.x) (32 - off % 32)
    (c.iter < w.released.toNat + c.nstg + 1 → s.refillHeld c = false →
      s.pieceBytes c (c.step * c.iter + rowOff Dim.s c.dims c.row + c.x) n = .ok bs u →
      exec (.copyPieceLand id) s = .next ((u.landBytes c.brick c.id off bs).afterPiece c n)) ∧
    (w.released.toNat + c.nstg + 1 ≤ c.iter → exec (.copyPieceLand id) s = .refused .cannotOccur) ∧
    (c.e0 ≤ c.x + n → rowsOf c.dims ≤ c.row + 1 → (s.afterPiece c n).brick? c.brick =
      some { b with w := vset b.w c.w { w with
        landed := w.landed + 1, gen := w.gen + 1
        value := if c.iter + 1 = c.iters then w.limit else BitVec.ofNat 20 (stage (c.iter + 1)) } })) ∧
  (∀ (s u : State) (r : McReq) (c : CopyOp) (id : Nat) (f : Nat → Nat), s.mcreqs.find? (fun x => x.copy == id) = some r →
    s.copies.find? (fun x => x.id == id) = some c → c.frozen = none → s.working c.brick = true →
    s.engPages c.core c.asid (bits c.src 0 56) 1 .read = .ok f u →
    u.mcBehind r c (u.sliceOf (footOf c.core) (f 0)) = false → u.mcholds = [] →
    u.mctests.contains (footOf c.core, u.sliceOf (footOf c.core) (f 0), r.grp) = false →
    (∃ k ∈ (u.mcGroup (footOf c.core) r.grp).members, k ≠ r.brick) →
    exec (.mcRequest id) s = .next { u with
      mcreqs := u.mcreqs.filter fun x => x.copy != r.copy
      mcholds := [⟨footOf c.core, u.sliceOf (footOf c.core) (f 0), r.grp, r.key, [r.brick], [r.copy],
        u.cycle + 64 * (u.mcGroup (footOf c.core) r.grp).timer, false⟩] }) ∧
  (∀ (s : State) (h : McHold) (f k n : Nat), s.mcholds = [h] → h.foot = f → h.slice = k → h.grp = n → h.tail = false →
    h.expiry ≤ s.cycle → ∃ t : State, exec (.mcHoldExpiry f k n) s = .next t ∧
      t.mcholds = [{ h with tail := true, copies := [] }] ∧
      ∀ c ∈ s.copies, c.id ∈ h.copies → ∃ d ∈ t.copies, d.id = c.id ∧ d.waiting = false) ∧
  (∀ (s u : State) (c : IdxOp) (id : Nat) (gather : Bool), s.idxops.find? (fun x => x.id == id && x.gather == gather) = some c →
    s.idxLive c = true → c.read = none → ∀ r, s.readList c = .ok r u → ∀ e,
    exec (if gather then .gatherElementReturn id e else .scatterElementAck id e) s =
      .next (s.idxGo { c with read := some r })) ∧
  (∀ (s u : State) (c : IdxOp) (id e : Nat) (bs : List Byte), s.idxops.find? (fun x => x.id == id && x.gather) = some c →
    s.idxLive c = true → c.read ≠ none → c.todo e = true →
    s.engRead c.gid c.core c.asid (c.addr e) c.t.bytes c.deps = .ok bs u →
    exec (.gatherElementReturn id e) s = .next (u.idxGo { c with got := c.got ++ [(e, true, bs)] })) ∧
  (∀ (s u v : State) (c : IdxOp) (id e : Nat) (bs : List Byte), s.idxops.find? (fun x => x.id == id && !x.gather) = some c →
    s.idxLive c = true → c.read ≠ none → c.todo e = true →
    (∀ j < e, c.todo j = true → s.elemSlice c j ≠ s.elemSlice c e) →
    s.engSpad c.gid c.id c.brick (c.base + e * c.t.bytes) c.t.bytes = .ok bs u →
    (if c.add then u.addElem c e bs else u.engWrite ⟨c.id, c.gid, c.core⟩ c.asid (c.addr e) bs c.deps) = .ok () v →
    exec (.scatterElementAck id e) s = .next ((v.dropElem c e).idxGo { c with got := c.got ++ [(e, true, [])] }))

/-! ### Translations and system software (files 08, 14, 22) -/

/-- 08:R177-R179, 22:R417, R424: an invalidation takes the entries it covers out of every TLB at once and joins the queue;
KIND 3 starts nothing; the oldest completes once the accesses and spill translations it waits for are done (that it waits for the older
accesses of every kind is read by inference, log 49, and that it waits for the older travelling writes of any page is the model's
choice, log 9); before that its completion cannot occur, which the model says by a refusal (log 19). A walk that ends lets its gang
try again, or holds it with 0x40; one that reads a table over a port that is not enabled ends with 0x4E (the model's choice,
log 25), one that reads a poisoned line with 0x4D (14:R297). -/
def Obligations.TranslationsInvalidated : Prop :=
  (∀ (s : State) (v k : Nat) (i : Instr),
    k = 0 ∧ i = .tlbinvPage v ∨ k = 1 ∧ i = .tlbinvAsid v ∨ k = 2 ∧ i = .tlbinvAll v →
    let w := v % 2 ^ 11 + k * 2 ^ 11 + v / 2 ^ 16 % 2 ^ 40 * 2 ^ 16
    let keep := fun (x : Nat × TlbEntry) => decide (¬ (k = 0 ∧ x.2.covers (v % 2 ^ 11) (v / 2 ^ 16 % 2 ^ 40 * 2 ^ 16) = true ∨
      k = 1 ∧ x.2.asid = v % 2 ^ 11 ∨ k = 2))
    exec i s = .next { s with
      tlb := s.tlb.filter keep, gtlb := s.gtlb.filter keep
      sys := { s.sys with tlbinvReg := w, tlbinv := s.sys.tlbinv ++ [(w, s.nextId)], tlbBusy := true, tlbBad := false } }) ∧
  (∀ (s : State) (v : Nat), exec (.tlbinvReserved v) s = .next { s with sys := { s.sys with
    tlbinvReg := v % 2 ^ 11 + 3 * 2 ^ 11 + v / 2 ^ 16 % 2 ^ 40 * 2 ^ 16, tlbBad := true } }) ∧
  (∀ (s : State) (v n : Nat) (rest : List (Nat × Nat)), s.sys.tlbinv = (v, n) :: rest →
    ((∃ r ∈ s.reqs, oldAccess v n r = true) ∨ s.oldWrite n = true → exec .invalidationComplete s = .refused .cannotOccur) ∧
    ((∀ r ∈ s.reqs, oldAccess v n r = false) → s.oldWrite n = false → (∀ c ∈ s.courses, s.holdsSpill v c = false) → ∃ t : State,
      exec .invalidationComplete s = .next t ∧ t.sys.tlbinv = rest ∧ t.sys.tlbBusy = !rest.isEmpty ∧
      (∀ x, x ∈ t.tlb ↔ x ∈ s.tlb ∧ x.2.struck v = false) ∧ (∀ x, x ∈ t.gtlb ↔ x ∈ s.gtlb ∧ x.2.struck v = false) ∧
      s.SameMem t)) ∧
  (∀ (s : State) (w : Walk) (g : Gang) (va id : Nat) (need : Need), s.walks.find? (fun x => x.id == id) = some w →
    w.gids = [(g.gid, va, need)] → s.gang? g.gid = some g → g.wait = .walk id →
    s.walkHeld (s.partOf w.foot) w.asid w.va = false →
    let s0 : State := { s with walks := s.walks.filter fun x => x.id != id }
    let s1 := s0.walkOut (s.partOf w.foot) w.asid w.va
    (∀ pa, s.walkMeets (s.partOf w.foot) w.asid w.va = some pa → exec (.translationWalkDone id) s =
      .next (s0.holdGang g (if s.portShut pa then 0x4E else 0x4D) (BitVec.ofNat 64 va) (s.portShut pa))) ∧
    (s.walkMeets (s.partOf w.foot) w.asid w.va = none → (∀ e : TlbEntry, s.walkPage (s.partOf w.foot) w.asid w.va = some e → e.allows need = true → ∃ t : State,
      exec (.translationWalkDone id) s = .next t ∧ t.walks = s0.walks ∧ (g.core, e) ∈ t.tlb ∧
      t.gangs = (s.setGang { g with wait := .stalled }).gangs ∧ s.SameMem t) ∧
    ((∀ e : TlbEntry, s.walkPage (s.partOf w.foot) w.asid w.va = some e → e.allows need = false) →
      exec (.translationWalkDone id) s = .next (s1.holdGang g 0x40 (BitVec.ofNat 64 va) true))))

/-- 14:R295, 22:R413, R424: every FAULTCMD reads back as written; one that names nothing held is ignored and changes nothing
else. Resume lets a gang retry at TEPC, Resume skipping takes it past, Declare unresolvable delivers MEM_FAULT and
Deliver the cause itself through its handler, Terminate ends its brick; a held engine or unit is resumed, or fails. The model's
choices: TLANES of that MEM_FAULT, found at the declaration (log 47); that every footing sees the frame at once (log 13); and where a
gang held at a SYSC or a BRK goes on when it is skipped, past the next position (log 39). -/
def Obligations.FaultCommandsAct : Prop :=
  ∀ (s : State) (v : Nat),
    let word := fun (action : Nat) => v % 2 ^ 11 + v / 2 ^ 12 % 2 ^ 13 * 2 ^ 12 + action * 2 ^ 25
    let done := fun (action : Nat) (t : State) (ign : Bool) =>
      (.next { t with sys := { t.sys with faultcmd := word action, faultIgn := ign } } : Out)
    (∀ (i : Instr) (n : Nat), i = .faultcmdResume v ∧ n = 0 ∨ i = .faultcmdResumeSkip v ∧ n = 1 ∨
        i = .faultcmdUnresolvable v ∧ n = 2 ∨ i = .faultcmdDeliver v ∧ n = 3 ∨ i = .faultcmdTerminate v ∧ n = 4 →
      (∃ t : State, exec i s = .next t ∧ t.sys.faultcmd = word n) ∧
      (s.heldGang? v = none → s.heldEngines v = [] → s.heldUnits v = [] → exec i s = done n s true)) ∧
    (5 ≤ v / 2 ^ 25 % 8 → exec (.faultcmdReserved v) s = done (v / 2 ^ 25 % 8) s true) ∧
    (s.heldGang? v = none → s.heldUnits v = [] → ∀ h, s.heldEngines v = [h] →
      exec (.faultcmdResume v) s = done 0 (s.resumeEngine h) false ∧
      exec (.faultcmdUnresolvable v) s = done 2 (s.failEngine h) false) ∧
    (s.heldGang? v = none → s.heldEngines v = [] → ∀ h, s.heldUnits v = [h] →
      exec (.faultcmdResume v) s = done 0 (s.resumeUnit h) false ∧
      exec (.faultcmdUnresolvable v) s = done 2 (s.failUnit h) false) ∧
    (∀ (g : Gang) (h : Hold), s.heldGang? v = some g → g.hold = some h → s.heldEngines v = [] → s.heldUnits v = [] →
      (∀ r ∈ s.reqs, r.gid ≠ g.gid) → (∀ t b, g.wait ≠ .trapping t b) →
      let g0 := { g with hold := none }
      (h.clause = g.pc → h.pos = g.pos → exec (.faultcmdResume v) s = done 0 (s.setGang g0) false) ∧
      (∀ (e : TlbEntry) (hd : Header), g.live ≠ 0 → s.walkPage (s.gangPart g) (s.asidOf g.brick.wall) h.clause.toNat = some e →
        e.x = true → h.clause.toNat % 8 = 0 → let pa := e.phys (footOf g.core) h.clause.toNat
        s.poisoned pa = false → s.portShut pa = false → s.portBusy pa = false →
        parseHeader ((s.mem (s.viewFoot (s.gangPart g) (footOf g.core) pa)).word pa) = .ok hd →
        let pos := nextPosition hd h.pos
        let pc := if pos.isSome then h.clause else h.clause + BitVec.ofNat 56 (8 * (hd.count + 1))
        let g1 := { g0 with pc := pc, pos := pos.getD 0, clause := [], header := none, waited := pos.getD 0 != 0, hint := 0, wait := .ready }
        ∃ t : State, exec (.faultcmdResumeSkip v) s = done 1 t false ∧ t.gangs = (s.setGang g1).gangs ∧ s.SameMem t) ∧
      exec (.faultcmdTerminate v) s = done 4 (s.terminate g.brick) false ∧
      (∀ e : TlbEntry, s.lateOpen g.gid = false → g.tvec ≠ 0 → g.tmode = false → g.frameBad = none →
        s.lookup g.core (s.asidOf g.brick.wall) (s.recordVa g + 0x6000) .write = some e →
        s.portBusy (e.phys (footOf g.core) (s.recordVa g + 0x6000)) = false →
        let enters := fun (action : Nat) (t : TrapInfo) =>
          done action ((s.writeAll (s.gangPart g) (e.phys (footOf g.core) (s.recordVa g + 0x6000)) g.frame).setGang
            { g0 with tcause := t.tcause, tepc := t.tepc, tval := t.tval, tlanes := t.lanes, tmode := true, pc := g.tvec, pos := 0,
                      clause := [], header := none, waited := false, hint := 0, wait := .ready }) false
        (h.cause = 0x40 ∨ h.cause = 0x4E → g.pendfault = none → g.xfer = none →
          exec (.faultcmdUnresolvable v) s = enters 2 ⟨0x19, h.tval, s.faultLanes g, 0, 0, g.pc, g.pos, 0, false⟩) ∧
        (∀ t : TrapInfo, g.live ≠ 0 → h.trap = some t → (causeToSystem t.cause = false ∨ t.forced = true) →
          exec (.faultcmdDeliver v) s = enters 3 t)))

/-! ### The register block (files 16, 18, 22) -/

/-- 16:R316, 22:R418, R424: QREG registers a queue or changes its entry (QSTAT 1), refuses a 4,097th (2), removes one (1) or
finds none (3), with vector 11. 18:R351, 22:R423: TICKCMD commands run at once or wait behind a RETIRE; ADMIT answers 1, or 3
to 6 and admits nothing; RETIRE answers 8, waits for the running step or for what is due at once (that it waits for a close or a
tick due at once is the model's choice, log 45), or retires. The model's choices too (log 26): what an admission that cannot read its
context answers, and that a command waits while its reads or writes have to. -/
def Obligations.QueueAndTickCommands : Prop :=
  ∀ (s : State) (v : Nat),
    (let q : Queue := { desc := v % 2 ^ 56 / 128 * 128, asid := s.sys.tickctx % 2 ^ 11, maxcls := v / 2 ^ 56 % 4,
                        home := v / 2 ^ 58 % 4, served := true, wall := none }
     let isIt := fun (x : Queue) => x.wall = none ∧ x.asid = q.asid ∧ x.desc = q.desc
     let told := fun (remove n : Nat) (qs : List Queue) =>
       (.next (({ s with queues := qs, sys := { s.sys with qreg := v % 2 ^ 60 + 2 ^ 60 * remove, qstat := n } } :
         State).msix none 11) : Out)
     ((∀ x ∈ s.queues, ¬ isIt x) →
       ((s.queues.filter fun x => x.wall.isNone).length < 4096 → exec (.qregRegister v) s = told 0 1 (s.queues ++ [q])) ∧
       (4096 ≤ (s.queues.filter fun x => x.wall.isNone).length → exec (.qregRegister v) s = told 0 2 s.queues) ∧
       exec (.qregRemove v) s = told 1 3 s.queues) ∧
     (∀ x ∈ s.queues, isIt x →
       (∃ t, exec (.qregRegister v) s = .next t ∧ q ∈ t.queues ∧ t.queues.length = s.queues.length ∧ t.sys.qstat = 1) ∧
       ∃ t, exec (.qregRemove v) s = .next t ∧ t.queues.length + 1 = s.queues.length ∧ t.sys.qstat = 1)) ∧
    (let n := v % 2 ^ 18
     let w1 := n + 2 ^ 18
     let w2 := n + 2 * 2 ^ 18
     let told := fun (w r : Nat) =>
       (.next (({ s with sys := { s.sys with tickcmd := w, tickstat := r } } : State).msix none 10) : Out)
     (s.tickBusy = true →
       exec (.tickcmdAdmit v) s = .next { s with sys := { s.sys with tickcmd := w1, tickq := s.sys.tickq ++ [w1] } } ∧
       exec (.tickcmdRetire v) s = .next { s with sys := { s.sys with tickcmd := w2, tickq := s.sys.tickq ++ [w2] } }) ∧
     (s.tickBusy = false → s.stream? n = none → exec (.tickcmdRetire v) s = told w2 8 ∧
       (∃ t : State, exec (.tickcmdAdmit v) s = .next t ∧ t.sys.tickcmd = w1 ∧
         (t.sys.tickstat = 1 ∧ (∃ x : Stream, x.num = n ∧ x.state = 1 ∧ x.asid = s.sys.tickctx % 2 ^ 11 ∧
             x.cbud ≤ s.unreserved ∧ t.streams = s.streams ++ [x]) ∨
           4 ≤ t.sys.tickstat ∧ t.sys.tickstat ≤ 6 ∧ t.streams = s.streams ∨
           t = { s with sys := { s.sys with tickcmd := w1, tickq := [w1], tickstat := 0 } }))) ∧
     (∀ x : Stream, s.tickBusy = false → s.stream? n = some x → exec (.tickcmdAdmit v) s = told w1 3 ∧
       (x.state = 3 ∨ s.eventDue x = true → exec (.tickcmdRetire v) s =
         .next { s.setStream { x with retiring := true } with sys := { s.sys with tickcmd := w2, tickstat := 0 } }) ∧
       let s1 : State := { s with sys := { s.sys with tickcmd := w2 } }
       (x.state ≠ 3 → s.eventDue x = false → (∀ u, s1.retireStream x = some u → exec (.tickcmdRetire v) s = .next u ∧
           u.sys.tickstat = 1 ∧ u.stream? n = none ∧ u.streams = s.streams.filter fun y => y.num != n) ∧
         (s1.retireStream x = none → exec (.tickcmdRetire v) s =
           .next { s.setStream { x with retiring := true } with sys := { s.sys with tickcmd := w2, tickstat := 0 } }))) ∧
     exec (.tickcmdNone v) s = .next { s with sys := { s.sys with tickcmd := n } } ∧
     exec (.tickcmdReserved v) s = .next { s with sys := { s.sys with tickcmd := n + 3 * 2 ^ 18, tickstat := 7 } })

/-- 02:R31, 08:R176, 22:R411-R426: what a write to the register block leaves: PARTCFG only while nothing runs; a fault
queue's HEAD only up to TAIL, its SIZE and BASE with both indices 0; RWAYS with no more remote lines in a set than it
allows; a read that clears MISSHI; the registers that hold what is written; ENABLE and DISC of a port; what DEVID, ASIDBASE
and a multicast group's record read as (09:R195); an interrupt vector raised, or pending while it is masked. WINBASE aligned to the
larger BAR2 (log 25), the stepping that DEVID reads (log 21), and 0 read in recovery (log 14) are the model's choices. -/
def Obligations.RegisterBlockWrites : Prop :=
  ∀ (s : State) (v : Nat),
    (s.openWalls = 0 → s.streams = [] → exec (.partcfgWrite v) s =
      .next { s with sys := { s.sys with partcfg := if v % 4 = 3 then 0 else v % 4, ss4 := v / 16 % 16 } }) ∧
    (s.openWalls ≠ 0 ∨ s.streams ≠ [] → exec (.partcfgWrite v) s = .next s) ∧
    (∀ p < 4, let q := vget s.sys.fq p
      (v ≤ q.tail → exec (.fqheadWrite p v) s = .next (s.setFq p { q with head := v })) ∧
      (q.tail < v → exec (.fqheadWrite p v) s = .next s) ∧
      ∀ n ≤ 16, exec (.fqReconfigure p n v) s =
        .next (s.setFq p { q with base := v % 2 ^ 52 / 32 * 32, size := n, head := 0, tail := 0 })) ∧
    (∀ k < 96, let x := vget s.slices k
      exec (.slicectlRead k) s = .next { s with slices := vset s.slices k { x with misshi := 0 } } ∧
      ∃ y : Slice, exec (.slicectlWrite k v) s = .next { s with slices := vset s.slices k y } ∧ y.rways = Nat.min (v % 16) 8 ∧
        ∀ n, (y.lines.filter fun l => !s.isLocal k l.1 && setOfLine l.1 == n).length ≤ y.rways) ∧
    (∀ off < 0x200, exec (.registerWrite off v) s = .next s) ∧
    exec (.registerWrite 0x200 v) s = .next { s with sys := { s.sys with asidbase := v % 2 ^ 52 } } ∧
    exec (.registerWrite 0x400 v) s =
      .next { s with sys := { s.sys with winbase := v % 2 ^ 52 / 2 ^ s.sys.barBits * 2 ^ s.sys.barBits } } ∧
    exec (.registerWrite 0x3000 v) s =
      .next { s with sys := { s.sys with swapth := v % 2 ^ 16, highdelay := v / 2 ^ 16 % 2 ^ 16 } } ∧
    exec (.registerWrite 0x4018 v) s = .next { s with sys := { s.sys with
      ptmctl := v % 2 ^ 16, ptmAt := s.time + 1000 * (v % 2 ^ 16) } } ∧
    (s.streams = [] → exec (.registerWrite 0x5000 v) s = .next { s with sys := { s.sys with poolva := v % 2 ^ 56 } }) ∧
    (s.streams ≠ [] → exec (.registerWrite 0x5000 v) s = .next s ∧ exec (.registerWrite 0x5008 v) s = .next s) ∧
    (∀ f < 4, let x := vget s.foots f
      exec (.registerWrite (0x1000000 + 0x100000 * f) v) s = .next (s.setFoot f { x with
        skipen := v % 2 == 1, tmargin := BitVec.ofNat 8 (v / 2 ^ 8), dmargin := BitVec.ofNat 8 (v / 2 ^ 16) }) ∧
      exec (.registerWrite (0x1000008 + 0x100000 * f) v) s = .next (s.setFoot f { x with ratecap := BitVec.ofNat 64 v })) ∧
    (∀ p < 8, let x := { vget s.peers p with enable := v / 2 % 2 == 1, disc := BitVec.ofNat 8 (v / 256) }
      (v / 2 % 2 = 1 ∨ s.reqs = [] ∧ x.outq = [] → exec (.peerWrite p v) s = .next (s.setPeer p x)) ∧
      ∃ t : State, exec (.peerWrite p v) s = .next t) ∧
    (s.regRead 0 % 2 ^ 16 = 9 ∧ s.regRead 0 / 2 ^ 16 = Config.stepping.toNat) ∧
    (s.sys.firmware = false → ∀ off, off ≠ 0 → inMailbox off = false →
      s.regRead off = 0 ∧ s.happen (.registerWrite off v) = .next s) ∧
    (s.sys.firmware = true → ∀ t, exec (.registerWrite 0x200 v) s = .next t → t.regRead 0x200 = v % 2 ^ 52) ∧
    (s.sys.firmware = true → ∀ f < 4, ∀ n < 64, let r := vget (vget s.foots f).mc n
      s.regRead (0x1001000 + 0x100000 * f + 8 * n) = r.owner + 2 ^ 11 * r.members.length + 2 ^ 18 * r.timer) ∧
    (∀ x : Nat × Nat, s.sys.raise x =
      if x ∈ s.sys.msixOff then { s.sys with msixPend := s.sys.msixPend.filter (· != x) ++ [x] }
      else { s.sys with msix := s.sys.msix ++ [x] })

/-! ### Monitors, clocks, resets (files 14, 18, 22) -/

/-- 22:R426: a quote commits the next key before it signs, and reads EXHAUSTED after the last; 22:R427: the monitors, and the stop of
a device at 115 °C, which does nothing else any more; 18:R349: the
exchange that corrects the stream clock; 04:R87, 14:R298: what a scrubber counts; 22:R425, R426: what a reset and a power
failure keep (that device memory survives a reset, log 17, and reads 0 after a power failure, logs 17 and 4, are the model's
choices). -/
def Obligations.DeviceEventsHappen : Prop :=
  ∀ s : State,
    (s.sys.attState ≠ 1 → s.sys.attNext < 32768 → exec .attestQuote s = .next { s with sys := { s.sys with
      attState := 1, attNext := s.sys.attNext + 1, attMsg := s.quote s.sys.attNext, attSig := [] } }) ∧
    (s.sys.attState ≠ 1 → 32768 ≤ s.sys.attNext → exec .attestQuote s =
      .next (({ s with sys := { s.sys with attState := 3 } } : State).msix none 12)) ∧
    (s.sys.attState = 1 → exec .attestSignDone s = .next (({ s with sys := { s.sys with
      attState := 2, attSig := identitySign (s.sys.attNext - 1) s.sys.attMsg } } : State).msix none 12)) ∧
    (∀ k temp droop proc hot, k < 96 → ∃ t : State, exec (.thermalThrottle k temp droop proc hot) s = .next t ∧
      (t.group k).temp = BitVec.ofNat 12 temp ∧ (t.group k).droop = BitVec.ofNat 8 droop ∧ t.gangs = s.gangs ∧
      t.sys.clock = if 420 < temp % 4096 ∨ hot = true then Nat.max 650 (s.sys.clock - 25) else s.sys.clock) ∧
    (∀ k : Fin 96, 460 ≤ s.groups[k].temp.toNat → exec .thermalStop s =
        .next (({ s with sys := { s.sys with stopped := true } } : State).msix none 0) ∧
      (s.sys.stopped = false → ∀ a t, s.act a = .next t → a = .event .thermalStop ∨ a = .event .powerFailure ∨
        ∃ image signed, a = .event (.deviceReset image signed))) ∧
    ((∀ k : Fin 96, s.groups[k].temp.toNat < 460) → exec .thermalStop s = .refused .cannotOccur) ∧
    (s.ptmDue = false → ∀ ns, exec (.ptmExchange ns) s = .refused .cannotOccur) ∧
    (∀ ns : Int, s.ptmDue = true → ∃ t : State, exec (.ptmExchange ns) s = .next t ∧
      t.sys.ptmAt = s.sys.ptmAt + 1000 * (s.sys.ptmctl % 65536) ∧
      (1000000 < ns → t.sys.ptp = s.sys.ptp + ns.toNat ∧ t.sys.slew = s.sys.slew ∧
        ∀ f : Fin 4, t.foots[f].ptp = s.foots[f].ptp + ns.toNat) ∧
      (ns ≤ 1000000 → t = { s with sys := { s.sys with slew := s.sys.slew + ns, ptmAt := t.sys.ptmAt } })) ∧
    (∀ c u double m, c < 384 → u ≤ 6 → exec (.scrubberRead c u double none) s = .next s ∧
      ∃ t : State, exec (.scrubberRead c u double (some m)) s = .next t ∧ s.SameMem t ∧
        (let up := fun (x : BitVec 32 × BitVec 32) => if double then (x.1, x.2 + 1) else (x.1 + 1, x.2)
         (u = 1 → (t.group (groupOf c)).scrub = up (s.group (groupOf c)).scrub) ∧
         (u ≠ 1 → u ≤ 5 → vget (t.core c).scrub u = up (vget (s.core c).scrub u))) ∧
        (double = false → t.marks = s.marks ∧ t.gangs = s.gangs) ∧
        (double = true → u = 6 → t.marks = s.marks ++ [⟨6, 0, m.2.2⟩])) ∧
    (∀ image key sig : List Nat, let bytes := fun (l : List Nat) => l.map (BitVec.ofNat 8)
      ∃ t : State, exec (.deviceReset image (key, sig)) s = .next t ∧
      (t.sys.firmware = true ↔ sha256 (bytes key) = Config.bootKey.toList ∧
        lmsVerify otsW4 (bytes key) (bytes image) (bytes sig) = true ∧ s.sys.secver.val ≤ Config.imageVersion (bytes image)) ∧
      t.sys.attNext = s.sys.attNext ∧ t.gangs = [] ∧ t.streams = [] ∧
      ∀ f a, (t.mem f).read a = (s.mem (if a < 2 ^ 40 then a / 2 ^ 38 else 0)).read a) ∧
    ∃ t : State, exec .powerFailure s = .next t ∧ t.sys.stopped = true ∧ t.sys.attNext = s.sys.attNext ∧
      ∀ f a, a < 2 ^ 40 → (t.mem f).read a = 0

/-! ### The dispatcher (files 02, 16, 18) -/

/-- 16:R318-R325, R330-R332, 02:R29, R39, R40, 18:R352: a packet taken from its ring, a wall made ready, its header read,
its sets placed, a brick's record taken, an overflow claim routed, a held access retried, a brick retired with its
record, the close of a step ended and the step launched. Where the whole work of a held access must wait, the access alone
is made again (log 9). -/
def Obligations.DispatcherActs : Prop :=
  (∀ (s s1 s2 s3 : State) (n pa : Nat) (q : Queue) (u x : UnitData) (i : Instr), i = .packetTake n ∨ i = .queueReread n →
    s.queues[n]? = some q → q.served = true → q.wall = none → s.openWalls < 16384 →
    s.unitRead q.home q.asid q.desc 40 = .ok u s1 → let d := u.qdesc
    d.valid = true → d.rd.toNat < d.wr.toNat → s1.unitRead q.home q.asid (d.slot d.rd) 64 = .ok x s2 →
    bits (x.word 0) 0 16 = d.rd.toNat % 65536 → s2.unitPage q.home q.asid (q.desc + 8) .write = .ok pa s3 → s.cachable pa = true →
    ∃ t : State, exec i s = .next t ∧ (Packet.formOk x.packet = false ∨ Packet.cls x.packet < q.maxcls → t.walls = s.walls) ∧
      (Packet.formOk x.packet = true → q.maxcls ≤ Packet.cls x.packet →
        (t.mem (s.unitHome q.home pa)).word pa = d.rd + 1 ∧
        ∃ w : Wall, t.walls = s.walls ++ [w] ∧ w.words = x.packet ∧ w.asid = q.asid ∧ w.cls = Packet.cls x.packet ∧ w.header = none ∧
          (w.state = .ready ↔ Packet.nwait x.packet = 0))) ∧
  (∀ (s u : State) (id : Nat) (w : Wall) (seen : Vector Nat 4), s.wall? id = some w → w.state = .waiting →
    s.readWaits w (Packet.waits w.words) = .ok (some seen) u → exec (.wallReady id) s =
      .next ((u.unhold (.counter id)).setWall { w with state := .ready, readyAt := u.cycle, seen := maxVec w.seen seen })) ∧
  (∀ (s : State) (id : Nat) (w : Wall), s.wall? id = some w → w.state = .ready → s.turnOf w.cls (.new w) = true →
    (∀ (u : State) (h : LHeader) (args : Vector Word 8), w.header = none → s.headerOrdered w = true → s.readHeader w = .ok (some h, args) u →
      (u.unhold (.header id)).stepFits w h = true →
      Packet.x w.words * Packet.y w.words * Packet.z w.words * h.stages < 2 ^ 32 → (u.unhold (.header id)).placeable w h = true →
      ∃ t : State, exec (.placeSet id w.nextSet) s = .next t ∧ t.walls = (u.setWall { w with header := some h, args := args }).walls) ∧
    (∀ (h : LHeader) (x : Fit), w.header = some h → s.fit w h w.nextSet = some x → s.hasApplied x.foot w.seen = true →
      s.mayAct (x.courses.map Prod.fst) 4 = true →
      exec (.placeSet id w.nextSet) s = .next ((s.placeAt w h w.nextSet x).noteAct (x.courses.map Prod.fst) 4) ∧
      ((∀ n, w.src ≠ .stream n) → (s.placeAt w h w.nextSet x).walls = (s.setWall { w with nextSet := w.nextSet + 1 }).walls))) ∧
  (∀ (s : State) (k : BKey) (b : Brick) (r : PendRec) (rest : List PendRec), s.brick? k = some b → b.pendq = r :: rest →
    r.entered + 32 ≤ s.cycle → (vget s.foots (footOf r.core)).taken + 32 ≤ s.cycle → s.openWalls < 16384 →
    (∀ x ∈ r.deps, s.hidden (footOf r.core) x = false) → ∃ (t : State) (w : Wall), exec (.pendingLaunchTake k.wall k.idx) s = .next t ∧
      t.walls = s.walls ++ [w] ∧ w.words = r.words ∧ w.asid = s.asidOf k.wall ∧ w.src = .pending r.core r.seat ∧
      t.bricks = (s.setBrick { b with pendq := rest }).bricks) ∧
  (∀ (s s1 s2 : State) (r : OvfReq) (id pa slotPa : Nat), s.ovf.find? (fun x => x.id == id) = some r →
    let foot := footOf r.core
    let asid := s.asidOf r.wall
    let home := s1.unitHome foot pa
    let u : UnitData := ⟨pa, home, (s1.mem home).readN pa 40⟩
    let d := u.qdesc
    (∀ x ∈ r.deps, s.hidden foot x = false) → s.claimBehind r = false → s.unitPage foot asid (s.ovfDesc r.wall) .write = .ok pa s1 →
    s1.poisoned pa = false → (d.valid = false → exec (.overflowClaim id) s = .next (s1.route r 2)) ∧
    (d.valid = true → s1.unitPage foot asid (d.slot d.wr) .write = .ok slotPa s2 → s2.homeReady r.core pa 128 = true →
      home = foot → s2.cachable pa = true → s2.cachable slotPa = true →
      exec (.overflowClaim id) s = .next (if 2 ^ d.logsz ≤ (d.wr - d.rd).toNat then s2.route r 2
        else (s2.writeClaim r d foot home pa slotPa).route r 1))) ∧
  (∀ (s : State) (n : Nat) (h : UnitHold), s.unitHolds[n]? = some h →
    (∀ (id : Nat) (w : Wall) (u : State) (seen : Vector Nat 4), h.work = .counter id → s.wall? id = some w → w.state = .waiting →
      s.readWaits w (Packet.waits w.words) = .ok (some seen) u → exec (.unitAccessRetry n) s = .next
        ((u.unhold (.counter id)).setWall { w with state := .ready, readyAt := u.cycle, seen := maxVec w.seen seen })) ∧
    (∀ (id : Nat) (w : Wall), h.work = .header id → s.wall? id = some w →
      exec (.unitAccessRetry n) s = orElse (exec (.placeSet id w.nextSet) s) fun _ => s.reaccess w.foot w.asid h.work fun _ => .read) ∧
    (∀ k, h.work = .completion k → exec (.unitAccessRetry n) s = exec (.brickRetire k.wall k.idx) s) ∧
    (∀ (wall m : Nat) (p : Machine.PSet), h.work = .context wall m → s.set? wall m = some p → exec (.unitAccessRetry n) s =
      if p.phase = .stored then orElse (exec (.restore wall m) s) fun _ =>
        s.reaccess p.foot (s.asidOf wall) h.work fun _ => .read
      else orElse (exec (.contextToMemory wall m) s) fun _ =>
        s.reaccess p.foot (s.asidOf wall) h.work fun _ => .write) ∧
    (∀ m, h.work = .close m → exec (.unitAccessRetry n) s = exec (.streamClose m) s)) ∧
  (∀ (s u : State) (b c : Brick) (pa : Nat), (s.bricks.map Brick.key).Nodup → s.brick? b.key = some b → s.brickDone b = true → s.retireWith b = [b] →
    s.mayAct [groupOf b.core] 2 = true →
    (s.noteAct [groupOf b.core] 2).recordPage b = .ok (some pa) u → s.cachable pa = true → c ∈ s.bricks → c.key.wall = b.key.wall → c.key ≠ b.key → c.retired = false →
    ∃ (t : State) (b' : Brick), exec (.brickRetire b.key.wall b.key.idx) s = .next t ∧ t.brick? b.key = some b' ∧
      b'.retired = true ∧ b'.seats = [] ∧ b'.phys = [] ∧ (∀ g ∈ t.gangs, g.brick ≠ b.key) ∧
      ∀ k < 128, (t.mem (footOf b.core)).read (pa + k) = (s.recordOf b).getD k 0) ∧
  (∀ (s : State) (n : Nat) (x : Stream) (p : CloseProg), s.stream? n = some x →
    (x.state = 1 → x.closeAt ≤ (vget s.foots x.homef).ptp → x.close = some p → p.items = some [] →
      exec (.streamClose n) s = .next (s.endClose x p)) ∧
    (x.state = 2 → x.tick ≤ (vget s.foots x.homef).ptp → ∃ (t : State) (w : Wall), exec (.streamStepLaunch n) s = .next t ∧
      t.walls = s.walls ++ [w] ∧ w.src = .stream x.num ∧ w.state = .ready ∧ w.cls = 0 ∧ w.foot = x.homef ∧ w.asid = x.asid ∧
      (∀ i < 4, vget w.args i = vget x.arg i) ∧ vget w.args 5 = BitVec.ofNat 64 x.step ∧ vget w.args 6 = x.status ∧
      t.streams = (s.setStream { x with state := 3 }).streams))

/-! ### Pre-emption and contexts (02:R36-R38, 14:R299-R301, 16:R326, R334, R335) -/

/-- 14:R299-R301, 16:R326, R334, R335: a waiting set asks, its victims halt; a swap halts one whose gangs all wait at a JOINC,
and its end makes it restorable; a halted gang is parked and its seat freed; a context goes to memory; a parked set comes
back when it is its turn and its seats are free. That all victims of one request halt in one step is log 43, the seats a
restore takes are log 44 (DESIGN CHOICE). -/
def Obligations.SetsHaltAndReturn : Prop :=
  (∀ (s : State) (wall n : Nat) (x : NoFit), s.nofit.find? (fun x => x.wall == wall && x.num == n) = some x →
    (s.classOf wall = 1 → x.asked = false → x.since + 256 * s.sys.highdelay ≤ s.cycle → exec (.highDelayExpiry wall n) s =
      .next { s with nofit := s.nofit.map fun y => if y = x then { x with asked := true } else y }) ∧
    (∀ (w : Wall) (h : LHeader), s.wall? wall = some w → w.header = some h → x.asked = true → s.victims w h n ≠ [] →
      (∀ p ∈ s.victims w h n, ∀ g ∈ s.setGangs p, g.midway = false) →
      let gs := (s.victims w h n).flatMap fun p => (s.setBricks p).map fun b => groupOf b.core
      s.mayAct gs 1 = true → exec (.preemptRequest wall n) s =
        .next (((s.victims w h n).foldl (fun s p => s.haltSet p false) s).noteAct gs 1))) ∧
  (∀ (s : State) (wall n : Nat) (p : Machine.PSet), s.set? wall n = some p →
    (s.sys.swapth ≠ 0 → p.phase = .resident → s.setGangs p ≠ [] → (∀ g ∈ s.setGangs p, s.longJoin g = true) →
      exec (.swapOut wall n) s = .next (s.haltSet p true)) ∧
    (∀ (j : Addr × Word) (d : UnitData) (u : State), p.phase ≠ .resident → p.restorable = false → j ∈ p.joins →
      s.unitRead p.foot (s.asidOf wall) j.1.toNat 8 = .ok d u → 0 ≤ (d.word 0 - j.2).toInt →
      exec (.swapConditionEnd wall n) s = .next (s.setPSet { p with restorable := true })) ∧
    (∀ u : State, p.phase ≠ .resident → s.isDead (.context wall n) = false →
      let gs := (s.setGangs p).filter (s.movesOn p)
      gs ≠ [] → s.writeContext p gs = .ok () u → ∃ t : State, exec (.contextToMemory wall n) s = .next t ∧
        ∀ g ∈ gs, ∃ g' ∈ t.gangs, g'.gid = g.gid ∧ g'.place = .memory g.core g.seat) ∧
    (∀ w : Wall, s.wall? wall = some w → p.restorable = true → s.isDead (.context wall n) = false → p.phase = .parked →
      s.turnOf w.cls (.restore p) = true → s.parkedReady p = true →
      let gs := (s.setBricks p).map fun b => groupOf b.core
      s.mayAct gs 3 = true → ∃ (t : State) (q : Machine.PSet), exec (.restore wall n) s = .next t ∧
        q ∈ t.sets ∧ q.wall = p.wall ∧ q.num = p.num ∧ q.phase = .resident ∧ q.restorable = false ∧
        t = (s.finishRestore p p.foot (s.setGangs p)).noteAct gs 3)) ∧
  (∀ (s : State) (g : Gang) (p : Machine.PSet) (b : Brick), s.gang? g.gid = some g → s.setOfBrick g.brick = some p →
    s.brick? g.brick = some b → p.phase = .halted → g.seated = true → s.lateDone g.gid = true →
    (s.parkedOn g.core).length < 48 → (∀ id, g.wait ≠ .posted id) → ∃ t : State, exec (.parkMoveDone g.gid) s = .next t ∧
      t.gang? g.gid = some { g with place := .park g.core g.seat s.cycle } ∧
      t.brick? b.key = some { b with seats := b.seats.filter (· != g.seat) } ∧ s.SameMem t)

/-! ### The host and the peers (22:R411, R419-R422; the layout of a flit and the NAK policy are the model's, log 25) -/

/-- 22:R411, R419-R422, 20:R389: a host write puts its bytes in its link's view, a read returns that view's, an atomic
returns the old value and leaves the new one at the home slice; a flit is discarded, delivered in order, or dropped as
old; a NAK sends one flit again, a retrain for a cause drains, a trained link replays its buffer. -/
def Obligations.LinksCarryAccesses : Prop :=
  (∀ (s : State) (link off : Nat) (data : List Nat) (relaxed : Bool), s.inBar2 link off data.length = true →
    let pa := s.windowPa off
    data ≠ [] → s.inHbm pa data.length = true → s.room (2 * link) pa data.length = true → ∃ t : State, exec (.hostWrite link off data relaxed) s = .next t ∧
      ∀ f a, (t.mem f).read a = if f % 4 = 2 * link ∧ pa ≤ a ∧ a < pa + data.length
        then BitVec.ofNat 8 (data.getD (a - pa) 0) else (s.mem f).read a) ∧
  (∀ (s : State) (link off n : Nat), s.inBar2 link off n = true → s.inHbm (s.windowPa off) n = true →
    s.poisonedIn (s.windowPa off) n = false → s.agentSees (2 * link) (s.windowPa off) n = true → s.room (2 * link) (s.windowPa off) n = true → ∃ t : State, exec (.hostRead link off n) s = .next t ∧ s.SameMem t ∧
      t.sent = s.sent ++ [(8 + link, ((s.mem (2 * link)).readN (s.windowPa off) n).map BitVec.toNat)]) ∧
  (∀ (s : State) (link off op width b c : Nat) (k : AtomOp) (t : Ty), s.inBar2 link off width = true →
    (op = 0 ∧ k = .add ∨ op = 1 ∧ k = .xchg ∨ op = 2 ∧ k = .cas) → (width = 4 ∧ t = .z32 ∨ width = 8 ∧ t = .s64) →
    let pa := s.windowPa off
    let home := s.homeFoot (s.partOf (2 * link)) pa
    pa % width = 0 → s.inHbm pa width = true → s.poisoned pa = false → home = 2 * link → s.homeReady (192 * link) pa width = true →
    s.room home pa width = true →
    let o := leNat ((s.mem home).readN pa width)
    ∃ u : State, exec (.hostAtomic link off op width b c) s = .next u ∧
      u.sent = s.sent ++ [(8 + link, (natLe width o).map BitVec.toNat)] ∧
      ∀ f a, (u.mem f).read a = if f % 4 = home % 4 ∧ pa ≤ a ∧ a < pa + width
        then BitVec.ofNat 8 (atomNew k t o b c / 256 ^ (a - pa)) else (s.mem f).read a) ∧
  (∀ (s : State) (port seq ack stop : Nat) (payload : List Nat), let p := vget s.peers port
    port < 8 → p.up = true → p.mustTrain = false → payload.length ≤ 130 → p.outq = [] →
    (∀ bad : List Nat, bad.head? ≠ some 1 → exec (.peerFlitReceive port bad) s = .next s) ∧
    (∀ (off : Nat) (bs : List Nat), seq = p.expect → p.held = [] → p.inq = [] → payload = 1 :: off :: bs → bs ≠ [] →
      s.inHbm off bs.length = true → s.room (port / 2) off bs.length = true → ∃ t : State, exec (.peerFlitReceive port (1 :: seq :: ack :: stop :: payload)) s = .next t ∧
        (vget t.peers port).expect = (p.expect + 1) % 65536 ∧
        ∀ f a, (t.mem f).read a = if f % 4 = port / 2 ∧ off ≤ a ∧ a < off + bs.length
          then BitVec.ofNat 8 (bs.getD (a - off) 0) else (s.mem f).read a) ∧
    (32768 ≤ (seq + 65536 - p.expect) % 65536 → p.held = [] → p.inq = [] → ∃ t : State,
      exec (.peerFlitReceive port (1 :: seq :: ack :: stop :: payload)) s = .next t ∧ s.SameMem t ∧
      (vget t.peers port).expect = p.expect)) ∧
  (∀ (s : State) (port : Nat), port < 8 → let p := vget s.peers port
    (∀ x : Nat × List Nat, p.up = true → p.buffer.find? (fun y => y.1 == x.1) = some x → exec (.peerNak port x.1) s =
      .next ((s.setPeer port { p.askedFor x.1 with replay := p.replay + 1 }).send port (x.1 :: p.expect :: x.2))) ∧
    (p.up = true → p.mayTrain = true → exec (.peerRetrain port) s = .next ((s.setPeer port
      { p with up := false, held := [], naks := 0, mustTrain := false, asked := (0, 0), retrain := p.retrain + 1 }).msix none
        (16 + port))) ∧
    (p.up = false → p.enable = true → ∃ t : State, exec (.peerTrained port) s = .next t ∧
      (vget t.peers port).up = true ∧ (vget t.peers port).stop = false ∧
      (p.outq = [] → p.inq = [] → p.held = [] → p.inStop = false →
        t.sent = s.sent ++ p.buffer.map (fun x => (port, x.1 :: p.expect :: x.2)))))
end

