-- ==== Sys2Proof/Laws/Operands.lean ====
section
/-! SUPPORT. What masks hold, and the issue of an instruction whose operands can be read: the gate of 04:R80 and R81
once for every instruction. -/

namespace Sys2Proof.Machine

open Sys2Proof

/-! ### Masks -/

theorem maskNat_lt (f : Nat → Bool) (n : Nat) : maskNat f n < 2 ^ n := by
  induction n with
  | zero => simp [maskNat]
  | succ n ih => simp only [maskNat]; split <;> rw [pow_succ] <;> omega

theorem maskNat_testBit (f : Nat → Bool) (n i : Nat) : (maskNat f n).testBit i = (decide (i < n) && f i) := by
  induction n with
  | zero => simp [maskNat]
  | succ n ih =>
    have hlt := maskNat_lt f n
    rcases Nat.lt_trichotomy i n with h | h | h
    · by_cases hf : f n
      · simp [maskNat, hf, Nat.add_comm, Nat.testBit_two_pow_add_gt h, ih, h, Nat.lt_succ_of_lt h]
      · simp [maskNat, hf, ih, h, Nat.lt_succ_of_lt h]
    · subst h
      by_cases hf : f i
      · simp [maskNat, hf, Nat.add_comm, Nat.testBit_two_pow_add_eq, Nat.testBit_lt_two_pow hlt]
      · simp [maskNat, hf, Nat.testBit_lt_two_pow hlt]
    · have hi : maskNat f (n + 1) < 2 ^ i :=
        lt_of_lt_of_le (maskNat_lt f (n + 1)) (Nat.pow_le_pow_right (by decide) h)
      have : ¬ i < n + 1 := by omega
      simp [Nat.testBit_lt_two_pow hi, this]

@[simp] theorem getLsbD_maskOf (f : Nat → Bool) (l : Nat) : (maskOf f).getLsbD l = (decide (l < 32) && f l) := by
  simp only [maskOf, BitVec.getLsbD_ofNat, maskNat_testBit]
  cases decide (l < 32) <;> simp

@[simp] theorem mem_lanesOf (m : Mask) (l : Nat) : l ∈ lanesOf m ↔ l < 32 ∧ m.getLsbD l = true := by
  simp [lanesOf, List.mem_filter]

theorem maskOf_eq_zero (f : Nat → Bool) : maskOf f = 0 ↔ ∀ l < 32, f l = false := by
  constructor
  · intro h l hl
    have e : (maskOf f).getLsbD l = (0 : Mask).getLsbD l := by rw [h]
    rw [getLsbD_maskOf] at e
    simpa [hl] using e
  · intro h
    apply BitVec.eq_of_getLsbD_eq
    intro l hl
    simp [h l hl]

/-- A nonzero mask has a lowest lane. -/
theorem lowest_some {m : Mask} (h : m ≠ 0) : ∃ l, lowest m = some l ∧ l < 32 ∧ m.getLsbD l = true := by
  cases hl : lanesOf m with
  | nil =>
    exfalso; apply h
    apply BitVec.eq_of_getLsbD_eq
    intro l hlt
    have : l ∉ lanesOf m := by simp [hl]
    simpa [hlt] using this
  | cons a r =>
    have : a ∈ lanesOf m := by simp [hl]
    exact ⟨a, by simp [lowest, hl], (mem_lanesOf m a).1 this⟩

/-! ### The gate -/

theorem Gang.anyPending_ready {g : Gang} {gd : Guard} {os : List Opnd} (h : g.Ready gd os) :
    g.anyPending (g.acts gd) os = false := by
  simp only [Gang.anyPending, List.any_eq_false, mem_lanesOf, Bool.not_eq_true]
  rintro l ⟨hl, ha⟩ o ho
  simp [(h.2 l hl ha o ho).1]

/-- A lane that acts is a lane of `em` (03:R60). -/
theorem Gang.acts_em {g : Gang} {gd : Guard} {l : Nat} (hl : l < 32) (h : (g.acts gd).getLsbD l = true) :
    g.em.getLsbD l = true := by
  rw [Gang.acts, getLsbD_maskOf] at h
  simp only [hl, decide_true, Bool.true_and, Bool.and_eq_true] at h
  exact h.1

theorem Gang.badRead_ready {g : Gang} {gd : Guard} {os : List Opnd} (preds : Bool) (h : g.Ready gd os) :
    g.badRead gd (g.acts gd) os preds = none := by
  have hp : ((lanesOf g.em).any fun l => (g.lane l).pbad) = false := by
    simp only [List.any_eq_false, mem_lanesOf, Bool.not_eq_true]
    rintro l ⟨hl, ha⟩
    exact h.1 l hl ha
  have ha : ((lanesOf (g.acts gd)).any fun l => (g.lane l).pbad) = false := by
    simp only [List.any_eq_false, mem_lanesOf, Bool.not_eq_true]
    rintro l ⟨hl, ha⟩
    exact h.1 l hl (Gang.acts_em hl ha)
  simp only [Gang.badRead, hp, ha, Bool.or_false, Bool.and_false, Bool.false_eq_true, if_false, Option.map_eq_none_iff,
    List.find?_eq_none]
  rintro o ho hb
  rw [List.any_eq_true] at hb
  obtain ⟨l, hl, hb⟩ := hb
  rw [mem_lanesOf] at hl
  have := (h.2 l hl.1 hl.2 o ho).2.2
  cases o <;> simp_all [Gang.opndBad]

theorem Gang.firstInvalid_ready {g : Gang} {gd : Guard} {os : List Opnd} (h : g.Ready gd os) (i : Nat) :
    g.firstInvalid (g.acts gd) os i = none := by
  obtain ⟨-, h⟩ := h
  induction os generalizing i with
  | nil => rfl
  | cons o r ih =>
    have hz : maskOf (fun l => (g.acts gd).getLsbD l && g.opndInvalid o l) = 0 := by
      rw [maskOf_eq_zero]
      intro l hl
      by_cases ha : (g.acts gd).getLsbD l = true
      · simp [(h l hl ha o (by simp)).2.1]
      · simp [ha]
    simp only [Gang.firstInvalid, hz, if_true]
    exact ih (i + 1) fun l hl ha o ho => h l hl ha o (List.mem_cons_of_mem _ ho)

/-- An instruction whose operands can be read goes on. -/
theorem State.gate_ready (s : State) {g : Gang} {gd : Guard} {os : List Opnd} (preds : Bool) (k : Out)
    (h : g.Ready gd os) : s.gate g gd (g.acts gd) os preds k = k := by
  simp [State.gate, Gang.anyPending_ready h, Gang.badRead_ready preds h, Gang.firstInvalid_ready h]

/-- A per-lane instruction whose operands can be read. -/
theorem State.perLane_ready {s : State} {g : Gang} {gd : Guard} {os : List Opnd} (k : Gang → Mask → Out) (preds : Bool)
    (hg : s.curGang = some g) (h : g.Ready gd os) : s.perLane gd os k preds = k g (g.acts gd) := by
  simp [State.perLane, State.withGang, hg, State.gate_ready s preds _ h]

/-- An instruction that acts once, whose operands can be read, with an acting lane. -/
theorem State.once_ready {s : State} {g : Gang} {gd : Guard} {os : List Opnd} (p : Bool) (k : Gang → Mask → Nat → Out)
    {l : Nat} (hg : s.curGang = some g) (h : g.Ready gd os) (hl : lowest (g.acts gd) = some l) :
    s.once gd os p k = k g (g.acts gd) l := by
  simp [State.once, State.withGang, hg, hl, State.gate_ready s false _ h]

/-- An instruction that acts once, with no acting lane, is skipped (03:R60, 04:R77). -/
theorem State.once_skip {s : State} {g : Gang} {gd : Guard} {os : List Opnd} (p : Bool) (k : Gang → Mask → Nat → Out)
    (hg : s.curGang = some g) (h : g.Ready gd []) (hl : lowest (g.acts gd) = none) :
    s.once gd os p k = s.done (if p then g.push 0 .none fun _ => 0 else g) := by
  simp [State.once, State.withGang, hg, hl, State.gate_ready s false _ h]

/-- A control transfer that acts in every lane of `em`, with operands that agree. -/
theorem State.transfer_ready {s : State} {g : Gang} {gd : Guard} {os : List Opnd} (k : Gang → Nat → Out) (preds : Bool)
    (hg : s.curGang = some g) (h : g.Ready gd os) (hu : s.Uniform g gd os) :
    ∃ l, lowest g.em = some l ∧ l < 32 ∧ g.em.getLsbD l = true ∧ s.transfer gd os k preds = k g l := by
  obtain ⟨he, ha, ho⟩ := hu
  obtain ⟨l, hl, hlt, hb⟩ := lowest_some he
  refine ⟨l, hl, hlt, hb, ?_⟩
  have hall : (os.all fun o => (lanesOf (g.acts gd)).all fun j => s.opnd g 0 o j == s.opnd g 0 o l) = true := by
    simp only [List.all_eq_true, mem_lanesOf, beq_iff_eq, ha]
    rintro o hmem j ⟨hj, hjb⟩
    exact ho o hmem j hj l hlt hjb hb
  have hl' : lowest (g.acts gd) = some l := by rw [ha]; exact hl
  simp only [State.transfer, State.withGang, hg, hl', State.gate_ready s preds _ h, hall]
  simp [ha]

end Sys2Proof.Machine
end

