-- ==== Sys2Proof/Laws/State.lean ====
section
/-! SUPPORT. One lemma for each field of the state and each update of it: what the update leaves. -/

namespace Sys2Proof.Machine

open Sys2Proof

/-! ### setGang -/

@[simp] theorem State.setGang_agenda (s : State) (g : Gang) : (s.setGang g).agenda = s.agenda := rfl
@[simp] theorem State.setGang_cur (s : State) (g : Gang) : (s.setGang g).cur = s.cur := rfl
@[simp] theorem State.setGang_time (s : State) (g : Gang) : (s.setGang g).time = s.time := rfl
@[simp] theorem State.setGang_cycle (s : State) (g : Gang) : (s.setGang g).cycle = s.cycle := rfl
@[simp] theorem State.setGang_picks (s : State) (g : Gang) : (s.setGang g).picks = s.picks := rfl
@[simp] theorem State.setGang_fours (s : State) (g : Gang) : (s.setGang g).fours = s.fours := rfl
@[simp] theorem State.setGang_gnext (s : State) (g : Gang) : (s.setGang g).gnext = s.gnext := rfl
@[simp] theorem State.setGang_acted (s : State) (g : Gang) : (s.setGang g).acted = s.acted := rfl
@[simp] theorem State.setGang_free (s : State) (g : Gang) : (s.setGang g).free = s.free := rfl
@[simp] theorem State.setGang_nextId (s : State) (g : Gang) : (s.setGang g).nextId = s.nextId := rfl
@[simp] theorem State.setGang_bricks (s : State) (g : Gang) : (s.setGang g).bricks = s.bricks := rfl
@[simp] theorem State.setGang_courses (s : State) (g : Gang) : (s.setGang g).courses = s.courses := rfl
@[simp] theorem State.setGang_walls (s : State) (g : Gang) : (s.setGang g).walls = s.walls := rfl
@[simp] theorem State.setGang_sets (s : State) (g : Gang) : (s.setGang g).sets = s.sets := rfl
@[simp] theorem State.setGang_nofit (s : State) (g : Gang) : (s.setGang g).nofit = s.nofit := rfl
@[simp] theorem State.setGang_cores (s : State) (g : Gang) : (s.setGang g).cores = s.cores := rfl
@[simp] theorem State.setGang_groups (s : State) (g : Gang) : (s.setGang g).groups = s.groups := rfl
@[simp] theorem State.setGang_foots (s : State) (g : Gang) : (s.setGang g).foots = s.foots := rfl
@[simp] theorem State.setGang_slices (s : State) (g : Gang) : (s.setGang g).slices = s.slices := rfl
@[simp] theorem State.setGang_tlb (s : State) (g : Gang) : (s.setGang g).tlb = s.tlb := rfl
@[simp] theorem State.setGang_gtlb (s : State) (g : Gang) : (s.setGang g).gtlb = s.gtlb := rfl
@[simp] theorem State.setGang_walks (s : State) (g : Gang) : (s.setGang g).walks = s.walks := rfl
@[simp] theorem State.setGang_l1 (s : State) (g : Gang) : (s.setGang g).l1 = s.l1 := rfl
@[simp] theorem State.setGang_images (s : State) (g : Gang) : (s.setGang g).images = s.images := rfl
@[simp] theorem State.setGang_reqs (s : State) (g : Gang) : (s.setGang g).reqs = s.reqs := rfl
@[simp] theorem State.setGang_lates (s : State) (g : Gang) : (s.setGang g).lates = s.lates := rfl
@[simp] theorem State.setGang_writes (s : State) (g : Gang) : (s.setGang g).writes = s.writes := rfl
@[simp] theorem State.setGang_wtags (s : State) (g : Gang) : (s.setGang g).wtags = s.wtags := rfl
@[simp] theorem State.setGang_orders (s : State) (g : Gang) : (s.setGang g).orders = s.orders := rfl
@[simp] theorem State.setGang_copies (s : State) (g : Gang) : (s.setGang g).copies = s.copies := rfl
@[simp] theorem State.setGang_mcreqs (s : State) (g : Gang) : (s.setGang g).mcreqs = s.mcreqs := rfl
@[simp] theorem State.setGang_mcholds (s : State) (g : Gang) : (s.setGang g).mcholds = s.mcholds := rfl
@[simp] theorem State.setGang_mctests (s : State) (g : Gang) : (s.setGang g).mctests = s.mctests := rfl
@[simp] theorem State.setGang_fills (s : State) (g : Gang) : (s.setGang g).fills = s.fills := rfl
@[simp] theorem State.setGang_idxops (s : State) (g : Gang) : (s.setGang g).idxops = s.idxops := rfl
@[simp] theorem State.setGang_samples (s : State) (g : Gang) : (s.setGang g).samples = s.samples := rfl
@[simp] theorem State.setGang_matArrivals (s : State) (g : Gang) : (s.setGang g).matArrivals = s.matArrivals := rfl
@[simp] theorem State.setGang_savedMat (s : State) (g : Gang) : (s.setGang g).savedMat = s.savedMat := rfl
@[simp] theorem State.setGang_savedQuant (s : State) (g : Gang) : (s.setGang g).savedQuant = s.savedQuant := rfl
@[simp] theorem State.setGang_flits (s : State) (g : Gang) : (s.setGang g).flits = s.flits := rfl
@[simp] theorem State.setGang_leads (s : State) (g : Gang) : (s.setGang g).leads = s.leads := rfl
@[simp] theorem State.setGang_queues (s : State) (g : Gang) : (s.setGang g).queues = s.queues := rfl
@[simp] theorem State.setGang_ovf (s : State) (g : Gang) : (s.setGang g).ovf = s.ovf := rfl
@[simp] theorem State.setGang_unitHolds (s : State) (g : Gang) : (s.setGang g).unitHolds = s.unitHolds := rfl
@[simp] theorem State.setGang_engines (s : State) (g : Gang) : (s.setGang g).engines = s.engines := rfl
@[simp] theorem State.setGang_streams (s : State) (g : Gang) : (s.setGang g).streams = s.streams := rfl
@[simp] theorem State.setGang_pool (s : State) (g : Gang) : (s.setGang g).pool = s.pool := rfl
@[simp] theorem State.setGang_peers (s : State) (g : Gang) : (s.setGang g).peers = s.peers := rfl
@[simp] theorem State.setGang_marks (s : State) (g : Gang) : (s.setGang g).marks = s.marks := rfl
@[simp] theorem State.setGang_sent (s : State) (g : Gang) : (s.setGang g).sent = s.sent := rfl
@[simp] theorem State.setGang_sys (s : State) (g : Gang) : (s.setGang g).sys = s.sys := rfl
@[simp] theorem State.setGang_mem (s : State) (g : Gang) (f : Nat) :
    (s.setGang g).mem f = s.mem f := rfl
@[simp] theorem State.setGang_core (s : State) (g : Gang) (c : Nat) :
    (s.setGang g).core c = s.core c := rfl
@[simp] theorem State.setGang_group (s : State) (g : Gang) (i : Nat) :
    (s.setGang g).group i = s.group i := rfl
@[simp] theorem State.setGang_brickOpt (s : State) (g : Gang) (k : BKey) :
    (s.setGang g).brick? k = s.brick? k := rfl
@[simp] theorem State.setGang_courseOpt (s : State) (g : Gang) (k : CKey) :
    (s.setGang g).course? k = s.course? k := rfl
@[simp] theorem State.setGang_wallOpt (s : State) (g : Gang) (i : Nat) :
    (s.setGang g).wall? i = s.wall? i := rfl
@[simp] theorem State.setGang_asidOf (s : State) (g : Gang) (i : Nat) :
    (s.setGang g).asidOf i = s.asidOf i := rfl
@[simp] theorem State.setGang_headerOpt (s : State) (g : Gang) (i : Nat) :
    (s.setGang g).header? i = s.header? i := rfl
@[simp] theorem State.setGang_setOpt (s : State) (g : Gang) (w i : Nat) :
    (s.setGang g).set? w i = s.set? w i := rfl
@[simp] theorem State.setGang_streamOpt (s : State) (g : Gang) (i : Nat) :
    (s.setGang g).stream? i = s.stream? i := rfl

/-! ### setBrick -/

@[simp] theorem State.setBrick_agenda (s : State) (b : Brick) : (s.setBrick b).agenda = s.agenda := rfl
@[simp] theorem State.setBrick_cur (s : State) (b : Brick) : (s.setBrick b).cur = s.cur := rfl
@[simp] theorem State.setBrick_time (s : State) (b : Brick) : (s.setBrick b).time = s.time := rfl
@[simp] theorem State.setBrick_cycle (s : State) (b : Brick) : (s.setBrick b).cycle = s.cycle := rfl
@[simp] theorem State.setBrick_picks (s : State) (b : Brick) : (s.setBrick b).picks = s.picks := rfl
@[simp] theorem State.setBrick_fours (s : State) (b : Brick) : (s.setBrick b).fours = s.fours := rfl
@[simp] theorem State.setBrick_gnext (s : State) (b : Brick) : (s.setBrick b).gnext = s.gnext := rfl
@[simp] theorem State.setBrick_acted (s : State) (b : Brick) : (s.setBrick b).acted = s.acted := rfl
@[simp] theorem State.setBrick_free (s : State) (b : Brick) : (s.setBrick b).free = s.free := rfl
@[simp] theorem State.setBrick_nextId (s : State) (b : Brick) : (s.setBrick b).nextId = s.nextId := rfl
@[simp] theorem State.setBrick_gangs (s : State) (b : Brick) : (s.setBrick b).gangs = s.gangs := rfl
@[simp] theorem State.setBrick_courses (s : State) (b : Brick) : (s.setBrick b).courses = s.courses := rfl
@[simp] theorem State.setBrick_walls (s : State) (b : Brick) : (s.setBrick b).walls = s.walls := rfl
@[simp] theorem State.setBrick_sets (s : State) (b : Brick) : (s.setBrick b).sets = s.sets := rfl
@[simp] theorem State.setBrick_nofit (s : State) (b : Brick) : (s.setBrick b).nofit = s.nofit := rfl
@[simp] theorem State.setBrick_cores (s : State) (b : Brick) : (s.setBrick b).cores = s.cores := rfl
@[simp] theorem State.setBrick_groups (s : State) (b : Brick) : (s.setBrick b).groups = s.groups := rfl
@[simp] theorem State.setBrick_foots (s : State) (b : Brick) : (s.setBrick b).foots = s.foots := rfl
@[simp] theorem State.setBrick_slices (s : State) (b : Brick) : (s.setBrick b).slices = s.slices := rfl
@[simp] theorem State.setBrick_tlb (s : State) (b : Brick) : (s.setBrick b).tlb = s.tlb := rfl
@[simp] theorem State.setBrick_gtlb (s : State) (b : Brick) : (s.setBrick b).gtlb = s.gtlb := rfl
@[simp] theorem State.setBrick_walks (s : State) (b : Brick) : (s.setBrick b).walks = s.walks := rfl
@[simp] theorem State.setBrick_l1 (s : State) (b : Brick) : (s.setBrick b).l1 = s.l1 := rfl
@[simp] theorem State.setBrick_images (s : State) (b : Brick) : (s.setBrick b).images = s.images := rfl
@[simp] theorem State.setBrick_reqs (s : State) (b : Brick) : (s.setBrick b).reqs = s.reqs := rfl
@[simp] theorem State.setBrick_lates (s : State) (b : Brick) : (s.setBrick b).lates = s.lates := rfl
@[simp] theorem State.setBrick_writes (s : State) (b : Brick) : (s.setBrick b).writes = s.writes := rfl
@[simp] theorem State.setBrick_wtags (s : State) (b : Brick) : (s.setBrick b).wtags = s.wtags := rfl
@[simp] theorem State.setBrick_orders (s : State) (b : Brick) : (s.setBrick b).orders = s.orders := rfl
@[simp] theorem State.setBrick_copies (s : State) (b : Brick) : (s.setBrick b).copies = s.copies := rfl
@[simp] theorem State.setBrick_mcreqs (s : State) (b : Brick) : (s.setBrick b).mcreqs = s.mcreqs := rfl
@[simp] theorem State.setBrick_mcholds (s : State) (b : Brick) : (s.setBrick b).mcholds = s.mcholds := rfl
@[simp] theorem State.setBrick_mctests (s : State) (b : Brick) : (s.setBrick b).mctests = s.mctests := rfl
@[simp] theorem State.setBrick_fills (s : State) (b : Brick) : (s.setBrick b).fills = s.fills := rfl
@[simp] theorem State.setBrick_idxops (s : State) (b : Brick) : (s.setBrick b).idxops = s.idxops := rfl
@[simp] theorem State.setBrick_samples (s : State) (b : Brick) : (s.setBrick b).samples = s.samples := rfl
@[simp] theorem State.setBrick_matArrivals (s : State) (b : Brick) : (s.setBrick b).matArrivals = s.matArrivals := rfl
@[simp] theorem State.setBrick_savedMat (s : State) (b : Brick) : (s.setBrick b).savedMat = s.savedMat := rfl
@[simp] theorem State.setBrick_savedQuant (s : State) (b : Brick) : (s.setBrick b).savedQuant = s.savedQuant := rfl
@[simp] theorem State.setBrick_flits (s : State) (b : Brick) : (s.setBrick b).flits = s.flits := rfl
@[simp] theorem State.setBrick_leads (s : State) (b : Brick) : (s.setBrick b).leads = s.leads := rfl
@[simp] theorem State.setBrick_queues (s : State) (b : Brick) : (s.setBrick b).queues = s.queues := rfl
@[simp] theorem State.setBrick_ovf (s : State) (b : Brick) : (s.setBrick b).ovf = s.ovf := rfl
@[simp] theorem State.setBrick_unitHolds (s : State) (b : Brick) : (s.setBrick b).unitHolds = s.unitHolds := rfl
@[simp] theorem State.setBrick_engines (s : State) (b : Brick) : (s.setBrick b).engines = s.engines := rfl
@[simp] theorem State.setBrick_streams (s : State) (b : Brick) : (s.setBrick b).streams = s.streams := rfl
@[simp] theorem State.setBrick_pool (s : State) (b : Brick) : (s.setBrick b).pool = s.pool := rfl
@[simp] theorem State.setBrick_peers (s : State) (b : Brick) : (s.setBrick b).peers = s.peers := rfl
@[simp] theorem State.setBrick_marks (s : State) (b : Brick) : (s.setBrick b).marks = s.marks := rfl
@[simp] theorem State.setBrick_sent (s : State) (b : Brick) : (s.setBrick b).sent = s.sent := rfl
@[simp] theorem State.setBrick_sys (s : State) (b : Brick) : (s.setBrick b).sys = s.sys := rfl
@[simp] theorem State.setBrick_mem (s : State) (b : Brick) (f : Nat) :
    (s.setBrick b).mem f = s.mem f := rfl
@[simp] theorem State.setBrick_core (s : State) (b : Brick) (c : Nat) :
    (s.setBrick b).core c = s.core c := rfl
@[simp] theorem State.setBrick_group (s : State) (b : Brick) (i : Nat) :
    (s.setBrick b).group i = s.group i := rfl
@[simp] theorem State.setBrick_gangOpt (s : State) (b : Brick) (i : Nat) :
    (s.setBrick b).gang? i = s.gang? i := rfl
@[simp] theorem State.setBrick_gangAt (s : State) (b : Brick) (c p : Nat) :
    (s.setBrick b).gangAt c p = s.gangAt c p := rfl
@[simp] theorem State.setBrick_courseOpt (s : State) (b : Brick) (k : CKey) :
    (s.setBrick b).course? k = s.course? k := rfl
@[simp] theorem State.setBrick_wallOpt (s : State) (b : Brick) (i : Nat) :
    (s.setBrick b).wall? i = s.wall? i := rfl
@[simp] theorem State.setBrick_asidOf (s : State) (b : Brick) (i : Nat) :
    (s.setBrick b).asidOf i = s.asidOf i := rfl
@[simp] theorem State.setBrick_headerOpt (s : State) (b : Brick) (i : Nat) :
    (s.setBrick b).header? i = s.header? i := rfl
@[simp] theorem State.setBrick_setOpt (s : State) (b : Brick) (w i : Nat) :
    (s.setBrick b).set? w i = s.set? w i := rfl
@[simp] theorem State.setBrick_streamOpt (s : State) (b : Brick) (i : Nat) :
    (s.setBrick b).stream? i = s.stream? i := rfl

/-! ### setCourse -/

@[simp] theorem State.setCourse_agenda (s : State) (c : Course) : (s.setCourse c).agenda = s.agenda := rfl
@[simp] theorem State.setCourse_cur (s : State) (c : Course) : (s.setCourse c).cur = s.cur := rfl
@[simp] theorem State.setCourse_time (s : State) (c : Course) : (s.setCourse c).time = s.time := rfl
@[simp] theorem State.setCourse_cycle (s : State) (c : Course) : (s.setCourse c).cycle = s.cycle := rfl
@[simp] theorem State.setCourse_picks (s : State) (c : Course) : (s.setCourse c).picks = s.picks := rfl
@[simp] theorem State.setCourse_fours (s : State) (c : Course) : (s.setCourse c).fours = s.fours := rfl
@[simp] theorem State.setCourse_gnext (s : State) (c : Course) : (s.setCourse c).gnext = s.gnext := rfl
@[simp] theorem State.setCourse_acted (s : State) (c : Course) : (s.setCourse c).acted = s.acted := rfl
@[simp] theorem State.setCourse_free (s : State) (c : Course) : (s.setCourse c).free = s.free := rfl
@[simp] theorem State.setCourse_nextId (s : State) (c : Course) : (s.setCourse c).nextId = s.nextId := rfl
@[simp] theorem State.setCourse_gangs (s : State) (c : Course) : (s.setCourse c).gangs = s.gangs := rfl
@[simp] theorem State.setCourse_bricks (s : State) (c : Course) : (s.setCourse c).bricks = s.bricks := rfl
@[simp] theorem State.setCourse_walls (s : State) (c : Course) : (s.setCourse c).walls = s.walls := rfl
@[simp] theorem State.setCourse_sets (s : State) (c : Course) : (s.setCourse c).sets = s.sets := rfl
@[simp] theorem State.setCourse_nofit (s : State) (c : Course) : (s.setCourse c).nofit = s.nofit := rfl
@[simp] theorem State.setCourse_cores (s : State) (c : Course) : (s.setCourse c).cores = s.cores := rfl
@[simp] theorem State.setCourse_groups (s : State) (c : Course) : (s.setCourse c).groups = s.groups := rfl
@[simp] theorem State.setCourse_foots (s : State) (c : Course) : (s.setCourse c).foots = s.foots := rfl
@[simp] theorem State.setCourse_slices (s : State) (c : Course) : (s.setCourse c).slices = s.slices := rfl
@[simp] theorem State.setCourse_tlb (s : State) (c : Course) : (s.setCourse c).tlb = s.tlb := rfl
@[simp] theorem State.setCourse_gtlb (s : State) (c : Course) : (s.setCourse c).gtlb = s.gtlb := rfl
@[simp] theorem State.setCourse_walks (s : State) (c : Course) : (s.setCourse c).walks = s.walks := rfl
@[simp] theorem State.setCourse_l1 (s : State) (c : Course) : (s.setCourse c).l1 = s.l1 := rfl
@[simp] theorem State.setCourse_images (s : State) (c : Course) : (s.setCourse c).images = s.images := rfl
@[simp] theorem State.setCourse_reqs (s : State) (c : Course) : (s.setCourse c).reqs = s.reqs := rfl
@[simp] theorem State.setCourse_lates (s : State) (c : Course) : (s.setCourse c).lates = s.lates := rfl
@[simp] theorem State.setCourse_writes (s : State) (c : Course) : (s.setCourse c).writes = s.writes := rfl
@[simp] theorem State.setCourse_wtags (s : State) (c : Course) : (s.setCourse c).wtags = s.wtags := rfl
@[simp] theorem State.setCourse_orders (s : State) (c : Course) : (s.setCourse c).orders = s.orders := rfl
@[simp] theorem State.setCourse_copies (s : State) (c : Course) : (s.setCourse c).copies = s.copies := rfl
@[simp] theorem State.setCourse_mcreqs (s : State) (c : Course) : (s.setCourse c).mcreqs = s.mcreqs := rfl
@[simp] theorem State.setCourse_mcholds (s : State) (c : Course) : (s.setCourse c).mcholds = s.mcholds := rfl
@[simp] theorem State.setCourse_mctests (s : State) (c : Course) : (s.setCourse c).mctests = s.mctests := rfl
@[simp] theorem State.setCourse_fills (s : State) (c : Course) : (s.setCourse c).fills = s.fills := rfl
@[simp] theorem State.setCourse_idxops (s : State) (c : Course) : (s.setCourse c).idxops = s.idxops := rfl
@[simp] theorem State.setCourse_samples (s : State) (c : Course) : (s.setCourse c).samples = s.samples := rfl
@[simp] theorem State.setCourse_matArrivals (s : State) (c : Course) : (s.setCourse c).matArrivals = s.matArrivals := rfl
@[simp] theorem State.setCourse_savedMat (s : State) (c : Course) : (s.setCourse c).savedMat = s.savedMat := rfl
@[simp] theorem State.setCourse_savedQuant (s : State) (c : Course) : (s.setCourse c).savedQuant = s.savedQuant := rfl
@[simp] theorem State.setCourse_flits (s : State) (c : Course) : (s.setCourse c).flits = s.flits := rfl
@[simp] theorem State.setCourse_leads (s : State) (c : Course) : (s.setCourse c).leads = s.leads := rfl
@[simp] theorem State.setCourse_queues (s : State) (c : Course) : (s.setCourse c).queues = s.queues := rfl
@[simp] theorem State.setCourse_ovf (s : State) (c : Course) : (s.setCourse c).ovf = s.ovf := rfl
@[simp] theorem State.setCourse_unitHolds (s : State) (c : Course) : (s.setCourse c).unitHolds = s.unitHolds := rfl
@[simp] theorem State.setCourse_engines (s : State) (c : Course) : (s.setCourse c).engines = s.engines := rfl
@[simp] theorem State.setCourse_streams (s : State) (c : Course) : (s.setCourse c).streams = s.streams := rfl
@[simp] theorem State.setCourse_pool (s : State) (c : Course) : (s.setCourse c).pool = s.pool := rfl
@[simp] theorem State.setCourse_peers (s : State) (c : Course) : (s.setCourse c).peers = s.peers := rfl
@[simp] theorem State.setCourse_marks (s : State) (c : Course) : (s.setCourse c).marks = s.marks := rfl
@[simp] theorem State.setCourse_sent (s : State) (c : Course) : (s.setCourse c).sent = s.sent := rfl
@[simp] theorem State.setCourse_sys (s : State) (c : Course) : (s.setCourse c).sys = s.sys := rfl
@[simp] theorem State.setCourse_mem (s : State) (c : Course) (f : Nat) :
    (s.setCourse c).mem f = s.mem f := rfl
@[simp] theorem State.setCourse_core (s : State) (c : Course) (c' : Nat) :
    (s.setCourse c).core c' = s.core c' := rfl
@[simp] theorem State.setCourse_group (s : State) (c : Course) (i : Nat) :
    (s.setCourse c).group i = s.group i := rfl
@[simp] theorem State.setCourse_gangOpt (s : State) (c : Course) (i : Nat) :
    (s.setCourse c).gang? i = s.gang? i := rfl
@[simp] theorem State.setCourse_gangAt (s : State) (c : Course) (c' p : Nat) :
    (s.setCourse c).gangAt c' p = s.gangAt c' p := rfl
@[simp] theorem State.setCourse_brickOpt (s : State) (c : Course) (k : BKey) :
    (s.setCourse c).brick? k = s.brick? k := rfl
@[simp] theorem State.setCourse_wallOpt (s : State) (c : Course) (i : Nat) :
    (s.setCourse c).wall? i = s.wall? i := rfl
@[simp] theorem State.setCourse_asidOf (s : State) (c : Course) (i : Nat) :
    (s.setCourse c).asidOf i = s.asidOf i := rfl
@[simp] theorem State.setCourse_headerOpt (s : State) (c : Course) (i : Nat) :
    (s.setCourse c).header? i = s.header? i := rfl
@[simp] theorem State.setCourse_setOpt (s : State) (c : Course) (w i : Nat) :
    (s.setCourse c).set? w i = s.set? w i := rfl
@[simp] theorem State.setCourse_streamOpt (s : State) (c : Course) (i : Nat) :
    (s.setCourse c).stream? i = s.stream? i := rfl

/-! ### setWall -/

@[simp] theorem State.setWall_agenda (s : State) (w : Wall) : (s.setWall w).agenda = s.agenda := rfl
@[simp] theorem State.setWall_cur (s : State) (w : Wall) : (s.setWall w).cur = s.cur := rfl
@[simp] theorem State.setWall_time (s : State) (w : Wall) : (s.setWall w).time = s.time := rfl
@[simp] theorem State.setWall_cycle (s : State) (w : Wall) : (s.setWall w).cycle = s.cycle := rfl
@[simp] theorem State.setWall_picks (s : State) (w : Wall) : (s.setWall w).picks = s.picks := rfl
@[simp] theorem State.setWall_fours (s : State) (w : Wall) : (s.setWall w).fours = s.fours := rfl
@[simp] theorem State.setWall_gnext (s : State) (w : Wall) : (s.setWall w).gnext = s.gnext := rfl
@[simp] theorem State.setWall_acted (s : State) (w : Wall) : (s.setWall w).acted = s.acted := rfl
@[simp] theorem State.setWall_free (s : State) (w : Wall) : (s.setWall w).free = s.free := rfl
@[simp] theorem State.setWall_nextId (s : State) (w : Wall) : (s.setWall w).nextId = s.nextId := rfl
@[simp] theorem State.setWall_gangs (s : State) (w : Wall) : (s.setWall w).gangs = s.gangs := rfl
@[simp] theorem State.setWall_bricks (s : State) (w : Wall) : (s.setWall w).bricks = s.bricks := rfl
@[simp] theorem State.setWall_courses (s : State) (w : Wall) : (s.setWall w).courses = s.courses := rfl
@[simp] theorem State.setWall_sets (s : State) (w : Wall) : (s.setWall w).sets = s.sets := rfl
@[simp] theorem State.setWall_nofit (s : State) (w : Wall) : (s.setWall w).nofit = s.nofit := rfl
@[simp] theorem State.setWall_cores (s : State) (w : Wall) : (s.setWall w).cores = s.cores := rfl
@[simp] theorem State.setWall_groups (s : State) (w : Wall) : (s.setWall w).groups = s.groups := rfl
@[simp] theorem State.setWall_foots (s : State) (w : Wall) : (s.setWall w).foots = s.foots := rfl
@[simp] theorem State.setWall_slices (s : State) (w : Wall) : (s.setWall w).slices = s.slices := rfl
@[simp] theorem State.setWall_tlb (s : State) (w : Wall) : (s.setWall w).tlb = s.tlb := rfl
@[simp] theorem State.setWall_gtlb (s : State) (w : Wall) : (s.setWall w).gtlb = s.gtlb := rfl
@[simp] theorem State.setWall_walks (s : State) (w : Wall) : (s.setWall w).walks = s.walks := rfl
@[simp] theorem State.setWall_l1 (s : State) (w : Wall) : (s.setWall w).l1 = s.l1 := rfl
@[simp] theorem State.setWall_images (s : State) (w : Wall) : (s.setWall w).images = s.images := rfl
@[simp] theorem State.setWall_reqs (s : State) (w : Wall) : (s.setWall w).reqs = s.reqs := rfl
@[simp] theorem State.setWall_lates (s : State) (w : Wall) : (s.setWall w).lates = s.lates := rfl
@[simp] theorem State.setWall_writes (s : State) (w : Wall) : (s.setWall w).writes = s.writes := rfl
@[simp] theorem State.setWall_wtags (s : State) (w : Wall) : (s.setWall w).wtags = s.wtags := rfl
@[simp] theorem State.setWall_orders (s : State) (w : Wall) : (s.setWall w).orders = s.orders := rfl
@[simp] theorem State.setWall_copies (s : State) (w : Wall) : (s.setWall w).copies = s.copies := rfl
@[simp] theorem State.setWall_mcreqs (s : State) (w : Wall) : (s.setWall w).mcreqs = s.mcreqs := rfl
@[simp] theorem State.setWall_mcholds (s : State) (w : Wall) : (s.setWall w).mcholds = s.mcholds := rfl
@[simp] theorem State.setWall_mctests (s : State) (w : Wall) : (s.setWall w).mctests = s.mctests := rfl
@[simp] theorem State.setWall_fills (s : State) (w : Wall) : (s.setWall w).fills = s.fills := rfl
@[simp] theorem State.setWall_idxops (s : State) (w : Wall) : (s.setWall w).idxops = s.idxops := rfl
@[simp] theorem State.setWall_samples (s : State) (w : Wall) : (s.setWall w).samples = s.samples := rfl
@[simp] theorem State.setWall_matArrivals (s : State) (w : Wall) : (s.setWall w).matArrivals = s.matArrivals := rfl
@[simp] theorem State.setWall_savedMat (s : State) (w : Wall) : (s.setWall w).savedMat = s.savedMat := rfl
@[simp] theorem State.setWall_savedQuant (s : State) (w : Wall) : (s.setWall w).savedQuant = s.savedQuant := rfl
@[simp] theorem State.setWall_flits (s : State) (w : Wall) : (s.setWall w).flits = s.flits := rfl
@[simp] theorem State.setWall_leads (s : State) (w : Wall) : (s.setWall w).leads = s.leads := rfl
@[simp] theorem State.setWall_queues (s : State) (w : Wall) : (s.setWall w).queues = s.queues := rfl
@[simp] theorem State.setWall_ovf (s : State) (w : Wall) : (s.setWall w).ovf = s.ovf := rfl
@[simp] theorem State.setWall_unitHolds (s : State) (w : Wall) : (s.setWall w).unitHolds = s.unitHolds := rfl
@[simp] theorem State.setWall_engines (s : State) (w : Wall) : (s.setWall w).engines = s.engines := rfl
@[simp] theorem State.setWall_streams (s : State) (w : Wall) : (s.setWall w).streams = s.streams := rfl
@[simp] theorem State.setWall_pool (s : State) (w : Wall) : (s.setWall w).pool = s.pool := rfl
@[simp] theorem State.setWall_peers (s : State) (w : Wall) : (s.setWall w).peers = s.peers := rfl
@[simp] theorem State.setWall_marks (s : State) (w : Wall) : (s.setWall w).marks = s.marks := rfl
@[simp] theorem State.setWall_sent (s : State) (w : Wall) : (s.setWall w).sent = s.sent := rfl
@[simp] theorem State.setWall_sys (s : State) (w : Wall) : (s.setWall w).sys = s.sys := rfl
@[simp] theorem State.setWall_mem (s : State) (w : Wall) (f : Nat) :
    (s.setWall w).mem f = s.mem f := rfl
@[simp] theorem State.setWall_core (s : State) (w : Wall) (c : Nat) :
    (s.setWall w).core c = s.core c := rfl
@[simp] theorem State.setWall_group (s : State) (w : Wall) (i : Nat) :
    (s.setWall w).group i = s.group i := rfl
@[simp] theorem State.setWall_gangOpt (s : State) (w : Wall) (i : Nat) :
    (s.setWall w).gang? i = s.gang? i := rfl
@[simp] theorem State.setWall_gangAt (s : State) (w : Wall) (c p : Nat) :
    (s.setWall w).gangAt c p = s.gangAt c p := rfl
@[simp] theorem State.setWall_brickOpt (s : State) (w : Wall) (k : BKey) :
    (s.setWall w).brick? k = s.brick? k := rfl
@[simp] theorem State.setWall_courseOpt (s : State) (w : Wall) (k : CKey) :
    (s.setWall w).course? k = s.course? k := rfl
@[simp] theorem State.setWall_setOpt (s : State) (w : Wall) (w' i : Nat) :
    (s.setWall w).set? w' i = s.set? w' i := rfl
@[simp] theorem State.setWall_streamOpt (s : State) (w : Wall) (i : Nat) :
    (s.setWall w).stream? i = s.stream? i := rfl

/-! ### setPSet -/

@[simp] theorem State.setPSet_agenda (s : State) (p : Machine.PSet) : (s.setPSet p).agenda = s.agenda := rfl
@[simp] theorem State.setPSet_cur (s : State) (p : Machine.PSet) : (s.setPSet p).cur = s.cur := rfl
@[simp] theorem State.setPSet_time (s : State) (p : Machine.PSet) : (s.setPSet p).time = s.time := rfl
@[simp] theorem State.setPSet_cycle (s : State) (p : Machine.PSet) : (s.setPSet p).cycle = s.cycle := rfl
@[simp] theorem State.setPSet_picks (s : State) (p : Machine.PSet) : (s.setPSet p).picks = s.picks := rfl
@[simp] theorem State.setPSet_fours (s : State) (p : Machine.PSet) : (s.setPSet p).fours = s.fours := rfl
@[simp] theorem State.setPSet_gnext (s : State) (p : Machine.PSet) : (s.setPSet p).gnext = s.gnext := rfl
@[simp] theorem State.setPSet_acted (s : State) (p : Machine.PSet) : (s.setPSet p).acted = s.acted := rfl
@[simp] theorem State.setPSet_free (s : State) (p : Machine.PSet) : (s.setPSet p).free = s.free := rfl
@[simp] theorem State.setPSet_nextId (s : State) (p : Machine.PSet) : (s.setPSet p).nextId = s.nextId := rfl
@[simp] theorem State.setPSet_gangs (s : State) (p : Machine.PSet) : (s.setPSet p).gangs = s.gangs := rfl
@[simp] theorem State.setPSet_bricks (s : State) (p : Machine.PSet) : (s.setPSet p).bricks = s.bricks := rfl
@[simp] theorem State.setPSet_courses (s : State) (p : Machine.PSet) : (s.setPSet p).courses = s.courses := rfl
@[simp] theorem State.setPSet_walls (s : State) (p : Machine.PSet) : (s.setPSet p).walls = s.walls := rfl
@[simp] theorem State.setPSet_nofit (s : State) (p : Machine.PSet) : (s.setPSet p).nofit = s.nofit := rfl
@[simp] theorem State.setPSet_cores (s : State) (p : Machine.PSet) : (s.setPSet p).cores = s.cores := rfl
@[simp] theorem State.setPSet_groups (s : State) (p : Machine.PSet) : (s.setPSet p).groups = s.groups := rfl
@[simp] theorem State.setPSet_foots (s : State) (p : Machine.PSet) : (s.setPSet p).foots = s.foots := rfl
@[simp] theorem State.setPSet_slices (s : State) (p : Machine.PSet) : (s.setPSet p).slices = s.slices := rfl
@[simp] theorem State.setPSet_tlb (s : State) (p : Machine.PSet) : (s.setPSet p).tlb = s.tlb := rfl
@[simp] theorem State.setPSet_gtlb (s : State) (p : Machine.PSet) : (s.setPSet p).gtlb = s.gtlb := rfl
@[simp] theorem State.setPSet_walks (s : State) (p : Machine.PSet) : (s.setPSet p).walks = s.walks := rfl
@[simp] theorem State.setPSet_l1 (s : State) (p : Machine.PSet) : (s.setPSet p).l1 = s.l1 := rfl
@[simp] theorem State.setPSet_images (s : State) (p : Machine.PSet) : (s.setPSet p).images = s.images := rfl
@[simp] theorem State.setPSet_reqs (s : State) (p : Machine.PSet) : (s.setPSet p).reqs = s.reqs := rfl
@[simp] theorem State.setPSet_lates (s : State) (p : Machine.PSet) : (s.setPSet p).lates = s.lates := rfl
@[simp] theorem State.setPSet_writes (s : State) (p : Machine.PSet) : (s.setPSet p).writes = s.writes := rfl
@[simp] theorem State.setPSet_wtags (s : State) (p : Machine.PSet) : (s.setPSet p).wtags = s.wtags := rfl
@[simp] theorem State.setPSet_orders (s : State) (p : Machine.PSet) : (s.setPSet p).orders = s.orders := rfl
@[simp] theorem State.setPSet_copies (s : State) (p : Machine.PSet) : (s.setPSet p).copies = s.copies := rfl
@[simp] theorem State.setPSet_mcreqs (s : State) (p : Machine.PSet) : (s.setPSet p).mcreqs = s.mcreqs := rfl
@[simp] theorem State.setPSet_mcholds (s : State) (p : Machine.PSet) : (s.setPSet p).mcholds = s.mcholds := rfl
@[simp] theorem State.setPSet_mctests (s : State) (p : Machine.PSet) : (s.setPSet p).mctests = s.mctests := rfl
@[simp] theorem State.setPSet_fills (s : State) (p : Machine.PSet) : (s.setPSet p).fills = s.fills := rfl
@[simp] theorem State.setPSet_idxops (s : State) (p : Machine.PSet) : (s.setPSet p).idxops = s.idxops := rfl
@[simp] theorem State.setPSet_samples (s : State) (p : Machine.PSet) : (s.setPSet p).samples = s.samples := rfl
@[simp] theorem State.setPSet_matArrivals (s : State) (p : Machine.PSet) : (s.setPSet p).matArrivals = s.matArrivals := rfl
@[simp] theorem State.setPSet_savedMat (s : State) (p : Machine.PSet) : (s.setPSet p).savedMat = s.savedMat := rfl
@[simp] theorem State.setPSet_savedQuant (s : State) (p : Machine.PSet) : (s.setPSet p).savedQuant = s.savedQuant := rfl
@[simp] theorem State.setPSet_flits (s : State) (p : Machine.PSet) : (s.setPSet p).flits = s.flits := rfl
@[simp] theorem State.setPSet_leads (s : State) (p : Machine.PSet) : (s.setPSet p).leads = s.leads := rfl
@[simp] theorem State.setPSet_queues (s : State) (p : Machine.PSet) : (s.setPSet p).queues = s.queues := rfl
@[simp] theorem State.setPSet_ovf (s : State) (p : Machine.PSet) : (s.setPSet p).ovf = s.ovf := rfl
@[simp] theorem State.setPSet_unitHolds (s : State) (p : Machine.PSet) : (s.setPSet p).unitHolds = s.unitHolds := rfl
@[simp] theorem State.setPSet_engines (s : State) (p : Machine.PSet) : (s.setPSet p).engines = s.engines := rfl
@[simp] theorem State.setPSet_streams (s : State) (p : Machine.PSet) : (s.setPSet p).streams = s.streams := rfl
@[simp] theorem State.setPSet_pool (s : State) (p : Machine.PSet) : (s.setPSet p).pool = s.pool := rfl
@[simp] theorem State.setPSet_peers (s : State) (p : Machine.PSet) : (s.setPSet p).peers = s.peers := rfl
@[simp] theorem State.setPSet_marks (s : State) (p : Machine.PSet) : (s.setPSet p).marks = s.marks := rfl
@[simp] theorem State.setPSet_sent (s : State) (p : Machine.PSet) : (s.setPSet p).sent = s.sent := rfl
@[simp] theorem State.setPSet_sys (s : State) (p : Machine.PSet) : (s.setPSet p).sys = s.sys := rfl
@[simp] theorem State.setPSet_mem (s : State) (p : Machine.PSet) (f : Nat) :
    (s.setPSet p).mem f = s.mem f := rfl
@[simp] theorem State.setPSet_core (s : State) (p : Machine.PSet) (c : Nat) :
    (s.setPSet p).core c = s.core c := rfl
@[simp] theorem State.setPSet_group (s : State) (p : Machine.PSet) (i : Nat) :
    (s.setPSet p).group i = s.group i := rfl
@[simp] theorem State.setPSet_gangOpt (s : State) (p : Machine.PSet) (i : Nat) :
    (s.setPSet p).gang? i = s.gang? i := rfl
@[simp] theorem State.setPSet_gangAt (s : State) (p : Machine.PSet) (c p' : Nat) :
    (s.setPSet p).gangAt c p' = s.gangAt c p' := rfl
@[simp] theorem State.setPSet_brickOpt (s : State) (p : Machine.PSet) (k : BKey) :
    (s.setPSet p).brick? k = s.brick? k := rfl
@[simp] theorem State.setPSet_courseOpt (s : State) (p : Machine.PSet) (k : CKey) :
    (s.setPSet p).course? k = s.course? k := rfl
@[simp] theorem State.setPSet_wallOpt (s : State) (p : Machine.PSet) (i : Nat) :
    (s.setPSet p).wall? i = s.wall? i := rfl
@[simp] theorem State.setPSet_asidOf (s : State) (p : Machine.PSet) (i : Nat) :
    (s.setPSet p).asidOf i = s.asidOf i := rfl
@[simp] theorem State.setPSet_headerOpt (s : State) (p : Machine.PSet) (i : Nat) :
    (s.setPSet p).header? i = s.header? i := rfl
@[simp] theorem State.setPSet_streamOpt (s : State) (p : Machine.PSet) (i : Nat) :
    (s.setPSet p).stream? i = s.stream? i := rfl

/-! ### setStream -/

@[simp] theorem State.setStream_agenda (s : State) (x : Stream) : (s.setStream x).agenda = s.agenda := rfl
@[simp] theorem State.setStream_cur (s : State) (x : Stream) : (s.setStream x).cur = s.cur := rfl
@[simp] theorem State.setStream_time (s : State) (x : Stream) : (s.setStream x).time = s.time := rfl
@[simp] theorem State.setStream_cycle (s : State) (x : Stream) : (s.setStream x).cycle = s.cycle := rfl
@[simp] theorem State.setStream_picks (s : State) (x : Stream) : (s.setStream x).picks = s.picks := rfl
@[simp] theorem State.setStream_fours (s : State) (x : Stream) : (s.setStream x).fours = s.fours := rfl
@[simp] theorem State.setStream_gnext (s : State) (x : Stream) : (s.setStream x).gnext = s.gnext := rfl
@[simp] theorem State.setStream_acted (s : State) (x : Stream) : (s.setStream x).acted = s.acted := rfl
@[simp] theorem State.setStream_free (s : State) (x : Stream) : (s.setStream x).free = s.free := rfl
@[simp] theorem State.setStream_nextId (s : State) (x : Stream) : (s.setStream x).nextId = s.nextId := rfl
@[simp] theorem State.setStream_gangs (s : State) (x : Stream) : (s.setStream x).gangs = s.gangs := rfl
@[simp] theorem State.setStream_bricks (s : State) (x : Stream) : (s.setStream x).bricks = s.bricks := rfl
@[simp] theorem State.setStream_courses (s : State) (x : Stream) : (s.setStream x).courses = s.courses := rfl
@[simp] theorem State.setStream_walls (s : State) (x : Stream) : (s.setStream x).walls = s.walls := rfl
@[simp] theorem State.setStream_sets (s : State) (x : Stream) : (s.setStream x).sets = s.sets := rfl
@[simp] theorem State.setStream_nofit (s : State) (x : Stream) : (s.setStream x).nofit = s.nofit := rfl
@[simp] theorem State.setStream_cores (s : State) (x : Stream) : (s.setStream x).cores = s.cores := rfl
@[simp] theorem State.setStream_groups (s : State) (x : Stream) : (s.setStream x).groups = s.groups := rfl
@[simp] theorem State.setStream_foots (s : State) (x : Stream) : (s.setStream x).foots = s.foots := rfl
@[simp] theorem State.setStream_slices (s : State) (x : Stream) : (s.setStream x).slices = s.slices := rfl
@[simp] theorem State.setStream_tlb (s : State) (x : Stream) : (s.setStream x).tlb = s.tlb := rfl
@[simp] theorem State.setStream_gtlb (s : State) (x : Stream) : (s.setStream x).gtlb = s.gtlb := rfl
@[simp] theorem State.setStream_walks (s : State) (x : Stream) : (s.setStream x).walks = s.walks := rfl
@[simp] theorem State.setStream_l1 (s : State) (x : Stream) : (s.setStream x).l1 = s.l1 := rfl
@[simp] theorem State.setStream_images (s : State) (x : Stream) : (s.setStream x).images = s.images := rfl
@[simp] theorem State.setStream_reqs (s : State) (x : Stream) : (s.setStream x).reqs = s.reqs := rfl
@[simp] theorem State.setStream_lates (s : State) (x : Stream) : (s.setStream x).lates = s.lates := rfl
@[simp] theorem State.setStream_writes (s : State) (x : Stream) : (s.setStream x).writes = s.writes := rfl
@[simp] theorem State.setStream_wtags (s : State) (x : Stream) : (s.setStream x).wtags = s.wtags := rfl
@[simp] theorem State.setStream_orders (s : State) (x : Stream) : (s.setStream x).orders = s.orders := rfl
@[simp] theorem State.setStream_copies (s : State) (x : Stream) : (s.setStream x).copies = s.copies := rfl
@[simp] theorem State.setStream_mcreqs (s : State) (x : Stream) : (s.setStream x).mcreqs = s.mcreqs := rfl
@[simp] theorem State.setStream_mcholds (s : State) (x : Stream) : (s.setStream x).mcholds = s.mcholds := rfl
@[simp] theorem State.setStream_mctests (s : State) (x : Stream) : (s.setStream x).mctests = s.mctests := rfl
@[simp] theorem State.setStream_fills (s : State) (x : Stream) : (s.setStream x).fills = s.fills := rfl
@[simp] theorem State.setStream_idxops (s : State) (x : Stream) : (s.setStream x).idxops = s.idxops := rfl
@[simp] theorem State.setStream_samples (s : State) (x : Stream) : (s.setStream x).samples = s.samples := rfl
@[simp] theorem State.setStream_matArrivals (s : State) (x : Stream) : (s.setStream x).matArrivals = s.matArrivals := rfl
@[simp] theorem State.setStream_savedMat (s : State) (x : Stream) : (s.setStream x).savedMat = s.savedMat := rfl
@[simp] theorem State.setStream_savedQuant (s : State) (x : Stream) : (s.setStream x).savedQuant = s.savedQuant := rfl
@[simp] theorem State.setStream_flits (s : State) (x : Stream) : (s.setStream x).flits = s.flits := rfl
@[simp] theorem State.setStream_leads (s : State) (x : Stream) : (s.setStream x).leads = s.leads := rfl
@[simp] theorem State.setStream_queues (s : State) (x : Stream) : (s.setStream x).queues = s.queues := rfl
@[simp] theorem State.setStream_ovf (s : State) (x : Stream) : (s.setStream x).ovf = s.ovf := rfl
@[simp] theorem State.setStream_unitHolds (s : State) (x : Stream) : (s.setStream x).unitHolds = s.unitHolds := rfl
@[simp] theorem State.setStream_engines (s : State) (x : Stream) : (s.setStream x).engines = s.engines := rfl
@[simp] theorem State.setStream_pool (s : State) (x : Stream) : (s.setStream x).pool = s.pool := rfl
@[simp] theorem State.setStream_peers (s : State) (x : Stream) : (s.setStream x).peers = s.peers := rfl
@[simp] theorem State.setStream_marks (s : State) (x : Stream) : (s.setStream x).marks = s.marks := rfl
@[simp] theorem State.setStream_sent (s : State) (x : Stream) : (s.setStream x).sent = s.sent := rfl
@[simp] theorem State.setStream_sys (s : State) (x : Stream) : (s.setStream x).sys = s.sys := rfl
@[simp] theorem State.setStream_mem (s : State) (x : Stream) (f : Nat) :
    (s.setStream x).mem f = s.mem f := rfl
@[simp] theorem State.setStream_core (s : State) (x : Stream) (c : Nat) :
    (s.setStream x).core c = s.core c := rfl
@[simp] theorem State.setStream_group (s : State) (x : Stream) (i : Nat) :
    (s.setStream x).group i = s.group i := rfl
@[simp] theorem State.setStream_gangOpt (s : State) (x : Stream) (i : Nat) :
    (s.setStream x).gang? i = s.gang? i := rfl
@[simp] theorem State.setStream_gangAt (s : State) (x : Stream) (c p : Nat) :
    (s.setStream x).gangAt c p = s.gangAt c p := rfl
@[simp] theorem State.setStream_brickOpt (s : State) (x : Stream) (k : BKey) :
    (s.setStream x).brick? k = s.brick? k := rfl
@[simp] theorem State.setStream_courseOpt (s : State) (x : Stream) (k : CKey) :
    (s.setStream x).course? k = s.course? k := rfl
@[simp] theorem State.setStream_wallOpt (s : State) (x : Stream) (i : Nat) :
    (s.setStream x).wall? i = s.wall? i := rfl
@[simp] theorem State.setStream_asidOf (s : State) (x : Stream) (i : Nat) :
    (s.setStream x).asidOf i = s.asidOf i := rfl
@[simp] theorem State.setStream_headerOpt (s : State) (x : Stream) (i : Nat) :
    (s.setStream x).header? i = s.header? i := rfl
@[simp] theorem State.setStream_setOpt (s : State) (x : Stream) (w i : Nat) :
    (s.setStream x).set? w i = s.set? w i := rfl

/-! ### setCore -/

@[simp] theorem State.setCore_agenda (s : State) (n : Nat) (c : Core) : (s.setCore n c).agenda = s.agenda := rfl
@[simp] theorem State.setCore_cur (s : State) (n : Nat) (c : Core) : (s.setCore n c).cur = s.cur := rfl
@[simp] theorem State.setCore_time (s : State) (n : Nat) (c : Core) : (s.setCore n c).time = s.time := rfl
@[simp] theorem State.setCore_cycle (s : State) (n : Nat) (c : Core) : (s.setCore n c).cycle = s.cycle := rfl
@[simp] theorem State.setCore_picks (s : State) (n : Nat) (c : Core) : (s.setCore n c).picks = s.picks := rfl
@[simp] theorem State.setCore_fours (s : State) (n : Nat) (c : Core) : (s.setCore n c).fours = s.fours := rfl
@[simp] theorem State.setCore_gnext (s : State) (n : Nat) (c : Core) : (s.setCore n c).gnext = s.gnext := rfl
@[simp] theorem State.setCore_acted (s : State) (n : Nat) (c : Core) : (s.setCore n c).acted = s.acted := rfl
@[simp] theorem State.setCore_free (s : State) (n : Nat) (c : Core) : (s.setCore n c).free = s.free := rfl
@[simp] theorem State.setCore_nextId (s : State) (n : Nat) (c : Core) : (s.setCore n c).nextId = s.nextId := rfl
@[simp] theorem State.setCore_gangs (s : State) (n : Nat) (c : Core) : (s.setCore n c).gangs = s.gangs := rfl
@[simp] theorem State.setCore_bricks (s : State) (n : Nat) (c : Core) : (s.setCore n c).bricks = s.bricks := rfl
@[simp] theorem State.setCore_courses (s : State) (n : Nat) (c : Core) : (s.setCore n c).courses = s.courses := rfl
@[simp] theorem State.setCore_walls (s : State) (n : Nat) (c : Core) : (s.setCore n c).walls = s.walls := rfl
@[simp] theorem State.setCore_sets (s : State) (n : Nat) (c : Core) : (s.setCore n c).sets = s.sets := rfl
@[simp] theorem State.setCore_nofit (s : State) (n : Nat) (c : Core) : (s.setCore n c).nofit = s.nofit := rfl
@[simp] theorem State.setCore_groups (s : State) (n : Nat) (c : Core) : (s.setCore n c).groups = s.groups := rfl
@[simp] theorem State.setCore_foots (s : State) (n : Nat) (c : Core) : (s.setCore n c).foots = s.foots := rfl
@[simp] theorem State.setCore_slices (s : State) (n : Nat) (c : Core) : (s.setCore n c).slices = s.slices := rfl
@[simp] theorem State.setCore_tlb (s : State) (n : Nat) (c : Core) : (s.setCore n c).tlb = s.tlb := rfl
@[simp] theorem State.setCore_gtlb (s : State) (n : Nat) (c : Core) : (s.setCore n c).gtlb = s.gtlb := rfl
@[simp] theorem State.setCore_walks (s : State) (n : Nat) (c : Core) : (s.setCore n c).walks = s.walks := rfl
@[simp] theorem State.setCore_l1 (s : State) (n : Nat) (c : Core) : (s.setCore n c).l1 = s.l1 := rfl
@[simp] theorem State.setCore_images (s : State) (n : Nat) (c : Core) : (s.setCore n c).images = s.images := rfl
@[simp] theorem State.setCore_reqs (s : State) (n : Nat) (c : Core) : (s.setCore n c).reqs = s.reqs := rfl
@[simp] theorem State.setCore_lates (s : State) (n : Nat) (c : Core) : (s.setCore n c).lates = s.lates := rfl
@[simp] theorem State.setCore_writes (s : State) (n : Nat) (c : Core) : (s.setCore n c).writes = s.writes := rfl
@[simp] theorem State.setCore_wtags (s : State) (n : Nat) (c : Core) : (s.setCore n c).wtags = s.wtags := rfl
@[simp] theorem State.setCore_orders (s : State) (n : Nat) (c : Core) : (s.setCore n c).orders = s.orders := rfl
@[simp] theorem State.setCore_copies (s : State) (n : Nat) (c : Core) : (s.setCore n c).copies = s.copies := rfl
@[simp] theorem State.setCore_mcreqs (s : State) (n : Nat) (c : Core) : (s.setCore n c).mcreqs = s.mcreqs := rfl
@[simp] theorem State.setCore_mcholds (s : State) (n : Nat) (c : Core) : (s.setCore n c).mcholds = s.mcholds := rfl
@[simp] theorem State.setCore_mctests (s : State) (n : Nat) (c : Core) : (s.setCore n c).mctests = s.mctests := rfl
@[simp] theorem State.setCore_fills (s : State) (n : Nat) (c : Core) : (s.setCore n c).fills = s.fills := rfl
@[simp] theorem State.setCore_idxops (s : State) (n : Nat) (c : Core) : (s.setCore n c).idxops = s.idxops := rfl
@[simp] theorem State.setCore_samples (s : State) (n : Nat) (c : Core) : (s.setCore n c).samples = s.samples := rfl
@[simp] theorem State.setCore_matArrivals (s : State) (n : Nat) (c : Core) : (s.setCore n c).matArrivals = s.matArrivals := rfl
@[simp] theorem State.setCore_savedMat (s : State) (n : Nat) (c : Core) : (s.setCore n c).savedMat = s.savedMat := rfl
@[simp] theorem State.setCore_savedQuant (s : State) (n : Nat) (c : Core) : (s.setCore n c).savedQuant = s.savedQuant := rfl
@[simp] theorem State.setCore_flits (s : State) (n : Nat) (c : Core) : (s.setCore n c).flits = s.flits := rfl
@[simp] theorem State.setCore_leads (s : State) (n : Nat) (c : Core) : (s.setCore n c).leads = s.leads := rfl
@[simp] theorem State.setCore_queues (s : State) (n : Nat) (c : Core) : (s.setCore n c).queues = s.queues := rfl
@[simp] theorem State.setCore_ovf (s : State) (n : Nat) (c : Core) : (s.setCore n c).ovf = s.ovf := rfl
@[simp] theorem State.setCore_unitHolds (s : State) (n : Nat) (c : Core) : (s.setCore n c).unitHolds = s.unitHolds := rfl
@[simp] theorem State.setCore_engines (s : State) (n : Nat) (c : Core) : (s.setCore n c).engines = s.engines := rfl
@[simp] theorem State.setCore_streams (s : State) (n : Nat) (c : Core) : (s.setCore n c).streams = s.streams := rfl
@[simp] theorem State.setCore_pool (s : State) (n : Nat) (c : Core) : (s.setCore n c).pool = s.pool := rfl
@[simp] theorem State.setCore_peers (s : State) (n : Nat) (c : Core) : (s.setCore n c).peers = s.peers := rfl
@[simp] theorem State.setCore_marks (s : State) (n : Nat) (c : Core) : (s.setCore n c).marks = s.marks := rfl
@[simp] theorem State.setCore_sent (s : State) (n : Nat) (c : Core) : (s.setCore n c).sent = s.sent := rfl
@[simp] theorem State.setCore_sys (s : State) (n : Nat) (c : Core) : (s.setCore n c).sys = s.sys := rfl
@[simp] theorem State.setCore_mem (s : State) (n : Nat) (c : Core) (f : Nat) :
    (s.setCore n c).mem f = s.mem f := rfl
@[simp] theorem State.setCore_group (s : State) (n : Nat) (c : Core) (i : Nat) :
    (s.setCore n c).group i = s.group i := rfl
@[simp] theorem State.setCore_gangOpt (s : State) (n : Nat) (c : Core) (i : Nat) :
    (s.setCore n c).gang? i = s.gang? i := rfl
@[simp] theorem State.setCore_gangAt (s : State) (n : Nat) (c : Core) (c' p : Nat) :
    (s.setCore n c).gangAt c' p = s.gangAt c' p := rfl
@[simp] theorem State.setCore_brickOpt (s : State) (n : Nat) (c : Core) (k : BKey) :
    (s.setCore n c).brick? k = s.brick? k := rfl
@[simp] theorem State.setCore_courseOpt (s : State) (n : Nat) (c : Core) (k : CKey) :
    (s.setCore n c).course? k = s.course? k := rfl
@[simp] theorem State.setCore_wallOpt (s : State) (n : Nat) (c : Core) (i : Nat) :
    (s.setCore n c).wall? i = s.wall? i := rfl
@[simp] theorem State.setCore_asidOf (s : State) (n : Nat) (c : Core) (i : Nat) :
    (s.setCore n c).asidOf i = s.asidOf i := rfl
@[simp] theorem State.setCore_headerOpt (s : State) (n : Nat) (c : Core) (i : Nat) :
    (s.setCore n c).header? i = s.header? i := rfl
@[simp] theorem State.setCore_setOpt (s : State) (n : Nat) (c : Core) (w i : Nat) :
    (s.setCore n c).set? w i = s.set? w i := rfl
@[simp] theorem State.setCore_streamOpt (s : State) (n : Nat) (c : Core) (i : Nat) :
    (s.setCore n c).stream? i = s.stream? i := rfl

/-! ### setGroup -/

@[simp] theorem State.setGroup_agenda (s : State) (n : Nat) (x : Group) : (s.setGroup n x).agenda = s.agenda := rfl
@[simp] theorem State.setGroup_cur (s : State) (n : Nat) (x : Group) : (s.setGroup n x).cur = s.cur := rfl
@[simp] theorem State.setGroup_time (s : State) (n : Nat) (x : Group) : (s.setGroup n x).time = s.time := rfl
@[simp] theorem State.setGroup_cycle (s : State) (n : Nat) (x : Group) : (s.setGroup n x).cycle = s.cycle := rfl
@[simp] theorem State.setGroup_picks (s : State) (n : Nat) (x : Group) : (s.setGroup n x).picks = s.picks := rfl
@[simp] theorem State.setGroup_fours (s : State) (n : Nat) (x : Group) : (s.setGroup n x).fours = s.fours := rfl
@[simp] theorem State.setGroup_gnext (s : State) (n : Nat) (x : Group) : (s.setGroup n x).gnext = s.gnext := rfl
@[simp] theorem State.setGroup_acted (s : State) (n : Nat) (x : Group) : (s.setGroup n x).acted = s.acted := rfl
@[simp] theorem State.setGroup_free (s : State) (n : Nat) (x : Group) : (s.setGroup n x).free = s.free := rfl
@[simp] theorem State.setGroup_nextId (s : State) (n : Nat) (x : Group) : (s.setGroup n x).nextId = s.nextId := rfl
@[simp] theorem State.setGroup_gangs (s : State) (n : Nat) (x : Group) : (s.setGroup n x).gangs = s.gangs := rfl
@[simp] theorem State.setGroup_bricks (s : State) (n : Nat) (x : Group) : (s.setGroup n x).bricks = s.bricks := rfl
@[simp] theorem State.setGroup_courses (s : State) (n : Nat) (x : Group) : (s.setGroup n x).courses = s.courses := rfl
@[simp] theorem State.setGroup_walls (s : State) (n : Nat) (x : Group) : (s.setGroup n x).walls = s.walls := rfl
@[simp] theorem State.setGroup_sets (s : State) (n : Nat) (x : Group) : (s.setGroup n x).sets = s.sets := rfl
@[simp] theorem State.setGroup_nofit (s : State) (n : Nat) (x : Group) : (s.setGroup n x).nofit = s.nofit := rfl
@[simp] theorem State.setGroup_cores (s : State) (n : Nat) (x : Group) : (s.setGroup n x).cores = s.cores := rfl
@[simp] theorem State.setGroup_foots (s : State) (n : Nat) (x : Group) : (s.setGroup n x).foots = s.foots := rfl
@[simp] theorem State.setGroup_slices (s : State) (n : Nat) (x : Group) : (s.setGroup n x).slices = s.slices := rfl
@[simp] theorem State.setGroup_tlb (s : State) (n : Nat) (x : Group) : (s.setGroup n x).tlb = s.tlb := rfl
@[simp] theorem State.setGroup_gtlb (s : State) (n : Nat) (x : Group) : (s.setGroup n x).gtlb = s.gtlb := rfl
@[simp] theorem State.setGroup_walks (s : State) (n : Nat) (x : Group) : (s.setGroup n x).walks = s.walks := rfl
@[simp] theorem State.setGroup_l1 (s : State) (n : Nat) (x : Group) : (s.setGroup n x).l1 = s.l1 := rfl
@[simp] theorem State.setGroup_images (s : State) (n : Nat) (x : Group) : (s.setGroup n x).images = s.images := rfl
@[simp] theorem State.setGroup_reqs (s : State) (n : Nat) (x : Group) : (s.setGroup n x).reqs = s.reqs := rfl
@[simp] theorem State.setGroup_lates (s : State) (n : Nat) (x : Group) : (s.setGroup n x).lates = s.lates := rfl
@[simp] theorem State.setGroup_writes (s : State) (n : Nat) (x : Group) : (s.setGroup n x).writes = s.writes := rfl
@[simp] theorem State.setGroup_wtags (s : State) (n : Nat) (x : Group) : (s.setGroup n x).wtags = s.wtags := rfl
@[simp] theorem State.setGroup_orders (s : State) (n : Nat) (x : Group) : (s.setGroup n x).orders = s.orders := rfl
@[simp] theorem State.setGroup_copies (s : State) (n : Nat) (x : Group) : (s.setGroup n x).copies = s.copies := rfl
@[simp] theorem State.setGroup_mcreqs (s : State) (n : Nat) (x : Group) : (s.setGroup n x).mcreqs = s.mcreqs := rfl
@[simp] theorem State.setGroup_mcholds (s : State) (n : Nat) (x : Group) : (s.setGroup n x).mcholds = s.mcholds := rfl
@[simp] theorem State.setGroup_mctests (s : State) (n : Nat) (x : Group) : (s.setGroup n x).mctests = s.mctests := rfl
@[simp] theorem State.setGroup_fills (s : State) (n : Nat) (x : Group) : (s.setGroup n x).fills = s.fills := rfl
@[simp] theorem State.setGroup_idxops (s : State) (n : Nat) (x : Group) : (s.setGroup n x).idxops = s.idxops := rfl
@[simp] theorem State.setGroup_samples (s : State) (n : Nat) (x : Group) : (s.setGroup n x).samples = s.samples := rfl
@[simp] theorem State.setGroup_matArrivals (s : State) (n : Nat) (x : Group) : (s.setGroup n x).matArrivals = s.matArrivals := rfl
@[simp] theorem State.setGroup_savedMat (s : State) (n : Nat) (x : Group) : (s.setGroup n x).savedMat = s.savedMat := rfl
@[simp] theorem State.setGroup_savedQuant (s : State) (n : Nat) (x : Group) : (s.setGroup n x).savedQuant = s.savedQuant := rfl
@[simp] theorem State.setGroup_flits (s : State) (n : Nat) (x : Group) : (s.setGroup n x).flits = s.flits := rfl
@[simp] theorem State.setGroup_leads (s : State) (n : Nat) (x : Group) : (s.setGroup n x).leads = s.leads := rfl
@[simp] theorem State.setGroup_queues (s : State) (n : Nat) (x : Group) : (s.setGroup n x).queues = s.queues := rfl
@[simp] theorem State.setGroup_ovf (s : State) (n : Nat) (x : Group) : (s.setGroup n x).ovf = s.ovf := rfl
@[simp] theorem State.setGroup_unitHolds (s : State) (n : Nat) (x : Group) : (s.setGroup n x).unitHolds = s.unitHolds := rfl
@[simp] theorem State.setGroup_engines (s : State) (n : Nat) (x : Group) : (s.setGroup n x).engines = s.engines := rfl
@[simp] theorem State.setGroup_streams (s : State) (n : Nat) (x : Group) : (s.setGroup n x).streams = s.streams := rfl
@[simp] theorem State.setGroup_pool (s : State) (n : Nat) (x : Group) : (s.setGroup n x).pool = s.pool := rfl
@[simp] theorem State.setGroup_peers (s : State) (n : Nat) (x : Group) : (s.setGroup n x).peers = s.peers := rfl
@[simp] theorem State.setGroup_marks (s : State) (n : Nat) (x : Group) : (s.setGroup n x).marks = s.marks := rfl
@[simp] theorem State.setGroup_sent (s : State) (n : Nat) (x : Group) : (s.setGroup n x).sent = s.sent := rfl
@[simp] theorem State.setGroup_sys (s : State) (n : Nat) (x : Group) : (s.setGroup n x).sys = s.sys := rfl
@[simp] theorem State.setGroup_mem (s : State) (n : Nat) (x : Group) (f : Nat) :
    (s.setGroup n x).mem f = s.mem f := rfl
@[simp] theorem State.setGroup_core (s : State) (n : Nat) (x : Group) (c : Nat) :
    (s.setGroup n x).core c = s.core c := rfl
@[simp] theorem State.setGroup_gangOpt (s : State) (n : Nat) (x : Group) (i : Nat) :
    (s.setGroup n x).gang? i = s.gang? i := rfl
@[simp] theorem State.setGroup_gangAt (s : State) (n : Nat) (x : Group) (c p : Nat) :
    (s.setGroup n x).gangAt c p = s.gangAt c p := rfl
@[simp] theorem State.setGroup_brickOpt (s : State) (n : Nat) (x : Group) (k : BKey) :
    (s.setGroup n x).brick? k = s.brick? k := rfl
@[simp] theorem State.setGroup_courseOpt (s : State) (n : Nat) (x : Group) (k : CKey) :
    (s.setGroup n x).course? k = s.course? k := rfl
@[simp] theorem State.setGroup_wallOpt (s : State) (n : Nat) (x : Group) (i : Nat) :
    (s.setGroup n x).wall? i = s.wall? i := rfl
@[simp] theorem State.setGroup_asidOf (s : State) (n : Nat) (x : Group) (i : Nat) :
    (s.setGroup n x).asidOf i = s.asidOf i := rfl
@[simp] theorem State.setGroup_headerOpt (s : State) (n : Nat) (x : Group) (i : Nat) :
    (s.setGroup n x).header? i = s.header? i := rfl
@[simp] theorem State.setGroup_setOpt (s : State) (n : Nat) (x : Group) (w i : Nat) :
    (s.setGroup n x).set? w i = s.set? w i := rfl
@[simp] theorem State.setGroup_streamOpt (s : State) (n : Nat) (x : Group) (i : Nat) :
    (s.setGroup n x).stream? i = s.stream? i := rfl

/-! ### setFoot -/

@[simp] theorem State.setFoot_agenda (s : State) (n : Nat) (f : Footing) : (s.setFoot n f).agenda = s.agenda := rfl
@[simp] theorem State.setFoot_cur (s : State) (n : Nat) (f : Footing) : (s.setFoot n f).cur = s.cur := rfl
@[simp] theorem State.setFoot_time (s : State) (n : Nat) (f : Footing) : (s.setFoot n f).time = s.time := rfl
@[simp] theorem State.setFoot_cycle (s : State) (n : Nat) (f : Footing) : (s.setFoot n f).cycle = s.cycle := rfl
@[simp] theorem State.setFoot_picks (s : State) (n : Nat) (f : Footing) : (s.setFoot n f).picks = s.picks := rfl
@[simp] theorem State.setFoot_fours (s : State) (n : Nat) (f : Footing) : (s.setFoot n f).fours = s.fours := rfl
@[simp] theorem State.setFoot_gnext (s : State) (n : Nat) (f : Footing) : (s.setFoot n f).gnext = s.gnext := rfl
@[simp] theorem State.setFoot_acted (s : State) (n : Nat) (f : Footing) : (s.setFoot n f).acted = s.acted := rfl
@[simp] theorem State.setFoot_free (s : State) (n : Nat) (f : Footing) : (s.setFoot n f).free = s.free := rfl
@[simp] theorem State.setFoot_nextId (s : State) (n : Nat) (f : Footing) : (s.setFoot n f).nextId = s.nextId := rfl
@[simp] theorem State.setFoot_gangs (s : State) (n : Nat) (f : Footing) : (s.setFoot n f).gangs = s.gangs := rfl
@[simp] theorem State.setFoot_bricks (s : State) (n : Nat) (f : Footing) : (s.setFoot n f).bricks = s.bricks := rfl
@[simp] theorem State.setFoot_courses (s : State) (n : Nat) (f : Footing) : (s.setFoot n f).courses = s.courses := rfl
@[simp] theorem State.setFoot_walls (s : State) (n : Nat) (f : Footing) : (s.setFoot n f).walls = s.walls := rfl
@[simp] theorem State.setFoot_sets (s : State) (n : Nat) (f : Footing) : (s.setFoot n f).sets = s.sets := rfl
@[simp] theorem State.setFoot_nofit (s : State) (n : Nat) (f : Footing) : (s.setFoot n f).nofit = s.nofit := rfl
@[simp] theorem State.setFoot_cores (s : State) (n : Nat) (f : Footing) : (s.setFoot n f).cores = s.cores := rfl
@[simp] theorem State.setFoot_groups (s : State) (n : Nat) (f : Footing) : (s.setFoot n f).groups = s.groups := rfl
@[simp] theorem State.setFoot_slices (s : State) (n : Nat) (f : Footing) : (s.setFoot n f).slices = s.slices := rfl
@[simp] theorem State.setFoot_tlb (s : State) (n : Nat) (f : Footing) : (s.setFoot n f).tlb = s.tlb := rfl
@[simp] theorem State.setFoot_gtlb (s : State) (n : Nat) (f : Footing) : (s.setFoot n f).gtlb = s.gtlb := rfl
@[simp] theorem State.setFoot_walks (s : State) (n : Nat) (f : Footing) : (s.setFoot n f).walks = s.walks := rfl
@[simp] theorem State.setFoot_l1 (s : State) (n : Nat) (f : Footing) : (s.setFoot n f).l1 = s.l1 := rfl
@[simp] theorem State.setFoot_images (s : State) (n : Nat) (f : Footing) : (s.setFoot n f).images = s.images := rfl
@[simp] theorem State.setFoot_reqs (s : State) (n : Nat) (f : Footing) : (s.setFoot n f).reqs = s.reqs := rfl
@[simp] theorem State.setFoot_lates (s : State) (n : Nat) (f : Footing) : (s.setFoot n f).lates = s.lates := rfl
@[simp] theorem State.setFoot_writes (s : State) (n : Nat) (f : Footing) : (s.setFoot n f).writes = s.writes := rfl
@[simp] theorem State.setFoot_wtags (s : State) (n : Nat) (f : Footing) : (s.setFoot n f).wtags = s.wtags := rfl
@[simp] theorem State.setFoot_orders (s : State) (n : Nat) (f : Footing) : (s.setFoot n f).orders = s.orders := rfl
@[simp] theorem State.setFoot_copies (s : State) (n : Nat) (f : Footing) : (s.setFoot n f).copies = s.copies := rfl
@[simp] theorem State.setFoot_mcreqs (s : State) (n : Nat) (f : Footing) : (s.setFoot n f).mcreqs = s.mcreqs := rfl
@[simp] theorem State.setFoot_mcholds (s : State) (n : Nat) (f : Footing) : (s.setFoot n f).mcholds = s.mcholds := rfl
@[simp] theorem State.setFoot_mctests (s : State) (n : Nat) (f : Footing) : (s.setFoot n f).mctests = s.mctests := rfl
@[simp] theorem State.setFoot_fills (s : State) (n : Nat) (f : Footing) : (s.setFoot n f).fills = s.fills := rfl
@[simp] theorem State.setFoot_idxops (s : State) (n : Nat) (f : Footing) : (s.setFoot n f).idxops = s.idxops := rfl
@[simp] theorem State.setFoot_samples (s : State) (n : Nat) (f : Footing) : (s.setFoot n f).samples = s.samples := rfl
@[simp] theorem State.setFoot_matArrivals (s : State) (n : Nat) (f : Footing) : (s.setFoot n f).matArrivals = s.matArrivals := rfl
@[simp] theorem State.setFoot_savedMat (s : State) (n : Nat) (f : Footing) : (s.setFoot n f).savedMat = s.savedMat := rfl
@[simp] theorem State.setFoot_savedQuant (s : State) (n : Nat) (f : Footing) : (s.setFoot n f).savedQuant = s.savedQuant := rfl
@[simp] theorem State.setFoot_flits (s : State) (n : Nat) (f : Footing) : (s.setFoot n f).flits = s.flits := rfl
@[simp] theorem State.setFoot_leads (s : State) (n : Nat) (f : Footing) : (s.setFoot n f).leads = s.leads := rfl
@[simp] theorem State.setFoot_queues (s : State) (n : Nat) (f : Footing) : (s.setFoot n f).queues = s.queues := rfl
@[simp] theorem State.setFoot_ovf (s : State) (n : Nat) (f : Footing) : (s.setFoot n f).ovf = s.ovf := rfl
@[simp] theorem State.setFoot_unitHolds (s : State) (n : Nat) (f : Footing) : (s.setFoot n f).unitHolds = s.unitHolds := rfl
@[simp] theorem State.setFoot_engines (s : State) (n : Nat) (f : Footing) : (s.setFoot n f).engines = s.engines := rfl
@[simp] theorem State.setFoot_streams (s : State) (n : Nat) (f : Footing) : (s.setFoot n f).streams = s.streams := rfl
@[simp] theorem State.setFoot_pool (s : State) (n : Nat) (f : Footing) : (s.setFoot n f).pool = s.pool := rfl
@[simp] theorem State.setFoot_peers (s : State) (n : Nat) (f : Footing) : (s.setFoot n f).peers = s.peers := rfl
@[simp] theorem State.setFoot_marks (s : State) (n : Nat) (f : Footing) : (s.setFoot n f).marks = s.marks := rfl
@[simp] theorem State.setFoot_sent (s : State) (n : Nat) (f : Footing) : (s.setFoot n f).sent = s.sent := rfl
@[simp] theorem State.setFoot_sys (s : State) (n : Nat) (f : Footing) : (s.setFoot n f).sys = s.sys := rfl
@[simp] theorem State.setFoot_core (s : State) (n : Nat) (f : Footing) (c : Nat) :
    (s.setFoot n f).core c = s.core c := rfl
@[simp] theorem State.setFoot_group (s : State) (n : Nat) (f : Footing) (i : Nat) :
    (s.setFoot n f).group i = s.group i := rfl
@[simp] theorem State.setFoot_gangOpt (s : State) (n : Nat) (f : Footing) (i : Nat) :
    (s.setFoot n f).gang? i = s.gang? i := rfl
@[simp] theorem State.setFoot_gangAt (s : State) (n : Nat) (f : Footing) (c p : Nat) :
    (s.setFoot n f).gangAt c p = s.gangAt c p := rfl
@[simp] theorem State.setFoot_brickOpt (s : State) (n : Nat) (f : Footing) (k : BKey) :
    (s.setFoot n f).brick? k = s.brick? k := rfl
@[simp] theorem State.setFoot_courseOpt (s : State) (n : Nat) (f : Footing) (k : CKey) :
    (s.setFoot n f).course? k = s.course? k := rfl
@[simp] theorem State.setFoot_wallOpt (s : State) (n : Nat) (f : Footing) (i : Nat) :
    (s.setFoot n f).wall? i = s.wall? i := rfl
@[simp] theorem State.setFoot_asidOf (s : State) (n : Nat) (f : Footing) (i : Nat) :
    (s.setFoot n f).asidOf i = s.asidOf i := rfl
@[simp] theorem State.setFoot_headerOpt (s : State) (n : Nat) (f : Footing) (i : Nat) :
    (s.setFoot n f).header? i = s.header? i := rfl
@[simp] theorem State.setFoot_setOpt (s : State) (n : Nat) (f : Footing) (w i : Nat) :
    (s.setFoot n f).set? w i = s.set? w i := rfl
@[simp] theorem State.setFoot_streamOpt (s : State) (n : Nat) (f : Footing) (i : Nat) :
    (s.setFoot n f).stream? i = s.stream? i := rfl

/-! ### setMem -/

@[simp] theorem State.setMem_agenda (s : State) (n : Nat) (m : Memory) : (s.setMem n m).agenda = s.agenda := rfl
@[simp] theorem State.setMem_cur (s : State) (n : Nat) (m : Memory) : (s.setMem n m).cur = s.cur := rfl
@[simp] theorem State.setMem_time (s : State) (n : Nat) (m : Memory) : (s.setMem n m).time = s.time := rfl
@[simp] theorem State.setMem_cycle (s : State) (n : Nat) (m : Memory) : (s.setMem n m).cycle = s.cycle := rfl
@[simp] theorem State.setMem_picks (s : State) (n : Nat) (m : Memory) : (s.setMem n m).picks = s.picks := rfl
@[simp] theorem State.setMem_fours (s : State) (n : Nat) (m : Memory) : (s.setMem n m).fours = s.fours := rfl
@[simp] theorem State.setMem_gnext (s : State) (n : Nat) (m : Memory) : (s.setMem n m).gnext = s.gnext := rfl
@[simp] theorem State.setMem_acted (s : State) (n : Nat) (m : Memory) : (s.setMem n m).acted = s.acted := rfl
@[simp] theorem State.setMem_free (s : State) (n : Nat) (m : Memory) : (s.setMem n m).free = s.free := rfl
@[simp] theorem State.setMem_nextId (s : State) (n : Nat) (m : Memory) : (s.setMem n m).nextId = s.nextId := rfl
@[simp] theorem State.setMem_gangs (s : State) (n : Nat) (m : Memory) : (s.setMem n m).gangs = s.gangs := rfl
@[simp] theorem State.setMem_bricks (s : State) (n : Nat) (m : Memory) : (s.setMem n m).bricks = s.bricks := rfl
@[simp] theorem State.setMem_courses (s : State) (n : Nat) (m : Memory) : (s.setMem n m).courses = s.courses := rfl
@[simp] theorem State.setMem_walls (s : State) (n : Nat) (m : Memory) : (s.setMem n m).walls = s.walls := rfl
@[simp] theorem State.setMem_sets (s : State) (n : Nat) (m : Memory) : (s.setMem n m).sets = s.sets := rfl
@[simp] theorem State.setMem_nofit (s : State) (n : Nat) (m : Memory) : (s.setMem n m).nofit = s.nofit := rfl
@[simp] theorem State.setMem_cores (s : State) (n : Nat) (m : Memory) : (s.setMem n m).cores = s.cores := rfl
@[simp] theorem State.setMem_groups (s : State) (n : Nat) (m : Memory) : (s.setMem n m).groups = s.groups := rfl
@[simp] theorem State.setMem_slices (s : State) (n : Nat) (m : Memory) : (s.setMem n m).slices = s.slices := rfl
@[simp] theorem State.setMem_tlb (s : State) (n : Nat) (m : Memory) : (s.setMem n m).tlb = s.tlb := rfl
@[simp] theorem State.setMem_gtlb (s : State) (n : Nat) (m : Memory) : (s.setMem n m).gtlb = s.gtlb := rfl
@[simp] theorem State.setMem_walks (s : State) (n : Nat) (m : Memory) : (s.setMem n m).walks = s.walks := rfl
@[simp] theorem State.setMem_l1 (s : State) (n : Nat) (m : Memory) : (s.setMem n m).l1 = s.l1 := rfl
@[simp] theorem State.setMem_images (s : State) (n : Nat) (m : Memory) : (s.setMem n m).images = s.images := rfl
@[simp] theorem State.setMem_reqs (s : State) (n : Nat) (m : Memory) : (s.setMem n m).reqs = s.reqs := rfl
@[simp] theorem State.setMem_lates (s : State) (n : Nat) (m : Memory) : (s.setMem n m).lates = s.lates := rfl
@[simp] theorem State.setMem_writes (s : State) (n : Nat) (m : Memory) : (s.setMem n m).writes = s.writes := rfl
@[simp] theorem State.setMem_wtags (s : State) (n : Nat) (m : Memory) : (s.setMem n m).wtags = s.wtags := rfl
@[simp] theorem State.setMem_orders (s : State) (n : Nat) (m : Memory) : (s.setMem n m).orders = s.orders := rfl
@[simp] theorem State.setMem_copies (s : State) (n : Nat) (m : Memory) : (s.setMem n m).copies = s.copies := rfl
@[simp] theorem State.setMem_mcreqs (s : State) (n : Nat) (m : Memory) : (s.setMem n m).mcreqs = s.mcreqs := rfl
@[simp] theorem State.setMem_mcholds (s : State) (n : Nat) (m : Memory) : (s.setMem n m).mcholds = s.mcholds := rfl
@[simp] theorem State.setMem_mctests (s : State) (n : Nat) (m : Memory) : (s.setMem n m).mctests = s.mctests := rfl
@[simp] theorem State.setMem_fills (s : State) (n : Nat) (m : Memory) : (s.setMem n m).fills = s.fills := rfl
@[simp] theorem State.setMem_idxops (s : State) (n : Nat) (m : Memory) : (s.setMem n m).idxops = s.idxops := rfl
@[simp] theorem State.setMem_samples (s : State) (n : Nat) (m : Memory) : (s.setMem n m).samples = s.samples := rfl
@[simp] theorem State.setMem_matArrivals (s : State) (n : Nat) (m : Memory) : (s.setMem n m).matArrivals = s.matArrivals := rfl
@[simp] theorem State.setMem_savedMat (s : State) (n : Nat) (m : Memory) : (s.setMem n m).savedMat = s.savedMat := rfl
@[simp] theorem State.setMem_savedQuant (s : State) (n : Nat) (m : Memory) : (s.setMem n m).savedQuant = s.savedQuant := rfl
@[simp] theorem State.setMem_flits (s : State) (n : Nat) (m : Memory) : (s.setMem n m).flits = s.flits := rfl
@[simp] theorem State.setMem_leads (s : State) (n : Nat) (m : Memory) : (s.setMem n m).leads = s.leads := rfl
@[simp] theorem State.setMem_queues (s : State) (n : Nat) (m : Memory) : (s.setMem n m).queues = s.queues := rfl
@[simp] theorem State.setMem_ovf (s : State) (n : Nat) (m : Memory) : (s.setMem n m).ovf = s.ovf := rfl
@[simp] theorem State.setMem_unitHolds (s : State) (n : Nat) (m : Memory) : (s.setMem n m).unitHolds = s.unitHolds := rfl
@[simp] theorem State.setMem_engines (s : State) (n : Nat) (m : Memory) : (s.setMem n m).engines = s.engines := rfl
@[simp] theorem State.setMem_streams (s : State) (n : Nat) (m : Memory) : (s.setMem n m).streams = s.streams := rfl
@[simp] theorem State.setMem_pool (s : State) (n : Nat) (m : Memory) : (s.setMem n m).pool = s.pool := rfl
@[simp] theorem State.setMem_peers (s : State) (n : Nat) (m : Memory) : (s.setMem n m).peers = s.peers := rfl
@[simp] theorem State.setMem_marks (s : State) (n : Nat) (m : Memory) : (s.setMem n m).marks = s.marks := rfl
@[simp] theorem State.setMem_sent (s : State) (n : Nat) (m : Memory) : (s.setMem n m).sent = s.sent := rfl
@[simp] theorem State.setMem_sys (s : State) (n : Nat) (m : Memory) : (s.setMem n m).sys = s.sys := rfl
@[simp] theorem State.setMem_core (s : State) (n : Nat) (m : Memory) (c : Nat) :
    (s.setMem n m).core c = s.core c := rfl
@[simp] theorem State.setMem_group (s : State) (n : Nat) (m : Memory) (i : Nat) :
    (s.setMem n m).group i = s.group i := rfl
@[simp] theorem State.setMem_gangOpt (s : State) (n : Nat) (m : Memory) (i : Nat) :
    (s.setMem n m).gang? i = s.gang? i := rfl
@[simp] theorem State.setMem_gangAt (s : State) (n : Nat) (m : Memory) (c p : Nat) :
    (s.setMem n m).gangAt c p = s.gangAt c p := rfl
@[simp] theorem State.setMem_brickOpt (s : State) (n : Nat) (m : Memory) (k : BKey) :
    (s.setMem n m).brick? k = s.brick? k := rfl
@[simp] theorem State.setMem_courseOpt (s : State) (n : Nat) (m : Memory) (k : CKey) :
    (s.setMem n m).course? k = s.course? k := rfl
@[simp] theorem State.setMem_wallOpt (s : State) (n : Nat) (m : Memory) (i : Nat) :
    (s.setMem n m).wall? i = s.wall? i := rfl
@[simp] theorem State.setMem_asidOf (s : State) (n : Nat) (m : Memory) (i : Nat) :
    (s.setMem n m).asidOf i = s.asidOf i := rfl
@[simp] theorem State.setMem_headerOpt (s : State) (n : Nat) (m : Memory) (i : Nat) :
    (s.setMem n m).header? i = s.header? i := rfl
@[simp] theorem State.setMem_setOpt (s : State) (n : Nat) (m : Memory) (w i : Nat) :
    (s.setMem n m).set? w i = s.set? w i := rfl
@[simp] theorem State.setMem_streamOpt (s : State) (n : Nat) (m : Memory) (i : Nat) :
    (s.setMem n m).stream? i = s.stream? i := rfl

/-! ### setPeer -/

@[simp] theorem State.setPeer_agenda (s : State) (n : Nat) (p : Peer) : (s.setPeer n p).agenda = s.agenda := rfl
@[simp] theorem State.setPeer_cur (s : State) (n : Nat) (p : Peer) : (s.setPeer n p).cur = s.cur := rfl
@[simp] theorem State.setPeer_time (s : State) (n : Nat) (p : Peer) : (s.setPeer n p).time = s.time := rfl
@[simp] theorem State.setPeer_cycle (s : State) (n : Nat) (p : Peer) : (s.setPeer n p).cycle = s.cycle := rfl
@[simp] theorem State.setPeer_picks (s : State) (n : Nat) (p : Peer) : (s.setPeer n p).picks = s.picks := rfl
@[simp] theorem State.setPeer_fours (s : State) (n : Nat) (p : Peer) : (s.setPeer n p).fours = s.fours := rfl
@[simp] theorem State.setPeer_gnext (s : State) (n : Nat) (p : Peer) : (s.setPeer n p).gnext = s.gnext := rfl
@[simp] theorem State.setPeer_acted (s : State) (n : Nat) (p : Peer) : (s.setPeer n p).acted = s.acted := rfl
@[simp] theorem State.setPeer_free (s : State) (n : Nat) (p : Peer) : (s.setPeer n p).free = s.free := rfl
@[simp] theorem State.setPeer_nextId (s : State) (n : Nat) (p : Peer) : (s.setPeer n p).nextId = s.nextId := rfl
@[simp] theorem State.setPeer_gangs (s : State) (n : Nat) (p : Peer) : (s.setPeer n p).gangs = s.gangs := rfl
@[simp] theorem State.setPeer_bricks (s : State) (n : Nat) (p : Peer) : (s.setPeer n p).bricks = s.bricks := rfl
@[simp] theorem State.setPeer_courses (s : State) (n : Nat) (p : Peer) : (s.setPeer n p).courses = s.courses := rfl
@[simp] theorem State.setPeer_walls (s : State) (n : Nat) (p : Peer) : (s.setPeer n p).walls = s.walls := rfl
@[simp] theorem State.setPeer_sets (s : State) (n : Nat) (p : Peer) : (s.setPeer n p).sets = s.sets := rfl
@[simp] theorem State.setPeer_nofit (s : State) (n : Nat) (p : Peer) : (s.setPeer n p).nofit = s.nofit := rfl
@[simp] theorem State.setPeer_cores (s : State) (n : Nat) (p : Peer) : (s.setPeer n p).cores = s.cores := rfl
@[simp] theorem State.setPeer_groups (s : State) (n : Nat) (p : Peer) : (s.setPeer n p).groups = s.groups := rfl
@[simp] theorem State.setPeer_foots (s : State) (n : Nat) (p : Peer) : (s.setPeer n p).foots = s.foots := rfl
@[simp] theorem State.setPeer_slices (s : State) (n : Nat) (p : Peer) : (s.setPeer n p).slices = s.slices := rfl
@[simp] theorem State.setPeer_tlb (s : State) (n : Nat) (p : Peer) : (s.setPeer n p).tlb = s.tlb := rfl
@[simp] theorem State.setPeer_gtlb (s : State) (n : Nat) (p : Peer) : (s.setPeer n p).gtlb = s.gtlb := rfl
@[simp] theorem State.setPeer_walks (s : State) (n : Nat) (p : Peer) : (s.setPeer n p).walks = s.walks := rfl
@[simp] theorem State.setPeer_l1 (s : State) (n : Nat) (p : Peer) : (s.setPeer n p).l1 = s.l1 := rfl
@[simp] theorem State.setPeer_images (s : State) (n : Nat) (p : Peer) : (s.setPeer n p).images = s.images := rfl
@[simp] theorem State.setPeer_reqs (s : State) (n : Nat) (p : Peer) : (s.setPeer n p).reqs = s.reqs := rfl
@[simp] theorem State.setPeer_lates (s : State) (n : Nat) (p : Peer) : (s.setPeer n p).lates = s.lates := rfl
@[simp] theorem State.setPeer_writes (s : State) (n : Nat) (p : Peer) : (s.setPeer n p).writes = s.writes := rfl
@[simp] theorem State.setPeer_wtags (s : State) (n : Nat) (p : Peer) : (s.setPeer n p).wtags = s.wtags := rfl
@[simp] theorem State.setPeer_orders (s : State) (n : Nat) (p : Peer) : (s.setPeer n p).orders = s.orders := rfl
@[simp] theorem State.setPeer_copies (s : State) (n : Nat) (p : Peer) : (s.setPeer n p).copies = s.copies := rfl
@[simp] theorem State.setPeer_mcreqs (s : State) (n : Nat) (p : Peer) : (s.setPeer n p).mcreqs = s.mcreqs := rfl
@[simp] theorem State.setPeer_mcholds (s : State) (n : Nat) (p : Peer) : (s.setPeer n p).mcholds = s.mcholds := rfl
@[simp] theorem State.setPeer_mctests (s : State) (n : Nat) (p : Peer) : (s.setPeer n p).mctests = s.mctests := rfl
@[simp] theorem State.setPeer_fills (s : State) (n : Nat) (p : Peer) : (s.setPeer n p).fills = s.fills := rfl
@[simp] theorem State.setPeer_idxops (s : State) (n : Nat) (p : Peer) : (s.setPeer n p).idxops = s.idxops := rfl
@[simp] theorem State.setPeer_samples (s : State) (n : Nat) (p : Peer) : (s.setPeer n p).samples = s.samples := rfl
@[simp] theorem State.setPeer_matArrivals (s : State) (n : Nat) (p : Peer) : (s.setPeer n p).matArrivals = s.matArrivals := rfl
@[simp] theorem State.setPeer_savedMat (s : State) (n : Nat) (p : Peer) : (s.setPeer n p).savedMat = s.savedMat := rfl
@[simp] theorem State.setPeer_savedQuant (s : State) (n : Nat) (p : Peer) : (s.setPeer n p).savedQuant = s.savedQuant := rfl
@[simp] theorem State.setPeer_flits (s : State) (n : Nat) (p : Peer) : (s.setPeer n p).flits = s.flits := rfl
@[simp] theorem State.setPeer_leads (s : State) (n : Nat) (p : Peer) : (s.setPeer n p).leads = s.leads := rfl
@[simp] theorem State.setPeer_queues (s : State) (n : Nat) (p : Peer) : (s.setPeer n p).queues = s.queues := rfl
@[simp] theorem State.setPeer_ovf (s : State) (n : Nat) (p : Peer) : (s.setPeer n p).ovf = s.ovf := rfl
@[simp] theorem State.setPeer_unitHolds (s : State) (n : Nat) (p : Peer) : (s.setPeer n p).unitHolds = s.unitHolds := rfl
@[simp] theorem State.setPeer_engines (s : State) (n : Nat) (p : Peer) : (s.setPeer n p).engines = s.engines := rfl
@[simp] theorem State.setPeer_streams (s : State) (n : Nat) (p : Peer) : (s.setPeer n p).streams = s.streams := rfl
@[simp] theorem State.setPeer_pool (s : State) (n : Nat) (p : Peer) : (s.setPeer n p).pool = s.pool := rfl
@[simp] theorem State.setPeer_marks (s : State) (n : Nat) (p : Peer) : (s.setPeer n p).marks = s.marks := rfl
@[simp] theorem State.setPeer_sent (s : State) (n : Nat) (p : Peer) : (s.setPeer n p).sent = s.sent := rfl
@[simp] theorem State.setPeer_sys (s : State) (n : Nat) (p : Peer) : (s.setPeer n p).sys = s.sys := rfl
@[simp] theorem State.setPeer_mem (s : State) (n : Nat) (p : Peer) (f : Nat) :
    (s.setPeer n p).mem f = s.mem f := rfl
@[simp] theorem State.setPeer_core (s : State) (n : Nat) (p : Peer) (c : Nat) :
    (s.setPeer n p).core c = s.core c := rfl
@[simp] theorem State.setPeer_group (s : State) (n : Nat) (p : Peer) (i : Nat) :
    (s.setPeer n p).group i = s.group i := rfl
@[simp] theorem State.setPeer_gangOpt (s : State) (n : Nat) (p : Peer) (i : Nat) :
    (s.setPeer n p).gang? i = s.gang? i := rfl
@[simp] theorem State.setPeer_gangAt (s : State) (n : Nat) (p : Peer) (c p' : Nat) :
    (s.setPeer n p).gangAt c p' = s.gangAt c p' := rfl
@[simp] theorem State.setPeer_brickOpt (s : State) (n : Nat) (p : Peer) (k : BKey) :
    (s.setPeer n p).brick? k = s.brick? k := rfl
@[simp] theorem State.setPeer_courseOpt (s : State) (n : Nat) (p : Peer) (k : CKey) :
    (s.setPeer n p).course? k = s.course? k := rfl
@[simp] theorem State.setPeer_wallOpt (s : State) (n : Nat) (p : Peer) (i : Nat) :
    (s.setPeer n p).wall? i = s.wall? i := rfl
@[simp] theorem State.setPeer_asidOf (s : State) (n : Nat) (p : Peer) (i : Nat) :
    (s.setPeer n p).asidOf i = s.asidOf i := rfl
@[simp] theorem State.setPeer_headerOpt (s : State) (n : Nat) (p : Peer) (i : Nat) :
    (s.setPeer n p).header? i = s.header? i := rfl
@[simp] theorem State.setPeer_setOpt (s : State) (n : Nat) (p : Peer) (w i : Nat) :
    (s.setPeer n p).set? w i = s.set? w i := rfl
@[simp] theorem State.setPeer_streamOpt (s : State) (n : Nat) (p : Peer) (i : Nat) :
    (s.setPeer n p).stream? i = s.stream? i := rfl

/-! ### setFq -/

@[simp] theorem State.setFq_agenda (s : State) (n : Nat) (q : FaultQ) : (s.setFq n q).agenda = s.agenda := rfl
@[simp] theorem State.setFq_cur (s : State) (n : Nat) (q : FaultQ) : (s.setFq n q).cur = s.cur := rfl
@[simp] theorem State.setFq_time (s : State) (n : Nat) (q : FaultQ) : (s.setFq n q).time = s.time := rfl
@[simp] theorem State.setFq_cycle (s : State) (n : Nat) (q : FaultQ) : (s.setFq n q).cycle = s.cycle := rfl
@[simp] theorem State.setFq_picks (s : State) (n : Nat) (q : FaultQ) : (s.setFq n q).picks = s.picks := rfl
@[simp] theorem State.setFq_fours (s : State) (n : Nat) (q : FaultQ) : (s.setFq n q).fours = s.fours := rfl
@[simp] theorem State.setFq_gnext (s : State) (n : Nat) (q : FaultQ) : (s.setFq n q).gnext = s.gnext := rfl
@[simp] theorem State.setFq_acted (s : State) (n : Nat) (q : FaultQ) : (s.setFq n q).acted = s.acted := rfl
@[simp] theorem State.setFq_free (s : State) (n : Nat) (q : FaultQ) : (s.setFq n q).free = s.free := rfl
@[simp] theorem State.setFq_nextId (s : State) (n : Nat) (q : FaultQ) : (s.setFq n q).nextId = s.nextId := rfl
@[simp] theorem State.setFq_gangs (s : State) (n : Nat) (q : FaultQ) : (s.setFq n q).gangs = s.gangs := rfl
@[simp] theorem State.setFq_bricks (s : State) (n : Nat) (q : FaultQ) : (s.setFq n q).bricks = s.bricks := rfl
@[simp] theorem State.setFq_courses (s : State) (n : Nat) (q : FaultQ) : (s.setFq n q).courses = s.courses := rfl
@[simp] theorem State.setFq_walls (s : State) (n : Nat) (q : FaultQ) : (s.setFq n q).walls = s.walls := rfl
@[simp] theorem State.setFq_sets (s : State) (n : Nat) (q : FaultQ) : (s.setFq n q).sets = s.sets := rfl
@[simp] theorem State.setFq_nofit (s : State) (n : Nat) (q : FaultQ) : (s.setFq n q).nofit = s.nofit := rfl
@[simp] theorem State.setFq_cores (s : State) (n : Nat) (q : FaultQ) : (s.setFq n q).cores = s.cores := rfl
@[simp] theorem State.setFq_groups (s : State) (n : Nat) (q : FaultQ) : (s.setFq n q).groups = s.groups := rfl
@[simp] theorem State.setFq_foots (s : State) (n : Nat) (q : FaultQ) : (s.setFq n q).foots = s.foots := rfl
@[simp] theorem State.setFq_slices (s : State) (n : Nat) (q : FaultQ) : (s.setFq n q).slices = s.slices := rfl
@[simp] theorem State.setFq_tlb (s : State) (n : Nat) (q : FaultQ) : (s.setFq n q).tlb = s.tlb := rfl
@[simp] theorem State.setFq_gtlb (s : State) (n : Nat) (q : FaultQ) : (s.setFq n q).gtlb = s.gtlb := rfl
@[simp] theorem State.setFq_walks (s : State) (n : Nat) (q : FaultQ) : (s.setFq n q).walks = s.walks := rfl
@[simp] theorem State.setFq_l1 (s : State) (n : Nat) (q : FaultQ) : (s.setFq n q).l1 = s.l1 := rfl
@[simp] theorem State.setFq_images (s : State) (n : Nat) (q : FaultQ) : (s.setFq n q).images = s.images := rfl
@[simp] theorem State.setFq_reqs (s : State) (n : Nat) (q : FaultQ) : (s.setFq n q).reqs = s.reqs := rfl
@[simp] theorem State.setFq_lates (s : State) (n : Nat) (q : FaultQ) : (s.setFq n q).lates = s.lates := rfl
@[simp] theorem State.setFq_writes (s : State) (n : Nat) (q : FaultQ) : (s.setFq n q).writes = s.writes := rfl
@[simp] theorem State.setFq_wtags (s : State) (n : Nat) (q : FaultQ) : (s.setFq n q).wtags = s.wtags := rfl
@[simp] theorem State.setFq_orders (s : State) (n : Nat) (q : FaultQ) : (s.setFq n q).orders = s.orders := rfl
@[simp] theorem State.setFq_copies (s : State) (n : Nat) (q : FaultQ) : (s.setFq n q).copies = s.copies := rfl
@[simp] theorem State.setFq_mcreqs (s : State) (n : Nat) (q : FaultQ) : (s.setFq n q).mcreqs = s.mcreqs := rfl
@[simp] theorem State.setFq_mcholds (s : State) (n : Nat) (q : FaultQ) : (s.setFq n q).mcholds = s.mcholds := rfl
@[simp] theorem State.setFq_mctests (s : State) (n : Nat) (q : FaultQ) : (s.setFq n q).mctests = s.mctests := rfl
@[simp] theorem State.setFq_fills (s : State) (n : Nat) (q : FaultQ) : (s.setFq n q).fills = s.fills := rfl
@[simp] theorem State.setFq_idxops (s : State) (n : Nat) (q : FaultQ) : (s.setFq n q).idxops = s.idxops := rfl
@[simp] theorem State.setFq_samples (s : State) (n : Nat) (q : FaultQ) : (s.setFq n q).samples = s.samples := rfl
@[simp] theorem State.setFq_matArrivals (s : State) (n : Nat) (q : FaultQ) : (s.setFq n q).matArrivals = s.matArrivals := rfl
@[simp] theorem State.setFq_savedMat (s : State) (n : Nat) (q : FaultQ) : (s.setFq n q).savedMat = s.savedMat := rfl
@[simp] theorem State.setFq_savedQuant (s : State) (n : Nat) (q : FaultQ) : (s.setFq n q).savedQuant = s.savedQuant := rfl
@[simp] theorem State.setFq_flits (s : State) (n : Nat) (q : FaultQ) : (s.setFq n q).flits = s.flits := rfl
@[simp] theorem State.setFq_leads (s : State) (n : Nat) (q : FaultQ) : (s.setFq n q).leads = s.leads := rfl
@[simp] theorem State.setFq_queues (s : State) (n : Nat) (q : FaultQ) : (s.setFq n q).queues = s.queues := rfl
@[simp] theorem State.setFq_ovf (s : State) (n : Nat) (q : FaultQ) : (s.setFq n q).ovf = s.ovf := rfl
@[simp] theorem State.setFq_unitHolds (s : State) (n : Nat) (q : FaultQ) : (s.setFq n q).unitHolds = s.unitHolds := rfl
@[simp] theorem State.setFq_engines (s : State) (n : Nat) (q : FaultQ) : (s.setFq n q).engines = s.engines := rfl
@[simp] theorem State.setFq_streams (s : State) (n : Nat) (q : FaultQ) : (s.setFq n q).streams = s.streams := rfl
@[simp] theorem State.setFq_pool (s : State) (n : Nat) (q : FaultQ) : (s.setFq n q).pool = s.pool := rfl
@[simp] theorem State.setFq_peers (s : State) (n : Nat) (q : FaultQ) : (s.setFq n q).peers = s.peers := rfl
@[simp] theorem State.setFq_marks (s : State) (n : Nat) (q : FaultQ) : (s.setFq n q).marks = s.marks := rfl
@[simp] theorem State.setFq_sent (s : State) (n : Nat) (q : FaultQ) : (s.setFq n q).sent = s.sent := rfl
@[simp] theorem State.setFq_mem (s : State) (n : Nat) (q : FaultQ) (f : Nat) :
    (s.setFq n q).mem f = s.mem f := rfl
@[simp] theorem State.setFq_core (s : State) (n : Nat) (q : FaultQ) (c : Nat) :
    (s.setFq n q).core c = s.core c := rfl
@[simp] theorem State.setFq_group (s : State) (n : Nat) (q : FaultQ) (i : Nat) :
    (s.setFq n q).group i = s.group i := rfl
@[simp] theorem State.setFq_gangOpt (s : State) (n : Nat) (q : FaultQ) (i : Nat) :
    (s.setFq n q).gang? i = s.gang? i := rfl
@[simp] theorem State.setFq_gangAt (s : State) (n : Nat) (q : FaultQ) (c p : Nat) :
    (s.setFq n q).gangAt c p = s.gangAt c p := rfl
@[simp] theorem State.setFq_brickOpt (s : State) (n : Nat) (q : FaultQ) (k : BKey) :
    (s.setFq n q).brick? k = s.brick? k := rfl
@[simp] theorem State.setFq_courseOpt (s : State) (n : Nat) (q : FaultQ) (k : CKey) :
    (s.setFq n q).course? k = s.course? k := rfl
@[simp] theorem State.setFq_wallOpt (s : State) (n : Nat) (q : FaultQ) (i : Nat) :
    (s.setFq n q).wall? i = s.wall? i := rfl
@[simp] theorem State.setFq_asidOf (s : State) (n : Nat) (q : FaultQ) (i : Nat) :
    (s.setFq n q).asidOf i = s.asidOf i := rfl
@[simp] theorem State.setFq_headerOpt (s : State) (n : Nat) (q : FaultQ) (i : Nat) :
    (s.setFq n q).header? i = s.header? i := rfl
@[simp] theorem State.setFq_setOpt (s : State) (n : Nat) (q : FaultQ) (w i : Nat) :
    (s.setFq n q).set? w i = s.set? w i := rfl
@[simp] theorem State.setFq_streamOpt (s : State) (n : Nat) (q : FaultQ) (i : Nat) :
    (s.setFq n q).stream? i = s.stream? i := rfl

end Sys2Proof.Machine
end

