-- ==== Sys2Proof/Laws/Issue.lean ====
section
/-! SUPPORT. What the shared changes of a gang leave, the records of the state after an update, and what issuing and trapping
come to: one lemma for each shared operation. -/

namespace Sys2Proof.Machine

open Sys2Proof

/-! ### The gang's fields -/

@[simp] theorem Gang.goto_gid (g : Gang) (pc : Addr) (h : Nat) : (g.goto pc h).gid = g.gid := rfl
@[simp] theorem Gang.jump_gid (g : Gang) (pc : Addr) : (g.jump pc).gid = g.gid := rfl
@[simp] theorem Gang.advance_gid (g : Gang) : g.advance.gid = g.gid := by
  unfold Gang.advance; split <;> rfl
@[simp] theorem Gang.push_gid (g : Gang) (m : Mask) (d : Dest) (f : Nat → Word) : (g.push m d f).gid = g.gid := by
  simp only [Gang.push, Gang.pushCells]; split <;> rfl
@[simp] theorem Gang.pushPending_gid (g : Gang) (m : Mask) (d : Dest) (i : Nat) : (g.pushPending m d i).gid = g.gid := by
  simp only [Gang.pushPending, Gang.pushCells]; split <;> rfl
@[simp] theorem Gang.arm_gid (g : Gang) (t : Tok) : (g.arm t).gid = g.gid := by
  cases t <;> rfl
@[simp] theorem Gang.goto_brick (g : Gang) (pc : Addr) (h : Nat) : (g.goto pc h).brick = g.brick := rfl
@[simp] theorem Gang.jump_brick (g : Gang) (pc : Addr) : (g.jump pc).brick = g.brick := rfl
@[simp] theorem Gang.advance_brick (g : Gang) : g.advance.brick = g.brick := by
  unfold Gang.advance; split <;> rfl
@[simp] theorem Gang.push_brick (g : Gang) (m : Mask) (d : Dest) (f : Nat → Word) : (g.push m d f).brick = g.brick := by
  simp only [Gang.push, Gang.pushCells]; split <;> rfl
@[simp] theorem Gang.pushPending_brick (g : Gang) (m : Mask) (d : Dest) (i : Nat) : (g.pushPending m d i).brick = g.brick := by
  simp only [Gang.pushPending, Gang.pushCells]; split <;> rfl
@[simp] theorem Gang.arm_brick (g : Gang) (t : Tok) : (g.arm t).brick = g.brick := by
  cases t <;> rfl
@[simp] theorem Gang.goto_gno (g : Gang) (pc : Addr) (h : Nat) : (g.goto pc h).gno = g.gno := rfl
@[simp] theorem Gang.jump_gno (g : Gang) (pc : Addr) : (g.jump pc).gno = g.gno := rfl
@[simp] theorem Gang.advance_gno (g : Gang) : g.advance.gno = g.gno := by
  unfold Gang.advance; split <;> rfl
@[simp] theorem Gang.push_gno (g : Gang) (m : Mask) (d : Dest) (f : Nat → Word) : (g.push m d f).gno = g.gno := by
  simp only [Gang.push, Gang.pushCells]; split <;> rfl
@[simp] theorem Gang.pushPending_gno (g : Gang) (m : Mask) (d : Dest) (i : Nat) : (g.pushPending m d i).gno = g.gno := by
  simp only [Gang.pushPending, Gang.pushCells]; split <;> rfl
@[simp] theorem Gang.arm_gno (g : Gang) (t : Tok) : (g.arm t).gno = g.gno := by
  cases t <;> rfl
@[simp] theorem Gang.goto_role (g : Gang) (pc : Addr) (h : Nat) : (g.goto pc h).role = g.role := rfl
@[simp] theorem Gang.jump_role (g : Gang) (pc : Addr) : (g.jump pc).role = g.role := rfl
@[simp] theorem Gang.advance_role (g : Gang) : g.advance.role = g.role := by
  unfold Gang.advance; split <;> rfl
@[simp] theorem Gang.push_role (g : Gang) (m : Mask) (d : Dest) (f : Nat → Word) : (g.push m d f).role = g.role := by
  simp only [Gang.push, Gang.pushCells]; split <;> rfl
@[simp] theorem Gang.pushPending_role (g : Gang) (m : Mask) (d : Dest) (i : Nat) : (g.pushPending m d i).role = g.role := by
  simp only [Gang.pushPending, Gang.pushCells]; split <;> rfl
@[simp] theorem Gang.arm_role (g : Gang) (t : Tok) : (g.arm t).role = g.role := by
  cases t <;> rfl
@[simp] theorem Gang.goto_named (g : Gang) (pc : Addr) (h : Nat) : (g.goto pc h).named = g.named := rfl
@[simp] theorem Gang.jump_named (g : Gang) (pc : Addr) : (g.jump pc).named = g.named := rfl
@[simp] theorem Gang.advance_named (g : Gang) : g.advance.named = g.named := by
  unfold Gang.advance; split <;> rfl
@[simp] theorem Gang.push_named (g : Gang) (m : Mask) (d : Dest) (f : Nat → Word) : (g.push m d f).named = g.named := by
  simp only [Gang.push, Gang.pushCells]; split <;> rfl
@[simp] theorem Gang.pushPending_named (g : Gang) (m : Mask) (d : Dest) (i : Nat) : (g.pushPending m d i).named = g.named := by
  simp only [Gang.pushPending, Gang.pushCells]; split <;> rfl
@[simp] theorem Gang.arm_named (g : Gang) (t : Tok) : (g.arm t).named = g.named := by
  cases t <;> rfl
@[simp] theorem Gang.goto_reord (g : Gang) (pc : Addr) (h : Nat) : (g.goto pc h).reord = g.reord := rfl
@[simp] theorem Gang.jump_reord (g : Gang) (pc : Addr) : (g.jump pc).reord = g.reord := rfl
@[simp] theorem Gang.advance_reord (g : Gang) : g.advance.reord = g.reord := by
  unfold Gang.advance; split <;> rfl
@[simp] theorem Gang.push_reord (g : Gang) (m : Mask) (d : Dest) (f : Nat → Word) : (g.push m d f).reord = g.reord := by
  simp only [Gang.push, Gang.pushCells]; split <;> rfl
@[simp] theorem Gang.pushPending_reord (g : Gang) (m : Mask) (d : Dest) (i : Nat) : (g.pushPending m d i).reord = g.reord := by
  simp only [Gang.pushPending, Gang.pushCells]; split <;> rfl
@[simp] theorem Gang.arm_reord (g : Gang) (t : Tok) : (g.arm t).reord = g.reord := by
  cases t <;> rfl
@[simp] theorem Gang.goto_dict (g : Gang) (pc : Addr) (h : Nat) : (g.goto pc h).dict = g.dict := rfl
@[simp] theorem Gang.jump_dict (g : Gang) (pc : Addr) : (g.jump pc).dict = g.dict := rfl
@[simp] theorem Gang.advance_dict (g : Gang) : g.advance.dict = g.dict := by
  unfold Gang.advance; split <;> rfl
@[simp] theorem Gang.push_dict (g : Gang) (m : Mask) (d : Dest) (f : Nat → Word) : (g.push m d f).dict = g.dict := by
  simp only [Gang.push, Gang.pushCells]; split <;> rfl
@[simp] theorem Gang.pushPending_dict (g : Gang) (m : Mask) (d : Dest) (i : Nat) : (g.pushPending m d i).dict = g.dict := by
  simp only [Gang.pushPending, Gang.pushCells]; split <;> rfl
@[simp] theorem Gang.arm_dict (g : Gang) (t : Tok) : (g.arm t).dict = g.dict := by
  cases t <;> rfl
@[simp] theorem Gang.goto_cls (g : Gang) (pc : Addr) (h : Nat) : (g.goto pc h).cls = g.cls := rfl
@[simp] theorem Gang.jump_cls (g : Gang) (pc : Addr) : (g.jump pc).cls = g.cls := rfl
@[simp] theorem Gang.advance_cls (g : Gang) : g.advance.cls = g.cls := by
  unfold Gang.advance; split <;> rfl
@[simp] theorem Gang.push_cls (g : Gang) (m : Mask) (d : Dest) (f : Nat → Word) : (g.push m d f).cls = g.cls := by
  simp only [Gang.push, Gang.pushCells]; split <;> rfl
@[simp] theorem Gang.pushPending_cls (g : Gang) (m : Mask) (d : Dest) (i : Nat) : (g.pushPending m d i).cls = g.cls := by
  simp only [Gang.pushPending, Gang.pushCells]; split <;> rfl
@[simp] theorem Gang.arm_cls (g : Gang) (t : Tok) : (g.arm t).cls = g.cls := by
  cases t <;> rfl
@[simp] theorem Gang.goto_place (g : Gang) (pc : Addr) (h : Nat) : (g.goto pc h).place = g.place := rfl
@[simp] theorem Gang.jump_place (g : Gang) (pc : Addr) : (g.jump pc).place = g.place := rfl
@[simp] theorem Gang.advance_place (g : Gang) : g.advance.place = g.place := by
  unfold Gang.advance; split <;> rfl
@[simp] theorem Gang.push_place (g : Gang) (m : Mask) (d : Dest) (f : Nat → Word) : (g.push m d f).place = g.place := by
  simp only [Gang.push, Gang.pushCells]; split <;> rfl
@[simp] theorem Gang.pushPending_place (g : Gang) (m : Mask) (d : Dest) (i : Nat) : (g.pushPending m d i).place = g.place := by
  simp only [Gang.pushPending, Gang.pushCells]; split <;> rfl
@[simp] theorem Gang.arm_place (g : Gang) (t : Tok) : (g.arm t).place = g.place := by
  cases t <;> rfl
@[simp] theorem Gang.goto_lanes (g : Gang) (pc : Addr) (h : Nat) : (g.goto pc h).lanes = g.lanes := rfl
@[simp] theorem Gang.jump_lanes (g : Gang) (pc : Addr) : (g.jump pc).lanes = g.lanes := rfl
@[simp] theorem Gang.advance_lanes (g : Gang) : g.advance.lanes = g.lanes := by
  unfold Gang.advance; split <;> rfl
@[simp] theorem Gang.arm_lanes (g : Gang) (t : Tok) : (g.arm t).lanes = g.lanes := by
  cases t <;> rfl
@[simp] theorem Gang.goto_em (g : Gang) (pc : Addr) (h : Nat) : (g.goto pc h).em = g.em := rfl
@[simp] theorem Gang.jump_em (g : Gang) (pc : Addr) : (g.jump pc).em = g.em := rfl
@[simp] theorem Gang.advance_em (g : Gang) : g.advance.em = g.em := by
  unfold Gang.advance; split <;> rfl
@[simp] theorem Gang.push_em (g : Gang) (m : Mask) (d : Dest) (f : Nat → Word) : (g.push m d f).em = g.em := by
  simp only [Gang.push, Gang.pushCells]; split <;> rfl
@[simp] theorem Gang.pushPending_em (g : Gang) (m : Mask) (d : Dest) (i : Nat) : (g.pushPending m d i).em = g.em := by
  simp only [Gang.pushPending, Gang.pushCells]; split <;> rfl
@[simp] theorem Gang.arm_em (g : Gang) (t : Tok) : (g.arm t).em = g.em := by
  cases t <;> rfl
@[simp] theorem Gang.goto_live (g : Gang) (pc : Addr) (h : Nat) : (g.goto pc h).live = g.live := rfl
@[simp] theorem Gang.jump_live (g : Gang) (pc : Addr) : (g.jump pc).live = g.live := rfl
@[simp] theorem Gang.advance_live (g : Gang) : g.advance.live = g.live := by
  unfold Gang.advance; split <;> rfl
@[simp] theorem Gang.push_live (g : Gang) (m : Mask) (d : Dest) (f : Nat → Word) : (g.push m d f).live = g.live := by
  simp only [Gang.push, Gang.pushCells]; split <;> rfl
@[simp] theorem Gang.pushPending_live (g : Gang) (m : Mask) (d : Dest) (i : Nat) : (g.pushPending m d i).live = g.live := by
  simp only [Gang.pushPending, Gang.pushCells]; split <;> rfl
@[simp] theorem Gang.arm_live (g : Gang) (t : Tok) : (g.arm t).live = g.live := by
  cases t <;> rfl
@[simp] theorem Gang.goto_fm (g : Gang) (pc : Addr) (h : Nat) : (g.goto pc h).fm = g.fm := rfl
@[simp] theorem Gang.jump_fm (g : Gang) (pc : Addr) : (g.jump pc).fm = g.fm := rfl
@[simp] theorem Gang.advance_fm (g : Gang) : g.advance.fm = g.fm := by
  unfold Gang.advance; split <;> rfl
@[simp] theorem Gang.push_fm (g : Gang) (m : Mask) (d : Dest) (f : Nat → Word) : (g.push m d f).fm = g.fm := by
  simp only [Gang.push, Gang.pushCells]; split <;> rfl
@[simp] theorem Gang.pushPending_fm (g : Gang) (m : Mask) (d : Dest) (i : Nat) : (g.pushPending m d i).fm = g.fm := by
  simp only [Gang.pushPending, Gang.pushCells]; split <;> rfl
@[simp] theorem Gang.arm_fm (g : Gang) (t : Tok) : (g.arm t).fm = g.fm := by
  cases t <;> rfl
@[simp] theorem Gang.goto_k (g : Gang) (pc : Addr) (h : Nat) : (g.goto pc h).k = g.k := rfl
@[simp] theorem Gang.jump_k (g : Gang) (pc : Addr) : (g.jump pc).k = g.k := rfl
@[simp] theorem Gang.advance_k (g : Gang) : g.advance.k = g.k := by
  unfold Gang.advance; split <;> rfl
@[simp] theorem Gang.arm_k (g : Gang) (t : Tok) : (g.arm t).k = g.k := by
  cases t <;> rfl
@[simp] theorem Gang.goto_stack (g : Gang) (pc : Addr) (h : Nat) : (g.goto pc h).stack = g.stack := rfl
@[simp] theorem Gang.jump_stack (g : Gang) (pc : Addr) : (g.jump pc).stack = g.stack := rfl
@[simp] theorem Gang.advance_stack (g : Gang) : g.advance.stack = g.stack := by
  unfold Gang.advance; split <;> rfl
@[simp] theorem Gang.push_stack (g : Gang) (m : Mask) (d : Dest) (f : Nat → Word) : (g.push m d f).stack = g.stack := by
  simp only [Gang.push, Gang.pushCells]; split <;> rfl
@[simp] theorem Gang.pushPending_stack (g : Gang) (m : Mask) (d : Dest) (i : Nat) : (g.pushPending m d i).stack = g.stack := by
  simp only [Gang.pushPending, Gang.pushCells]; split <;> rfl
@[simp] theorem Gang.arm_stack (g : Gang) (t : Tok) : (g.arm t).stack = g.stack := by
  cases t <;> rfl
@[simp] theorem Gang.goto_depth (g : Gang) (pc : Addr) (h : Nat) : (g.goto pc h).depth = g.depth := rfl
@[simp] theorem Gang.jump_depth (g : Gang) (pc : Addr) : (g.jump pc).depth = g.depth := rfl
@[simp] theorem Gang.advance_depth (g : Gang) : g.advance.depth = g.depth := by
  unfold Gang.advance; split <;> rfl
@[simp] theorem Gang.push_depth (g : Gang) (m : Mask) (d : Dest) (f : Nat → Word) : (g.push m d f).depth = g.depth := by
  simp only [Gang.push, Gang.pushCells]; split <;> rfl
@[simp] theorem Gang.pushPending_depth (g : Gang) (m : Mask) (d : Dest) (i : Nat) : (g.pushPending m d i).depth = g.depth := by
  simp only [Gang.pushPending, Gang.pushCells]; split <;> rfl
@[simp] theorem Gang.arm_depth (g : Gang) (t : Tok) : (g.arm t).depth = g.depth := by
  cases t <;> rfl
@[simp] theorem Gang.goto_xfer (g : Gang) (pc : Addr) (h : Nat) : (g.goto pc h).xfer = g.xfer := rfl
@[simp] theorem Gang.jump_xfer (g : Gang) (pc : Addr) : (g.jump pc).xfer = g.xfer := rfl
@[simp] theorem Gang.advance_xfer (g : Gang) : g.advance.xfer = g.xfer := by
  unfold Gang.advance; split <;> rfl
@[simp] theorem Gang.push_xfer (g : Gang) (m : Mask) (d : Dest) (f : Nat → Word) : (g.push m d f).xfer = g.xfer := by
  simp only [Gang.push, Gang.pushCells]; split <;> rfl
@[simp] theorem Gang.pushPending_xfer (g : Gang) (m : Mask) (d : Dest) (i : Nat) : (g.pushPending m d i).xfer = g.xfer := by
  simp only [Gang.pushPending, Gang.pushCells]; split <;> rfl
@[simp] theorem Gang.arm_xfer (g : Gang) (t : Tok) : (g.arm t).xfer = g.xfer := by
  cases t <;> rfl
@[simp] theorem Gang.goto_spins (g : Gang) (pc : Addr) (h : Nat) : (g.goto pc h).spins = g.spins := rfl
@[simp] theorem Gang.jump_spins (g : Gang) (pc : Addr) : (g.jump pc).spins = g.spins := rfl
@[simp] theorem Gang.advance_spins (g : Gang) : g.advance.spins = g.spins := by
  unfold Gang.advance; split <;> rfl
@[simp] theorem Gang.push_spins (g : Gang) (m : Mask) (d : Dest) (f : Nat → Word) : (g.push m d f).spins = g.spins := by
  simp only [Gang.push, Gang.pushCells]; split <;> rfl
@[simp] theorem Gang.pushPending_spins (g : Gang) (m : Mask) (d : Dest) (i : Nat) : (g.pushPending m d i).spins = g.spins := by
  simp only [Gang.pushPending, Gang.pushCells]; split <;> rfl
@[simp] theorem Gang.arm_spins (g : Gang) (t : Tok) : (g.arm t).spins = g.spins := by
  cases t <;> rfl
@[simp] theorem Gang.push_pc (g : Gang) (m : Mask) (d : Dest) (f : Nat → Word) : (g.push m d f).pc = g.pc := by
  simp only [Gang.push, Gang.pushCells]; split <;> rfl
@[simp] theorem Gang.pushPending_pc (g : Gang) (m : Mask) (d : Dest) (i : Nat) : (g.pushPending m d i).pc = g.pc := by
  simp only [Gang.pushPending, Gang.pushCells]; split <;> rfl
@[simp] theorem Gang.arm_pc (g : Gang) (t : Tok) : (g.arm t).pc = g.pc := by
  cases t <;> rfl
@[simp] theorem Gang.push_pos (g : Gang) (m : Mask) (d : Dest) (f : Nat → Word) : (g.push m d f).pos = g.pos := by
  simp only [Gang.push, Gang.pushCells]; split <;> rfl
@[simp] theorem Gang.pushPending_pos (g : Gang) (m : Mask) (d : Dest) (i : Nat) : (g.pushPending m d i).pos = g.pos := by
  simp only [Gang.pushPending, Gang.pushCells]; split <;> rfl
@[simp] theorem Gang.arm_pos (g : Gang) (t : Tok) : (g.arm t).pos = g.pos := by
  cases t <;> rfl
@[simp] theorem Gang.push_clause (g : Gang) (m : Mask) (d : Dest) (f : Nat → Word) : (g.push m d f).clause = g.clause := by
  simp only [Gang.push, Gang.pushCells]; split <;> rfl
@[simp] theorem Gang.pushPending_clause (g : Gang) (m : Mask) (d : Dest) (i : Nat) : (g.pushPending m d i).clause = g.clause := by
  simp only [Gang.pushPending, Gang.pushCells]; split <;> rfl
@[simp] theorem Gang.arm_clause (g : Gang) (t : Tok) : (g.arm t).clause = g.clause := by
  cases t <;> rfl
@[simp] theorem Gang.push_header (g : Gang) (m : Mask) (d : Dest) (f : Nat → Word) : (g.push m d f).header = g.header := by
  simp only [Gang.push, Gang.pushCells]; split <;> rfl
@[simp] theorem Gang.pushPending_header (g : Gang) (m : Mask) (d : Dest) (i : Nat) : (g.pushPending m d i).header = g.header := by
  simp only [Gang.pushPending, Gang.pushCells]; split <;> rfl
@[simp] theorem Gang.arm_header (g : Gang) (t : Tok) : (g.arm t).header = g.header := by
  cases t <;> rfl
@[simp] theorem Gang.push_waited (g : Gang) (m : Mask) (d : Dest) (f : Nat → Word) : (g.push m d f).waited = g.waited := by
  simp only [Gang.push, Gang.pushCells]; split <;> rfl
@[simp] theorem Gang.pushPending_waited (g : Gang) (m : Mask) (d : Dest) (i : Nat) : (g.pushPending m d i).waited = g.waited := by
  simp only [Gang.pushPending, Gang.pushCells]; split <;> rfl
@[simp] theorem Gang.arm_waited (g : Gang) (t : Tok) : (g.arm t).waited = g.waited := by
  cases t <;> rfl
@[simp] theorem Gang.goto_readyT (g : Gang) (pc : Addr) (h : Nat) : (g.goto pc h).readyT = g.readyT := rfl
@[simp] theorem Gang.jump_readyT (g : Gang) (pc : Addr) : (g.jump pc).readyT = g.readyT := rfl
@[simp] theorem Gang.advance_readyT (g : Gang) : g.advance.readyT = g.readyT := by
  unfold Gang.advance; split <;> rfl
@[simp] theorem Gang.push_readyT (g : Gang) (m : Mask) (d : Dest) (f : Nat → Word) : (g.push m d f).readyT = g.readyT := by
  simp only [Gang.push, Gang.pushCells]; split <;> rfl
@[simp] theorem Gang.pushPending_readyT (g : Gang) (m : Mask) (d : Dest) (i : Nat) : (g.pushPending m d i).readyT = g.readyT := by
  simp only [Gang.pushPending, Gang.pushCells]; split <;> rfl
@[simp] theorem Gang.arm_readyT (g : Gang) (t : Tok) : (g.arm t).readyT = g.readyT := by
  cases t <;> rfl
@[simp] theorem Gang.goto_inherited (g : Gang) (pc : Addr) (h : Nat) : (g.goto pc h).inherited = g.inherited := rfl
@[simp] theorem Gang.jump_inherited (g : Gang) (pc : Addr) : (g.jump pc).inherited = g.inherited := rfl
@[simp] theorem Gang.advance_inherited (g : Gang) : g.advance.inherited = g.inherited := by
  unfold Gang.advance; split <;> rfl
@[simp] theorem Gang.push_inherited (g : Gang) (m : Mask) (d : Dest) (f : Nat → Word) : (g.push m d f).inherited = g.inherited := by
  simp only [Gang.push, Gang.pushCells]; split <;> rfl
@[simp] theorem Gang.pushPending_inherited (g : Gang) (m : Mask) (d : Dest) (i : Nat) : (g.pushPending m d i).inherited = g.inherited := by
  simp only [Gang.pushPending, Gang.pushCells]; split <;> rfl
@[simp] theorem Gang.arm_inherited (g : Gang) (t : Tok) : (g.arm t).inherited = g.inherited := by
  cases t <;> rfl
@[simp] theorem Gang.push_hint (g : Gang) (m : Mask) (d : Dest) (f : Nat → Word) : (g.push m d f).hint = g.hint := by
  simp only [Gang.push, Gang.pushCells]; split <;> rfl
@[simp] theorem Gang.pushPending_hint (g : Gang) (m : Mask) (d : Dest) (i : Nat) : (g.pushPending m d i).hint = g.hint := by
  simp only [Gang.pushPending, Gang.pushCells]; split <;> rfl
@[simp] theorem Gang.arm_hint (g : Gang) (t : Tok) : (g.arm t).hint = g.hint := by
  cases t <;> rfl
@[simp] theorem Gang.goto_since (g : Gang) (pc : Addr) (h : Nat) : (g.goto pc h).since = g.since := rfl
@[simp] theorem Gang.jump_since (g : Gang) (pc : Addr) : (g.jump pc).since = g.since := rfl
@[simp] theorem Gang.advance_since (g : Gang) : g.advance.since = g.since := by
  unfold Gang.advance; split <;> rfl
@[simp] theorem Gang.push_since (g : Gang) (m : Mask) (d : Dest) (f : Nat → Word) : (g.push m d f).since = g.since := by
  simp only [Gang.push, Gang.pushCells]; split <;> rfl
@[simp] theorem Gang.pushPending_since (g : Gang) (m : Mask) (d : Dest) (i : Nat) : (g.pushPending m d i).since = g.since := by
  simp only [Gang.pushPending, Gang.pushCells]; split <;> rfl
@[simp] theorem Gang.arm_since (g : Gang) (t : Tok) : (g.arm t).since = g.since := by
  cases t <;> rfl
@[simp] theorem Gang.goto_out (g : Gang) (pc : Addr) (h : Nat) : (g.goto pc h).out = g.out := rfl
@[simp] theorem Gang.jump_out (g : Gang) (pc : Addr) : (g.jump pc).out = g.out := rfl
@[simp] theorem Gang.advance_out (g : Gang) : g.advance.out = g.out := by
  unfold Gang.advance; split <;> rfl
@[simp] theorem Gang.push_out (g : Gang) (m : Mask) (d : Dest) (f : Nat → Word) : (g.push m d f).out = g.out := by
  simp only [Gang.push, Gang.pushCells]; split <;> rfl
@[simp] theorem Gang.pushPending_out (g : Gang) (m : Mask) (d : Dest) (i : Nat) : (g.pushPending m d i).out = g.out := by
  simp only [Gang.pushPending, Gang.pushCells]; split <;> rfl
@[simp] theorem Gang.goto_tvec (g : Gang) (pc : Addr) (h : Nat) : (g.goto pc h).tvec = g.tvec := rfl
@[simp] theorem Gang.jump_tvec (g : Gang) (pc : Addr) : (g.jump pc).tvec = g.tvec := rfl
@[simp] theorem Gang.advance_tvec (g : Gang) : g.advance.tvec = g.tvec := by
  unfold Gang.advance; split <;> rfl
@[simp] theorem Gang.push_tvec (g : Gang) (m : Mask) (d : Dest) (f : Nat → Word) : (g.push m d f).tvec = g.tvec := by
  simp only [Gang.push, Gang.pushCells]; split <;> rfl
@[simp] theorem Gang.pushPending_tvec (g : Gang) (m : Mask) (d : Dest) (i : Nat) : (g.pushPending m d i).tvec = g.tvec := by
  simp only [Gang.pushPending, Gang.pushCells]; split <;> rfl
@[simp] theorem Gang.arm_tvec (g : Gang) (t : Tok) : (g.arm t).tvec = g.tvec := by
  cases t <;> rfl
@[simp] theorem Gang.goto_tcause (g : Gang) (pc : Addr) (h : Nat) : (g.goto pc h).tcause = g.tcause := rfl
@[simp] theorem Gang.jump_tcause (g : Gang) (pc : Addr) : (g.jump pc).tcause = g.tcause := rfl
@[simp] theorem Gang.advance_tcause (g : Gang) : g.advance.tcause = g.tcause := by
  unfold Gang.advance; split <;> rfl
@[simp] theorem Gang.push_tcause (g : Gang) (m : Mask) (d : Dest) (f : Nat → Word) : (g.push m d f).tcause = g.tcause := by
  simp only [Gang.push, Gang.pushCells]; split <;> rfl
@[simp] theorem Gang.pushPending_tcause (g : Gang) (m : Mask) (d : Dest) (i : Nat) : (g.pushPending m d i).tcause = g.tcause := by
  simp only [Gang.pushPending, Gang.pushCells]; split <;> rfl
@[simp] theorem Gang.arm_tcause (g : Gang) (t : Tok) : (g.arm t).tcause = g.tcause := by
  cases t <;> rfl
@[simp] theorem Gang.goto_tepc (g : Gang) (pc : Addr) (h : Nat) : (g.goto pc h).tepc = g.tepc := rfl
@[simp] theorem Gang.jump_tepc (g : Gang) (pc : Addr) : (g.jump pc).tepc = g.tepc := rfl
@[simp] theorem Gang.advance_tepc (g : Gang) : g.advance.tepc = g.tepc := by
  unfold Gang.advance; split <;> rfl
@[simp] theorem Gang.push_tepc (g : Gang) (m : Mask) (d : Dest) (f : Nat → Word) : (g.push m d f).tepc = g.tepc := by
  simp only [Gang.push, Gang.pushCells]; split <;> rfl
@[simp] theorem Gang.pushPending_tepc (g : Gang) (m : Mask) (d : Dest) (i : Nat) : (g.pushPending m d i).tepc = g.tepc := by
  simp only [Gang.pushPending, Gang.pushCells]; split <;> rfl
@[simp] theorem Gang.arm_tepc (g : Gang) (t : Tok) : (g.arm t).tepc = g.tepc := by
  cases t <;> rfl
@[simp] theorem Gang.goto_tval (g : Gang) (pc : Addr) (h : Nat) : (g.goto pc h).tval = g.tval := rfl
@[simp] theorem Gang.jump_tval (g : Gang) (pc : Addr) : (g.jump pc).tval = g.tval := rfl
@[simp] theorem Gang.advance_tval (g : Gang) : g.advance.tval = g.tval := by
  unfold Gang.advance; split <;> rfl
@[simp] theorem Gang.push_tval (g : Gang) (m : Mask) (d : Dest) (f : Nat → Word) : (g.push m d f).tval = g.tval := by
  simp only [Gang.push, Gang.pushCells]; split <;> rfl
@[simp] theorem Gang.pushPending_tval (g : Gang) (m : Mask) (d : Dest) (i : Nat) : (g.pushPending m d i).tval = g.tval := by
  simp only [Gang.pushPending, Gang.pushCells]; split <;> rfl
@[simp] theorem Gang.arm_tval (g : Gang) (t : Tok) : (g.arm t).tval = g.tval := by
  cases t <;> rfl
@[simp] theorem Gang.goto_tlanes (g : Gang) (pc : Addr) (h : Nat) : (g.goto pc h).tlanes = g.tlanes := rfl
@[simp] theorem Gang.jump_tlanes (g : Gang) (pc : Addr) : (g.jump pc).tlanes = g.tlanes := rfl
@[simp] theorem Gang.advance_tlanes (g : Gang) : g.advance.tlanes = g.tlanes := by
  unfold Gang.advance; split <;> rfl
@[simp] theorem Gang.push_tlanes (g : Gang) (m : Mask) (d : Dest) (f : Nat → Word) : (g.push m d f).tlanes = g.tlanes := by
  simp only [Gang.push, Gang.pushCells]; split <;> rfl
@[simp] theorem Gang.pushPending_tlanes (g : Gang) (m : Mask) (d : Dest) (i : Nat) : (g.pushPending m d i).tlanes = g.tlanes := by
  simp only [Gang.pushPending, Gang.pushCells]; split <;> rfl
@[simp] theorem Gang.arm_tlanes (g : Gang) (t : Tok) : (g.arm t).tlanes = g.tlanes := by
  cases t <;> rfl
@[simp] theorem Gang.goto_tmode (g : Gang) (pc : Addr) (h : Nat) : (g.goto pc h).tmode = g.tmode := rfl
@[simp] theorem Gang.jump_tmode (g : Gang) (pc : Addr) : (g.jump pc).tmode = g.tmode := rfl
@[simp] theorem Gang.advance_tmode (g : Gang) : g.advance.tmode = g.tmode := by
  unfold Gang.advance; split <;> rfl
@[simp] theorem Gang.push_tmode (g : Gang) (m : Mask) (d : Dest) (f : Nat → Word) : (g.push m d f).tmode = g.tmode := by
  simp only [Gang.push, Gang.pushCells]; split <;> rfl
@[simp] theorem Gang.pushPending_tmode (g : Gang) (m : Mask) (d : Dest) (i : Nat) : (g.pushPending m d i).tmode = g.tmode := by
  simp only [Gang.pushPending, Gang.pushCells]; split <;> rfl
@[simp] theorem Gang.arm_tmode (g : Gang) (t : Tok) : (g.arm t).tmode = g.tmode := by
  cases t <;> rfl
@[simp] theorem Gang.goto_pendfault (g : Gang) (pc : Addr) (h : Nat) : (g.goto pc h).pendfault = g.pendfault := rfl
@[simp] theorem Gang.jump_pendfault (g : Gang) (pc : Addr) : (g.jump pc).pendfault = g.pendfault := rfl
@[simp] theorem Gang.advance_pendfault (g : Gang) : g.advance.pendfault = g.pendfault := by
  unfold Gang.advance; split <;> rfl
@[simp] theorem Gang.push_pendfault (g : Gang) (m : Mask) (d : Dest) (f : Nat → Word) : (g.push m d f).pendfault = g.pendfault := by
  simp only [Gang.push, Gang.pushCells]; split <;> rfl
@[simp] theorem Gang.pushPending_pendfault (g : Gang) (m : Mask) (d : Dest) (i : Nat) : (g.pushPending m d i).pendfault = g.pendfault := by
  simp only [Gang.pushPending, Gang.pushCells]; split <;> rfl
@[simp] theorem Gang.arm_pendfault (g : Gang) (t : Tok) : (g.arm t).pendfault = g.pendfault := by
  cases t <;> rfl
@[simp] theorem Gang.goto_lost (g : Gang) (pc : Addr) (h : Nat) : (g.goto pc h).lost = g.lost := rfl
@[simp] theorem Gang.jump_lost (g : Gang) (pc : Addr) : (g.jump pc).lost = g.lost := rfl
@[simp] theorem Gang.advance_lost (g : Gang) : g.advance.lost = g.lost := by
  unfold Gang.advance; split <;> rfl
@[simp] theorem Gang.push_lost (g : Gang) (m : Mask) (d : Dest) (f : Nat → Word) : (g.push m d f).lost = g.lost := by
  simp only [Gang.push, Gang.pushCells]; split <;> rfl
@[simp] theorem Gang.pushPending_lost (g : Gang) (m : Mask) (d : Dest) (i : Nat) : (g.pushPending m d i).lost = g.lost := by
  simp only [Gang.pushPending, Gang.pushCells]; split <;> rfl
@[simp] theorem Gang.arm_lost (g : Gang) (t : Tok) : (g.arm t).lost = g.lost := by
  cases t <;> rfl
@[simp] theorem Gang.goto_owed (g : Gang) (pc : Addr) (h : Nat) : (g.goto pc h).owed = g.owed := rfl
@[simp] theorem Gang.jump_owed (g : Gang) (pc : Addr) : (g.jump pc).owed = g.owed := rfl
@[simp] theorem Gang.advance_owed (g : Gang) : g.advance.owed = g.owed := by
  unfold Gang.advance; split <;> rfl
@[simp] theorem Gang.push_owed (g : Gang) (m : Mask) (d : Dest) (f : Nat → Word) : (g.push m d f).owed = g.owed := by
  simp only [Gang.push, Gang.pushCells]; split <;> rfl
@[simp] theorem Gang.pushPending_owed (g : Gang) (m : Mask) (d : Dest) (i : Nat) : (g.pushPending m d i).owed = g.owed := by
  simp only [Gang.pushPending, Gang.pushCells]; split <;> rfl
@[simp] theorem Gang.arm_owed (g : Gang) (t : Tok) : (g.arm t).owed = g.owed := by
  cases t <;> rfl
@[simp] theorem Gang.push_wait (g : Gang) (m : Mask) (d : Dest) (f : Nat → Word) : (g.push m d f).wait = g.wait := by
  simp only [Gang.push, Gang.pushCells]; split <;> rfl
@[simp] theorem Gang.pushPending_wait (g : Gang) (m : Mask) (d : Dest) (i : Nat) : (g.pushPending m d i).wait = g.wait := by
  simp only [Gang.pushPending, Gang.pushCells]; split <;> rfl
@[simp] theorem Gang.arm_wait (g : Gang) (t : Tok) : (g.arm t).wait = g.wait := by
  cases t <;> rfl
@[simp] theorem Gang.goto_hold (g : Gang) (pc : Addr) (h : Nat) : (g.goto pc h).hold = g.hold := rfl
@[simp] theorem Gang.jump_hold (g : Gang) (pc : Addr) : (g.jump pc).hold = g.hold := rfl
@[simp] theorem Gang.advance_hold (g : Gang) : g.advance.hold = g.hold := by
  unfold Gang.advance; split <;> rfl
@[simp] theorem Gang.push_hold (g : Gang) (m : Mask) (d : Dest) (f : Nat → Word) : (g.push m d f).hold = g.hold := by
  simp only [Gang.push, Gang.pushCells]; split <;> rfl
@[simp] theorem Gang.pushPending_hold (g : Gang) (m : Mask) (d : Dest) (i : Nat) : (g.pushPending m d i).hold = g.hold := by
  simp only [Gang.pushPending, Gang.pushCells]; split <;> rfl
@[simp] theorem Gang.arm_hold (g : Gang) (t : Tok) : (g.arm t).hold = g.hold := by
  cases t <;> rfl
@[simp] theorem Gang.goto_lr (g : Gang) (pc : Addr) (h : Nat) : (g.goto pc h).lr = g.lr := rfl
@[simp] theorem Gang.jump_lr (g : Gang) (pc : Addr) : (g.jump pc).lr = g.lr := rfl
@[simp] theorem Gang.advance_lr (g : Gang) : g.advance.lr = g.lr := by
  unfold Gang.advance; split <;> rfl
@[simp] theorem Gang.push_lr (g : Gang) (m : Mask) (d : Dest) (f : Nat → Word) : (g.push m d f).lr = g.lr := by
  simp only [Gang.push, Gang.pushCells]; split <;> rfl
@[simp] theorem Gang.pushPending_lr (g : Gang) (m : Mask) (d : Dest) (i : Nat) : (g.pushPending m d i).lr = g.lr := by
  simp only [Gang.pushPending, Gang.pushCells]; split <;> rfl
@[simp] theorem Gang.arm_lr (g : Gang) (t : Tok) : (g.arm t).lr = g.lr := by
  cases t <;> rfl
@[simp] theorem Gang.goto_lrv (g : Gang) (pc : Addr) (h : Nat) : (g.goto pc h).lrv = g.lrv := rfl
@[simp] theorem Gang.jump_lrv (g : Gang) (pc : Addr) : (g.jump pc).lrv = g.lrv := rfl
@[simp] theorem Gang.advance_lrv (g : Gang) : g.advance.lrv = g.lrv := by
  unfold Gang.advance; split <;> rfl
@[simp] theorem Gang.push_lrv (g : Gang) (m : Mask) (d : Dest) (f : Nat → Word) : (g.push m d f).lrv = g.lrv := by
  simp only [Gang.push, Gang.pushCells]; split <;> rfl
@[simp] theorem Gang.pushPending_lrv (g : Gang) (m : Mask) (d : Dest) (i : Nat) : (g.pushPending m d i).lrv = g.lrv := by
  simp only [Gang.pushPending, Gang.pushCells]; split <;> rfl
@[simp] theorem Gang.arm_lrv (g : Gang) (t : Tok) : (g.arm t).lrv = g.lrv := by
  cases t <;> rfl
@[simp] theorem Gang.goto_spin (g : Gang) (pc : Addr) (h : Nat) : (g.goto pc h).spin = g.spin := rfl
@[simp] theorem Gang.jump_spin (g : Gang) (pc : Addr) : (g.jump pc).spin = g.spin := rfl
@[simp] theorem Gang.advance_spin (g : Gang) : g.advance.spin = g.spin := by
  unfold Gang.advance; split <;> rfl
@[simp] theorem Gang.push_spin (g : Gang) (m : Mask) (d : Dest) (f : Nat → Word) : (g.push m d f).spin = g.spin := by
  simp only [Gang.push, Gang.pushCells]; split <;> rfl
@[simp] theorem Gang.pushPending_spin (g : Gang) (m : Mask) (d : Dest) (i : Nat) : (g.pushPending m d i).spin = g.spin := by
  simp only [Gang.pushPending, Gang.pushCells]; split <;> rfl
@[simp] theorem Gang.arm_spin (g : Gang) (t : Tok) : (g.arm t).spin = g.spin := by
  cases t <;> rfl
@[simp] theorem Gang.goto_after (g : Gang) (pc : Addr) (h : Nat) : (g.goto pc h).after = g.after := rfl
@[simp] theorem Gang.jump_after (g : Gang) (pc : Addr) : (g.jump pc).after = g.after := rfl
@[simp] theorem Gang.advance_after (g : Gang) : g.advance.after = g.after := by
  unfold Gang.advance; split <;> rfl
@[simp] theorem Gang.push_after (g : Gang) (m : Mask) (d : Dest) (f : Nat → Word) : (g.push m d f).after = g.after := by
  simp only [Gang.push, Gang.pushCells]; split <;> rfl
@[simp] theorem Gang.pushPending_after (g : Gang) (m : Mask) (d : Dest) (i : Nat) : (g.pushPending m d i).after = g.after := by
  simp only [Gang.pushPending, Gang.pushCells]; split <;> rfl
@[simp] theorem Gang.arm_after (g : Gang) (t : Tok) : (g.arm t).after = g.after := by
  cases t <;> rfl
@[simp] theorem Gang.goto_afterSt (g : Gang) (pc : Addr) (h : Nat) : (g.goto pc h).afterSt = g.afterSt := rfl
@[simp] theorem Gang.jump_afterSt (g : Gang) (pc : Addr) : (g.jump pc).afterSt = g.afterSt := rfl
@[simp] theorem Gang.advance_afterSt (g : Gang) : g.advance.afterSt = g.afterSt := by
  unfold Gang.advance; split <;> rfl
@[simp] theorem Gang.push_afterSt (g : Gang) (m : Mask) (d : Dest) (f : Nat → Word) : (g.push m d f).afterSt = g.afterSt := by
  simp only [Gang.push, Gang.pushCells]; split <;> rfl
@[simp] theorem Gang.pushPending_afterSt (g : Gang) (m : Mask) (d : Dest) (i : Nat) : (g.pushPending m d i).afterSt = g.afterSt := by
  simp only [Gang.pushPending, Gang.pushCells]; split <;> rfl
@[simp] theorem Gang.arm_afterSt (g : Gang) (t : Tok) : (g.arm t).afterSt = g.afterSt := by
  cases t <;> rfl
@[simp] theorem Gang.goto_hb (g : Gang) (pc : Addr) (h : Nat) : (g.goto pc h).hb = g.hb := rfl
@[simp] theorem Gang.jump_hb (g : Gang) (pc : Addr) : (g.jump pc).hb = g.hb := rfl
@[simp] theorem Gang.advance_hb (g : Gang) : g.advance.hb = g.hb := by
  unfold Gang.advance; split <;> rfl
@[simp] theorem Gang.push_hb (g : Gang) (m : Mask) (d : Dest) (f : Nat → Word) : (g.push m d f).hb = g.hb := by
  simp only [Gang.push, Gang.pushCells]; split <;> rfl
@[simp] theorem Gang.pushPending_hb (g : Gang) (m : Mask) (d : Dest) (i : Nat) : (g.pushPending m d i).hb = g.hb := by
  simp only [Gang.pushPending, Gang.pushCells]; split <;> rfl
@[simp] theorem Gang.arm_hb (g : Gang) (t : Tok) : (g.arm t).hb = g.hb := by
  cases t <;> rfl
@[simp] theorem Gang.goto_seen (g : Gang) (pc : Addr) (h : Nat) : (g.goto pc h).seen = g.seen := rfl
@[simp] theorem Gang.jump_seen (g : Gang) (pc : Addr) : (g.jump pc).seen = g.seen := rfl
@[simp] theorem Gang.advance_seen (g : Gang) : g.advance.seen = g.seen := by
  unfold Gang.advance; split <;> rfl
@[simp] theorem Gang.push_seen (g : Gang) (m : Mask) (d : Dest) (f : Nat → Word) : (g.push m d f).seen = g.seen := by
  simp only [Gang.push, Gang.pushCells]; split <;> rfl
@[simp] theorem Gang.pushPending_seen (g : Gang) (m : Mask) (d : Dest) (i : Nat) : (g.pushPending m d i).seen = g.seen := by
  simp only [Gang.pushPending, Gang.pushCells]; split <;> rfl
@[simp] theorem Gang.arm_seen (g : Gang) (t : Tok) : (g.arm t).seen = g.seen := by
  cases t <;> rfl
@[simp] theorem Gang.goto_seenRel (g : Gang) (pc : Addr) (h : Nat) : (g.goto pc h).seenRel = g.seenRel := rfl
@[simp] theorem Gang.jump_seenRel (g : Gang) (pc : Addr) : (g.jump pc).seenRel = g.seenRel := rfl
@[simp] theorem Gang.advance_seenRel (g : Gang) : g.advance.seenRel = g.seenRel := by
  unfold Gang.advance; split <;> rfl
@[simp] theorem Gang.push_seenRel (g : Gang) (m : Mask) (d : Dest) (f : Nat → Word) : (g.push m d f).seenRel = g.seenRel := by
  simp only [Gang.push, Gang.pushCells]; split <;> rfl
@[simp] theorem Gang.pushPending_seenRel (g : Gang) (m : Mask) (d : Dest) (i : Nat) : (g.pushPending m d i).seenRel = g.seenRel := by
  simp only [Gang.pushPending, Gang.pushCells]; split <;> rfl
@[simp] theorem Gang.arm_seenRel (g : Gang) (t : Tok) : (g.arm t).seenRel = g.seenRel := by
  cases t <;> rfl
@[simp] theorem Gang.goto_fences (g : Gang) (pc : Addr) (h : Nat) : (g.goto pc h).fences = g.fences := rfl
@[simp] theorem Gang.jump_fences (g : Gang) (pc : Addr) : (g.jump pc).fences = g.fences := rfl
@[simp] theorem Gang.advance_fences (g : Gang) : g.advance.fences = g.fences := by
  unfold Gang.advance; split <;> rfl
@[simp] theorem Gang.push_fences (g : Gang) (m : Mask) (d : Dest) (f : Nat → Word) : (g.push m d f).fences = g.fences := by
  simp only [Gang.push, Gang.pushCells]; split <;> rfl
@[simp] theorem Gang.pushPending_fences (g : Gang) (m : Mask) (d : Dest) (i : Nat) : (g.pushPending m d i).fences = g.fences := by
  simp only [Gang.pushPending, Gang.pushCells]; split <;> rfl
@[simp] theorem Gang.arm_fences (g : Gang) (t : Tok) : (g.arm t).fences = g.fences := by
  cases t <;> rfl
@[simp] theorem Gang.goto_seenIds (g : Gang) (pc : Addr) (h : Nat) : (g.goto pc h).seenIds = g.seenIds := rfl
@[simp] theorem Gang.jump_seenIds (g : Gang) (pc : Addr) : (g.jump pc).seenIds = g.seenIds := rfl
@[simp] theorem Gang.advance_seenIds (g : Gang) : g.advance.seenIds = g.seenIds := by
  unfold Gang.advance; split <;> rfl
@[simp] theorem Gang.push_seenIds (g : Gang) (m : Mask) (d : Dest) (f : Nat → Word) : (g.push m d f).seenIds = g.seenIds := by
  simp only [Gang.push, Gang.pushCells]; split <;> rfl
@[simp] theorem Gang.pushPending_seenIds (g : Gang) (m : Mask) (d : Dest) (i : Nat) : (g.pushPending m d i).seenIds = g.seenIds := by
  simp only [Gang.pushPending, Gang.pushCells]; split <;> rfl
@[simp] theorem Gang.arm_seenIds (g : Gang) (t : Tok) : (g.arm t).seenIds = g.seenIds := by
  cases t <;> rfl
@[simp] theorem Gang.goto_away (g : Gang) (pc : Addr) (h : Nat) : (g.goto pc h).away = g.away := rfl
@[simp] theorem Gang.jump_away (g : Gang) (pc : Addr) : (g.jump pc).away = g.away := rfl
@[simp] theorem Gang.advance_away (g : Gang) : g.advance.away = g.away := by
  unfold Gang.advance; split <;> rfl
@[simp] theorem Gang.push_away (g : Gang) (m : Mask) (d : Dest) (f : Nat → Word) : (g.push m d f).away = g.away := by
  simp only [Gang.push, Gang.pushCells]; split <;> rfl
@[simp] theorem Gang.pushPending_away (g : Gang) (m : Mask) (d : Dest) (i : Nat) : (g.pushPending m d i).away = g.away := by
  simp only [Gang.pushPending, Gang.pushCells]; split <;> rfl
@[simp] theorem Gang.arm_away (g : Gang) (t : Tok) : (g.arm t).away = g.away := by
  cases t <;> rfl

@[simp] theorem Gang.advance_wait (g : Gang) : g.advance.wait = .ready := by
  unfold Gang.advance; split <;> rfl

@[simp] theorem Gang.arm_none (g : Gang) : g.arm none = g := rfl

@[simp] theorem Gang.tokFull_none (g : Gang) : g.tokFull none = false := rfl

/-! ### Records after an update -/

theorem State.find_setGang {p : Gang → Bool} {l : List Gang} {g g' : Gang} (h : l.find? p = some g) (hid : g'.gid = g.gid)
    (hp : p g' = true) (hn : ∀ x ∈ l, x.gid = g.gid → p x = true) :
    (l.map fun x => if x.gid = g'.gid then g' else x).find? p = some g' := by
  induction l with
  | nil => simp at h
  | cons a r ih =>
    by_cases ha : a.gid = g'.gid
    · simp [ha, hp]
    · have hpa : p a = false := by
        by_contra hpa
        have : g = a := by simpa [List.find?_cons, show p a = true by simpa using hpa] using h.symm
        exact ha (by rw [hid, this])
      have h' : r.find? p = some g := by simpa [List.find?_cons, hpa] using h
      simp only [List.map_cons, if_neg ha, List.find?_cons, hpa]
      exact ih h' fun x hx => hn x (List.mem_cons_of_mem _ hx)

/-- The gang after it has been replaced. -/
@[simp] theorem State.gangOpt_setGang {s : State} {g g' : Gang} {i : Nat} (h : s.gang? i = some g) (hid : g'.gid = g.gid) :
    (s.setGang g').gang? i = some g' := by
  have hi : g.gid = i := by simpa using List.find?_some h
  refine State.find_setGang h hid (by simp [hid, hi]) ?_
  intro x _ hx
  simp [hx, hi]

/-- Two replacements of one gang: the second stands. -/
@[simp] theorem State.setGang_setGang (s : State) {g g' : Gang} (h : g'.gid = g.gid) : (s.setGang g).setGang g' = s.setGang g' := by
  simp only [State.setGang, List.map_map]
  congr 1
  apply List.map_congr_left
  intro x _
  by_cases hx : x.gid = g.gid <;> simp [hx, h]

@[simp] theorem State.setGang_memOk (s : State) (g : Gang) : (s.setGang g).MemOk ↔ s.MemOk := Iff.rfl

/-! ### Instructions whose operands can be read -/

/-- A per-lane instruction that pushes a value known at issue (04:R88). -/
theorem State.value_ready {s : State} {g : Gang} {gd : Guard} {os : List Opnd} (d : Dest) (f : Gang → Nat → Word) (preds : Bool)
    (hg : s.curGang = some g) (h : g.Ready gd os) :
    s.value gd d os f preds = .next (s.setGang (g.push (g.acts gd) d (f g)).advance) := by
  simp [State.value, State.perLane_ready _ _ hg h, State.done]

/-- An instruction that acts once, by the premise of the claims. -/
theorem State.Once.runs {s : State} {g : Gang} {gd : Guard} {os : List Opnd} {l : Nat} (h : s.Once g gd os l) (p : Bool)
    (k : Gang → Mask → Nat → Out) : s.once gd os p k = k g (g.acts gd) l :=
  State.once_ready p k h.cur h.ready h.low

/-! ### Traps (14:R292) -/

/-- A trap that goes to the gang's handler: the frame written, the trap registers set, the gang at TVEC. -/
theorem State.takeTrap_handler {s : State} {g : Gang} {t : TrapInfo} {e : TlbEntry} (hl : s.lateOpen g.gid = false)
    (he : s.lookup g.core (s.asidOf g.brick.wall) (s.recordVa g + 0x6000) .write = some e)
    (hc : causeToSystem t.cause = false ∨ t.forced = true) (hv : g.tvec ≠ 0) (hm : g.tmode = false)
    (hb : g.frameBad = none) (hp : s.portBusy (e.phys (footOf g.core) (s.recordVa g + 0x6000)) = false) :
    s.takeTrap g t false = .next (s.enterHandler g (e.phys (footOf g.core) (s.recordVa g + 0x6000)) t) := by
  have h : ((causeToSystem t.cause && !t.forced) || decide (g.tvec = 0) || g.tmode) = false := by
    rcases hc with hc | hc <;> simp [hc, hm] <;> exact hv
  simp only [State.takeTrap, hl, he, Bool.false_eq_true, if_false, h, hb, hp]

/-- A trap that goes to system software: recorded, and the gang held. -/
theorem State.takeTrap_system {s : State} {g : Gang} {t : TrapInfo} {e : TlbEntry} (hl : s.lateOpen g.gid = false)
    (he : s.lookup g.core (s.asidOf g.brick.wall) (s.recordVa g + 0x6000) .write = some e)
    (h : causeToSystem t.cause = true ∧ t.forced = false ∨ g.tvec = 0 ∨ g.tmode = true) :
    s.takeTrap g t false = .next (s.deliverTrap g t) := by
  have h : ((causeToSystem t.cause && !t.forced) || decide (g.tvec = 0) || g.tmode) = true := by
    rcases h with ⟨h1, h2⟩ | h | h <;> simp [*]
  simp only [State.takeTrap, hl, he, Bool.false_eq_true, if_false, h, if_true]

/-- While values are open the gang waits at the interlock. -/
theorem State.takeTrap_waits {s : State} {g : Gang} {t : TrapInfo} {b : Bool} (hl : s.lateOpen g.gid = true) :
    s.takeTrap g t b = .next (s.setGang { g with wait := .trapping t b }) := by
  simp [State.takeTrap, hl, State.stall]

end Sys2Proof.Machine
end

