-- ==== Sys2Proof/Laws/Memory.lean ====
section
/-! SUPPORT. Memory: a read after a write, the canonical form, and what the writes of the machine leave in every view. -/

namespace Sys2Proof.Machine

open Sys2Proof

/-! ### Vectors by index -/

@[simp] theorem vget_vset_same {α : Type} {n : Nat} (v : Vector α (n + 1)) (i : Nat) (x : α) : vget (vset v i x) i = x := by
  simp [vget, vset]

theorem vget_vset_ne {α : Type} {n : Nat} (v : Vector α (n + 1)) {i j : Nat} (x : α) (h : j % (n + 1) ≠ i % (n + 1)) :
    vget (vset v i x) j = vget v j := by
  simp only [vget, vset]
  exact Vector.getElem_set_ne _ _ (by omega)

@[simp] theorem vget_map {α β : Type} {n : Nat} (v : Vector α (n + 1)) (f : α → β) (i : Nat) : vget (v.map f) i = f (vget v i) := by
  simp [vget]

@[simp] theorem vset_vset {α : Type} {n : Nat} (v : Vector α (n + 1)) (i : Nat) (x y : α) : vset (vset v i x) i y = vset v i y := by
  simp [vset]

/-! ### Reads of lists of cells -/

@[simp] theorem Memory.read_nil (a : Nat) : Memory.read [] a = Memory.default := rfl

theorem Memory.read_none {m : Memory} {a : Nat} (h : ∀ c ∈ m, c.1 ≠ a) : m.read a = Memory.default := by
  induction m with
  | nil => rfl
  | cons c r ih =>
    simp only [Memory.read, if_neg (h c (by simp))]
    exact ih fun d hd => h d (by simp [hd])

theorem Memory.read_append_left {m n : Memory} {a : Nat} (h : ∀ c ∈ n, c.1 ≠ a) : Memory.read (m ++ n) a = m.read a := by
  induction m with
  | nil => simpa using Memory.read_none h
  | cons c r ih => simp only [List.cons_append, Memory.read, ih]

theorem Memory.read_append_right {m n : Memory} {a : Nat} (h : ∀ c ∈ m, c.1 ≠ a) : Memory.read (m ++ n) a = n.read a := by
  induction m with
  | nil => rfl
  | cons c r ih =>
    simp only [List.cons_append, Memory.read, if_neg (h c (by simp))]
    exact ih fun d hd => h d (by simp [hd])

theorem Memory.read_filter {m : Memory} {p : Host.Cell → Bool} {a : Nat} (h : ∀ b, p (a, b) = true) :
    Memory.read (m.filter p) a = m.read a := by
  induction m with
  | nil => rfl
  | cons c r ih =>
    obtain ⟨x, b⟩ := c
    by_cases hx : x = a
    · subst hx; simp [h, Memory.read]
    · by_cases hp : p (x, b) = true
      · simp [hp, Memory.read, hx, ih]
      · simp [hp, Memory.read, hx, ih]

theorem Memory.mem_cells {a : Nat} {bs : List Byte} {c : Host.Cell} (h : c ∈ Memory.cells a bs) :
    a ≤ c.1 ∧ c.1 < a + bs.length ∧ c.2 ≠ Memory.default := by
  induction bs generalizing a with
  | nil => simp [Memory.cells] at h
  | cons b r ih =>
    have tail : c ∈ Memory.cells (a + 1) r → a ≤ c.1 ∧ c.1 < a + (b :: r).length ∧ c.2 ≠ Memory.default := fun h => by
      obtain ⟨h1, h2, h3⟩ := ih h
      exact ⟨by omega, by simp only [List.length_cons]; omega, h3⟩
    simp only [Memory.cells] at h
    split at h
    · exact tail h
    · rename_i hb
      rcases List.mem_cons.1 h with rfl | h
      · exact ⟨Nat.le_refl _, by simp, hb⟩
      · exact tail h

theorem Memory.read_cells {a x : Nat} {bs : List Byte} (h : a ≤ x) (h' : x < a + bs.length) :
    Memory.read (Memory.cells a bs) x = bs.getD (x - a) 0 := by
  induction bs generalizing a with
  | nil => simp at h'; omega
  | cons b r ih =>
    simp only [List.length_cons] at h'
    rcases Nat.eq_or_lt_of_le h with rfl | h
    · simp only [Memory.cells]
      split
      · rename_i hb
        rw [Memory.read_none fun c hc => by have := Memory.mem_cells hc; omega]
        simpa using hb.symm
      · simp [Memory.read]
    · have e : x - a = (x - (a + 1)) + 1 := by omega
      simp only [Memory.cells]
      split
      · rw [ih (by omega) (by omega), e]; rfl
      · simp only [Memory.read, if_neg (show ¬ a = x by omega)]
        rw [ih (by omega) (by omega), e]; rfl

/-- What every address reads after a write. -/
theorem Memory.read_write (m : Memory) (a : Nat) (bs : List Byte) (x : Nat) :
    (m.write a bs).read x = if a ≤ x ∧ x < a + bs.length then bs.getD (x - a) 0 else m.read x := by
  unfold Memory.write
  by_cases h1 : x < a
  · rw [if_neg (by omega), Memory.read_append_left, Memory.read_filter (by simpa using h1)]
    intro c hc
    rcases List.mem_append.1 hc with hc | hc
    · have := Memory.mem_cells hc; omega
    · have := (List.mem_filter.1 hc).2; simp at this; omega
  · rw [Memory.read_append_right fun c hc => by have := (List.mem_filter.1 hc).2; simp at this; omega]
    by_cases h2 : x < a + bs.length
    · rw [if_pos (by omega), Memory.read_append_left fun c hc => by have := (List.mem_filter.1 hc).2; simp at this; omega]
      exact Memory.read_cells (by omega) h2
    · rw [if_neg (by omega), Memory.read_append_right fun c hc => by have := Memory.mem_cells hc; omega]
      exact Memory.read_filter (by intro b; simp; omega)

/-! ### The canonical form -/

theorem Memory.cells_pairwise (a : Nat) (bs : List Byte) : (Memory.cells a bs).Pairwise fun x y => x.1 < y.1 := by
  induction bs generalizing a with
  | nil => simp [Memory.cells]
  | cons b r ih =>
    simp only [Memory.cells]
    split
    · exact ih (a + 1)
    · refine List.pairwise_cons.2 ⟨fun c hc => ?_, ih (a + 1)⟩
      have := Memory.mem_cells hc
      show a < c.1
      omega

/-- A write keeps the canonical form. -/
theorem Memory.wf_write {m : Memory} (h : m.wf = true) (a : Nat) (bs : List Byte) : (m.write a bs).wf = true := by
  simp only [Memory.wf, Bool.and_eq_true, decide_eq_true_eq, List.all_eq_true, bne_iff_ne] at h ⊢
  obtain ⟨hp, hd⟩ := h
  refine ⟨List.pairwise_append.2 ⟨hp.filter _, List.pairwise_append.2 ⟨Memory.cells_pairwise a bs, hp.filter _, ?_⟩, ?_⟩, ?_⟩
  · intro c hc d hd
    have h1 := Memory.mem_cells hc
    have h2 := (List.mem_filter.1 hd).2
    simp at h2; omega
  · intro c hc d hd
    have h1 := (List.mem_filter.1 hc).2
    simp at h1
    rcases List.mem_append.1 hd with hd | hd
    · have := Memory.mem_cells hd; omega
    · have := (List.mem_filter.1 hd).2; simp at this; omega
  · intro c hc
    unfold Memory.write at hc
    rcases List.mem_append.1 hc with hc | hc
    · exact hd c (List.mem_filter.1 hc).1
    · rcases List.mem_append.1 hc with hc | hc
      · exact (Memory.mem_cells hc).2.2
      · exact hd c (List.mem_filter.1 hc).1

/-! ### Views -/

/-- Canonical memory, for every index of a footing. -/
theorem State.memOk_iff (s : State) : s.MemOk ↔ ∀ f, (s.mem f).wf = true := by
  constructor
  · intro h f
    exact h ⟨f % 4, by omega⟩
  · intro h f
    have h := h f.val
    have e : vget s.foots f.val = s.foots[f] := by
      simp only [vget, Nat.mod_eq_of_lt f.isLt]; rfl
    rwa [State.mem, e] at h

theorem State.mem_setMem (s : State) (f g : Nat) (m : Memory) :
    (s.setMem f m).mem g = if g % 4 = f % 4 then m else s.mem g := by
  simp only [State.mem, State.setMem, State.setFoot]
  split
  · rename_i h
    have : vget (vset s.foots f { vget s.foots f with mem := m }) g = vget (vset s.foots f { vget s.foots f with mem := m }) f := by
      simp only [vget]
      congr 1
    rw [this, vget_vset_same]
  · rename_i h
    rw [vget_vset_ne _ _ h]

theorem State.memOk_setMem {s : State} (h : s.MemOk) (f : Nat) {m : Memory} (hm : m.wf = true) : (s.setMem f m).MemOk := by
  rw [State.memOk_iff] at h ⊢
  intro g
  rw [State.mem_setMem]
  split
  · exact hm
  · exact h g

theorem foldl_foots {α : Type} {f : State → α → State} (h : ∀ s x, (f s x).foots = s.foots) (l : List α) (s : State) :
    (l.foldl f s).foots = s.foots := by
  induction l generalizing s with
  | nil => rfl
  | cons x r ih => exact (ih _).trans (h s x)

/-- A write that every footing sees at once. -/
theorem State.read_putAll (s : State) (pa : Nat) (bs : List Byte) (f x : Nat) :
    ((s.putAll pa bs).mem f).read x = if pa ≤ x ∧ x < pa + bs.length then bs.getD (x - pa) 0 else (s.mem f).read x := by
  simp [State.putAll, State.mem, Memory.read_write, State.wakeLines, State.clean]

theorem State.memOk_putAll {s : State} (h : s.MemOk) (pa : Nat) (bs : List Byte) : (s.putAll pa bs).MemOk := by
  rw [State.memOk_iff] at h ⊢
  intro f
  have := h f
  simp only [State.putAll, State.mem, vget_map, State.wakeLines, State.clean]
  exact Memory.wf_write this pa bs

/-! ### The bookkeeping of the slices -/

@[simp] theorem State.slicePut_foots (s : State) (k l : Nat) : (s.slicePut k l).foots = s.foots := by
  simp only [State.slicePut]
  generalize (if s.isLocal k l then 16 - (vget s.slices k).rways else (vget s.slices k).rways) = cap
  by_cases h : cap = 0
  · rw [if_pos h]
  · rw [if_neg h]

@[simp] theorem State.makeRoom_foots (s : State) (k : Nat) : (s.makeRoom k).foots = s.foots := by
  simp only [State.makeRoom]
  split
  · split <;> simp
  · rfl

@[simp] theorem State.touchLine_foots (s : State) (f pa : Nat) (w : Bool) : (s.touchLine f pa w).foots = s.foots := by
  have h : ∀ t : State, ∀ k l, (if w then t.dirty k l else t).foots = t.foots := fun t k l => by split <;> rfl
  simp only [State.touchLine, h]
  split
  · rfl
  · split
    · simp
    · simp [State.miss]

@[simp] theorem State.touch_foots (s : State) (f pa n : Nat) (w : Bool) : (s.touch f pa n w).foots = s.foots :=
  foldl_foots (fun _ _ => State.touchLine_foots ..) _ _

/-! ### What goes out beyond the device -/

/-- A message that is no write leaves the footings' memories. -/
theorem State.flitWrites_foots {s : State} {p : Nat} {xs : List Nat} (h : xs.head? ≠ some 1) :
    (s.flitWrites p xs).foots = s.foots := by
  unfold State.flitWrites
  split
  · simp at h
  · rfl

theorem State.sendFlit_foots {s : State} {p : Nat} {xs : List Nat} :
    (s.sendFlit p xs).foots = (s.flitWrites p xs).foots ∨ (s.sendFlit p xs).foots = s.foots := by
  simp only [State.sendFlit]
  split
  · exact .inl rfl
  · exact .inr rfl

theorem State.goOut_foots {s : State} {link pa : Nat} {msg : Nat → List Nat} (h : ∀ off, (msg off).head? ≠ some 1) :
    (s.goOut link pa msg).foots = s.foots := by
  unfold State.goOut
  split
  · rename_i off _
    rcases State.sendFlit_foots with e | e
    · exact e.trans (State.flitWrites_foots (h off))
    · exact e
  · rfl
  · rfl

@[simp] theorem State.readOut_foots (s : State) (part pa n : Nat) : (s.readOut part pa n).foots = s.foots :=
  foldl_foots (fun _ _ => State.goOut_foots (by simp)) _ _

/-- The address that a port and an offset name (22:R409). -/
theorem State.target_peer {s : State} {pa p off : Nat} (h : s.target pa = .peer p off) : 2 ^ 48 + 2 ^ 44 * p + off = pa := by
  unfold State.target at h
  split at h
  · split at h <;> cases h
  · split at h
    · cases h
    · split at h
      · cases h; omega
      · cases h

/-- A write that goes out leaves the canonical form, and what a byte reads is what it read before or the byte written to it. -/
def State.Wrote (s t : State) (pa : Nat) (bs : List Byte) : Prop :=
  (s.MemOk → t.MemOk) ∧ ∀ f x, (t.mem f).read x = (s.mem f).read x ∨
    pa ≤ x ∧ x < pa + bs.length ∧ (t.mem f).read x = bs.getD (x - pa) 0

theorem State.Wrote.of_foots {s t : State} {pa : Nat} {bs : List Byte} (h : t.foots = s.foots) : s.Wrote t pa bs := by
  refine ⟨fun hm => ?_, fun f x => .inl ?_⟩
  · unfold State.MemOk at hm ⊢; rwa [h]
  · simp only [State.mem, h]

theorem State.Wrote.trans {s t u : State} {pa : Nat} {bs : List Byte} (h : s.Wrote t pa bs) (h' : t.Wrote u pa bs) :
    s.Wrote u pa bs := by
  refine ⟨h'.1 ∘ h.1, fun f x => ?_⟩
  rcases h'.2 f x with e | e
  · rcases h.2 f x with d | ⟨a, b, d⟩
    · exact .inl (e.trans d)
    · exact .inr ⟨a, b, e.trans d⟩
  · exact .inr e

theorem State.wrote_goOut (s : State) (link pa a n : Nat) (bs : List Byte) :
    s.Wrote (s.goOut link (pa + a) fun off => 1 :: off :: ((bs.drop a).take n).map BitVec.toNat) pa bs := by
  unfold State.goOut
  split
  · rename_i p off hp
    have ha := State.target_peer hp
    rcases State.sendFlit_foots (s := s) (p := p) (xs := 1 :: off :: ((bs.drop a).take n).map BitVec.toNat) with e | e
    · refine State.Wrote.trans (t := s.flitWrites p (1 :: off :: ((bs.drop a).take n).map BitVec.toNat)) ?_ (.of_foots e)
      have hb : (((bs.drop a).take n).map BitVec.toNat).map (BitVec.ofNat 8) = (bs.drop a).take n := by
        rw [List.map_map]; simp [Function.comp_def]
      simp only [State.flitWrites, hb, ha]
      refine ⟨fun hm => State.memOk_putAll hm _ _, fun f x => ?_⟩
      rw [State.read_putAll]
      split
      · rename_i hx
        simp only [List.length_take, List.length_drop] at hx
        refine .inr ⟨by omega, by omega, ?_⟩
        simp only [List.getD_eq_getElem?_getD, List.getElem?_take, List.getElem?_drop]
        rw [if_pos (by omega), show a + (x - (pa + a)) = x - pa by omega]
      · exact .inl rfl
    · exact .of_foots e
  · exact .of_foots rfl
  · exact .of_foots rfl

theorem State.wrote_writeOut (s : State) (part pa : Nat) (bs : List Byte) : s.Wrote (s.writeOut part pa bs) pa bs := by
  unfold State.writeOut
  generalize lineParts pa bs.length = l
  induction l generalizing s with
  | nil => exact .of_foots rfl
  | cons y r ih => exact (State.wrote_goOut ..).trans (ih _)

theorem State.wrote_putAll (s : State) (pa : Nat) (bs : List Byte) : s.Wrote (s.putAll pa bs) pa bs := by
  refine ⟨fun hm => State.memOk_putAll hm _ _, fun f x => ?_⟩
  rw [State.read_putAll]
  split
  · rename_i h; exact .inr ⟨h.1, h.2, rfl⟩
  · exact .inl rfl

theorem State.wrote_writeBeyond (s : State) (part pa : Nat) (bs : List Byte) : s.Wrote (s.writeBeyond part pa bs) pa bs := by
  unfold State.writeBeyond
  split
  · exact State.wrote_writeOut ..
  · exact (State.wrote_putAll ..).trans (State.wrote_writeOut ..)

/-- Memory beyond the device that is no peer's has the bytes at once. -/
theorem State.read_writeBeyond {s : State} {part pa : Nat} {bs : List Byte} (h : s.portOf pa = none) (f x : Nat) :
    ((s.writeBeyond part pa bs).mem f).read x = if pa ≤ x ∧ x < pa + bs.length then bs.getD (x - pa) 0 else (s.mem f).read x := by
  have e : s.writeBeyond part pa bs = (s.putAll pa bs).writeOut part pa bs := by simp [State.writeBeyond, h]
  rw [e]
  rcases (State.wrote_writeOut (s.putAll pa bs) part pa bs).2 f x with d | ⟨a, b, d⟩
  · rw [d, State.read_putAll]
  · rw [d, if_pos ⟨a, b⟩]

/-- A write through the home slices, or to a port that is not enabled, which discards it (22:R422). -/
theorem State.wrote_writeAll (s : State) (part pa : Nat) (bs : List Byte) : s.Wrote (s.writeAll part pa bs) pa bs := by
  unfold State.writeAll
  split
  · exact .of_foots (foldl_foots (f := fun s _ => s.discard _) (fun _ _ => rfl) _ _)
  · split
    · exact (State.wrote_putAll ..).trans (.of_foots (State.touch_foots ..))
    · exact State.wrote_writeBeyond ..

/-- Memory that is no peer's has the bytes at once. -/
theorem State.read_writeAll {s : State} {part pa : Nat} {bs : List Byte} (h : s.portOf pa = none) (f x : Nat) :
    ((s.writeAll part pa bs).mem f).read x = if pa ≤ x ∧ x < pa + bs.length then bs.getD (x - pa) 0 else (s.mem f).read x := by
  have hp : s.portShut pa = false := by simp [State.portShut, h]
  simp only [State.writeAll, hp, Bool.false_eq_true, if_false]
  split
  · rw [← State.read_putAll]; simp only [State.mem, State.touch_foots]
  · exact State.read_writeBeyond h f x

/-- Every other byte reads as before. -/
theorem State.read_writeAll_ne {s : State} {part pa : Nat} {bs : List Byte} {f x : Nat} (h : ¬ (pa ≤ x ∧ x < pa + bs.length)) :
    ((s.writeAll part pa bs).mem f).read x = (s.mem f).read x := by
  rcases (State.wrote_writeAll s part pa bs).2 f x with e | ⟨a, b, -⟩
  · exact e
  · exact absurd ⟨a, b⟩ h

theorem State.memOk_writeAll {s : State} (h : s.MemOk) (part pa : Nat) (bs : List Byte) : (s.writeAll part pa bs).MemOk :=
  (State.wrote_writeAll ..).1 h

/-! ### Writes made on a footing -/

/-- The footings after a write made on one of them, where memory has a home slice: its own view has the bytes (20:R387). -/
theorem State.putWrite_foots {s : State} {a : Author} {part pa : Nat} {bs : List Byte} {msg : Option (Nat → List (List Nat))}
    (h : s.cachable pa = true) :
    (s.putWrite a part pa bs msg).foots = (s.setMem a.foot ((s.mem a.foot).write pa bs)).foots := by
  simp only [State.putWrite, h, Bool.not_true, Bool.false_eq_true, if_false]
  rfl

theorem State.read_putWrite {s : State} {a : Author} {part pa : Nat} {bs : List Byte} {msg : Option (Nat → List (List Nat))}
    (hc : s.cachable pa = true) (f x : Nat) :
    ((s.putWrite a part pa bs msg).mem f).read x =
      if f % 4 = a.foot % 4 ∧ pa ≤ x ∧ x < pa + bs.length then bs.getD (x - pa) 0 else (s.mem f).read x := by
  have e : (s.putWrite a part pa bs msg).mem f = (s.setMem a.foot ((s.mem a.foot).write pa bs)).mem f := by
    simp only [State.mem, State.putWrite_foots hc]
  rw [e, State.mem_setMem]
  by_cases hf : f % 4 = a.foot % 4
  · have e : s.mem a.foot = s.mem f := by simp only [State.mem, vget]; congr 1; simp [hf]
    simp [hf, e, Memory.read_write]
  · simp [hf]

theorem State.tagBytes_foots (s : State) (t : WTag) : (s.tagBytes t).foots = s.foots := rfl

/-- Memory of the host or of a peer has one copy (22:R410). -/
theorem State.wrote_putWrite {s : State} (a : Author) (part pa : Nat) (bs : List Byte) {msg : Option (Nat → List (List Nat))}
    (hmsg : ∀ m, msg = some m → ∀ off, ∀ x ∈ m off, x.head? ≠ some 1) : s.Wrote (s.putWrite a part pa bs msg) pa bs := by
  by_cases hc : s.cachable pa = true
  · have hf := State.putWrite_foots (a := a) (part := part) (bs := bs) (msg := msg) hc
    refine State.Wrote.trans (t := s.setMem a.foot ((s.mem a.foot).write pa bs)) ?_ (.of_foots hf)
    refine ⟨fun hm => State.memOk_setMem hm _ (Memory.wf_write ((State.memOk_iff s).1 hm _) pa bs), fun f x => ?_⟩
    rw [State.mem_setMem]
    split
    · rename_i hf
      have e : s.mem a.foot = s.mem f := by simp only [State.mem, vget]; congr 1; simp [hf]
      rw [Memory.read_write]
      split
      · rename_i h; exact .inr ⟨h.1, h.2, rfl⟩
      · exact .inl (by rw [e])
    · exact .inl rfl
  · simp only [State.putWrite, hc, Bool.not_false, if_true]
    generalize (⟨_, _, _, _, _, _⟩ : WTag) = tag
    refine State.Wrote.trans (t := s.tagBytes tag) (.of_foots (State.tagBytes_foots s tag)) ?_
    cases msg with
    | none => exact State.wrote_writeBeyond ..
    | some m =>
      refine (State.wrote_putAll ..).trans (.of_foots (foldl_foots (fun u y => State.goOut_foots fun off => ?_) _ _))
      rw [List.getD_eq_getElem?_getD]
      cases hx : (m off)[y.2]? with
      | none => simp
      | some v => exact hmsg m rfl off v (List.mem_of_getElem? hx)

theorem State.memOk_putWrite {s : State} (h : s.MemOk) (a : Author) (part pa : Nat) (bs : List Byte)
    {msg : Option (Nat → List (List Nat))} (hmsg : ∀ m, msg = some m → ∀ off, ∀ x ∈ m off, x.head? ≠ some 1) :
    (s.putWrite a part pa bs msg).MemOk := (State.wrote_putWrite a part pa bs hmsg).1 h

end Sys2Proof.Machine
end

