-- ==== Sys2Proof/Tests/Slice0.lean ====
section
/-! SUPPORT. The model's own tests: ill-formed terms are refused, words decode, one step at a time, and for every
statement with hypotheses a state and operands that meet them. -/

namespace Sys2Proof.Tests

open Sys2Proof Sys2Proof.Machine

-- Kernel checks one after another: many at once need a thread each.
set_option Elab.async false

/-- The guard of an unguarded word. -/
abbrev u : Guard := ⟨false, 7⟩

/-- Every word of a list decodes to its instruction. -/
def decodes (l : List (Nat × Instr)) : Bool := l.all fun x => decodeTableWord 64 x.1 == some x.2

/-! ### Ill-formed terms, one for each check of `Instr.wf` -/

theorem test_illformed_types :
    [Instr.add u .z8 .none (.q 0) (.q 0) 0, .mul u .a56 .none (.q 0) (.q 0) 0, .mulw u .s64 .none (.q 0) (.q 0) 0,
     .mad u .a56 .none (.q 0) (.q 0) (.q 0) 0, .abs u .z32 .none (.q 0) 0, .and u .s32 .none (.q 0) (.q 0) 0,
     .sar u .z32 .none (.q 0) (.q 0) 0, .bfi u .s32 .none (.q 0) (.q 0) (.q 0) 0, .not u .s32 .none (.q 0) 0,
     .sel u .s32 .none (.q 0) (.q 0) ⟨false, 0⟩, .cmp u .f32 .eq 0 (.q 0) (.q 0) 0, .ld u .f32 .none (.q 0) 0,
     .st u .s32 (.q 0) (.q 0) 0, .lds u .a56 .none (.q 0) 0, .stc u .s16 (.q 0) (.q 0) 0,
     .atomAdd u .z8 .none (.q 0) (.q 0) ⟨.gang, .relaxed, 0⟩, .atomMin u .f16 .none (.q 0) (.q 0) ⟨.gang, .relaxed, 0⟩,
     .atomXor u .s32 .none (.q 0) (.q 0) ⟨.gang, .relaxed, 0⟩, .atomCas u .f32 .none (.q 0) (.q 0) (.q 0) ⟨.gang, .relaxed, 0⟩,
     .redAdd u .f16 (.q 0) (.q 0) ⟨.gang, .relaxed, 0⟩, .redMax u .bf16 (.q 0) (.q 0) ⟨.gang, .relaxed, 0⟩,
     .gather u .s32 none 0 (.q 0) (.q 0) 0 0 false, .scatterAdd u .z8 none (.q 0) (.q 0) 0 0 false,
     .mma u .s32 none 0 (.q 0) (.q 0) ⟨8, 8, false, false⟩, .mmaSp u .f32 none 0 (.q 0) (.q 0) ⟨8, 8, false, false⟩,
     .accScale u .f16 none 0 1 (.q 0) (.q 0) false false, .accLd u .e4m3 none 0 (.q 0) 8 false, .accGet u .f16 0 (.q 0),
     .accPut u .bf16 0 (.q 0) (.q 0)].all (fun i => !i.wf) = true := by decide

theorem test_illformed_immediates :
    [Instr.add u .z32 .none (.q 0) (.q 0) 1, .addF u .f32 .rne .none (.q 0) (.q 0) 1, .mov u .z32 .none (.q 0) 7,
     .sel u .z32 .none .imms (.q 0) ⟨false, 0⟩, .addsc u .none (.q 0) .immz 0, .voteLeadeq u 0 .immh, .movemSet u .none .imms,
     .movi u .z32 .none 0x100000000, .cvt u .none .imms ⟨.f16, .f32, .rne, false⟩, .bpack u .none .imms,
     .ld u .z32 .none .immz 0, .sts u .z32 (.q 0) .imms 0, .pref u .imms false, .wmarkWaitg u 0 .imms, .mcJoin u none (.q 0) .immz,
     .quant u .s8 none .imms .f32, .joinc u (.q 0) .imms, .strmPageW u .none (.q 0) (.q 0) .immz, .topk u .f32 none .imms,
     .reorderCount u .none .imms, .brx u .imms, .barInit u (.brick 0) .imms, .monitor u .none .imms (.q 0), .csrw u 0x10 .imms,
     .txbind u 0 .immz].all (fun i => !i.wf) = true := by decide

theorem test_illformed_modifiers :
    [Instr.cvt u .none (.q 0) ⟨.a56, .f32, .rne, false⟩, .cvt u .none (.q 0) ⟨.f32, .a56, .rne, false⟩,
     .cvt u .none (.q 0) ⟨.s8, .f32, .rne, true⟩, .cvt u .none (.q 0) ⟨.s8, .s32, .rz, false⟩,
     .cvtX2 u .none (.q 0) (.q 0) ⟨.f32, .f16, .rne, false⟩, .bpext u .none (.q 0) 1, .bpext u .none (.q 0) 9,
     .atomAdd u .z32 .none (.q 0) (.q 0) ⟨.device, .relaxed, 0⟩, .atomPop u .none (.q 0) .brick .relaxed,
     .redAdd u .z32 (.q 0) (.q 0) ⟨.device, .acquire, 0⟩, .copy u none 0 .global 10 (.q 0) (.q 0) 0,
     .mcLd u none 0 12 (.q 0) (.q 0) 0 0, .mmaBp u 1 none 0 (.q 0) (.q 0) ⟨8, 8, false, false⟩,
     .mmaBp u 4 none 0 (.q 0) (.q 0) ⟨4, 8, false, false⟩, .reorderPack u (.q 0) 1 0, .movs u .none 0x16, .movsp u 0x15 (.q 0),
     .scrubSt u .none 6].all (fun i => !i.wf) = true := by decide

/-! ### Words written out from the encoding (03:R54-R70; the tables of words in files 04-18) -/

theorem test_decode_integer : decodes
    [(0x00170041F9000064, .add u .s32 .none (.q 1) .immz 100), (0x0137C181F5000000, .sub u .a56 (.k 1) (.n 1) (.cst 5) 0),
     (0x02170043F2000000, .mul u .s32 .none (.q 3) (.cst 2) 0), (0x0327838182000000, .mulhi u .s64 (.n 3) (.n 1) (.n 2) 0),
     (0x0407008182000000, .mulw u .z32 .none (.n 1) (.n 2) 0), (0x0517848182830000, .mad u .s32 (.n 4) (.n 1) (.n 2) (.n 3) 0),
     (0x0617008182000000, .addSat u .s32 .none (.n 1) (.n 2) 0), (0x0707008182000000, .subSat u .z32 .none (.n 1) (.n 2) 0),
     (0x0817008182000000, .min u .s32 .none (.n 1) (.n 2) 0), (0x0927008182000000, .max u .s64 .none (.n 1) (.n 2) 0),
     (0x0A17008100000000, .abs u .s32 .none (.n 1) 0), (0x0B078000F900003F, .and u .z32 (.n 0) (.q 0) .immz 63),
     (0x0C27CD00FA008000, .or u .s64 (.k 13) (.q 0) .immh 0x8000), (0x0D070081F7000000, .xor u .z32 .none (.n 1) (.cst 7) 0),
     (0x0E27008100000000, .not u .s64 .none (.n 1) 0), (0x0F0785F90000FFFF, .shl u .z32 (.n 5) .immz (.q 0) 0xFFFF),
     (0x1027908FF9000020, .shr u .s64 (.n 16) (.n 15) .immz 32), (0x1117008182000000, .sar u .s32 .none (.n 1) (.n 2) 0),
     (0x1207008182000000, .rotl u .z32 .none (.n 1) (.n 2) 0), (0x13270081F8000408, .bfx u .s64 .none (.n 1) .imms 0x408),
     (0x1407858182830000, .bfi u .z32 (.n 5) (.n 1) (.n 2) (.n 3) 0), (0x1507008100000000, .popc u .z32 .none (.n 1) 0),
     (0x1627008100000000, .clz u .s64 .none (.n 1) 0), (0x1707008100000000, .brev u .z32 .none (.n 1) 0),
     (0x182700D300000005, .sel u .s64 .none (.k 19) (.q 0) ⟨false, 5⟩), (0x19071380F9000020, .cmp u .z32 .lt 3 (.n 0) .immz 32),
     (0x1A2781E200000000, .mov u .s64 (.n 1) (.g 2) 0), (0x1B17000000000003, .movi u .s32 .none 3),
     (0x1B27C1FFFFFFFFFF, .movi u .s64 (.k 1) 0xFFFFFFFFFF), (0x1C3786C480000003, .addsc u (.n 6) (.k 4) (.n 0) 3),
     (0x1C3786C48000000B, .addscW u (.n 6) (.k 4) (.n 0) 3)] = true := by decide +kernel

theorem test_decode_masks : decodes
    [(0x1D07840000000003, .voteBallot u (.n 4) ⟨false, 3⟩), (0x1D1701000000000D, .voteAny u 1 ⟨true, 5⟩),
     (0x1D27020000000003, .voteAll u 2 ⟨false, 3⟩), (0x1D37038100000000, .voteLeadeq u 3 (.n 1)),
     (0x1E07050000000043, .plopAnd u 5 ⟨false, 3⟩ ⟨false, 4⟩), (0x1E17010000000098, .plopOr u 1 ⟨true, 0⟩ ⟨true, 1⟩),
     (0x1E27010000000021, .plopXor u 1 ⟨false, 1⟩ ⟨false, 2⟩), (0x1E37020000000010, .plopAndn u 2 ⟨false, 0⟩ ⟨false, 1⟩),
     (0x1F07830000000000, .movemGet u (.n 3)), (0x1F17838200000000, .movemSet u (.n 3) (.n 2)),
     (0x1F27830000000000, .movemGetfm u (.n 3)), (0x1F37830000000000, .movemGetp u (.n 3)),
     (0x1F47008200000000, .movemSetp u (.n 2))] = true := by decide +kernel

theorem test_decode_float : decodes
    [(0x2067000041000000, .addF u .bf16 .rz .none (.q 0) (.q 1) 0), (0x21D7008182000000, .subF u .f16 .rd .none (.n 1) (.n 2) 0),
     (0x22070000FA003F00, .mulF u .f32 .rne .none (.q 0) .immh 0x3F00),
     (0x2307838182000000, .fma u .f32 .rne (.n 3) (.n 1) (.n 2) (.q 0) 0), (0x2407008182000000, .minF u .f32 .none (.n 1) (.n 2) 0),
     (0x2527008182000000, .maxF u .bf16 .none (.n 1) (.n 2) 0), (0x2607008100000000, .absF u .f32 .none (.n 1) 0),
     (0x2717008100000000, .neg u .f16 .none (.n 1) 0), (0x2817340041000000, .cmpF u .f16 .un 4 (.q 0) (.q 1) 0),
     (0x2807228385000000, .cmpF u .f32 .gt 2 (.n 3) (.n 5) 0), (0x2907008100000000, .rcp u .f32 .none (.n 1) 0),
     (0x2A17008100000000, .rsq u .f16 .none (.n 1) 0), (0x2B27008100000000, .sqrt u .bf16 .none (.n 1) 0),
     (0x2C07008100000000, .ex2 u .f32 .none (.n 1) 0), (0x2D07008100000000, .lg2 u .f32 .none (.n 1) 0),
     (0x2E87008100000000, .rint u .f32 .ru .none (.n 1) 0), (0x2F07008100000000, .frc u .f32 .none (.n 1) 0),
     (0x340782000000048B, .cvt u (.n 2) (.q 0) ⟨.e4m3, .f32, .rne, true⟩), (0x3407000000000181, .cvt u .none (.q 0) ⟨.s32, .f32, .rz, false⟩),
     (0x350700818200048B, .cvtX2 u .none (.n 1) (.n 2) ⟨.e4m3, .f32, .rne, true⟩),
     (0x3607008182000000, .packB16X2 u .none (.n 1) (.n 2) 0), (0x3617008182000000, .packB32X2 u .none (.n 1) (.n 2) 0),
     (0x3707008100000000, .unpkLo16 u .none (.n 1) 0), (0x3717008100000000, .unpkHi16 u .none (.n 1) 0),
     (0x3727008100000000, .unpkHi32 u .none (.n 1) 0), (0x3807008182830000, .swzb u .none (.n 1) (.n 2) (.n 3) 0),
     (0x3907008100000000, .bpack u .none (.n 1)), (0x3A07868500000002, .bpext u (.n 6) (.n 5) 2)] = true := by decide +kernel

theorem test_decode_memory : decodes
    [(0x4007008100000040, .ld u .z32 .none (.n 1) 2), (0x41278F8E00000000, .ldRo u .s64 (.n 15) (.n 14) 0),
     (0x422700C200000004, .ldAcq u .s64 .none (.k 2) .device 0), (0x432200898C000020, .st ⟨false, 2⟩ .s64 (.n 9) (.n 12) 1),
     (0x440700C1F1000004, .stRel u .z32 (.k 1) (.cst 1) .device 0), (0x450783C182000000, .stP u .z32 (.n 3) (.k 1) (.n 2) 0),
     (0x466700C182000060, .stMc u .z16 (.k 1) (.n 2) 3), (0x47228C8A00000008, .lds ⟨false, 2⟩ .s64 (.n 12) (.n 10) 8),
     (0x4801008182000000, .sts ⟨false, 1⟩ .z32 (.n 1) (.n 2) 0), (0x4947838100FFFFFF, .ldc u .z8 (.n 3) (.n 1) 0xFFFFFF),
     (0x4A67008182000010, .stc u .z16 (.n 1) (.n 2) 16), (0x4B07000000000003, .fenceAcq u .footing),
     (0x4B17000000000004, .fenceRel u .device), (0x4B27000000000005, .fenceFull u .system), (0x4B37000000000000, .fenceAck u),
     (0x4C07008100000020, .pref u (.n 1) true), (0x4D07000000000000, .cctlInv u), (0x4D07000000000020, .cctlInvro u),
     (0x4D07008100000040, .cctlLine u (.n 1)), (0x4E07008100000000, .mirrorSync u (.n 1)),
     (0x500400C2F1000014, .atomAdd ⟨false, 4⟩ .z32 .none (.k 2) (.cst 1) ⟨.device, .release, 0⟩),
     (0x5117008182000000, .atomMin u .s32 .none (.n 1) (.n 2) ⟨.gang, .relaxed, 0⟩),
     (0x5287008182000000, .atomMax u .f32 .none (.n 1) (.n 2) ⟨.gang, .relaxed, 0⟩),
     (0x5307008182000000, .atomAnd u .z32 .none (.n 1) (.n 2) ⟨.gang, .relaxed, 0⟩),
     (0x5427008182000000, .atomOr u .s64 .none (.n 1) (.n 2) ⟨.gang, .relaxed, 0⟩),
     (0x5527008182000009, .atomXor u .s64 .none (.n 1) (.n 2) ⟨.brick, .acquire, 0⟩),
     (0x5604838182000000, .atomXchg ⟨false, 4⟩ .z32 (.n 3) (.n 1) (.n 2) ⟨.gang, .relaxed, 0⟩),
     (0x572783C18182001C, .atomCas u .s64 (.n 3) (.k 1) (.n 1) (.n 2) ⟨.device, .acqRel, 0⟩),
     (0x5807008182000000, .atomInc u .none (.n 1) (.n 2) ⟨.gang, .relaxed, 0⟩),
     (0x592700C182000000, .atomPush u .none (.k 1) (.n 2) .gang .relaxed), (0x5A2781C400000000, .atomPop u (.n 1) (.k 4) .gang .relaxed),
     (0x5B2781C400000009, .atomSteal u (.n 1) (.k 4) .brick .acquire), (0x5C8700C182000000, .redAdd u .f32 (.k 1) (.n 2) ⟨.gang, .relaxed, 0⟩),
     (0x5D2700C182000000, .redMin u .s64 (.k 1) (.n 2) ⟨.gang, .relaxed, 0⟩),
     (0x5E1700C182000034, .redMax u .s32 (.k 1) (.n 2) ⟨.device, .release, 1⟩)] = true := by decide +kernel

theorem test_decode_engines : decodes
    [(0x6017ABC1C4000100, .copy u (some 2) 3 .global 1 (.k 1) (.k 4) 0x100), (0x600788CAC9100200, .copy u (some 0) 0 .window 0 (.k 10) (.k 9) 0x200),
     (0x6117B9C185004000, .copyl u (some 3) 1 .global 1 (.k 1) (.n 5) 0x4000), (0x6207090000000000, .wmarkRel u 1),
     (0x621708F100000000, .wmarkWaitg u 0 (.cst 1)), (0x62270A0000000000, .wmarkGet u 2), (0x62370A0000000000, .wmarkGen u 2),
     (0x6307C0C682000000, .mcJoin u (some 4) (.k 6) (.n 2)), (0x640700C600000000, .mcLeave u none (.k 6)),
     (0x65079DC1C201C100, .mcLd u (some 1) 5 0 (.k 1) (.k 2) 0x100 7), (0x66079AC183000400, .gather u .z32 (some 1) 2 (.k 1) (.n 3) 0x400 0 false),
     (0x66079AC183580400, .gather u .z32 (some 1) 2 (.k 1) (.n 3) 0x400 3 true),
     (0x6727B0C284000800, .scatter u .s64 (some 3) (.k 2) (.n 4) 0x800 0 false),
     (0x6727B0C284800800, .scatterAdd u .s64 (some 3) (.k 2) (.n 4) 0x800 0 false), (0x6827A0C400000002, .quant u .bp (some 2) (.k 4) .bf16),
     (0x6907900000000000, .waitt u 1), (0x70A7A08500000000, .topk u .bf16 (some 2) (.n 5)), (0x7187008500000000, .rhist u .f32 none (.n 5)),
     (0x7297B08500000000, .biasadd u .f16 (some 3) (.n 5))] = true := by decide +kernel

theorem test_decode_launches_streams : decodes
    [(0x6A0700C1C2000000, .lrecNew u (.k 1) (.k 2)), (0x6A170081F1F10000, .lrecSetGrid u (.n 1) (.cst 1) (.cst 1)),
     (0x6A1700F2F2F10001, .lrecSetCourse u (.cst 2) (.cst 2) (.cst 1)), (0x6A1700F300000002, .lrecSetClass u (.cst 3)),
     (0x6A1700C300000003, .lrecSetCounter u (.k 3)), (0x6A2700C382000000, .lrecWait u (.k 3) (.n 2)), (0x6B07A00000000000, .launch u (some 2)),
     (0x6C0700C382000000, .joinc u (.k 3) (.n 2)), (0x6D0700C400000000, .strmStat u .none (.k 4)),
     (0x6D1700C482000000, .strmCommit u .none (.k 4) (.n 2)), (0x6D2783C482000000, .strmReserve u (.n 3) (.k 4) (.n 2)),
     (0x6D37D3C4F1000000, .strmPage u (.k 19) (.k 4) (.cst 1)), (0x6D3700C481820001, .strmPageW u .none (.k 4) (.n 1) (.n 2)),
     (0x6D3795C4D7F00002, .strmPageC u (.n 21) (.k 4) (.k 23) (.cst 0)), (0x6E0700C400000000, .pgalloc u (.k 4)),
     (0x6F0790C482000000, .pgfree u (some 1) (.k 4) (.n 2))] = true := by decide +kernel

theorem test_decode_matrix : decodes
    [(0x805708C1C2002008, .mma u .s8 none 0 (.k 1) (.k 2) ⟨8, 8, false, false⟩), (0x81070BC1C2002008, .mmaSr u .minplusF32 none 3 (.k 1) (.k 2) ⟨8, 8, false, false⟩),
     (0x82970BC1C2202008, .mmaSp u .f16 none 3 (.k 1) (.k 2) ⟨8, 8, false, true⟩), (0x83470A8182102008, .mmaBp u 4 none 2 (.n 1) (.n 2) ⟨8, 8, true, false⟩),
     (0x8407080000000000, .accZero u none 0), (0x851709C500000008, .accLd u .s32 none 1 (.k 5) 8 false),
     (0x868799C500000008, .accSt u .f32 (some 1) 1 (.k 5) 8 false), (0x871709C3C4000000, .accScale u .s32 none 1 0 (.k 3) (.k 4) false false),
     (0x88070A0000000003, .accMov u none 2 3), (0x89070A0000000003, .accCvtS32F32 u none 2 3), (0x89070A000000000B, .accCvtF32S32 u none 2 3),
     (0x8A8708F400000000, .accGet u .f32 0 (.cst 4)), (0x8B17098182000000, .accPut u .s32 1 (.n 1) (.n 2)),
     (0x8B17098182000001, .accPutAdd u .s32 1 (.n 1) (.n 2))] = true := by decide +kernel

theorem test_decode_control : decodes
    [(0xA0030082880000B1, .reorderPack ⟨false, 3⟩ (.n 2) 8 0xB1), (0xA01700828400000B, .reorderAlign u (.n 2) 4 0xB),
     (0xA107838100000000, .reorderCount u (.n 3) (.n 1)), (0xA207840000000000, .riddleStat u (.n 4)), (0xA307850000000000, .seatmap u (.n 5)),
     (0xC007000000000000, .nop u), (0xC10700FFFFFFFFFD, .bra u 0xFFFFFFFFFD), (0xC207008100000000, .brx u (.n 1)),
     (0xC30787000000000C, .call u (.n 7) 12), (0xC407878100000000, .callx u (.n 7) (.n 1)), (0xC507008700000000, .ret u (.n 7)),
     (0xC607020000000005, .split u ⟨false, 2⟩ 5), (0xC6070A0000000005, .split u ⟨true, 2⟩ 5), (0xC707000000000000, .join u),
     (0xC807000000000000, .exit u), (0xC90D000000000000, .kill ⟨true, 5⟩), (0xCA07000000000000, .yield u), (0xCB0700000000002A, .trap u 42),
     (0xCC07000000000005, .sysc u 5), (0xCD07000000000006, .brk u 6), (0xCE07000000000000, .eret u), (0xCE07000000000001, .eretSkip u),
     (0xD00700C100000001, .barInit u (.brick 1) (.k 1)), (0xD107000000000001, .barArrive u (.brick 1) .none),
     (0xD20700F000000001, .barWait u (.brick 1) (.cst 0)), (0xD317000000000002, .barSync u (.course 2)),
     (0xD407820000000005, .barPeek u (.brick 5) (.n 2)), (0xD507000000000000, .phase u), (0xD60700C100000000, .monitor u .none (.k 1) (.q 0)),
     (0xD707840000000000, .leadRd u (.n 4))] = true ∧ decodeTableWord 16 0xFFFF = some .nopCode := by decide +kernel

theorem test_decode_system : decodes
    [(0xE007000000000003, .movs u .none 3), (0xE007850000000036, .movsRx u (.n 5) 2), (0xE107000000000022, .movsp u 0x22 (.q 0)),
     (0xE107008400000031, .movspTx u 1 (.n 4)), (0xE207000000000011, .csrr u .none 0x11), (0xE30700C500000010, .csrw u 0x10 (.k 5)),
     (0xE40783C500000012, .csrx u (.n 3) 0x12 (.k 5)), (0xE507820000000002, .scrubSt u (.n 2) 2), (0xE60700C300000001, .txbind u 1 (.k 3)),
     (0xE707000000000003, .txunbind u 3), (0xE807000000000002, .rxpoll u .none 2)] = true := by decide +kernel

/-- Fields, codes and operands that the encoding refuses (03:R55-R70, 08:R180, 12:R251, 13:R269). -/
theorem test_reserved_words_refused :
    [0x0017000100000000, 0x0017004000000000, 0x00170050F9000064, 0x001700FF00000000, 0x0047004100000000, 0x3007000000000000,
     0x4F07000000000000, 0x7307000000000000, 0x8C07000000000000, 0xA407000000000000, 0xCF07000000000000, 0xD807000000000000,
     0xE907000000000000, 0x0017010041000000, 0x0017E00041000000, 0x1B07C20100000040, 0x2037008182000000, 0x2447008182000000,
     0x6907100000000000, 0x1907434100000000, 0x1E070D0000000043, 0x0017004100000001, 0x400700F800000000, 0x83970A8182102008,
     0x83470A8182102004, 0xA007000081000000, 0xE507000000000006, 0x500700C1F1000004, 0x5C8700C18200000C, 0x60A788C1C2000000,
     0x600788C1C2180000, 0x3A07868500000001, 0xE007000000000016].all (fun w => decodeTableWord 64 w == none) = true := by
  decide +kernel

/-! ### A small state: one wall with one brick of one gang, in seat 0 of core 0, two of its lanes live -/

def word8 (a b c d e f g h : Word) : Vector Word 8 := #v[a, b, c, d, e, f, g, h]

/-- `k0` to `k7` hold these at the start. -/
def args : Vector Word 8 := word8 0x1000 64 1 2 3 0x2000 5 6

def hd : LHeader := fetchHeader

def bk : Brick := Brick.start ⟨1, 0⟩ 2 0 0 0 [0] [0, 1, 2, 3, 4, 5, 6, 7] hd 0

def gg : Gang :=
  { Gang.start 3 ⟨1, 0⟩ 0 0 0 ⟨0x10000, 64, 1, true, 0, 0⟩ 1 0 0 args 0 with em := 3, live := 3, tvec := 0x20000 }

def vz : Vector Nat 4 := #v[0, 0, 0, 0]

def wl : Wall :=
  { id := 1, asid := 0, cls := 1, words := newRecord 0x1000 0 1, src := .queue 0 0, foot := 0, state := .ready, readyAt := 0,
    header := some hd, args := args, nextSet := 1, slot := 0, seen := vz, ends := vz, ended := false }

def co : Course :=
  { key := ⟨1, 0⟩, group := 0, cbars := Vector.replicate 4 (Bar.zero 4096), state := .idle, word := none, clause := 0, posn := 0,
    expected := [], arrived := [], tags := [], share := 2048, stat := 0, regrouped := false, qorder := 0, fault := none, merged := 0, undo := [] }

def ps : Machine.PSet := ⟨1, 0, 0, .resident, false, false, 0, 0, []⟩

/-- Every address mapped to itself, writable and executable. -/
def page : TlbEntry := { asid := 0, va := 0, size := 2 ^ 56, pa := 0, w := true, x := true, mirror := false }

/-- Page tables of address space 0: pages 0 and 0x10000 to themselves, 0x100000 to 0x300000, writable and executable
(08:R178). A queue descriptor at 0x4000 with one packet, at 0x5000, for the launch header at 0x6000 of one gang of 16
(16:R316, R317, 02:R25, R26). -/
def tables : Memory :=
  [(0, 1), (2, 0x10), (0x4000, 1), (0x4011, 0x50), (0x4018, 1), (0x5009, 0x60), (0x5010, 1), (0x5012, 1), (0x5014, 1), (0x5017, 2),
   (0x6000, 9), (0x6001, 1), (0x6002, 1), (0x6042, 1), (0x6049, 1), (0x100000, 1), (0x100002, 0x20), (0x200000, 1),
   (0x200001, 0x10), (0x200002, 0x20), (0x201000, 1), (0x201001, 0x20), (0x201002, 0x20), (0x202000, 0x0F), (0x202008, 0x0F),
   (0x20200A, 0x01), (0x202080, 0x0F), (0x202082, 0x30)]

def S : State :=
  { State.reset with
    foots := Vector.replicate 4 { Footing.reset with mem := tables }, nextId := 10, gangs := [gg], bricks := [bk], courses := [co],
    walls := [wl], sets := [ps], tlb := [(0, page)], gtlb := [(0, page)] }

/-- The same with another record of the gang, or of the brick. -/
def sg (g : Gang) : State := { S with gangs := [g] }

def sb (b : Brick) : State := { S with bricks := [b] }

/-! ### What the witnesses show -/

/-- The operands of the acting lanes `m` and the predicates of `em` can be read. -/
def readable (g : Gang) (m : Mask) (os : List Opnd) : Bool :=
  ((List.range 32).all fun l => !g.em.getLsbD l || !(g.lane l).pbad) &&
    (List.range 32).all fun l => !m.getLsbD l ||
      os.all fun o => !g.opndPending o l && !g.opndInvalid o l && !g.opndBad o l

theorem ready_of {g : Gang} {gd : Guard} {os : List Opnd} {m : Mask} (hm : g.acts gd = m) (h : readable g m os = true) :
    g.Ready gd os := by
  simp only [readable, Bool.and_eq_true, List.all_eq_true, List.mem_range, Bool.or_eq_true, Bool.not_eq_true'] at h
  refine ⟨fun l hl he => ?_, fun l hl ha o ho => ?_⟩
  · rcases h.1 l hl with h | h
    · rw [he] at h; cases h
    · exact h
  · rcases h.2 l hl with h | h
    · rw [hm] at ha; rw [ha] at h; cases h
    · exact ⟨(h o ho).1.1, (h o ho).1.2, (h o ho).2⟩

theorem cur_of {s : State} {g : Gang} (hs : s.gangs = [g]) (hc : s.cur = (0, 0)) (hp : g.place = .seat 0 0) :
    s.curGang = some g := by
  simp [State.curGang, State.gangAt, hs, hc, hp]

theorem once_of {s : State} {g : Gang} {gd : Guard} {os : List Opnd} {m : Mask} {l : Nat} (hm : g.acts gd = m)
    (hs : s.gangs = [g]) (hc : s.cur = (0, 0)) (hp : g.place = .seat 0 0) (h : readable g m os = true) (hl : lowest m = some l) :
    s.Once g gd os l :=
  ⟨cur_of hs hc hp, ready_of hm h, by rw [hm]; exact hl⟩

theorem gg_acts : gg.acts u = 3 := by decide +kernel

/-- The gang of `S`, in any state that has it, at an instruction that acts once. -/
theorem gg_once {s : State} {os : List Opnd} (hs : s.gangs = [gg]) (hc : s.cur = (0, 0)) (h : readable gg 3 os = true) :
    s.Once gg u os 0 :=
  once_of gg_acts hs hc rfl h (by decide)

theorem gg_ready {os : List Opnd} (h : readable gg 3 os = true) : gg.Ready u os := ready_of gg_acts h

theorem gg_cur {s : State} (hs : s.gangs = [gg]) (hc : s.cur = (0, 0)) : s.curGang = some gg := cur_of hs hc rfl

theorem gg_acts_ne : gg.acts u ≠ 0 := by rw [gg_acts]; decide

def isGot {α : Type} [DecidableEq α] (f : Fetched α) (x : α) : Bool :=
  match f with
  | .got y => decide (y = x)
  | _ => false

theorem got_of {α : Type} [DecidableEq α] {f : Fetched α} {x : α} (h : isGot f x = true) : f = .got x := by
  cases f with
  | got y => rw [of_decide_eq_true h]
  | stop o => cases h

def isOk {ε α : Type} [DecidableEq α] (f : Except ε α) (x : α) : Bool :=
  match f with
  | .ok y => decide (y = x)
  | _ => false

theorem except_of {ε α : Type} [DecidableEq α] {f : Except ε α} {x : α} (h : isOk f x = true) : f = .ok x := by
  cases f with
  | ok y => rw [of_decide_eq_true h]
  | error o => cases h

def isNext (o : Out) : Bool :=
  match o with
  | .next _ => true
  | _ => false

theorem next_of {o : Out} (h : isNext o = true) : ∃ t, o = .next t := by
  cases o <;> first | exact ⟨_, rfl⟩ | cases h

def okAnd (r : EngRes α) (p : α → State → Bool) : Bool :=
  match r with
  | .ok a s => p a s
  | _ => false

theorem ok_of {r : EngRes α} {p : α → State → Bool} (h : okAnd r p = true) : ∃ a s, r = .ok a s ∧ p a s = true := by
  cases r <;> first | exact ⟨_, _, rfl, h⟩ | cases h

/-! ### Witnesses: encoding, the step, class 0 and 1, masks, registers -/

theorem test_meets_encoding :
    ((Instr.movi u .z32 .none 0xFFFFFFFF).wf = true ∧ encode (.movi u .z32 .none 0xFFFFFFFF) = some (64, 0x1B070000FFFFFFFF)) ∧
      decodeWord 0x0017C1C0FD000000 = .ok (.add u .s32 (.k 1) (.k 0) .ones 0) :=
  ⟨by decide, rfl⟩

/-- A gang at its second instruction, the NOP it stands at decoded before. -/
def gDecoded : Gang := { gg with clause := [(0, .nop u), (1, .exit u)], waited := true }

theorem test_meets_StepRunsDecodedInstruction :
    (let s := { sg gDecoded with agenda := [.issue 0 0], picks := some [(0, 0)] }
     s.agenda = .issue 0 0 :: [] ∧ s.picks = some ((0, 0) :: []) ∧ s.sys.stopped = false ∧ s.overheated = false ∧ s.gangAt 0 0 = some gDecoded ∧ s.blocked gDecoded = false ∧
       gDecoded.wait = .ready ∧ gDecoded.pendfault = none ∧ gDecoded.spin = [] ∧ gDecoded.clause ≠ [] ∧
       gDecoded.waited = true ∧ gDecoded.owed = [] ∧ isClass4 (.nop u) = false ∧ gDecoded.instr = some (.nop u)) := by
  decide +kernel

/-- The gang before the clause of one NOP that lies at 0x10000. -/
def sFetch : State :=
  { S with agenda := [.issue 0 0]
           picks := some [(0, 0)]
           foots := S.foots.map fun f => { f with mem := Memory.write f.mem 0x10000 (fetchClause 64 0xC007000000000000) } }

theorem test_meets_StepRunsDecodedInstruction_fetch :
    sFetch.picks = some ((0, 0) :: []) ∧ sFetch.gangAt 0 0 = some gg ∧ sFetch.blocked gg = false ∧ gg.clause = [] ∧ gg.pc.toNat % 8 = 0 ∧ gg.pos = 0 ∧
      sFetch.fetchWord gg gg.pc.toNat = .got 0xAC00000000000000 ∧
      parseHeader 0xAC00000000000000 = .ok ⟨6, 1, 0, 0, 0⟩ ∧
      sFetch.fetchWords gg (gg.pc.toNat + 8) 1 = .got [0xC007000000000000] ∧
      decodeClause 64 8 [] ⟨6, 1, 0, 0, 0⟩ [0xC007000000000000] = .ok [(0, .nop u)] :=
  ⟨rfl, gg_cur (s := sFetch) rfl rfl, by decide +kernel, rfl, by decide, rfl, got_of (by decide +kernel), except_of (by decide +kernel),
   got_of (by decide +kernel), except_of (by decide +kernel)⟩

theorem test_meets_StepKeepsMemoryCanonical : sFetch.MemOk ∧ ∃ t, step sFetch = .next t :=
  ⟨of_decide_eq_true (p := ∀ f : Fin 4, sFetch.foots[f].mem.wf = true) (by decide +kernel), next_of (by decide +kernel)⟩

theorem test_meets_StoppedDeviceRunsOnlyAReset :
    let s := { S with agenda := [.event (.deviceReset [1] ([2], [3]))], sys := { S.sys with stopped := true } }
    s.sys.stopped = true ∧ s.agenda = .event (.deviceReset [1] ([2], [3])) :: [] ∧ ∃ t, step s = .next t :=
  ⟨rfl, rfl, next_of (by decide +kernel)⟩

/-- What `Pushes` asks of an instruction with a value form. -/
theorem push_of {form : Instr → Option ValueForm} {i : Instr} {s : State} {g : Gang} {m : Mask} (hs : s.gangs = [g])
    (hc : s.cur = (0, 0)) (hp : g.place = .seat 0 0)
    (h : (i.wf && (form i).any fun f => decide (g.acts f.gd = m) && readable g m f.os) = true) :
    ∃ f, i.wf = true ∧ form i = some f ∧ s.curGang = some g ∧ g.Ready f.gd f.os := by
  rw [Bool.and_eq_true] at h
  cases hi : form i with
  | none => rw [hi] at h; cases h.2
  | some f =>
    rw [hi] at h
    have h2 := h.2
    simp only [Option.any_some, Bool.and_eq_true, decide_eq_true_eq] at h2
    exact ⟨f, h.1, rfl, cur_of hs hc hp, ready_of h2.1 h2.2⟩

/-- `q1` valid in lane 0 alone, `p1` set there: an instruction guarded by `p1` reads `q1` where it acts. -/
def gQ : Gang :=
  { gg with lanes := gg.lanes.mapIdx fun l x =>
              if l = 0 then { x with q := x.q.set 0 ⟨0x80000005, true, none, false⟩, p := 2 } else x }

def p1 : Guard := ⟨false, 1⟩

theorem test_meets_ArithmeticResults :
    ∃ f, (Instr.mulhi p1 .s64 (.k 31) (.q 0) .imms 0xFFFF).wf = true ∧
      arithForm (.mulhi p1 .s64 (.k 31) (.q 0) .imms 0xFFFF) = some f ∧ (sg gQ).curGang = some gQ ∧ gQ.Ready f.gd f.os :=
  push_of (m := 1) rfl rfl rfl (by decide +kernel)

theorem test_meets_ShiftResults :
    ∃ f, (Instr.rotl p1 .z32 (.n 63) (.q 0) .immz 36).wf = true ∧ shiftForm (.rotl p1 .z32 (.n 63) (.q 0) .immz 36) = some f ∧
      (sg gQ).curGang = some gQ ∧ gQ.Ready f.gd f.os :=
  push_of (m := 1) rfl rfl rfl (by decide +kernel)

theorem test_meets_BitFieldResults :
    ∃ f, (Instr.bfi p1 .z32 .none (.q 0) .immz (.k 1) 0x201C).wf = true ∧
      fieldForm (.bfi p1 .z32 .none (.q 0) .immz (.k 1) 0x201C) = some f ∧ (sg gQ).curGang = some gQ ∧ gQ.Ready f.gd f.os :=
  push_of (m := 1) rfl rfl rfl (by decide +kernel)

theorem test_meets_AddressResults :
    (∃ f, (Instr.sub u .a56 .none (.cst 0) (.cst 1) 0).wf = true ∧ addressForm (.sub u .a56 .none (.cst 0) (.cst 1) 0) = some f ∧
      S.curGang = some gg ∧ gg.Ready f.gd f.os) ∧
    (∃ f, (Instr.addscW p1 .none (.k 0) (.q 0) 7).wf = true ∧ addressForm (.addscW p1 .none (.k 0) (.q 0) 7) = some f ∧
      (sg gQ).curGang = some gQ ∧ gQ.Ready f.gd f.os) :=
  ⟨push_of (m := 3) rfl rfl rfl (by decide +kernel), push_of (m := 1) rfl rfl rfl (by decide +kernel)⟩

theorem test_meets_SelectedAndImmediateResults :
    (∃ f, (Instr.sel p1 .s64 .none (.q 0) .ones ⟨true, 1⟩).wf = true ∧ choiceForm (.sel p1 .s64 .none (.q 0) .ones ⟨true, 1⟩) = some f ∧
      (sg gQ).curGang = some gQ ∧ gQ.Ready f.gd f.os) ∧
    (∃ f, (Instr.movi u .s64 (.k 0) 0x8000000000).wf = true ∧ choiceForm (.movi u .s64 (.k 0) 0x8000000000) = some f ∧
      S.curGang = some gg ∧ gg.Ready f.gd f.os) :=
  ⟨push_of (m := 1) rfl rfl rfl (by decide +kernel), push_of (m := 3) rfl rfl rfl (by decide +kernel)⟩

theorem test_meets_PushShiftsEveryLane : (31 : Nat) < 32 := by decide

theorem test_meets_PredicatesWritten :
    let i : Instr := .cmpF p1 .f32 .un 7 (.q 0) .immh 0x7FC0
    ∃ f, i.wf = true ∧ predForm i = some f ∧ (sg gQ).curGang = some gQ ∧ gQ.Ready f.gd f.os :=
  ⟨_, by decide, rfl, cur_of rfl rfl rfl, ready_of (m := 1) (by decide +kernel) (by decide +kernel)⟩

theorem test_meets_FloatInstructionsPush :
    (∃ f, (Instr.fma p1 .f32 .ru .none (.q 0) .immh .immh 0x3F00).wf = true ∧
      floatForm (.fma p1 .f32 .ru .none (.q 0) .immh .immh 0x3F00) = some f ∧ (sg gQ).curGang = some gQ ∧ gQ.Ready f.gd f.os) ∧
    (∃ f, (Instr.bpext p1 .none (.q 0) 8).wf = true ∧ floatForm (.bpext p1 .none (.q 0) 8) = some f ∧
      (sg gQ).curGang = some gQ ∧ gQ.Ready f.gd f.os) :=
  ⟨push_of (m := 1) rfl rfl rfl (by decide +kernel), push_of (m := 1) rfl rfl rfl (by decide +kernel)⟩

/-- MOVEM.SET with a mask of the level, and with none. -/
theorem test_meets_MaskInstructionsRun :
    (∃ f, (Instr.movemGetfm u .none).wf = true ∧ maskForm (.movemGetfm u .none) = some f ∧ S.curGang = some gg ∧ gg.Ready f.gd f.os) ∧
    S.Once gg u [.cst 1] 0 ∧ (S.opnd gg 0 (.cst 1) 0).setWidth 32 &&& gg.live ≠ 0 ∧
    S.Once gg u [.cst 4] 0 ∧ (S.opnd gg 0 (.cst 4) 0).setWidth 32 &&& gg.live = 0 ∧ gg.stack = [] :=
  ⟨push_of (m := 3) rfl rfl rfl (by decide +kernel), gg_once rfl rfl (by decide +kernel), by decide +kernel, gg_once rfl rfl (by decide +kernel), by decide +kernel, rfl⟩

theorem test_meets_RegisterReadsPush :
    (∃ f, (Instr.movs u .none 0x2F).wf = true ∧ readForm (.movs u .none 0x2F) = some f ∧ S.curGang = some gg ∧ gg.Ready f.gd f.os) ∧
    S.curGang = some gg ∧ gg.Ready u [] ∧ gg.acts u ≠ 0 :=
  ⟨push_of (m := 3) rfl rfl rfl (by decide +kernel), gg_cur rfl rfl, gg_ready (by decide +kernel), gg_acts_ne⟩

/-- A write of `g15` that takes effect at the end of cycle 4. -/
def sG : State := { S with gnext := [⟨4, 0, ⟨1, 0⟩, 15, 7⟩] }

/-- `%spins` and a `g` register, and its write due; a register every wall reads, and none; TVEC, TEPC in trap mode, TEPC
outside it. -/
theorem test_meets_SpecialRegistersWritten :
    S.Once gg u [.k 1] 0 ∧ S.brick? (gg.lane 0).brick = some bk ∧ (0x20 : BitVec 10).toNat = 0x20 ∧
    (S.csr gg 0x010).isSome = true ∧ S.csr gg 0xFFF = none ∧
    (sg { gg with tmode := true }).Once { gg with tmode := true } u [.k 1] 0 ∧ gg.tmode = false ∧
    (sG.gnext = [⟨4, 0, ⟨1, 0⟩, 15, 7⟩] ∧ 4 < 5 ∧ sG.brick? ⟨1, 0⟩ = some bk) :=
  ⟨gg_once rfl rfl (by decide +kernel), by decide +kernel, rfl, by decide +kernel, by decide +kernel,
   once_of (m := 3) (by decide +kernel) rfl rfl rfl (by decide +kernel) (by decide), rfl, rfl, by decide, rfl⟩

/-- What a message of a gang without a release fence carries. -/
def mi0 : MsgInfo := ⟨vz, []⟩

/-- A send register bound to core 383's third receive queue, empty, and holding a flit. -/
def tBound (f : Option (Word × MsgInfo)) : State :=
  { S with cores := S.cores.set 0 { Core.reset with tx := #v[⟨some (383, 3), some ⟨1, 0⟩, f⟩, ⟨none, none, none⟩, ⟨none, none, none⟩,
                                                             ⟨none, none, none⟩] } }

/-- Fifteen words in the receive queue, and a flit on its way to it. -/
def sFlit : State :=
  { S with flits := [⟨0, 3, 0, 7, mi0⟩]
           cores := S.cores.set 0 { Core.reset with rx := #v[[], [], [], List.replicate 15 (1, mi0)] } }

theorem test_meets_MessagesBetweenCores :
    S.Once gg u [.k 1] 0 ∧
    (let v := S.opnd gg 0 (.k 1) 0
     bits v 0 9 < 384 ∧ S.sys.fusemap.getLsbD (bits v 0 9) = false ∧ S.partOf (footOf (bits v 0 9)) = S.gangPart gg) ∧
    (vget (S.core gg.core).tx 3).bound = none ∧
    (vget ((tBound none).core 0).tx 0).bound.isSome = true ∧ (vget ((tBound none).core 0).tx 0).owner = some (gg.lane 0).brick ∧
    (vget ((tBound none).core 0).tx 0).flit = none ∧ (tBound none).waitsFor gg gg.afterSt = [] ∧ (tBound none).Once gg u [.k 1] 0 ∧
    (vget ((tBound (some (9, mi0))).core 0).tx 0).bound = some (383, 3) ∧
    (vget ((tBound (some (9, mi0))).core 0).tx 0).flit = some (9, mi0) ∧
    vget ((tBound (some (9, mi0))).core 383).stop 3 = false ∧
    sFlit.flits = ⟨0, 3, 0, 7, mi0⟩ :: [] ∧ (vget (sFlit.core 0).rx 3).length < 16 ∧
    sFlit.curGang = some gg ∧ vget (sFlit.core gg.core).rx 3 = (1, mi0) :: List.replicate 14 (1, mi0) :=
  ⟨gg_once rfl rfl (by decide +kernel), by decide +kernel, by decide +kernel, by decide +kernel, by decide +kernel, by decide +kernel,
   rfl, gg_once rfl rfl (by decide +kernel), by decide +kernel, by decide +kernel, by decide +kernel, rfl, by decide +kernel,
   gg_cur rfl rfl, by decide +kernel⟩

/-! ### Witnesses: control, traps, barriers, phases -/

/-- The acting lanes are all of `em` and agree on their operands. -/
theorem uniform_of {s : State} {g : Gang} {gd : Guard} {os : List Opnd} {m : Mask} (hm : g.acts gd = m) (he : g.em = m) (h0 : m ≠ 0)
    (l : Nat) (h : (os.all fun o => (List.range 32).all fun j => !m.getLsbD j || decide (s.opnd g 0 o j = s.opnd g 0 o l)) = true) :
    s.Uniform g gd os := by
  simp only [List.all_eq_true, List.mem_range, Bool.or_eq_true, Bool.not_eq_true', decide_eq_true_eq] at h
  refine ⟨by rw [he]; exact h0, by rw [hm, he], fun o ho a ha b hb hea heb => ?_⟩
  rw [he] at hea heb
  have h1 := (h o ho a ha).resolve_left (by simp [hea])
  have h2 := (h o ho b hb).resolve_left (by simp [heb])
  rw [h1, h2]

theorem gg_uniform {s : State} {os : List Opnd}
    (h : (os.all fun o => (List.range 32).all fun j => !(3 : Mask).getLsbD j || decide (s.opnd gg 0 o j = s.opnd gg 0 o 0)) = true) :
    s.Uniform gg u os :=
  uniform_of gg_acts rfl (by decide) 0 h

theorem test_meets_TransfersGoToTheirTarget :
    S.curGang = some gg ∧
    (∃ f, (Instr.callx u (.k 31) (.k 0)).wf = true ∧ transferForm (.callx u (.k 31) (.k 0)) = some f ∧ gg.Ready f.gd f.os ∧
      S.Uniform gg f.gd f.os) ∧
    (∃ f, (Instr.bra u 0xFFFFFFFFFF).wf = true ∧ transferForm (.bra u 0xFFFFFFFFFF) = some f ∧ gg.Ready f.gd f.os ∧
      S.Uniform gg f.gd f.os) :=
  ⟨gg_cur rfl rfl, ⟨_, rfl, rfl, gg_ready (by decide +kernel), gg_uniform (by decide +kernel)⟩,
   ⟨_, rfl, rfl, gg_ready (by decide +kernel), gg_uniform (by decide)⟩⟩

/-- Split stacks: full, with an entry that has pending lanes, with one that has none; `p1` in lane 0. -/
def gStack (n : Nat) (st : List SSEntry) : Gang := { gQ with depth := n, stack := st }

def eTop (pend : Mask) : SSEntry := ⟨3, pend, 0, 0x10100, 0, false⟩

theorem gStack_acts (n : Nat) (st : List SSEntry) : (gStack n st).acts u = 3 := by
  have h : gQ.acts u = 3 := by decide +kernel
  exact h

theorem test_meets_SplitAndJoin :
    (∀ n st, (sg (gStack n st)).curGang = some (gStack n st) ∧ (gStack n st).Ready u [] ∧ (sg (gStack n st)).Uniform (gStack n st) u []) ∧
    (gStack 64 []).depth = 64 ∧
    ((gStack 0 []).depth ≠ 64 ∧ (gStack 0 []).stack.length < (sg (gStack 0 [])).stackH (gStack 0 []) ∧
      (maskOf fun l => (gStack 0 []).em.getLsbD l && ((gStack 0 []).lane l).pref ⟨false, 1⟩) ≠ 0 ∧
      (maskOf fun l => (gStack 0 []).em.getLsbD l && ((gStack 0 []).lane l).pref ⟨true, 7⟩) = 0) ∧
    (gStack 0 []).stack = [] ∧ ((gStack 1 [eTop 1]).stack = eTop 1 :: [] ∧ (eTop 1).pend ≠ 0) ∧
    ((gStack 1 [eTop 0]).stack = eTop 0 :: [] ∧ (eTop 0).pend = 0 ∧
      (gStack 1 [eTop 0]).fillNeeded ((sg (gStack 1 [eTop 0])).stackH (gStack 1 [eTop 0]) + 1) = none) := by
  have hp : ∀ l < 32, gQ.em.getLsbD l = true → (gQ.lane l).pbad = false := by
    have h := readable gQ 3 []
    exact (ready_of (gd := u) (m := 3) (os := []) (by decide +kernel) (by decide +kernel)).1
  refine ⟨fun n st => ⟨cur_of rfl rfl rfl, ⟨hp, by simp⟩, uniform_of (gStack_acts n st) rfl (by decide) 0 rfl⟩, rfl, ?_, rfl, ?_, ?_⟩
  · decide +kernel
  · decide
  · decide +kernel

/-- One lane leaves and one stays; both leave. -/
theorem test_meets_LanesLeave :
    ((sg gQ).curGang = some gQ ∧ gQ.Ready p1 [] ∧ gQ.acts p1 ≠ 0 ∧ gQ.em &&& ~~~gQ.live = 0 ∧ gQ.em &&& ~~~gQ.acts p1 ≠ 0) ∧
    (S.curGang = some gg ∧ gg.Ready u [] ∧ gg.acts u ≠ 0 ∧ gg.em &&& ~~~gg.live = 0 ∧ gg.em &&& ~~~gg.acts u = 0 ∧ gg.stack = [] ∧
      gg.depth = 0) :=
  ⟨⟨cur_of rfl rfl rfl, ready_of (m := 1) (by decide +kernel) (by decide +kernel), by decide +kernel, by decide, by decide +kernel⟩,
   gg_cur rfl rfl, gg_ready (by decide +kernel), gg_acts_ne, by decide, by decide +kernel, rfl, rfl⟩

/-- Deeper stacks, with a live lane outside `em`: an entry in memory below an empty one; an entry with pending lanes below an empty
one; one whose last lanes rejoin at JPC. -/
def gDeep (n : Nat) (st : List SSEntry) : Gang := { gStack n st with live := 7 }

def eLow (pend arr : Mask) (jv : Bool) : SSEntry := ⟨7, pend, arr, 0x10100, 0x10200, jv⟩

theorem test_meets_LanesLeave_stack :
    (∀ n st, (sg (gDeep n st)).curGang = some (gDeep n st) ∧ (gDeep n st).Ready u [] ∧ (gDeep n st).acts u ≠ 0 ∧
      (gDeep n st).em &&& ~~~(gDeep n st).live = 0 ∧ (gDeep n st).em &&& ~~~(gDeep n st).acts u = 0) ∧
    ((eTop 1).within 0).rejoin = 0 ∧ ((eTop 1).within 0).pend = 0 ∧ (gStack 1 [eTop 1]).depth = (gStack 1 [eTop 1]).stack.length ∧
    ((eTop 3).within 4).rejoin = 0 ∧ ((eTop 3).within 4).pend = 0 ∧ [eTop 3].length < (gDeep 2 [eTop 3]).depth ∧
    (gDeep 2 []).live &&& ~~~(3 : Mask) ≠ 0 ∧ ((eLow 4 0 false).within 4).pend ≠ 0 ∧
    (((eLow 0 4 true).within 4).pend = 0 ∧ ((eLow 0 4 true).within 4).jv = true ∧ ((eLow 0 4 true).within 4).rejoin ≠ 0) := by
  have hp : ∀ l < 32, gQ.em.getLsbD l = true → (gQ.lane l).pbad = false :=
    (ready_of (gd := u) (m := 3) (os := []) (by decide +kernel) (by decide +kernel)).1
  have ha : ∀ n st, (gDeep n st).acts u = 3 := gStack_acts
  refine ⟨fun n st => ⟨cur_of rfl rfl rfl, ⟨hp, by simp⟩, by rw [ha]; decide, by show (3 : Mask) &&& ~~~7 = 0; decide,
    by rw [ha]; show (3 : Mask) &&& ~~~3 = 0; decide⟩, ?_⟩
  decide +kernel

theorem test_meets_TrapsTaken :
    S.curGang = some gg ∧ gg.Ready u [] ∧ S.Uniform gg u [] ∧ S.lateOpen gg.gid = false ∧ gg.tmode = false ∧
      S.lookup gg.core (S.asidOf gg.brick.wall) (S.recordVa gg + 0x6000) .write = some page ∧ gg.tvec ≠ 0 ∧ gg.frameBad = none ∧
      S.portBusy (page.phys (footOf gg.core) (S.recordVa gg + 0x6000)) = false :=
  ⟨gg_cur rfl rfl, gg_ready (by decide +kernel), gg_uniform (by decide), rfl, rfl, by decide +kernel, by decide, by decide +kernel,
   by decide +kernel⟩

/-- In trap mode, before a frame with `em` 3, the clause of a NOP at 0x10000 the one that trapped. -/
def gTrap (depth : Nat) : Gang := { gg with tmode := true, tepc := 0x10000, depth := depth }

def sTrap (depth : Nat) : State :=
  { sg (gTrap depth) with
    foots := S.foots.map fun f => { f with
      mem := (Memory.write f.mem 0x10000 (fetchClause 64 0xC007000000000000)).write 0x27060 (natLe 8 3) } }

theorem gTrap_acts (n : Nat) : (gTrap n).acts u = 3 := gg_acts

theorem test_meets_ReturnsFromTraps :
    (∀ n, (sTrap n).curGang = some (gTrap n) ∧ (gTrap n).Ready u [] ∧ (sTrap n).Uniform (gTrap n) u []) ∧
    gg.tmode = false ∧ (sTrap 0).recordVa (gTrap 0) = 0x20000 ∧
    (sTrap 0).lookup 0 0 0x26000 .read = some page ∧ page.phys 0 0x26000 = 0x26000 ∧
    (sTrap 0).portBusy 0x26000 = false ∧ (sTrap 0).portShut 0x26000 = false ∧
    (∀ i < 34, (sTrap 0).poisoned (0x26000 + 128 * i) = false) ∧ (sTrap 0).poisoned 0x10000 = false ∧
    frameDepth ((sTrap 1).mem 0) 0x26000 ≠ (gTrap 1).depth ∧ frameDepth ((sTrap 0).mem 0) 0x26000 = (gTrap 0).depth ∧
    ((gTrap 0).restoreFrame ((sTrap 0).mem 0) 0x26000).em ≠ 0 ∧ (sTrap 0).lookup 0 0 0x10000 .fetch = some page ∧
    parseHeader (((sTrap 0).mem 0).word 0x10000) = .ok ⟨6, 1, 0, 0, 0⟩ ∧ nextPosition ⟨6, 1, 0, 0, 0⟩ 0 = none ∧
    nextPosition ⟨6, 2, 0, 0, 0⟩ 0 = some 4 :=
  ⟨fun n => ⟨cur_of rfl rfl rfl, ready_of (gTrap_acts n) (by show readable gg 3 [] = true; decide +kernel),
    uniform_of (gTrap_acts n) rfl (by decide) 0 rfl⟩, rfl, by decide +kernel, by decide +kernel, by decide, by decide +kernel, by decide +kernel, fun _ _ => rfl, rfl,
   by decide +kernel, by decide +kernel, by decide +kernel, by decide +kernel, except_of (by decide +kernel), by decide, by decide⟩

/-- The frame of a gang without an active lane: of depth 0, and of depth 1 with a pending lane below. -/
def sTrap0 (n : Nat) : State :=
  { sg { gTrap n with stack := if n = 0 then [] else [eTop 1] } with
    foots := S.foots.map fun f => { f with mem := Memory.write f.mem 0x27064 (natLe 1 n) } }

theorem test_meets_ReturnsFromTraps_empty :
    (∀ n < 2, frameDepth ((sTrap0 n).mem 0) 0x26000 = n ∧ ((gTrap n).restoreFrame ((sTrap0 n).mem 0) 0x26000).em = 0) ∧
    ((eTop 1).within (gTrap 1).live).pend ≠ 0 ∧ (gTrap 1).depth = 1 ∧
    (sTrap0 0).gangs = [gTrap 0] ∧ (sTrap0 1).gangs = [{ gTrap 1 with stack := eTop 1 :: [] }] := by
  decide +kernel

theorem test_meets_TrapFrameHoldsTheRegisters : (gStack 127 []).depth < 128 := by decide

/-- A barrier of the brick one arrival short of its EXPECT, and one that waits for every live lane. -/
def bBar (e : BitVec 13) (a : BitVec 13) (am : BitVec 512) : Brick :=
  { bk with bars := bk.bars.set 15 ⟨0xFFFF, a, e, am, [], []⟩ }

theorem test_meets_ArrivalsAdvancePhases :
    (sb (bBar 2 1 2)).brick? (gg.lane 0).brick = some (bBar 2 1 2) ∧ (sb (bBar 0 1 2)).brick? (gg.lane 0).brick = some (bBar 0 1 2) ∧
      (sb (bBar 0 1 2)).liveOids ⟨1, 0⟩ &&& ~~~((2 : BitVec 512) ||| BitVec.ofNat 512 (2 ^ (gg.lane 0).oid.toNat)) = 0 ∧
      (sb (bBar 3 1 2)).brick? (gg.lane 0).brick = some (bBar 3 1 2) := by
  decide +kernel

/-- The same for a course's barrier. -/
def sCBar (e a : BitVec 13) : State := { S with courses := [{ co with cbars := co.cbars.set 3 ⟨0xFFFF, a, e, 2, [], []⟩ }] }

theorem test_meets_ArrivalsAdvancePhases_course :
    (∀ e a, (sCBar e a).courseOf (gg.lane 0).brick = some { co with cbars := co.cbars.set 3 ⟨0xFFFF, a, e, 2, [], []⟩ }) ∧
    (1 : BitVec 13) + 1 = 2 ∧
    (sCBar 0 1).liveCourse ⟨1, 0⟩ &&& ~~~((2 : BitVec 4096) ||| BitVec.ofNat 4096 (2 ^ (512 * (gg.lane 0).obrick.toNat + (gg.lane 0).oid.toNat))) = 0 := by
  refine ⟨fun e a => ?_, by decide, by decide +kernel⟩
  have h : (gg.lane 0).brick = ⟨1, 0⟩ := by decide +kernel
  rw [h]; rfl

/-- Lane 1 of the gang started in a brick on core 1. -/
def gFar (w : Wait) : Gang :=
  { gg with lanes := gg.lanes.mapIdx fun l x => if l = 1 then { x with brick := ⟨1, 1⟩ } else x, wait := w }

def bFar : Brick := { bk with key := ⟨1, 1⟩, serial := 4, core := 1, seats := [], written := BitVec.allOnes 16384 }

def sFar (w : Wait) : State :=
  { sg (gFar w) with bricks := [{ bk with written := BitVec.allOnes 16384 }, bFar], cycle := 3 }

theorem gFar_acts (w : Wait) : (gFar w).acts u = 3 := gg_acts

theorem gFar_cur (w : Wait) : (sFar w).curGang = some (gFar w) := cur_of rfl rfl rfl

/-- Arrivals of lanes whose barriers are on two cores: at the issue, when they have been sent, and when they are there. -/
theorem test_meets_BarrierInstructionsRun_far :
    ((sFar .ready).curGang = some (gFar .ready) ∧ (gFar .ready).Ready u [] ∧ (gFar .ready).reaching = false ∧
      (sFar .ready).gOpen (gFar .ready) = false ∧ (sFar .ready).reArrival (gFar .ready) ((gFar .ready).acts u) (.brick 15) = false ∧
      (lanesOf ((gFar .ready).acts u)).filter (fun l => !(sFar .ready).farBar (gFar .ready) (.brick 15) l) = [0] ∧
      (sFar .ready).farBar (gFar .ready) (.brick 15) 1 = true) ∧
    (let w := Wait.reaching 3 false [(0, 0, 0)]
     (gFar w).wait = w ∧ 3 ≤ (sFar w).cycle ∧
       (lanesOf ((gFar w).acts u)).filter (fun l => (gFar w).got.all fun x => x.1 != l) = [1]) :=
  ⟨⟨gFar_cur _, ready_of (gFar_acts _) (by show readable gg 3 [] = true; decide +kernel), rfl, rfl, by decide +kernel, by decide +kernel, by decide +kernel⟩,
   rfl, by decide, by decide +kernel⟩

/-- BAR.INIT on a barrier without arrivals, with EXPECT at the number of lanes and one above, and on one with arrivals; an
arrival of lanes that have arrived; a barrier that advances, and one that does not; a phase passed and a phase awaited. -/
theorem test_meets_BarrierInstructionsRun :
    S.Once gg u [.k 1] 0 ∧
    ((S.barView (gg.lane 0) (.brick 15)).arr = 0 ∧ (32 : Nat) ≤ S.barLanes (gg.lane 0).brick (.brick 15) ∧
      S.barLanes (gg.lane 0).brick (.brick 15) < 64 ∧ ((sb (bBar 3 1 2)).barView (gg.lane 0) (.brick 15)).arr ≠ 0) ∧
    S.curGang = some gg ∧ gg.Ready u [] ∧ gg.acts u ≠ 0 ∧ S.reArrival gg (gg.acts u) (.brick 15) = false ∧
    (gg.reaching = false ∧ S.gOpen gg = false ∧ ∀ l ∈ lanesOf (gg.acts u), S.farBar gg (.brick 15) l = false) ∧
    (sb (bBar 3 1 2)).reArrival gg (gg.acts u) (.brick 15) = true ∧
    (let t := S.arriveAll gg (.brick 15) (S.covered gg) (lanesOf (gg.acts u))
     ∀ l ∈ lanesOf (gg.acts u), advancedPast (t.1.barView (gg.lane l) (.brick 15)).phc (phaseOf t.2 l) = true) ∧
    (let s := sb (bBar 3 0 0)
     let t := s.arriveAll gg (.brick 15) (s.covered gg) (lanesOf (gg.acts u))
     s.reArrival gg (gg.acts u) (.brick 15) = false ∧
     ∃ l ∈ lanesOf (gg.acts u), advancedPast (t.1.barView (gg.lane l) (.brick 15)).phc (phaseOf t.2 l) = false) ∧
    gg.Ready u [.k 4] ∧ gg.Ready u [.cst 7] ∧
    (∀ l ∈ lanesOf (gg.acts u), advancedPast (S.barView (gg.lane l) (.brick 15)).phc ((S.opnd gg 0 (.cst 7) l).setWidth 16) = true) ∧
    (∃ l ∈ lanesOf (gg.acts u), advancedPast (S.barView (gg.lane l) (.brick 15)).phc ((S.opnd gg 0 (.k 4) l).setWidth 16) = false) :=
  ⟨gg_once rfl rfl (by decide +kernel), by decide +kernel, gg_cur rfl rfl, gg_ready (by decide +kernel), gg_acts_ne, by decide +kernel,
   by decide +kernel, by decide +kernel, by decide +kernel, by decide +kernel, gg_ready (by decide +kernel), gg_ready (by decide +kernel),
   by decide +kernel, by decide +kernel⟩

/-- A brick of a middle stage whose neighbours let it go on, and one they do not. -/
def bStage (low : BitVec 32) : Brick := { bk with phase := 5, lowph := low, highph := 7 }

def sLead : State := { S with leads := [⟨0, 1, ⟨1, 0⟩, true, 9⟩, ⟨0, 1, ⟨1, 0⟩, false, 9⟩] }

theorem test_meets_PhasesAndTokens :
    S.Once gg u [] 0 ∧ (sb (bStage 5)).Once gg u [] 0 ∧ (sb (bStage 5)).brick? (gg.lane 0).brick = some (bStage 5) ∧
    (let lead := (((sb (bStage 5)).header? 1).map LHeader.lead).getD 0
     (((bStage 5).phase + 1 - (bStage 5).lowph).toInt ≤ (lead : Int) ∧ ((bStage 5).phase + 1 - (bStage 5).highph).toInt ≤ (lead : Int)) ∧
       ¬ ((bStage 4).lowph = 0xFFFFFFFF ∨ ((bStage 4).phase + 1 - (bStage 4).lowph).toInt ≤ (lead : Int))) ∧
    sLead.leads = ⟨0, 1, ⟨1, 0⟩, true, 9⟩ :: [⟨0, 1, ⟨1, 0⟩, false, 9⟩] ∧ sLead.brick? ⟨1, 0⟩ = some bk :=
  ⟨gg_once rfl rfl (by decide +kernel), gg_once rfl rfl (by decide +kernel), by decide +kernel, by decide +kernel, rfl,
   by decide +kernel⟩

/-! ### Witnesses: memory, scratchpad, engines -/

theorem lanes3 {l : Nat} (h : l ∈ lanesOf (gg.acts u)) : l = 0 ∨ l = 1 := by
  have e : lanesOf 3 = [0, 1] := by decide
  rw [gg_acts, e] at h
  simpa using h

def ps2 : List (Nat × TlbEntry) := [(0, page), (1, page)]

theorem ps2_lanes : ps2.map Prod.fst = lanesOf (gg.acts u) := by rw [gg_acts]; decide

theorem mem_ps2 {p : Nat × TlbEntry} (h : p ∈ ps2) : p = (0, page) ∨ p = (1, page) := by simpa [ps2] using h

/-- A request of both lanes goes when its addresses are aligned and mapped. -/
theorem goes_of {f : MemForm} (hg : f.gd = u) (hr : readable gg 3 f.os = true)
    (ha : ∀ l < 32, (3 : Mask).getLsbD l = true → f.va S gg l % f.width = 0)
    (hp0 : S.lookup 0 0 (f.va S gg 0) f.need = some page) (hp1 : S.lookup 0 0 (f.va S gg 1) f.need = some page) :
    f.Goes S gg ps2 :=
  ⟨gg_cur rfl rfl, by rw [hg]; exact gg_ready hr, by rw [hg]; exact gg_acts_ne, by rw [hg, gg_acts]; exact ha,
   by rw [hg]; exact ps2_lanes, fun p hp => by rcases mem_ps2 hp with rfl | rfl <;> assumption⟩

theorem test_meets_MemoryRequestsEnter :
    (∃ f, (Instr.st u .s64 (.k 0) (.k 1) 0x7FF).wf = true ∧ memForm (.st u .s64 (.k 0) (.k 1) 0x7FF) = some f ∧ f.Goes S gg ps2) ∧
    (∃ f, (Instr.atomCas u .z32 (.n 0) (.k 0) (.k 1) (.k 2) ⟨.device, .acqRel, 1⟩).wf = true ∧
      memForm (.atomCas u .z32 (.n 0) (.k 0) (.k 1) (.k 2) ⟨.device, .acqRel, 1⟩) = some f ∧ f.Goes S gg ps2) ∧
    ∃ f, (Instr.atomPush u .none (.k 0) (.k 1) .brick .release).wf = true ∧
      dequeForm (.atomPush u .none (.k 0) (.k 1) .brick .release) = some f ∧ f.Goes S gg ps2 :=
  ⟨⟨_, rfl, rfl, goes_of rfl (by decide +kernel) (by decide +kernel) (by decide +kernel) (by decide +kernel)⟩,
   ⟨_, rfl, rfl, goes_of rfl (by decide +kernel) (by decide +kernel) (by decide +kernel) (by decide +kernel)⟩,
   ⟨_, rfl, rfl, goes_of rfl (by decide +kernel) (by decide +kernel) (by decide +kernel) (by decide +kernel)⟩⟩

/-- The core's L1 holds the line of `k0`. -/
def sL1 : State :=
  { S with l1 := [⟨0, 0, 32, false, List.replicate 128 7, false, [], false, []⟩] }

theorem test_meets_MemoryRequestsEnter_hit :
    ∃ f, (Instr.ld u .z32 .none (.k 0) 0).wf = true ∧ memForm (.ld u .z32 .none (.k 0) 0) = some f ∧ f.kind = .load .z32 none false ∧
      (f.accs sL1 gg ps2).map Access.pa = [0x1000, 0x1000] ∧ (sL1.l1At 0 0x1000 false).isSome = true ∧ sL1.l1Bad 0 0x1000 4 false = false ∧
      sL1.depsOf gg f.kind ((f.accs sL1 gg ps2).map fun a => (a.pa, a.bytes)) = [] ∧ (S.l1At 0 0x1000 false).isNone = true :=
  ⟨_, rfl, rfl, rfl, by decide +kernel, by decide +kernel, by decide +kernel, by decide +kernel, rfl⟩

theorem test_meets_MisalignedAccessTraps :
    ∃ f, (Instr.ld u .z16 .none (.k 4) 0).wf = true ∧ memForm (.ld u .z16 .none (.k 4) 0) = some f ∧ S.curGang = some gg ∧
      gg.Ready f.gd f.os ∧ lowest (maskOf fun l => (gg.acts f.gd).getLsbD l && f.va S gg l % f.width != 0) = some 0 :=
  ⟨_, rfl, rfl, gg_cur rfl rfl, gg_ready (by decide +kernel), by decide +kernel⟩

/-- A write of the gang on its way to its home. -/
def sWrite : State := { S with writes := [⟨7, 7, 3, 0, 1, 0, [(0x1000, 5)], [0, 0, 0, 0], none, [0, 2, 3], []⟩] }

theorem test_meets_FencesOrderAccesses :
    S.Once gg u [] 0 ∧ (S.undoneWrites gg.gid = [] ∧ (∀ r ∈ S.reqs, r.gid = gg.gid → r.kind = .posted → r.arrived = true) ∧
      ∀ w ∈ S.writes, w.gid = gg.gid → w.order.isSome = true) ∧
    sWrite.Once gg u [] 0 ∧ ¬ ∀ w ∈ sWrite.writes, w.gid = gg.gid → w.order.isSome = true :=
  ⟨gg_once rfl rfl (by decide +kernel), by decide, gg_once rfl rfl (by decide +kernel), by decide⟩

/-- No page tables. -/
def sNoPage : State := { S with tlb := [], gtlb := [], foots := Vector.replicate 4 Footing.reset }

/-- A walk of the core group for the page of `k0` is on its way. -/
def sWalks : State := { S with tlb := [], gtlb := [], walks := [⟨9, 0, 0, 0, 0x1000, []⟩] }

theorem test_meets_CacheInstructionsRun_waits :
    sWalks.curGang = some gg ∧ gg.Ready u [.k 0] ∧
    sWalks.softWaits gg (gg.acts u) (fun l => bits (sWalks.opnd gg 0 (.k 0) l) 0 56 / 128 * 128) = true ∧
    sWalks.softWaits gg (gg.acts u) (fun l => bits (sWalks.opnd gg 0 (.k 0) l) 0 56) = true ∧
    S.softWaits gg (gg.acts u) (fun l => bits (S.opnd gg 0 (.k 0) l) 0 56) = false :=
  ⟨gg_cur rfl rfl, gg_ready (by decide +kernel), by decide +kernel, by decide +kernel, by decide +kernel⟩

/-- The same page mirrored. -/
def sMirror : State := { S with tlb := [(0, { page with mirror := true })] }

theorem test_meets_CacheInstructionsRun :
    S.curGang = some gg ∧ gg.Ready u [.k 0] ∧ gg.acts u ≠ 0 ∧ ps2.map Prod.fst = lanesOf (gg.acts u) ∧
    (∀ p ∈ ps2, S.lookup gg.core (S.asidOf gg.brick.wall) (bits (S.opnd gg 0 (.k 0) p.1) 0 56 / 128 * 128) .write = some p.2) ∧
    (∀ p ∈ ps2, p.2.mirror = false) ∧
    (∀ p ∈ ps2, sMirror.lookup gg.core (sMirror.asidOf gg.brick.wall) (bits (sMirror.opnd gg 0 (.k 0) p.1) 0 56 / 128 * 128) .write =
      some { p.2 with mirror := true }) ∧
    S.Once gg u [] 0 ∧
    (∀ p ∈ ps2, S.lookup gg.core (S.asidOf gg.brick.wall) (bits (S.opnd gg 0 (.k 0) p.1) 0 56) .read = some p.2) ∧
    (∀ p ∈ ps2, S.lookup gg.core (S.asidOf gg.brick.wall) (bits (S.opnd gg 0 (.k 0) p.1) 0 56 / 128 * 128) .read = some p.2) ∧
    ps2 ≠ [] ∧ sNoPage.curGang = some gg ∧
    (∀ l ∈ lanesOf (gg.acts u), let va := bits (sNoPage.opnd gg 0 (.k 0) l) 0 56 / 128 * 128
      sNoPage.lookup gg.core (sNoPage.asidOf gg.brick.wall) va .read = none ∧
      sNoPage.walkWaits (groupOf gg.core) (sNoPage.gangPart gg) (sNoPage.asidOf gg.brick.wall) va .read = false ∧
      sNoPage.translate (groupOf gg.core) (sNoPage.gangPart gg) (sNoPage.asidOf gg.brick.wall) va .read = none) :=
  ⟨gg_cur rfl rfl, gg_ready (by decide +kernel), gg_acts_ne, ps2_lanes, by decide +kernel, by decide, by decide +kernel,
   gg_once rfl rfl (by decide +kernel), by decide +kernel, by decide +kernel, by decide, gg_cur rfl rfl, by
     intro l hl
     rcases lanes3 hl with rfl | rfl <;> decide +kernel⟩

/-- A brick whose every granule is written. -/
def bW : Brick := { bk with written := BitVec.allOnes 16384, spad := [(0, 1), (524287, 2)] }

theorem test_meets_ScratchLoadsReturnBytes :
    (Instr.lds u .z8 (.n 0) (.cst 0) 0x7FFFF).wf = true ∧ (sb bW).curGang = some gg ∧ gg.Ready u [.cst 0] ∧ gg.acts u ≠ 0 ∧
    (sb bW).waitsFor gg gg.after = [] ∧ (sb bW).lanesNow gg (gg.acts u) (fun _ => bW.away gg) = some [0, 1] ∧ struckOf gg.got = [] ∧
    gg.goesFar (gg.acts u) (fun _ => bW.away gg) = false ∧
    ∀ l ∈ lanesOf (gg.acts u),
      (sb bW).spadPlace gg false (Ty.bytes .z8) (((sb bW).opnd gg 0 (.cst 0) l).setWidth 32 + (0x7FFFF : BitVec 24).signExtend 32 :
        BitVec 32).toNat l = .ok (bW, 524287) ∧
      bW.held 524287 1 = false ∧ bW.allWritten 524287 1 = true ∧ (sb bW).badSpad bW 524287 1 = none := by
  refine ⟨rfl, gg_cur rfl rfl, gg_ready (by decide +kernel), gg_acts_ne, by decide +kernel, by decide +kernel, rfl, by decide +kernel, fun l hl => ?_⟩
  rcases lanes3 hl with rfl | rfl <;> exact ⟨except_of (by decide +kernel), by decide +kernel, by decide +kernel, by decide +kernel⟩

/-- A load or store of lanes of bricks on two cores: at its issue, and when it has reached the other core. -/
def farPlace (w : Wait) (l : Nat) : Except Nat (Brick × Nat) :=
  (sFar w).spadPlace (gFar w) false (Ty.bytes .z8) (((sFar w).opnd (gFar w) 0 (.cst 0) l).setWidth 32 + (0 : BitVec 24).signExtend 32 :
    BitVec 32).toNat l

theorem test_meets_Scratch_far :
    (∀ w, (sFar w).curGang = some (gFar w) ∧ (gFar w).Ready u [.cst 0] ∧ (gFar w).Ready u [.cst 0, .k 0]) ∧
    (let g := gFar .ready
     farPlace .ready 0 = .ok ({ bk with written := BitVec.allOnes 16384 }, 0) ∧ farPlace .ready 1 = .ok (bFar, 0) ∧
     (sFar .ready).lanesNow g 3 (fun l => g.farAt (farPlace .ready l)) = some [0] ∧ g.goesFar 3 (fun l => g.farAt (farPlace .ready l)) = true ∧
     (sFar .ready).waitsFor g (g.after ++ g.afterSt ++ g.hb) = []) ∧
    (let w := Wait.reaching 3 true [(0, 0, 0)]
     let g := gFar w
     (sFar w).lanesNow g 3 (fun l => g.farAt (farPlace w l)) = some [1] ∧ g.goesFar 3 (fun l => g.farAt (farPlace w l)) = false ∧
     struckOf g.got = [] ∧ bFar.held 0 1 = false ∧ bFar.allWritten 0 1 = true ∧ (sFar w).badSpad bFar 0 1 = none) :=
  ⟨fun w => ⟨gFar_cur w, ready_of (gFar_acts w) (by show readable gg 3 _ = true; decide +kernel),
     ready_of (gFar_acts w) (by show readable gg 3 _ = true; decide +kernel)⟩,
   ⟨except_of (by decide +kernel), except_of (by decide +kernel), by decide +kernel, by decide +kernel, by decide +kernel⟩,
   by decide +kernel, by decide +kernel, rfl, by decide +kernel, by decide +kernel, by decide +kernel⟩

theorem test_meets_ScratchStoresWriteBytes :
    (Instr.stc u .s64 (.cst 0) (.k 0) 0x7FFF8).wf = true ∧ S.curGang = some gg ∧ gg.Ready u [.cst 0, .k 0] ∧
    (S.bricks.map Brick.key).Nodup ∧ S.waitsFor gg (gg.after ++ gg.afterSt ++ gg.hb) = [] ∧
    S.lanesNow gg (gg.acts u) (fun _ => bk.away gg) = some [0, 1] ∧ struckOf gg.got = [] ∧
    gg.goesFar (gg.acts u) (fun _ => bk.away gg) = false ∧
    ∀ l ∈ lanesOf (gg.acts u),
      S.spadPlace gg true (Ty.bytes .s64) ((S.opnd gg 0 (.cst 0) l).setWidth 32 + (0x7FFF8 : BitVec 24).signExtend 32 :
        BitVec 32).toNat l = .ok (bk, 524280) := by
  refine ⟨rfl, gg_cur rfl rfl, gg_ready (by decide +kernel), by decide, by decide +kernel, by decide +kernel, rfl, by decide +kernel, fun l hl => ?_⟩
  rcases lanes3 hl with rfl | rfl <;> exact except_of (by decide +kernel)

def isError {ε α : Type} [DecidableEq ε] (f : Except ε α) (x : ε) : Bool :=
  match f with
  | .error y => decide (y = x)
  | _ => false

theorem error_of {ε α : Type} [DecidableEq ε] {f : Except ε α} {x : ε} (h : isError f x = true) : f = .error x := by
  cases f with
  | error y => rw [of_decide_eq_true h]
  | ok o => cases h

/-- `k0` of each lane's own register `n0`: 0 in lane 0, beyond the allotment in lane 1. -/
def gMixed : Gang :=
  { gg with lanes := gg.lanes.mapIdx fun l x => if l = 1 then { x with n := x.n.set 0 (NCell.of 0x80000) } else x }

def mixedPlace (l : Nat) : Except Nat (Brick × Nat) :=
  (sg gMixed).spadPlace gMixed false (Ty.bytes .z32) (((sg gMixed).opnd gMixed 0 (.n 0) l).setWidth 32 + (0 : BitVec 24).signExtend 32 :
    BitVec 32).toNat l

/-- Lane 0 stores and lane 1 is struck by its place; both are struck where they load what nothing has written. -/
theorem test_meets_StruckLanesLeave :
    (Instr.sts u .z32 (.n 0) (.k 0) 0).wf = true ∧ (Instr.lds u .z32 .none (.n 0) 0).wf = true ∧
    (sg gMixed).curGang = some gMixed ∧ gMixed.Ready u [.n 0, .k 0] ∧ gMixed.Ready u [.n 0] ∧ gMixed.acts u ≠ 0 ∧
    ((sg gMixed).bricks.map Brick.key).Nodup ∧ (sg gMixed).waitsFor gMixed (gMixed.after ++ gMixed.afterSt ++ gMixed.hb) = [] ∧
    (sg gMixed).lanesNow gMixed 3 (fun l => gMixed.farAt (mixedPlace l)) = some [0, 1] ∧
    gMixed.goesFar 3 (fun l => gMixed.farAt (mixedPlace l)) = false ∧
    mixedPlace 0 = .ok (bk, 0) ∧ mixedPlace 1 = .error 0x01 ∧ bk.allWritten 0 4 = false ∧ heldAt 4 (mixedPlace 0) = false ∧
    (∀ l ∈ [0, 1], ((sg gMixed).spadRead false .z32 (mixedPlace l)).got l ≠ none) :=
  ⟨rfl, rfl, cur_of rfl rfl rfl, ready_of (m := 3) gg_acts (by decide +kernel), ready_of (m := 3) gg_acts (by decide +kernel),
   by decide +kernel, by decide, by decide +kernel, by decide +kernel, by decide +kernel, except_of (by decide +kernel), error_of (by decide +kernel),
   by decide +kernel, by decide +kernel, by decide +kernel⟩

/-- COPY.1D of 64 bytes and of none; the last bytes of the allotment. -/
theorem test_meets_CopiesStart :
    (∃ f, (Instr.copy u (some 7) 7 .global 0 (.k 0) (.k 1) 0x7FFC0).wf = true ∧
      copyForm (.copy u (some 7) 7 .global 0 (.k 0) (.k 1) 0x7FFC0) = some f ∧ f.Goes S gg 0 bk ⟨64, [], 0, 0, 0⟩ ∧
      (Box.mk 64 [] 0 0 0).empty = false) ∧
    (∃ f, (Instr.copy u none 0 .global 0 (.k 0) (.cst 0) 0).wf = true ∧ copyForm (.copy u none 0 .global 0 (.k 0) (.cst 0) 0) = some f ∧
      f.Goes S gg 0 bk ⟨0, [], 0, 0, 0⟩ ∧ (Box.mk 0 [] 0 0 0).empty = true ∧ f.loop = false) :=
  ⟨⟨_, rfl, rfl,
    { once := gg_once rfl rfl (by decide +kernel), brick := by decide +kernel, sound := .inl ⟨rfl, rfl⟩, box := except_of (by decide +kernel),
      room := by decide, aligned := by simp, source := rfl, idle := by decide +kernel, member := by simp, free := by decide +kernel,
      places := by decide +kernel, token := by decide +kernel }, rfl⟩,
   ⟨_, rfl, rfl,
    { once := gg_once rfl rfl (by decide +kernel), brick := by decide +kernel, sound := .inl ⟨rfl, rfl⟩, box := except_of (by decide +kernel),
      room := by decide, aligned := by simp, source := rfl, idle := by decide +kernel, member := by simp, free := by decide +kernel,
      places := by decide +kernel, token := by decide +kernel }, rfl, rfl⟩⟩

/-- MC.LD of 64 bytes by a member of group 63. -/
def sMember : State :=
  { S with foots := S.foots.set 0 { S.foots[0] with mc := Footing.reset.mc.set 63 ⟨0, [⟨1, 0⟩, ⟨1, 1⟩], 20312⟩ }
           bricks := [{ bk with enrolled := 0x8000000000000000 }] }

theorem test_meets_CopiesStart_multicast :
    ∃ f, (Instr.mcLd u none 7 0 (.k 0) (.k 1) 0 63).wf = true ∧ copyForm (.mcLd u none 7 0 (.k 0) (.k 1) 0 63) = some f ∧
      f.Goes sMember gg 0 { bk with enrolled := 0x8000000000000000 } ⟨64, [], 0, 0, 0⟩ ∧ f.grp = some 63 ∧ (Box.mk 64 [] 0 0 0).empty = false :=
  ⟨_, rfl, rfl,
   { once := gg_once rfl rfl (by decide +kernel), brick := by decide +kernel, sound := .inl ⟨rfl, rfl⟩, box := except_of (by decide +kernel),
     room := by decide, aligned := by decide, source := rfl, idle := by decide +kernel,
     member := by
       intro n h
       have e : n = 63 := by simpa using h.symm
       subst e
       decide +kernel
     free := by decide +kernel, places := by decide +kernel, token := by decide +kernel }, rfl, rfl⟩

/-- A loop copy of two iterations of one byte, whose descriptor lies at the start of the allotment. -/
def bLoop : Brick :=
  (bW.write 0 (natLe 8 1)).write 8 (natLe 8 2)

theorem test_meets_CopiesStart_loop :
    ∃ f, (Instr.copyl u none 0 .global 0 (.k 0) (.cst 0) 0x7FFE0).wf = true ∧
      copyForm (.copyl u none 0 .global 0 (.k 0) (.cst 0) 0x7FFE0) = some f ∧ f.Goes (sb bLoop) gg 0 bLoop ⟨1, [], 2, 0, 0⟩ ∧
      (Box.mk 1 [] 2 0 0).empty = false :=
  ⟨_, rfl, rfl,
   { once := gg_once rfl rfl (by decide +kernel), brick := by decide +kernel, sound := .inr (by decide +kernel),
     box := except_of (by decide +kernel), room := by decide +kernel, aligned := by decide, source := rfl, idle := by decide +kernel,
     member := by simp, free := by decide +kernel, places := by decide +kernel, token := by decide +kernel }, rfl⟩

/-- The same of no byte. -/
def bLoop0 : Brick := bW.write 8 (natLe 8 2) |>.write 0 (natLe 8 0)

theorem test_meets_CopiesStart_empty_loop :
    ∃ f, (Instr.copyl u none 0 .global 0 (.k 0) (.cst 0) 0).wf = true ∧
      copyForm (.copyl u none 0 .global 0 (.k 0) (.cst 0) 0) = some f ∧ f.Goes (sb bLoop0) gg 0 bLoop0 ⟨0, [], 2, 0, 0⟩ ∧
      (Box.mk 0 [] 2 0 0).empty = true ∧ f.loop = true :=
  ⟨_, rfl, rfl,
   { once := gg_once rfl rfl (by decide +kernel), brick := by decide +kernel, sound := .inr (by decide +kernel),
     box := except_of (by decide +kernel), room := by decide +kernel, aligned := by decide, source := rfl, idle := by decide +kernel,
     member := by simp, free := by decide +kernel, places := by decide +kernel, token := by decide +kernel }, rfl, rfl⟩

/-- A descriptor whose reserved bits are set. -/
def bBad : Brick := bW.write 0 (natLe 8 (2 ^ 63))

/-- A loop whose stages still land. -/
def bRing : Brick := { bk with w := bk.w.set 7 { Wmark.zero with armed := true, loop := true, iters := 3, landed := 1 } }

/-- What the checks of a copy find: an operand, an offset, a written place, a descriptor, a window, a ring, a group (09:R200). -/
theorem test_meets_CopiesStart_traps :
    S.Once gg u [.k 0, .k 0] 0 ∧ S.Once gg u [.k 0, .cst 1] 0 ∧ S.Once gg u [.k 0, .k 1] 0 ∧
    (∀ b ∈ [bBad, bRing], (sb b).Once gg u [.k 0, .k 1] 0 ∧ (sb b).brick? (gg.lane 0).brick = some b) ∧
    (bits (0x1000000000 : Word) 20 44 ≠ 0 ∧ bits (S.opnd gg 0 (.cst 1) 0) 0 19 % 8 ≠ 0) ∧
    (bBad.allWritten 0 16 = true ∧ (sb bBad).badSpad bBad 0 16 = none ∧ boxOf true (bBad.words 0 2) = none) ∧
    (let f : CopyForm := ⟨u, none, 7, .global, 1, .k 0, .k 1, 0x7FFFF, false, none⟩
     let x : Box := ⟨64, [], 0, 0, 0⟩
     copyForm (.copy u none 7 .global 0 (.k 0) (.k 1) 0x7FFFF) = some f ∧ bk.boxAt false 1 (S.opnd gg 0 (.k 0) 0) (S.opnd gg 0 (.k 1) 0) = .ok x ∧
       ¬ f.limit x ≤ bk.size ∧ { f with base := 0 }.limit x ≤ bk.size ∧ S.sourceOk bk .global (S.opnd gg 0 (.k 0) 0) x = true ∧
       (sb bRing).sourceOk bRing .global ((sb bRing).opnd gg 0 (.k 0) 0) x = true) ∧
    ((vget bRing.w 7).loop = true ∧ (vget bRing.w 7).landed.toNat < (vget bRing.w 7).iters.toNat ∧ S.enrolled bk 63 = false) := by
  refine ⟨gg_once rfl rfl (by decide +kernel), gg_once rfl rfl (by decide +kernel), gg_once rfl rfl (by decide +kernel), ?_, by decide +kernel,
    by decide +kernel, ⟨rfl, except_of (by decide +kernel), by decide +kernel, by decide +kernel, rfl, rfl⟩, by decide +kernel⟩
  intro b hb
  have h : b = bBad ∨ b = bRing := by simpa using hb
  rcases h with rfl | rfl <;> exact ⟨gg_once rfl rfl (by decide +kernel), by decide +kernel⟩

/-- Watermarks of a loop of three iterations: one landed, none or one released; all released. -/
def bMark (landed released : BitVec 20) : Brick :=
  { bk with w := bk.w.set 7 { Wmark.zero with armed := true, loop := true, iters := 3, landed := landed, released := released } }

theorem bMark_brick (a b : BitVec 20) : (sb (bMark a b)).brick? (gg.lane 0).brick = some (bMark a b) := by
  have h : (gg.lane 0).brick = ⟨1, 0⟩ := by decide +kernel
  rw [h]; rfl

theorem test_meets_WatermarksAndGroups :
    (∀ a b, (sb (bMark a b)).Once gg u [] 0 ∧ (sb (bMark a b)).brick? (gg.lane 0).brick = some (bMark a b)) ∧
    ((vget (bMark 1 0).w 7).loop = true ∧ (vget (bMark 1 0).w 7).released ≠ (vget (bMark 1 0).w 7).iters ∧
      (vget (bMark 1 0).w 7).released ≠ (vget (bMark 1 0).w 7).landed) ∧
    ((vget bk.w 7).loop = false ∧ (vget (bMark 3 3).w 7).released = (vget (bMark 3 3).w 7).iters) ∧
    ((vget (bMark 1 1).w 7).loop = true ∧ (vget (bMark 1 1).w 7).released ≠ (vget (bMark 1 1).w 7).iters ∧
      (vget (bMark 1 1).w 7).released = (vget (bMark 1 1).w 7).landed) ∧
    S.Once gg u [.cst 7, .k 1] 0 ∧ S.Once gg u [.k 4, .k 1] 0 ∧ S.Once gg u [.k 4] 0 ∧ S.brick? (gg.lane 0).brick = some bk ∧
    (let grp := bits (S.opnd gg 0 (.k 4) 0) 0 6
     let r := S.mcGroup (footOf bk.core) grp
     let t := bits (S.opnd gg 0 (.k 1) 0) 0 15
     bits (S.opnd gg 0 (.k 4) 0) 6 58 = 0 ∧ r.members = [] ∧ r.members.length < 64 ∧ 0 < t ∧ t ≤ 20312 ∧ gg.tokFull none = false) :=
  ⟨fun a b => ⟨gg_once rfl rfl (by decide +kernel), bMark_brick a b⟩, by decide +kernel, by decide +kernel, by decide +kernel,
   gg_once rfl rfl (by decide +kernel), gg_once rfl rfl (by decide +kernel), gg_once rfl rfl (by decide +kernel), by decide +kernel,
   by decide +kernel⟩

/-- `k1` names a list of 65,536 elements at offset 0. -/
def gI : Gang := { gg with k := gg.k.set 1 (NCell.of 0x1000000000) }

theorem gI_once {os : List Opnd} (h : readable gI 3 os = true) : (sg gI).Once gI u os 0 :=
  once_of (m := 3) gg_acts rfl rfl rfl h (by decide)

theorem test_meets_GathersStart :
    (∃ f, (Instr.gather u .z8 none 7 (.k 0) (.k 1) 0 7 false).wf = true ∧ idxForm (.gather u .z8 none 7 (.k 0) (.k 1) 0 7 false) = some f ∧
      f.Goes (sg gI) gI 0 bk ∧ f.count (sg gI) gI 0 ≠ 0) ∧
    (∃ f, (Instr.gather u .z8 none 7 (.k 0) (.cst 0) 0 7 false).wf = true ∧
      idxForm (.gather u .z8 none 7 (.k 0) (.cst 0) 0 7 false) = some f ∧ f.Goes (sg gI) gI 0 bk ∧ f.count (sg gI) gI 0 = 0 ∧
      f.gather = true) ∧
    (∃ f, (Instr.scatterAdd u .s64 (some 0) (.k 0) (.cst 0) 8 0 true).wf = true ∧
      idxForm (.scatterAdd u .s64 (some 0) (.k 0) (.cst 0) 8 0 true) = some f ∧ f.Goes (sg gI) gI 0 bk ∧ f.count (sg gI) gI 0 = 0) :=
  ⟨⟨_, rfl, rfl,
    { once := gI_once (by decide +kernel), brick := by decide +kernel, aligned := by decide +kernel, reserved := by decide +kernel,
      small := by decide +kernel, list := by decide +kernel, mask := by decide +kernel, window := by decide +kernel,
      idle := by decide +kernel, places := by decide, token := rfl }, by decide +kernel⟩,
   ⟨_, rfl, rfl,
    { once := gI_once (by decide +kernel), brick := by decide +kernel, aligned := by decide +kernel, reserved := by decide +kernel,
      small := by decide +kernel, list := by decide +kernel, mask := by decide +kernel, window := by decide +kernel,
      idle := by decide +kernel, places := by decide, token := rfl }, by decide +kernel, rfl⟩,
   ⟨_, rfl, rfl,
    { once := gI_once (by decide +kernel), brick := by decide +kernel, aligned := by decide +kernel, reserved := by decide +kernel,
      small := by decide +kernel, list := by decide +kernel, mask := by decide +kernel, window := by decide +kernel,
      idle := by decide +kernel, places := by decide, token := by decide +kernel }, by decide +kernel⟩⟩

/-- A misaligned array, a list with a reserved bit, a gather into a ring that still lands. -/
theorem test_meets_GathersStart_traps :
    (∀ b ∈ [bk, bRing], (sb b).Once gg u [.k 2, .cst 0] 0 ∧ (sb b).Once gg u [.k 0, .ones] 0 ∧ (sb b).Once gg u [.k 0, .cst 0] 0 ∧
      (sb b).brick? (gg.lane 0).brick = some b) ∧
    idxForm (.gather u .z32 none 7 (.k 0) (.cst 0) 0 0 false) = some ⟨u, true, false, .z32, none, 7, .k 0, .cst 0, 0, 0, false⟩ ∧
    bits (S.opnd gg 0 (.k 2) 0) 0 56 % 4 ≠ 0 ∧ bits (S.opnd gg 0 (.k 0) 0) 0 56 % 4 = 0 ∧ (S.opnd gg 0 .ones 0).getLsbD 19 = true ∧
    (let f : IdxForm := ⟨u, true, false, .z32, none, 7, .k 0, .cst 0, 0, 0, false⟩
     let s := sb bRing
     let n := f.count s gg 0
     f.list s gg 0 % 4 = 0 ∧ n ≤ 65536 ∧ f.list s gg 0 + 4 * n ≤ bRing.size ∧ maskOff (f.list s gg 0) n + maskLen n ≤ bRing.size ∧
       f.base + n * 4 ≤ bRing.size) := by
  refine ⟨fun b hb => ?_, rfl, by decide +kernel, by decide +kernel, by decide +kernel, by decide +kernel⟩
  have h : b = bk ∨ b = bRing := by simpa using hb
  rcases h with rfl | rfl <;> exact ⟨gg_once rfl rfl (by decide +kernel), gg_once rfl rfl (by decide +kernel),
    gg_once rfl rfl (by decide +kernel), by decide +kernel⟩

/-- A descriptor of four words at the start of the allotment. -/
def bDesc (a b c d : Nat) : Brick :=
  bW.write 0 (natLe 8 a ++ natLe 8 b ++ natLe 8 c ++ natLe 8 d)

theorem describes_of {b : Brick} (h : ((sb b).brick? ⟨1, 0⟩ = some b ∧ 32 ≤ b.size) ∧ b.allWritten 0 32 = true ∧ (sb b).badSpad b 0 32 = none) :
    b.Describes (sb b) 0 :=
  ⟨by decide, by decide, h.1.2, h.2.1, h.2.2⟩

/-- One row of one block from global memory to global memory; and no row. -/
theorem test_meets_QuantisationStarts :
    ((Instr.quant u .bp none (.cst 0) .f32).wf = true ∧ (sb (bDesc 0 0 0 0x10001)).Once gg u [.cst 0] 0 ∧
      (sb (bDesc 0 0 0 0x10001)).brick? (gg.lane 0).brick = some (bDesc 0 0 0 0x10001) ∧
      (bDesc 0 0 0 0x10001).Describes (sb (bDesc 0 0 0 0x10001)) 0 ∧
      quantDesc ((bDesc 0 0 0 0x10001).words 0 4) = some ⟨(false, 0), (false, 0), (false, 0), 1, 1, 0⟩ ∧
      (QuantDesc.mk (false, 0) (false, 0) (false, 0) 1 1 0).ok (bDesc 0 0 0 0x10001).size 4 = true ∧ gg.tokFull none = false ∧
      (QuantDesc.mk (false, 0) (false, 0) (false, 0) 1 1 0).empty = false ∧ ((sb (bDesc 0 0 0 0x10001)).group (groupOf gg.core)).quants.length < 8) ∧
    (quantDesc ((bDesc 0 0 0 0).words 0 4) = some ⟨(false, 0), (false, 0), (false, 0), 0, 0, 0⟩ ∧
      (QuantDesc.mk (false, 0) (false, 0) (false, 0) 0 0 0).ok (bDesc 0 0 0 0).size 4 = true ∧
      (QuantDesc.mk (false, 0) (false, 0) (false, 0) 0 0 0).empty = true) :=
  ⟨⟨rfl, gg_once rfl rfl (by decide +kernel), by decide +kernel, describes_of (by decide +kernel), by decide +kernel, by decide +kernel, rfl,
    rfl, by decide +kernel⟩, by decide +kernel, by decide +kernel, rfl⟩

/-- QUANT of a misaligned offset, of a descriptor with a reserved bit, and of one whose values begin at no multiple of 256. -/
theorem test_meets_QuantisationStarts_traps :
    S.Once gg u [.cst 1] 0 ∧ bits (S.opnd gg 0 (.cst 1) 0) 0 19 % 8 ≠ 0 ∧
    (let b := bDesc 0 0 0 (2 ^ 56)
     b.Describes (sb b) 0 ∧ bits ((b.words 0 4).getD 3 0) 56 8 ≠ 0) ∧
    (let b := bDesc 0 8 0 0x10001
     b.Describes (sb b) 0 ∧ quantDesc (b.words 0 4) = some ⟨(false, 0), (false, 8), (false, 0), 1, 1, 0⟩) :=
  ⟨gg_once rfl rfl (by decide +kernel), by decide +kernel, ⟨describes_of (by decide +kernel), by decide +kernel⟩,
   describes_of (by decide +kernel), by decide +kernel⟩

/-- TOPK of the best of one logit. -/
theorem test_meets_SamplingStarts :
    let b := bDesc 0 0x100000001 0 0
    (Instr.topk u .f32 (some 1) (.cst 0)).wf = true ∧ sampForm (.topk u .f32 (some 1) (.cst 0)) = some (u, .topk, .f32, some 1, .cst 0) ∧
      (sb b).Once gg u [.cst 0] 0 ∧ (sb b).brick? (gg.lane 0).brick = some b ∧ b.Describes (sb b) 0 ∧ b.held 0 32 = false ∧
      (sampFields (b.words 0 4)).ok (b.words 0 4) .topk b.size 4 = true ∧ gg.tokFull (some 1) = false ∧
      ((sb b).samples.filter fun r => r.core == gg.core).length < 8 :=
  ⟨rfl, rfl, gg_once rfl rfl (by decide +kernel), by decide +kernel, describes_of (by decide +kernel), by decide +kernel, by decide +kernel,
   by decide +kernel, by decide⟩

/-- A descriptor that a watermark holds, one not written, and one of each operation that a check refuses. -/
theorem test_meets_SamplingStarts_traps :
    let b := bDesc 0 0 0 0
    let h := { bW with w := bW.w.set 0 { Wmark.zero with armed := true, base := 0, value := 0, limit := 64 } }
    (sb b).Once gg u [.cst 0] 0 ∧ (sb h).Once gg u [.cst 0] 0 ∧ h.held 0 32 = true ∧ bk.held 0 32 = false ∧ bk.allWritten 0 32 = false ∧
      b.Describes (sb b) 0 ∧ b.held 0 32 = false ∧ (sampFields (b.words 0 4)).k = 0 ∧
      (let c := bDesc 0 (2 ^ 36) 0 0
       c.Describes (sb c) 0 ∧ bits ((c.words 0 4).getD 1 0) 34 6 ≠ 0) ∧
      (let c := bDesc 0 (2 ^ 60) 0 0
       c.Describes (sb c) 0 ∧ bits ((c.words 0 4).getD 1 0) 52 12 ≠ 0) :=
  ⟨gg_once rfl rfl (by decide +kernel), gg_once rfl rfl (by decide +kernel), by decide +kernel, by decide +kernel, by decide +kernel,
   describes_of (by decide +kernel), by decide +kernel, by decide +kernel, ⟨describes_of (by decide +kernel), by decide +kernel⟩, describes_of (by decide +kernel), by decide +kernel⟩

/-- A product of tiles in the scratchpad and in global memory, a tile zeroed, a tile read. -/
theorem test_meets_MatrixInstructionsIssue :
    (∃ f, (Instr.mma u .s8 (some 0) 7 (.cst 0) (.k 0) ⟨8, 8, true, false⟩).wf = true ∧
      matForm (.mma u .s8 (some 0) 7 (.cst 0) (.k 0) ⟨8, 8, true, false⟩) = some f ∧ f.Goes S gg 0 bk) ∧
    (∃ f, (Instr.accZero u none 0).wf = true ∧ matForm (.accZero u none 0) = some f ∧ f.Goes S gg 0 bk) ∧
    S.Once gg u [.k 1] 0 ∧ S.brick? (gg.lane 0).brick = some bk ∧ (bk.core = gg.core → S.mqHolds bk.core = false) :=
  ⟨⟨_, rfl, rfl,
    { once := gg_once rfl rfl (by decide +kernel), brick := by decide +kernel, aligned := by decide +kernel, inside := by decide +kernel,
      room := by decide +kernel, token := by decide +kernel }⟩,
   ⟨_, rfl, rfl,
    { once := gg_once rfl rfl (by decide +kernel), brick := by decide +kernel, aligned := by decide +kernel, inside := by decide +kernel,
      room := by decide +kernel, token := by decide +kernel }⟩,
   gg_once rfl rfl (by decide +kernel), by decide +kernel, by decide +kernel⟩

/-- A misaligned second operand; one in the scratchpad that leaves the allotment. -/
theorem test_meets_MatrixInstructionsIssue_traps :
    (∃ f, matForm (.mma u .s8 none 7 (.cst 0) (.cst 2) ⟨8, 8, true, false⟩) = some f ∧ S.Once gg f.gd f.os 0 ∧
      f.ops (S.opnd gg 0 f.a 0) (S.opnd gg 0 f.b 0) = [⟨0, true, 256, 256, 32⟩] ++ ⟨2, false, 256, 256, 32⟩ :: [] ∧
      bits (0 : Word) 0 56 % 32 = 0 ∧ bits (2 : Word) 0 56 % 32 ≠ 0) ∧
    ∃ f, matForm (.mma u .s8 none 7 .immz (.cst 0) ⟨8, 8, true, false⟩) = some f ∧
      f.ops 0x7FFE0 0 = [] ++ ⟨0x7FFE0, true, 256, 256, 32⟩ :: [⟨0, false, 256, 256, 32⟩] ∧ bk.size < bits (0x7FFE0 : Word) 0 56 + 63 * 256 + 256 :=
  ⟨⟨_, rfl, gg_once rfl rfl (by decide +kernel), by decide +kernel, by decide, by decide⟩, _, rfl, by decide +kernel, by decide +kernel⟩

/-- A gang whose role may not reorder; one inside a split; one with an operation in flight; the only participant of its
course; one of two. -/
def gReord (r : Bool) (d : Nat) (o : BitVec 8) : Gang :=
  { gg with reord := r, depth := d, out := gg.out.set 7 o, clause := [(0, .reorderPack u (.k 2) 0 1)] }

def sReord (g : Gang) (st : RState) : State :=
  { sg g with courses := [{ co with state := st, expected := if st = .idle then [] else [3, 4] }] }

theorem gReord_once (r : Bool) (d : Nat) (o : BitVec 8) (st : RState) : (sReord (gReord r d o) st).Once (gReord r d o) u [.k 2] 0 :=
  once_of (m := 3) gg_acts rfl rfl rfl (by show readable gg 3 [.k 2] = true; decide +kernel) (by decide)

theorem test_meets_ReordersArrive :
    (Instr.reorderPack u (.k 2) 0 1).wf = true ∧ (∀ r d o st, (sReord (gReord r d o) st).Once (gReord r d o) u [.k 2] 0) ∧
    (gReord false 0 0).reord = false ∧ ((gReord true 64 0).reord = true ∧ (gReord true 64 0).depth ≠ 0) ∧
    (∃ j : Fin 8, (gReord true 0 1).out[j] ≠ 0) ∧ (∀ j : Fin 8, (gReord true 0 0).out[j] = 0) ∧
    (let g := gReord true 0 0
     let s := sReord g .idle
     let c := { co with expected := [] }
     s.lateOpen g.gid = false ∧ g.badTag u (.k 2) (payloadRegs 0 1) = none ∧ s.courseOf g.brick = some c ∧ c.state = .idle ∧ (s.participants c.key).map Gang.gid = [g.gid] ∧
       g.instr = some (.reorderPack u (.k 2) 0 1) ∧ s.pendingBar c = none ∧ (s.group c.group).sorter = none) ∧
    (let g := gReord true 0 0
     let s := sReord g .gathering
     let c := { co with state := .gathering, expected := [3, 4] }
     s.courseOf g.brick = some c ∧ c.state = .gathering ∧ ∃ x ∈ c.expected, x ∉ c.arrived ++ [g.gid]) :=
  ⟨rfl, gReord_once, rfl, by decide +kernel, by decide +kernel, by decide +kernel, by decide +kernel, by decide +kernel⟩

/-! ### Witnesses: launches, monitors, streams -/

def rec0 : Packet := newRecord 0x1000 0 1

/-- A launch record of class 1 held; its number of waits 2; none held. -/
def gRec (v : Bool) : Gang := { gg with lr := rec0, lrv := v }

theorem gRec_once (v : Bool) {os : List Opnd} (h : readable gg 3 os = true) : (sg (gRec v)).Once (gRec v) u os 0 :=
  once_of (m := 3) gg_acts rfl rfl rfl h (by decide)

def gWaits : Gang := { gRec true with lr := Packet.setWord rec0 2 (vget rec0 2 + 0x1000000000000000) }

theorem test_meets_LaunchRecordsBuilt :
    S.Once gg u [.k 0, .k 1] 0 ∧
    (∃ p, (Instr.lrecWait u (.k 0) (.k 1)).wf = true ∧
      recordForm (.lrecWait u (.k 0) (.k 1)) (fun o => (sg (gRec true)).opnd (gRec true) 0 o 0) (gRec true).lr = some (u, [.k 0, .k 1], p)) ∧
    (∀ v, (sg (gRec v)).Once (gRec v) u [.k 0, .k 1] 0) ∧ (gRec true).lrv = true ∧ (gRec false).lrv = false ∧
    ((sg gWaits).Once gWaits u [.k 0, .k 1] 0 ∧ gWaits.lrv = true ∧ ((vget gWaits.lr 2).extractLsb' 59 2).toNat = 2) :=
  ⟨gg_once rfl rfl (by decide +kernel), ⟨_, rfl, rfl⟩, fun v => gRec_once v (by decide +kernel), rfl, rfl,
   once_of (m := 3) gg_acts rfl rfl rfl (by show readable gg 3 _ = true; decide +kernel) (by decide), rfl, by decide +kernel⟩

def pend0 : PendRec := ⟨rec0, 0, 3, none, 0, 0, []⟩

/-- A full pending queue, in a wall without an overflow ring and with one. -/
def sFull (ring : Addr) : State :=
  { sg (gRec true) with bricks := [{ bk with pendq := [pend0, pend0, pend0, pend0] }]
                        walls := [{ wl with header := some { hd with ovfq := ring } }] }

theorem test_meets_LaunchesAreRouted :
    (∀ v, (sg (gRec v)).Once (gRec v) u [] 0) ∧ S.brick? (gg.lane 0).brick = some bk ∧ ¬ ((gRec false).lrv = true) ∧
    ((gRec true).lrv = true ∧ Packet.formOk (gRec true).lr = true ∧ Packet.cls (gRec true).lr ≠ 0 ∧
      (sg (gRec true)).classOf gg.brick.wall ≤ Packet.cls (gRec true).lr) ∧ (gRec true).tokFull none = false ∧
    bk.pendq.length < 4 ∧ (∀ a, (sFull a).Once (gRec true) u [] 0) ∧
    ((sFull 0).brick? (gg.lane 0).brick = some { bk with pendq := [pend0, pend0, pend0, pend0] } ∧
      ((((sFull 0).header? 1).map LHeader.ovfq).getD 0 = 0 ∧ (((sFull 0x8000).header? 1).map LHeader.ovfq).getD 0 ≠ 0)) :=
  ⟨fun v => gRec_once v (by decide +kernel), by decide +kernel, by decide, by decide +kernel, rfl, by decide,
   fun _ => once_of (m := 3) gg_acts rfl rfl rfl (by show readable gg 3 _ = true; decide +kernel) (by decide), by decide +kernel⟩

/-- Memory reads 0: a word that differs from operand B, one that equals it; a counter short of operand B, and one at it. -/
theorem test_meets_MonitorsAndJoins :
    S.Once gg u [.k 0, .k 1] 0 ∧ S.Once gg u [.k 0, .cst 0] 0 ∧
    (let va := bits (S.opnd gg 0 (.k 0) 0) 0 56
     let pa := page.phys (footOf gg.core) (va / 8 * 8)
     let w := (S.mem (S.homeFoot (S.gangPart gg) pa)).word pa
     S.lookup gg.core (S.asidOf gg.brick.wall) (va / 8 * 8) .read = some page ∧ S.homeFree gg pa = true ∧ S.poisoned pa = false ∧
       S.missRoom (S.homeFoot (S.gangPart gg) pa) pa = true ∧ S.portShut pa = false ∧ w ≠ S.opnd gg 0 (.k 1) 0 ∧ w = S.opnd gg 0 (.cst 0) 0 ∧ gg.woken = false ∧ va % 8 = 0 ∧
       0 ≤ (w - S.opnd gg 0 (.cst 0) 0).toInt ∧ (w - S.opnd gg 0 (.k 1) 0).toInt < 0) :=
  ⟨gg_once rfl rfl (by decide +kernel), gg_once rfl rfl (by decide +kernel), by decide +kernel⟩

/-- Stream 3: two slots, 16 tokens of 32 bytes a page, one speculative page, a budget of two pages; its step runs in wall 1. -/
def st0 : Stream :=
  { num := 3, ctx := 0x8000, asid := 0, state := 3, cfg0 := 0x0000101001000000, tick0 := 0, cfg2 := 0x0000020000000001, hdr := 0,
    filler := 0, arrbase := 0, arg := #v[0, 0, 0, 0], step := 0, wslot := 0, woff := 0, held := 1, specheld := 1, rsv := 1, owed := false,
    wpos := 0, status := 0, lates := 0, drops := 0, spt := ⟨2, true⟩ :: List.replicate 15 ⟨0, false⟩,
    pt := ⟨1, true⟩ :: List.replicate 255 ⟨0, false⟩, running := some ⟨1, 0⟩, overrun := false, stepfail := false, retiring := false,
    close := none, dead := [] }

/-- With `k6` 271 and `k7` an owned page, valid. -/
def gS : Gang := { gg with k := (gg.k.set 6 (NCell.of 271)).set 7 (NCell.of 0x80000001) }

def sS (x : Stream) (free : List Nat) : State :=
  { sg gS with streams := [x], pool := ⟨free, [(1, 3), (2, 3), (3, 3)]⟩, sys := { S.sys with npool := 8, poolva := 0x100000 } }

theorem gS_once (x : Stream) (f : List Nat) {os : List Opnd} (h : readable gS 3 os = true) : (sS x f).Once gS u os 0 :=
  once_of (m := 3) gg_acts rfl rfl rfl h (by decide)

theorem test_meets_StreamInstructionsRun :
    (S.Once gg u [.k 4] 0 ∧ S.stream? (bits (S.opnd gg 0 (.k 4) 0) 0 18) = none) ∧
    (∀ os ∈ [[.k 4], [.k 4, .cst 1], [.k 4, .k 6], [.k 4, .cst 6], [.k 4, .cst 2], [.k 4, .cst 1, .cst 1], [.k 4, .cst 1, .k 7]],
      ∀ x f, (sS x f).Once gS u os 0) ∧
    (let s := sS st0 [4]
     s.stream? (bits (s.opnd gS 0 (.k 4) 0) 0 18) = some st0 ∧ st0.asid = s.asidOf gS.brick.wall ∧
       bits (s.opnd gS 0 (.cst 1) 0) 0 9 < st0.nslot ∧ bits (s.opnd gS 0 (.k 6) 0) 0 9 = 271 ∧ st0.runsIn gS.brick = true ∧
       st0.rsv + bits (s.opnd gS 0 (.cst 1) 0) 0 11 ≤ st0.specheld * st0.pgtok ∧ st0.rsv < bits (s.opnd gS 0 (.cst 2) 0) 0 11 ∧
       bits (s.opnd gS 0 (.cst 1) 0) 0 11 ≤ st0.rsv ∧ bits (s.opnd gS 0 (.cst 1) 0) 24 7 = 0 ∧
       bits (s.opnd gS 0 (.cst 1) 0) 0 24 < s.sys.npool ∧ (s.opnd gS 0 (.cst 1) 0).getLsbD 31 = false ∧
       bits (s.opnd gS 0 (.k 7) 0) 24 7 = 0 ∧ (s.opnd gS 0 (.k 7) 0).getLsbD 31 = true ∧ s.owns st0.num (bits (s.opnd gS 0 (.k 7) 0) 0 24) = true ∧
       bits (s.opnd gS 0 (.cst 1) 0) 0 6 < st0.pgtok) ∧
    (∃ (a : Unit) (t : State), (sS st0 [4]).commitRows gS st0.num 0 1 = .ok a t ∧ (t.stream? st0.num).isSome = true) ∧
    ({ st0 with held := 2 }.cbud ≤ { st0 with held := 2 }.held ∧ st0.held < st0.cbud ∧
      ((sS st0 [4]).takePage st0.num).isSome = true) ∧
    (let s := sS { st0 with held := 2 } [4]
     let p := bits (s.opnd gS 0 (.k 4) 0) 0 24
     p < s.sys.npool ∧ s.owns 3 p = true ∧ (∀ e ∈ st0.pt ++ st0.spt, e.valid = true → e.page ≠ p) ∧ gS.tokFull (some 0) = false) :=
  ⟨⟨gg_once rfl rfl (by decide +kernel), rfl⟩,
   fun os hos x f => gS_once x f (by
     have h : (([[.k 4], [.k 4, .cst 1], [.k 4, .k 6], [.k 4, .cst 6], [.k 4, .cst 2], [.k 4, .cst 1, .cst 1], [.k 4, .cst 1, .k 7]] :
       List (List Opnd)).all fun os => readable gS 3 os) = true := by decide +kernel
     exact List.all_eq_true.mp h os hos),
   by decide +kernel, ok_of (by decide +kernel), by decide +kernel, by decide +kernel⟩

/-- A stream of another address space, one whose step does not run here, entries and pages out of range, pages that are not the
stream's or are in a table, and a page that cannot be zeroed yet, all slots of the walker taken. -/
theorem test_meets_StreamInstructionsRun_traps :
    (∀ os ∈ [[.k 4, .cst 6], [.k 4, .k 6], [.k 4, .cst 1], [.k 4, .cst 6, .cst 1], [.k 4, .cst 1, .k 7]], ∀ x f, (sS x f).Once gS u os 0) ∧
    (let x := { st0 with asid := 1 }
     (sS x []).stream? (bits ((sS x []).opnd gS 0 (.k 4) 0) 0 18) = some x ∧ x.asid ≠ (sS x []).asidOf gS.brick.wall) ∧
    { st0 with running := none }.runsIn gS.brick = false ∧
    (let s := sS st0 [4]
     (st0.nslot ≤ bits (s.opnd gS 0 (.cst 6) 0) 0 9 ∧ bits (s.opnd gS 0 (.cst 6) 0) 0 9 < 256) ∧ s.sys.npool ≤ bits (s.opnd gS 0 (.k 6) 0) 0 24 ∧
       ¬ ∀ e ∈ st0.pt ++ st0.spt, e.valid = true → e.page ≠ 1) ∧
    (let s := { sS st0 [4] with pool := ⟨[4], []⟩ }
     s.owns 3 (bits (s.opnd gS 0 (.k 7) 0) 0 24) = false ∧ (s.opnd gS 0 (.k 7) 0).getLsbD 31 = true) ∧
    (let s := { sS st0 [4] with walks := List.replicate 512 ⟨9, 0, 0, 0, 0x9000000, []⟩ }
     (s.takePage 3).any (fun x => (x.2.zeroPage st0 x.1).isNone) = true) ∧
    ((sS st0 [4]).takePage 3).any (fun x => (x.2.zeroPage st0 x.1).isSome) = true :=
  ⟨fun os hos x f => gS_once x f (by
     have h : (([[.k 4, .cst 6], [.k 4, .k 6], [.k 4, .cst 1], [.k 4, .cst 6, .cst 1], [.k 4, .cst 1, .k 7]] :
       List (List Opnd)).all fun os => readable gS 3 os) = true := by decide +kernel
     exact List.all_eq_true.mp h os hos),
   by decide +kernel, by decide, by decide +kernel, by decide +kernel, by decide +kernel, by decide +kernel⟩

/-! ### Witnesses: the events of memory and of gangs -/

def acc0 : Access :=
  { lane := 0, va := 0x1000, pa := 0x1000, bytes := 8, b := 5, c := 0, mirror := false, page := 65536, arr := 0, done := false,
    reply := 0, val := 0, fault := none, data := [] }

def req0 (k : AccKind) (a : Access) : MemReq :=
  { id := 7, gid := 3, core := 0, brick := ⟨1, 0⟩, bricks := [(0, ⟨1, 0⟩)], asid := 0, kind := k, dest := .none, push := true, accs := [a],
    deps := [], needs := [], rels := [], ended := false, arrived := false }

/-- The access at its slice, 8 of footing 0, which has the line or not. -/
def sReq (k : AccKind) (lines : List (Nat × Bool)) (misses : List Nat) : State :=
  { S with reqs := [req0 k acc0], slices := S.slices.set 8 { Slice.reset with lines := lines, misses := misses } }

theorem test_meets_StoresWriteTheirBytes :
    let s := sReq (.store none) [(32, false)] []
    let r := req0 (.store none) acc0
    s.reqs.find? (fun x => x.id == 7) = some r ∧ r.accs[0]? = some acc0 ∧ s.accReady r 0 acc0 = true ∧ s.cachable acc0.pa = true ∧
      s.holdsLine (s.accSlice r acc0) (acc0.pa / 128) = true ∧ acc0.bytes ≤ 8 := by
  decide +kernel

/-- A write whose home, footing 0, may apply it first. -/
def w0 : RWrite := ⟨7, 7, 3, 0, 1, 0, [(0x1000, 5)], [0, 0, 0, 0], none, [0, 2, 3], []⟩

theorem test_meets_SlicesPerformAccesses :
    (let s := sReq (.load .s64 none false) [] (List.range 255)
     let r := req0 (.load .s64 none false) acc0
     s.accReady r 0 acc0 = true ∧ s.portOf acc0.pa = none ∧ s.isLocal 8 32 = true ∧ (vget s.slices 8).rways < 16 ∧ s.accSlice r acc0 = 8 ∧
       (vget s.slices 8).misses.length < 256) ∧
    (let s := sReq (.load .s64 none false) [] []
     (vget s.slices (s.accSlice (req0 (.load .s64 none false) acc0) acc0)).misses.contains (acc0.pa / 128) = false) ∧
    (let k : AccKind := .atom .add .s64 .device .relaxed
     let s := sReq k [(32, false)] []
     s.accReady (req0 k acc0) 0 acc0 = true ∧ s.cachable acc0.pa = true ∧ s.holdsLine (s.accSlice (req0 k acc0) acc0) (acc0.pa / 128) = true ∧
       s.poisoned acc0.pa = false) ∧
    ((vget (sReq .posted [] [32]).slices 8).misses.contains 32 = true ∧ (sReq .posted [] [32]).isLocal 8 32 = true) ∧
    (sWrite.writes.find? (fun x => x.id == 7) = some w0 ∧ sWrite.canApply w0 0 = true ∧ w0.home = 0 ∧ 0 ≠ w0.src ∧
      (w0.bytes.map Prod.fst).Nodup) := by
  decide +kernel

/-- A load of course scope at its slice; another, with a line of the L1 and without. -/
theorem test_meets_SlicesPerformAccesses_values :
    (∀ acq ∈ [none, some Scope.course], let k : AccKind := .load .s64 acq false
      let s := sReq k [(32, false)] []
      s.accReady (req0 k acc0) 0 acc0 = true ∧ s.reachFree (req0 k acc0) (s.accSlice (req0 k acc0) acc0) = true ∧
        s.holdsLine (s.accSlice (req0 k acc0) acc0) 32 = true ∧ (req0 k acc0).arrived = false ∧ (req0 k acc0).endsEpoch = false) ∧
    (some Scope.course).any Scope.wide = true ∧ (none : Option Scope).any Scope.wide = false ∧
    (sL1.l1At 0 acc0.pa false).isSome = true ∧ sL1.l1Bad 0 acc0.pa 8 false = false ∧
    (let s := sReq (.load .s64 none false) [(32, false)] []
     s.l1At 0 acc0.pa false = none ∧ acc0.pa % 128 + 8 ≤ 128 ∧ ∀ x ∈ s.reqs, s.onPath 0 x = false) := by
  decide +kernel

/-- A value known without a slice, and one a request returned. -/
def sLate : State := { S with lates := [⟨7, 3, .n 0, 3, Vector.replicate 32 9, true⟩] }

theorem test_meets_LateValuesFillTheirCells :
    (sLate.reqs.find? (fun r => r.id == 7) = none ∧ sLate.lates.find? (fun y => y.id == 7) = some ⟨7, 3, .n 0, 3, Vector.replicate 32 9, true⟩ ∧
      sLate.gang? 3 = some gg) ∧
    (let r := req0 (.load .s64 none false) { acc0 with done := true }
     let s := { S with reqs := [r] }
     s.reqs.find? (fun r => r.id == 7) = some r ∧ r.arrived = false ∧ r.performed = true ∧ (∀ x ∈ s.reqs, s.repliesFirst x r = false) ∧
       s.gang? r.gid = some gg) :=
  ⟨⟨rfl, rfl, rfl⟩, rfl, rfl, rfl, by decide +kernel, rfl⟩

def trap0 : TrapInfo := ⟨0x10, 0, 3, 42, 0, 0x10000, 0, 0, false⟩

theorem test_meets_GangEventsHappen :
    S.gangAt 0 0 = some gg ∧
    (sFetch.blocked gg = false ∧ gg.clause = [] ∧ gg.pendfault = none ∧ gg.owed = [] ∧ gg.wait = .ready ∧ gg.pc.toNat % 8 = 0 ∧ gg.pos = 0) ∧
    (let g := { gg with xfer := some (.spill (eTop 1) 63) }
     (sg g).gangAt 0 0 = some g ∧ g.hold = none ∧ (∀ id, g.wait ≠ .walk id) ∧
       (sg g).lookup 0 ((sg g).asidOf g.brick.wall) ((sg g).ovfVa g 63) .write = some page ∧
       (sg g).portBusy (page.phys (footOf 0) ((sg g).ovfVa g 63)) = false) ∧
    (let g := { gg with xfer := some (.fill 0) }
     g.em ≠ 0 ∧ (sg g).lookup 0 ((sg g).asidOf g.brick.wall) ((sg g).ovfVa g 0) .read = some page ∧
       (sg g).poisoned (page.phys (footOf 0) ((sg g).ovfVa g 0)) = false ∧ (sg g).portBusy (page.phys (footOf 0) ((sg g).ovfVa g 0)) = false ∧
       (sg g).portShut (page.phys (footOf 0) ((sg g).ovfVa g 0)) = false) ∧
    (let g := { gg with wait := .monitor ⟨32, 0x1000, 0, false, false⟩ }
     g.wait = .monitor ⟨32, 0x1000, 0, false, false⟩ ∧ 0 + 65536 ≤ ({ sg g with cycle := 65536 } : State).cycle) ∧
    (let g := { gg with wait := .trapping trap0 false }
     g.hold = none ∧ (sg g).lateOpen g.gid = false ∧ g.tvec ≠ 0 ∧ g.tmode = false ∧ g.frameBad = none ∧
       (sg g).portBusy (page.phys (footOf g.core) ((sg g).recordVa g + 0x6000)) = false ∧ causeToSystem trap0.cause = false ∧
       (sg g).lookup g.core ((sg g).asidOf g.brick.wall) ((sg g).recordVa g + 0x6000) .write = some page) ∧
    (let g := { gg with pendfault := some (0x20, 7) }
     g.pendfault = some (0x20, 7) ∧ (sg g).takes g = true ∧ causeToSystem 0x20 = false) := by
  refine ⟨gg_cur (s := S) rfl rfl, ⟨by decide +kernel, rfl, rfl, rfl, rfl, by decide, rfl⟩,
    ⟨cur_of (s := sg _) rfl rfl rfl, rfl, ?_, by decide +kernel⟩, ⟨by decide, by decide +kernel, by decide +kernel⟩, ⟨rfl, by decide⟩,
    ⟨rfl, rfl, by decide, rfl, by decide +kernel, by decide +kernel, rfl, by decide +kernel⟩, rfl, by decide +kernel, rfl⟩
  intro id h; cases h

/-- A fill of a gang without an active lane, whose entry has pending lanes. -/
theorem test_meets_GangEventsHappen_fill :
    (let g := { gg with em := 0, xfer := some (.fill 0) }
     let s := { sg g with foots := S.foots.map fun (f : Footing) => { f with mem := Memory.write f.mem ((sg g).ovfVa g 0) (natLe 8 (3 + 2 ^ 33)) } }
     g.em = 0 ∧ g.stack = [] ∧ s.lookup 0 (s.asidOf g.brick.wall) (s.ovfVa g 0) .read = some page ∧
       (SSEntry.ofMem (s.mem 0) (s.ovfVa g 0) g.live).pend ≠ 0) := by
  decide +kernel

/-! ### Witnesses: the events of the engines -/

def mat0 (i : Instr) (step : Nat) : MatEntry :=
  { id := 7, gid := 3, seat := 0, tok := none, brick := ⟨1, 0⟩, asid := 0, instr := i, a := 0, b := 0, avals := Vector.replicate 32 0,
    bvals := Vector.replicate 32 0, lanes := 3, lane0 := 0, step := step, frozen := none, scales := none, deps := [] }

def sMat (q : List MatEntry) : State := { S with cores := S.cores.set 0 { Core.reset with mq := q } }

def arr0 : MatArrival := ⟨0, 1, 0, mat0 (.accZero u none 7) 0⟩

/-- The last block of a quantisation in the scratchpad. -/
def quant0 : QuantReq :=
  { id := 7, gid := 3, tok := none, core := 0, brick := ⟨1, 0⟩, asid := 0, fmt := .s8, src := .f16,
    words := [0x8000000000000000, 0x8000000000001000, 0x8000000000002000, 0x10001], block := 0, frozen := none, deps := [] }

def sQuant : State := { S with groups := S.groups.set 0 { Group.reset with quants := [quant0] } }

def samp0 (op : SampOp) (ws : List Word) : SampReq :=
  { id := 7, gid := 3, core := 0, tok := none, brick := ⟨1, 0⟩, asid := 0, op := op, t := .f32, lanes := 3, words := ws, next := 0,
    skipped := 0, nans := 0, frozen := none, deps := [] }

def sSamp (op : SampOp) (ws : List Word) : State := { S with samples := [samp0 op ws] }

/-- A course that has gathered its only gang, at REORDER.COUNT and at REORDER.PACK; one that rebuilds. -/
def cRun (st : RState) (w : Instr) : Course := { co with state := st, word := some w, expected := [3], arrived := [3] }

def sCo (c : Course) : State := { S with courses := [c] }

theorem test_meets_EnginesDoTheirWork :
    (let e := mat0 (.accZero u none 7) 3
     let s := sMat [e]
     (s.core 0).mq = e :: [] ∧ e.frozen = none ∧ s.working e.brick = true ∧ s.gangHeld e.gid = false ∧
       e.instr = .accZero u none 7 ∧ s.brick? e.brick = some bk) ∧
    (∃ e' t, (sMat [mat0 (.accMov u none 7 0) 0]).matStep 0 (mat0 (.accMov u none 7 0) 0) = .ok e' t ∧ true = true) ∧
    (let s := { S with matArrivals := [arr0] }
     s.matArrivals = [arr0] ∧ arr0.core = 0 ∧ arr0.cycle ≤ s.cycle ∧ s.mqFull 0 = false) ∧
    (let s := { sMat (List.replicate 8 (mat0 (.accZero u none 0) 0)) with matArrivals := [arr0] }
     s.mqFull 0 = true) ∧
    ((sQuant.group 0).quants = quant0 :: [] ∧ quantDesc quant0.words = some ⟨(true, 0), (true, 0x1000), (true, 0x2000), 1, 1, 0⟩ ∧
      quant0.frozen = none ∧ sQuant.working quant0.brick = true ∧ sQuant.gangHeld quant0.gid = false ∧ sQuant.atHome quant0.gid = true ∧
      sQuant.brick? quant0.brick = some bk ∧ sQuant.badSpad bk 0 512 = none) ∧
    bk.held 0 512 = false ∧
    (let ws := [0x1000, 0x100000001, 0x2000, 0]
     let s := sSamp .topk ws
     s.samples.find? (fun x => x.id == 7) = some (samp0 .topk ws) ∧ s.working ⟨1, 0⟩ = true ∧ s.gangHeld 3 = false ∧
       (∀ x ∈ s.samples, x.gid = 3 → 7 ≤ x.id) ∧ SampOp.topk ≠ .biasadd ∧
       ∃ xs t, s.permitted (samp0 .topk ws) (sampFields ws) = .ok xs t ∧
         okAnd (t.spaceCheck 3 0 0 (sampFields ws).aux (sampResult (samp0 .topk ws) (sampFields ws) xs.1 xs.2).1.length) (fun _ _ => true) =
           true) ∧
    (sampFields [0x1000, 1, 0x2000, 0]).nb ≤ (samp0 .biasadd [0x1000, 1, 0x2000, 0]).next ∧
    (∀ w ∈ [Instr.reorderCount u .none (.k 2), .reorderPack u (.k 2) 0 1],
      let c := cRun .binning w
      (sCo c).course? c.key = some c ∧ c.state = .binning ∧ (sCo c).courseWorks c.key = true ∧ (∀ m ∈ (sCo c).marks, m.unit ≠ 1) ∧
        c.spilled = 0) ∧
    ((cRun .binning (.reorderCount u .none (.k 2))).counting = true ∧ (cRun .binning (.reorderPack u (.k 2) 0 1)).counting = false) ∧
    (let c := cRun .rebuilding (.reorderPack u (.k 2) 0 1)
     (sCo c).course? c.key = some c ∧ c.state = .rebuilding ∧ (∀ m ∈ (sCo c).marks, m.unit ≠ 1) ∧ (sCo c).spillHeld c = false ∧
       (sCo c).gPending c.key = false ∧ (sCo c).badSpill c = none) :=
  ⟨by decide +kernel, ok_of (by decide +kernel), by decide +kernel, by decide +kernel, by decide +kernel, by decide +kernel,
   ⟨rfl, by decide +kernel, by decide +kernel, by decide +kernel, by decide, ok_of (by decide +kernel)⟩, by decide +kernel,
   by decide +kernel, by decide +kernel, by decide +kernel⟩

/-- The first step of a product of tiles at the start of the scratchpad. -/
theorem test_meets_EnginesDoTheirWork_product :
    let e := mat0 (.mma u .s8 none 7 (.cst 0) (.cst 0) ⟨8, 8, true, true⟩) 0
    let s := sMat [e]
    (s.core 0).mq = e :: [] ∧ e.instr.wf = true ∧ s.brick? e.brick = some bk ∧ s.badTile bk 7 0 4096 = none ∧
      ∀ i < 64, bk.heldFor e.gid e.id (256 * i) 16 = false ∧ s.badSpad bk (256 * i) 16 = none := by
  decide +kernel

/-- The commit of a REORDER.PACK of one entry. -/
def tag0 : Tag := ⟨5, 0, 0, 1, 0, 3, 1, [9], none⟩

theorem test_meets_EnginesDoTheirWork_places :
    let c := { cRun .binning (.reorderPack u (.k 2) 0 1) with tags := [tag0] }
    (sCo c).course? c.key = some c ∧ (sCo c).courseWorks c.key = true ∧ c.word = some (.reorderPack u (.k 2) 0 1) ∧
      [tag0].length ≤ 32 * [gg].length ∧ (∀ e ∈ [tag0], ∃ g ∈ (sCo c).gangs, g.gid = e.gid) ∧ ((sCo c).gangs.map Gang.gid).Nodup ∧
      (∀ g, g ∈ [gg] ↔ g ∈ (sCo c).gangs ∧ g.gid ∈ c.arrived) ∧ gg.seat < 16 ∧
      placesFrom false [gg].length 0 0 none ([tag0].map Tag.key) = [(0, 0)] := by
  refine ⟨rfl, by decide +kernel, rfl, by decide, by decide +kernel, by decide +kernel, fun g => ?_, by decide, rfl⟩
  constructor
  · intro h
    rw [List.mem_singleton.mp h]
    exact ⟨List.mem_singleton.mpr rfl, List.mem_singleton.mpr rfl⟩
  · exact fun h => h.1

def copy0 (waiting : Bool) : CopyOp :=
  { id := 7, gid := 3, core := 0, tok := none, brick := ⟨1, 0⟩, w := 7, space := .global, asid := 0, src := 0x1000, base := 0, e0 := 40,
    dims := [], loop := false, iters := 0, nstg := 0, step := 0, row := 0, x := 32, iter := 0, frozen := none, deps := [],
    waiting := waiting, fill := 0, finished := false }

/-- A fill of a group with another member. -/
def sFill : State :=
  { S with copies := [copy0 true], mcreqs := [⟨7, true, ⟨1, 0⟩, 63, (0x1000, 40, [])⟩]
           foots := S.foots.set 0 { Footing.reset with
             mem := tables, mc := Footing.reset.mc.set 63 ⟨0, [⟨1, 0⟩, ⟨1, 1⟩], 20312⟩ } }

def mch0 : McHold := ⟨0, 8, 63, (0x1000, 40, []), [⟨1, 0⟩], [7], 0, false⟩

/-- A gather and a scatter of one element, and a scatter that adds. -/
def idx0 (gather add : Bool) (read : Option (List Nat × List Bool)) : IdxOp :=
  { id := 7, gid := 3, core := 0, tok := none, brick := ⟨1, 0⟩, asid := 0, gather := gather, add := add, t := .z32, w := 0, a := 0x1000,
    list := 0, n := 1, base := 64, sh := 0, m := false, read := read, got := [], landed := 0, deps := [], finished := false }

def sIdx (c : IdxOp) : State := { sb (bW.write 0 (natLe 8 0)) with idxops := [c] }

theorem test_meets_CopiesAndGathersLand :
    (let s := { S with copies := [copy0 false] }
     s.copies.find? (fun x => x.id == 7) = some (copy0 false) ∧ s.working ⟨1, 0⟩ = true ∧ s.gangHeld 3 = false ∧
       (copy0 false).e0 ≠ 0 ∧ (∀ d ∈ (copy0 false).dims, d.e ≠ 0) ∧ (copy0 false).dst 0 32 % 32 = 0 ∧
       (copy0 false).e0 ≤ (copy0 false).x + 8 ∧ rowsOf (copy0 false).dims ≤ (copy0 false).row + 1 ∧ s.brick? ⟨1, 0⟩ = some bk) ∧
    (∃ bs t, ({ S with copies := [copy0 false] } : State).pieceBytes (copy0 false) 32 8 = .ok bs t ∧ true = true) ∧
    (sFill.mcreqs.find? (fun x => x.copy == 7) = some ⟨7, true, ⟨1, 0⟩, 63, (0x1000, 40, [])⟩ ∧
      sFill.copies.find? (fun x => x.id == 7) = some (copy0 true)) ∧
    (∃ f t, sFill.engPages 0 0 (bits (copy0 true).src 0 56) 1 .read = .ok f t ∧
      (decide (t.mcholds = []) && (t.mcGroup 0 63).members.any (fun k => k != ⟨1, 0⟩) &&
        !t.mctests.contains (0, t.sliceOf 0 (f 0), 63) &&
        !t.mcBehind ⟨7, true, ⟨1, 0⟩, 63, (0x1000, 40, [])⟩ (copy0 true) (t.sliceOf 0 (f 0))) = true) ∧
    (let s := { S with mcholds := [mch0], copies := [copy0 true] }
     s.mcholds = [mch0] ∧ mch0.tail = false ∧ mch0.expiry ≤ s.cycle ∧ ∀ c ∈ s.copies, c.id ∈ mch0.copies) ∧
    (∀ g ∈ [true, false], (sIdx (idx0 g false none)).idxops.find? (fun x => x.id == 7 && x.gather == g) = some (idx0 g false none) ∧
      (sIdx (idx0 g false none)).idxLive (idx0 g false none) = true) ∧
    (∃ r t, (sIdx (idx0 true false none)).readList (idx0 true false none) = .ok r t ∧ true = true) ∧
    (let c := idx0 true false (some ([0], [false]))
     c.todo 0 = true ∧ ∃ bs t, (sIdx c).engRead 3 0 0 (c.addr 0) 4 c.deps = .ok bs t ∧ true = true) ∧
    (∀ add ∈ [true, false],
      let c := idx0 false add (some ([0], [false]))
      (sIdx c).idxops.find? (fun x => x.id == 7 && !x.gather) = some c ∧ (sIdx c).idxLive c = true ∧ c.todo 0 = true ∧
        okAnd ((sIdx c).engSpad 3 7 c.brick 64 4) (fun bs t =>
          okAnd (if c.add then t.addElem c 0 bs else t.engWrite ⟨7, 3, 0⟩ 0 (c.addr 0) bs c.deps) fun _ _ => true) = true) :=
  ⟨by decide +kernel, ok_of (by decide +kernel), by decide +kernel, ok_of (by decide +kernel), by decide +kernel, by decide +kernel,
   ok_of (by decide +kernel), ⟨by decide, ok_of (by decide +kernel)⟩, by decide +kernel⟩

/-- A loop copy whose first stage is free, and its second, which waits for a release. -/
theorem test_meets_CopiesAndGathersLand_loop :
    let c := fun (i : Nat) => { copy0 false with loop := true, iters := 2, iter := i }
    let s := fun (i : Nat) => ({ S with copies := [c i] } : State)
    (s 0).copies.find? (fun x => x.id == 7) = some (c 0) ∧ (s 0).working ⟨1, 0⟩ = true ∧ (s 0).gangHeld 3 = false ∧
      (s 0).brick? ⟨1, 0⟩ = some bk ∧ (c 0).iter < (vget bk.w 7).released.toNat + (c 0).nstg + 1 ∧ (s 0).refillHeld (c 0) = false ∧
      okAnd ((s 0).pieceBytes (c 0) 32 8) (fun _ _ => true) = true ∧ (vget bk.w 7).released.toNat + (c 1).nstg + 1 ≤ (c 1).iter := by
  decide +kernel

/-! ### Witnesses: system software, registers, the device -/

def inv0 : Nat := 2 * 2 ^ 11

def walk0 (va : Nat) : Walk := ⟨7, 0, 0, 0, va, [(3, va, .write)]⟩

/-- A gang that waits for a walk, and the walk. -/
def sWalk (va : Nat) : State := { sg { gg with wait := .walk 7 } with walks := [walk0 va] }

theorem test_meets_TranslationsInvalidated :
    (let s := { S with sys := { S.sys with tlbinv := [(inv0, 8), (0, 9)] }, reqs := [req0 .posted acc0] }
     s.sys.tlbinv = (inv0, 8) :: [(0, 9)] ∧ ∃ r ∈ s.reqs, oldAccess inv0 8 r = true) ∧
    (let s := { S with sys := { S.sys with tlbinv := [(inv0, 7)] }, reqs := [req0 .posted acc0] }
     s.sys.tlbinv = (inv0, 7) :: [] ∧ (∀ r ∈ s.reqs, oldAccess inv0 7 r = false) ∧ s.oldWrite 7 = false ∧ ∀ c ∈ s.courses, s.holdsSpill inv0 c = false) ∧
    (∀ va ∈ [0x1FFFF, 0x20000], (sWalk va).walks.find? (fun x => x.id == 7) = some (walk0 va) ∧
      (walk0 va).gids = [(3, va, .write)] ∧ (sWalk va).gang? 3 = some { gg with wait := .walk 7 } ∧
      (sWalk va).walkHeld ((sWalk va).partOf 0) 0 va = false ∧ (sWalk va).walkMeets ((sWalk va).partOf 0) 0 va = none) ∧
    sWrite.oldWrite 8 = true ∧
    ((sWalk 0x1FFFF).walkPage ((sWalk 0).partOf 0) 0 0x1FFFF).any (fun e => e.allows .write) = true ∧
    (sWalk 0x20000).walkPage ((sWalk 0).partOf 0) 0 0x20000 = none ∧
    (let s := { sWalk 0 with sys := { S.sys with asidbase := 2 ^ 48 } }
     s.walkHeld (s.partOf 0) 0 0 = false ∧ (s.walkMeets (s.partOf 0) 0 0).any s.portShut = true) ∧
    (let s := { sWalk 0 with marks := [⟨6, 0, 0⟩] }
     s.walkHeld (s.partOf 0) 0 0 = false ∧ (s.walkMeets (s.partOf 0) 0 0).any (fun pa => !s.portShut pa) = true) := by
  decide +kernel

/-- The gang held at its clause, before a page that could not be translated; a trap for Deliver. -/
def gHeld : Gang := { gg with hold := some ⟨0x40, 0x20000, 0x10000, some { trap0 with clause := 0x10000 }⟩ }

def sHeld : State := { sFetch with gangs := [gHeld] }

def eng0 : EngineHold := ⟨.matrix 0, 0, 0, 0, 0x48, 0⟩

def unit0 : UnitHold := ⟨0, 0, .counter 1, 0x1000, true, false⟩

theorem test_meets_FaultCommandsAct :
    (S.heldGang? 0 = none ∧ S.heldEngines 0 = [] ∧ S.heldUnits 0 = []) ∧
    (let s := { S with engines := [eng0] }
     s.heldGang? 0 = none ∧ s.heldUnits 0 = [] ∧ s.heldEngines 0 = [eng0]) ∧
    (let s := { S with unitHolds := [unit0] }
     let v := 511 * 2 ^ 12
     s.heldGang? v = none ∧ s.heldEngines v = [] ∧ s.heldUnits v = [unit0]) ∧
    (sHeld.heldGang? 0 = some gHeld ∧ sHeld.heldEngines 0 = [] ∧ sHeld.heldUnits 0 = [] ∧ (∀ r ∈ sHeld.reqs, r.gid ≠ 3) ∧
      gHeld.hold.any (fun h => h.clause == gHeld.pc && h.pos == gHeld.pos && h.cause == 0x40 &&
        h.trap.any fun t => causeToSystem t.cause == false) = true) ∧
    (∀ t b, gHeld.wait ≠ .trapping t b) ∧
    sHeld.walkPage (sHeld.gangPart gHeld) 0 0x10000 = some ⟨0, 0x10000, 65536, 0x10000, true, true, false⟩ ∧
    parseHeader ((sHeld.mem 0).word 0x10000) = .ok ⟨6, 1, 0, 0, 0⟩ ∧
    (sHeld.lateOpen 3 = false ∧ gHeld.tvec ≠ 0 ∧ gHeld.tmode = false ∧ gHeld.frameBad = none ∧
      sHeld.portBusy (page.phys (footOf gHeld.core) (sHeld.recordVa gHeld + 0x6000)) = false ∧ gHeld.live ≠ 0 ∧ sHeld.poisoned 0x10000 = false ∧ sHeld.portShut 0x10000 = false ∧ sHeld.portBusy 0x10000 = false ∧ gHeld.pendfault = none ∧ gHeld.xfer = none ∧
      sHeld.lookup gHeld.core (sHeld.asidOf gHeld.brick.wall) (sHeld.recordVa gHeld + 0x6000) .write = some page) :=
  ⟨by decide +kernel, by decide +kernel, by decide +kernel, by decide +kernel, (by intro t b h; cases h), by decide +kernel,
   except_of (by decide +kernel), by decide +kernel⟩

def queue0 (desc maxcls : Nat) : Queue := ⟨desc, 0, maxcls, 0, true, none⟩

/-- No queue, one queue, as many queues as there can be; a stream that retires, none, one that runs and one that does not. -/
theorem test_meets_QueueAndTickCommands :
    (∀ x ∈ S.queues, ¬ (x.wall = none ∧ x.asid = 0 ∧ x.desc = 0x4000)) ∧
    ((List.replicate 4095 (queue0 0 1)).filter fun x => x.wall.isNone).length < 4096 ∧
    4096 ≤ ((List.replicate 4096 (queue0 0 1)).filter fun x => x.wall.isNone).length ∧
    (queue0 0x4000 1).wall = none ∧ (queue0 0x4000 1).asid = 0 ∧ (queue0 0x4000 1).desc = 0x4000 ∧
    ({ S with streams := [{ st0 with retiring := true }] } : State).tickBusy = true ∧
    (S.tickBusy = false ∧ S.stream? 3 = none) ∧
    (let s := { S with streams := [st0] }
     s.tickBusy = false ∧ s.stream? 3 = some st0 ∧ st0.state = 3) ∧
    (let x := { st0 with state := 1 }
     let s := { S with streams := [x] }
     s.tickBusy = false ∧ s.stream? 3 = some x ∧ s.eventDue x = true) ∧
    (let x := { st0 with state := 1, close := some ⟨[], none, 0, vz⟩ }
     let s := { S with streams := [x] }
     s.tickBusy = false ∧ s.stream? 3 = some x ∧ x.state ≠ 3 ∧ s.eventDue x = false ∧ (s.retireStream x).isSome = true ∧
       ({ s with walks := List.replicate 512 ⟨9, 0, 0, 0, 0x9000000, []⟩ }.retireStream x).isNone = true) := by
  refine ⟨by decide, ?_, ?_, rfl, rfl, rfl, by decide, by decide, ⟨by decide, rfl, rfl⟩, ⟨by decide, rfl, ?_⟩, by decide, rfl, by decide, ?_, ?_, ?_⟩
  all_goals decide +kernel

theorem test_meets_RegisterBlockWrites :
    (State.reset.openWalls = 0 ∧ State.reset.streams = []) ∧ S.openWalls ≠ 0 ∧ (3 : Nat) < 4 ∧ (95 : Nat) < 96 ∧ (7 : Nat) < 8 ∧ (0x1F8 : Nat) < 0x200 ∧
    (let q : FaultQ := ⟨0, 4, 1, 3, 0, []⟩
     3 ≤ q.tail ∧ q.tail < 4) ∧
    ({ S with streams := [st0] } : State).streams ≠ [] ∧ S.reqs = [] := by
  decide

theorem test_meets_DeviceEventsHappen :
    (S.sys.attState ≠ 1 ∧ S.sys.attNext < 32768) ∧
    (let y := { S.sys with attNext := 32768 }
     y.attState ≠ 1 ∧ 32768 ≤ y.attNext) ∧ ({ S.sys with attState := 1 } : Sys).attState = 1 ∧
    ({ S with sys := { S.sys with ptmctl := 1, ptmAt := 1000 }, time := 1000 } : State).ptmDue = true ∧ S.ptmDue = false ∧
    (∀ k : Fin 96, S.groups[k].temp.toNat < 460) ∧ S.sys.stopped = false ∧
    460 ≤ (S.setGroup 95 { S.group 95 with temp := 460 }).groups[95].temp.toNat ∧ (1000000 : Int) < 1000001 ∧ (383 : Nat) < 384 ∧ (6 : Nat) ≤ 6 := by
  decide

/-- The digest of the three bytes of "abc" that FIPS 180-4 gives as an example. -/
theorem test_sha256_abc :
    sha256 [0x61, 0x62, 0x63] = natBe 32 0xBA7816BF8F01CFEA414140DE5DAE2223B00361A396177A9CB410FF61F20015AD := by decide +kernel

/-! ### Witnesses: the dispatcher, contexts, links -/

/-- A queue with one packet of class 1, of a greatest class that takes it and of one that rejects it. -/
def sQueue (maxcls : Nat) : State := { S with queues := [queue0 0x4000 maxcls] }

/-- Wall 2, in a state, with a header or without. -/
def wall2 (st : WState) (h : Option LHeader) : Wall :=
  { wl with id := 2, words := newRecord 0x6000 0 1, state := st, header := h, nextSet := 0 }

def sWall (w : Wall) : State := { S with walls := [wl, w], cycle := 32 }

/-- It waits for a counter at 0x1000 to reach 0. -/
def waits0 : Packet := Packet.setWord (Packet.setWord (newRecord 0x6000 0 1) 3 0x1000) 2 (vget (newRecord 0x6000 0 1) 2 + 0x0800000000000000)

/-- Wall 1's brick has a record to launch. -/
def sPend : State := { sb { bk with pendq := [pend0] } with cycle := 32 }

def ovf0 : OvfReq := ⟨7, 1, 3, 0, 0, none, rec0, []⟩

/-- Wall 1 with an overflow ring: the descriptor at 0x4000, or zeros. -/
def sOvf (ring : Addr) : State :=
  { S with ovf := [ovf0], walls := [{ wl with header := some { hd with ovfq := ring } }] }

def sHold (k : UnitWork) : State := { sWall { wall2 .waiting none with words := waits0 } with unitHolds := [⟨0, 0, k, 0, true, false⟩] }

/-- A brick whose gang has left, beside another of its wall. -/
def bk2 : Brick := { bk with key := ⟨1, 1⟩, serial := 4, seats := [1], phys := [] }

def sDone : State := { sg { gg with live := 0, em := 0 } with bricks := [bk, bk2] }

theorem test_meets_DispatcherActs :
    (∀ c ∈ [1, 2], let s := sQueue c
      s.queues[0]? = some (queue0 0x4000 c) ∧ (queue0 0x4000 c).served = true ∧ s.openWalls < 16384 ∧
      ∃ x s1, s.unitRead 0 0 0x4000 40 = .ok x s1 ∧ (x.qdesc.valid && decide (x.qdesc.rd.toNat < x.qdesc.wr.toNat) &&
        okAnd (s1.unitRead 0 0 (x.qdesc.slot x.qdesc.rd) 64) fun y s2 =>
          decide (bits (y.word 0) 0 16 = 0) && Packet.formOk y.packet && decide (Packet.cls y.packet = 1) &&
            okAnd (s2.unitPage 0 0 0x4008 .write) fun pa _ => s.cachable pa) = true) ∧
    (let w := { wall2 .waiting none with words := waits0 }
     (sWall w).wall? 2 = some w ∧ w.state = .waiting ∧ (Packet.waits w.words).length = 1 ∧
       okAnd ((sWall w).readWaits w (Packet.waits w.words)) (fun x _ => x.isSome) = true) ∧
    (let w := wall2 .ready none
     let s := sWall w
     s.wall? 2 = some w ∧ w.state = .ready ∧ s.turnOf 1 (.new w) = true ∧ s.headerOrdered w = true ∧ okAnd (s.readHeader w) (fun x t => x.1.any fun h =>
       (t.unhold (.header 2)).stepFits w h && decide (Packet.x w.words * Packet.y w.words * Packet.z w.words * h.stages < 2 ^ 32) &&
         (t.unhold (.header 2)).placeable w h) = true) ∧
    (let w := wall2 .ready (some hd)
     let s := sWall w
     s.turnOf 1 (.new w) = true ∧
       (s.fit w hd 0).any (fun x => s.hasApplied x.foot w.seen && s.mayAct (x.courses.map Prod.fst) 4) = true) ∧
    (sPend.brick? ⟨1, 0⟩ = some { bk with pendq := [pend0] } ∧ pend0.entered + 32 ≤ sPend.cycle ∧
      (vget sPend.foots (footOf pend0.core)).taken + 32 ≤ sPend.cycle ∧ sPend.openWalls < 16384 ∧ ∀ x ∈ pend0.deps, sPend.hidden 0 x = false) ∧
    (∀ r ∈ [(0x4000, true), (0x7000, false)], let s := sOvf (BitVec.ofNat 56 r.1)
      s.ovf.find? (fun x => x.id == 7) = some ovf0 ∧ (∀ x ∈ ovf0.deps, s.hidden 0 x = false) ∧ s.claimBehind ovf0 = false ∧ s.ovfDesc 1 = r.1 ∧
      okAnd (s.unitPage 0 0 r.1 .write) (fun pa s1 =>
        !s1.poisoned pa && let d := (UnitData.mk pa 0 ((s.mem 0).readN pa 40)).qdesc
        decide (d.valid = r.2) && decide (s.unitHome 0 pa = 0) && s.cachable pa && s.homeReady 0 pa 128 &&
          (!d.valid || okAnd (s.unitPage 0 0 (d.slot d.wr) .write) fun slot _ => s.cachable slot)) = true) ∧
    (let s := sHold (.counter 2)
     let w := { wall2 .waiting none with words := waits0 }
     s.unitHolds[0]? = some ⟨0, 0, .counter 2, 0, true, false⟩ ∧ s.wall? 2 = some w ∧ w.state = .waiting ∧
       okAnd (s.readWaits w (Packet.waits w.words)) (fun x _ => x.isSome) = true) ∧
    ((sHold (.header 2)).wall? 2).isSome = true ∧ ((sHold (.context 1 0)).set? 1 0).isSome = true ∧
    (let s := { sDone with unitHolds := [⟨0, 0, .completion ⟨1, 0⟩, 0, false, false⟩] }
     s.unitHolds[0]? = some ⟨0, 0, .completion ⟨1, 0⟩, 0, false, false⟩ ∧ isNext (exec (.brickRetire 1 0) s) = true) ∧
    ((sDone.bricks.map Brick.key).Nodup ∧ sDone.brick? bk.key = some bk ∧ sDone.brickDone bk = true ∧ sDone.retireWith bk = [bk] ∧
      sDone.mayAct [groupOf bk.core] 2 = true ∧
      okAnd ((sDone.noteAct [groupOf bk.core] 2).recordPage bk) (fun x _ => x.any sDone.cachable) = true ∧ bk2 ∈ sDone.bricks ∧ bk2.key.wall = bk.key.wall ∧ bk2.key ≠ bk.key ∧
      bk2.retired = false) ∧
    (let p : CloseProg := ⟨[], some [], 0, vz⟩
     let x := { st0 with state := 1, close := some p }
     let s := { S with streams := [x] }
     s.stream? 3 = some x ∧ x.state = 1 ∧ x.closeAt ≤ (vget s.foots x.homef).ptp ∧ x.close = some p ∧ p.items = some []) ∧
    (let x := { st0 with state := 2 }
     let s := { S with streams := [x] }
     s.stream? 3 = some x ∧ x.state = 2 ∧ x.tick ≤ (vget s.foots x.homef).ptp) := by
  have two {p : Nat → Prop} (h₁ : p 1) (h₂ : p 2) : ∀ c ∈ [1, 2], p c := by
    intro c hc
    have h : c = 1 ∨ c = 2 := by simpa using hc
    rcases h with rfl | rfl
    · exact h₁
    · exact h₂
  refine ⟨two ?_ ?_, ?_, ?_, ?_, ?_, ?_, ?_, ?_, ?_, ?_, ?_, ?_, ?_⟩
  · exact ⟨rfl, rfl, by decide, ok_of (by decide +kernel)⟩
  · exact ⟨rfl, rfl, by decide, ok_of (by decide +kernel)⟩
  all_goals decide +kernel

/-- Only core 0 works, and its seats do not hold a brick of 16 gangs beside the brick there, of a lower class. -/
def sFuse (asked : Bool) : State :=
  { sWall (wall2 .ready (some { hd with roles := [{ entry := 0x10000, named := 8, gangs := 16, reord := false, dict := 0, dictaddr := 0 }] }))
    with
    walls := [{ wl with cls := 2 }, wall2 .ready (some { hd with roles := [{ entry := 0x10000, named := 8, gangs := 16, reord := false,
                                                                              dict := 0, dictaddr := 0 }] })]
    sys := { S.sys with fusemap := BitVec.ofNat 1024 (2 ^ 384 - 2) }, nofit := [⟨2, 0, 0, asked⟩], cycle := 4096 }

def sSet (p : Machine.PSet) (g : Gang) : State := { sg g with sets := [p] }

def psHalted : Machine.PSet := ⟨1, 0, 0, .halted, false, false, 0, 0, [(0x1000, 0)]⟩

/-- The gang of a swapped set in the park store, its brick's state in memory. -/
def sPark : State :=
  { sSet ⟨1, 0, 0, .parked, false, true, 0, 0, []⟩ { gg with place := .park 0 0 0 } with
    bricks := [{ bk with seats := [], place := .memory }]
    foots := Vector.replicate 4 { Footing.reset with
      mem := tables.filter (fun c => c.1 < 0x202010) ++ [(0x202010, 0x0F), (0x202012, 0x02), (0x202080, 0x0F), (0x202082, 0x30)] } }

def psBack : Machine.PSet := ⟨1, 0, 0, .parked, true, false, 0, 0, []⟩

theorem test_meets_SetsHaltAndReturn :
    ((sFuse false).nofit.find? (fun x => x.wall == 2 && x.num == 0) = some ⟨2, 0, 0, false⟩ ∧ (sFuse false).classOf 2 = 1 ∧
      0 + 256 * (sFuse false).sys.highdelay ≤ (sFuse false).cycle) ∧
    ((sFuse true).wall? 2).any (fun w => w.header.any fun h => !((sFuse true).victims w h 0).isEmpty &&
      ((sFuse true).victims w h 0).all (fun p => ((sFuse true).setGangs p).all fun g => !g.midway) &&
      (sFuse true).mayAct (((sFuse true).victims w h 0).flatMap fun p => ((sFuse true).setBricks p).map fun b => groupOf b.core) 1) =
        true ∧
    (let g := { gg with wait := .joinc 0x1000 5 0 }
     let s := { sSet ps g with cycle := 16384 }
     s.set? 1 0 = some ps ∧ s.sys.swapth ≠ 0 ∧ ps.phase = .resident ∧ s.setGangs ps ≠ [] ∧ ∀ g ∈ s.setGangs ps, s.longJoin g = true) ∧
    ((sSet psHalted gg).set? 1 0 = some psHalted ∧ psHalted.phase ≠ .resident ∧ psHalted.restorable = false ∧
      (0x1000, 0) ∈ psHalted.joins ∧ okAnd ((sSet psHalted gg).unitRead 0 0 0x1000 8) (fun d _ => decide (0 ≤ (d.word 0 - 0).toInt)) = true) ∧
    (let p : Machine.PSet := ⟨1, 0, 0, .parked, false, true, 0, 0, []⟩
     sPark.set? 1 0 = some p ∧ sPark.isDead (.context 1 0) = false ∧ (sPark.setGangs p).filter (sPark.movesOn p) ≠ [] ∧
       okAnd (sPark.writeContext p ((sPark.setGangs p).filter (sPark.movesOn p))) (fun _ _ => true) = true) ∧
    (let s := { sSet psBack { gg with place := .park 0 0 0 } with bricks := [{ bk with seats := [] }] }
     s.wall? 1 = some wl ∧ psBack.restorable = true ∧ s.isDead (.context 1 0) = false ∧ s.turnOf wl.cls (.restore psBack) = true ∧
       s.parkedReady psBack = true ∧ s.mayAct ((s.setBricks psBack).map fun b => groupOf b.core) 3 = true) ∧
    (let s := sSet psHalted gg
     s.gang? 3 = some gg ∧ s.setOfBrick gg.brick = some psHalted ∧ s.brick? gg.brick = some bk ∧ psHalted.phase = .halted ∧ gg.seated = true ∧
       s.lateDone 3 = true ∧ (s.parkedOn 0).length < 48) ∧
    ∀ id, gg.wait ≠ .posted id :=
  ⟨by decide +kernel, by decide +kernel, by decide +kernel, by decide +kernel, by decide +kernel, by decide +kernel, by decide +kernel,
   (by intro id h; cases h)⟩

/-- Port 7 trained, expecting flit 65535, with one flit in its buffer. -/
def port7 (up : Bool) : Peer := { Peer.reset with up := up, enable := true, expect := 65535, buffer := [(9, [3, 0, 8])] }

def sPort (up : Bool) : State := { S with peers := S.peers.set 7 (port7 up) }

theorem test_meets_LinksCarryAccesses :
    (S.inBar2 1 (2 ^ 36 - 1) 1 = true ∧ S.inHbm (S.windowPa (2 ^ 36 - 1)) 1 = true ∧ S.poisonedIn (S.windowPa (2 ^ 36 - 1)) 1 = false ∧
      S.agentSees (2 * 1) (S.windowPa (2 ^ 36 - 1)) 1 = true ∧ S.poisoned (S.windowPa 0x2000) = false ∧ S.room (2 * 1) (S.windowPa (2 ^ 36 - 1)) 1 = true) ∧
    (S.inBar2 0 0x2000 8 = true ∧ S.windowPa 0x2000 % 8 = 0 ∧ S.inHbm (S.windowPa 0x2000) 8 = true ∧
      S.homeFoot (S.partOf (2 * 0)) (S.windowPa 0x2000) = 2 * 0 ∧ S.homeReady (192 * 0) (S.windowPa 0x2000) 8 = true ∧
      S.room 0 (S.windowPa 0x2000) 8 = true) ∧
    ((vget (sPort true).peers 7).up = true ∧ [0].head? ≠ some 1 ∧ (vget (sPort true).peers 7).expect = 65535 ∧
      (vget (sPort true).peers 7).held = [] ∧ (vget (sPort true).peers 7).inq = [] ∧ (vget (sPort true).peers 7).outq = [] ∧ (vget (sPort true).peers 7).mustTrain = false ∧
      (sPort true).inHbm 0x1000 1 = true ∧ (sPort true).room 3 0x1000 1 = true) ∧ (∃ p : Peer, p.up = true ∧ p.mayTrain = true) ∧
    32768 ≤ (65534 + 65536 - (vget (sPort true).peers 7).expect) % 65536 ∧
    (vget (sPort true).peers 7).buffer.find? (fun y => y.1 == 9) = some (9, [3, 0, 8]) ∧
    ((vget (sPort false).peers 7).up = false ∧ (vget (sPort false).peers 7).enable = true) :=
  ⟨by decide +kernel, by decide +kernel, by decide +kernel, ⟨{ port7 true with mustTrain := true }, rfl, rfl⟩, by decide +kernel, by decide +kernel,
   by decide +kernel⟩

end Sys2Proof.Tests
end

section
/-! What the shared operations on memory, links and units leave of the records that the dispatcher works on. -/

namespace Sys2Proof.Machine

open Sys2Proof

/-! ### Reads that change the slices and the links alone -/

/-- The two states differ at most in the slices, in the peer ports and in what has left the device. -/
def State.OnlyReads (s t : State) : Prop := t = { s with slices := t.slices, peers := t.peers, sent := t.sent }

theorem State.OnlyReads.refl (s : State) : s.OnlyReads s := rfl

theorem State.OnlyReads.trans {s t u : State} (h : s.OnlyReads t) (h' : t.OnlyReads u) : s.OnlyReads u := by
  unfold State.OnlyReads at *
  rw [h'.trans (by rw [h])]

theorem State.OnlyReads.foldl {α : Type} {f : State → α → State} (h : ∀ (s : State) x, s.OnlyReads (f s x)) (l : List α) (s : State) :
    s.OnlyReads (l.foldl f s) := by
  induction l generalizing s with
  | nil => exact .refl s
  | cons x r ih => exact (h s x).trans (ih _)

theorem State.onlyReads_slicePut (s : State) (k l : Nat) : s.OnlyReads (s.slicePut k l) := by
  simp only [State.slicePut]
  generalize (if s.isLocal k l then 16 - (vget s.slices k).rways else (vget s.slices k).rways) = cap
  by_cases h : cap = 0
  · rw [if_pos h]; rfl
  · rw [if_neg h]; rfl

theorem State.onlyReads_makeRoom (s : State) (k : Nat) : s.OnlyReads (s.makeRoom k) := by
  simp only [State.makeRoom]
  split
  · split
    · exact .refl s
    · exact s.onlyReads_slicePut ..
  · exact .refl s

theorem State.onlyReads_touchLine (s : State) (f pa : Nat) (w : Bool) : s.OnlyReads (s.touchLine f pa w) := by
  have dirty (t : State) (k l : Nat) (h : s.OnlyReads t) : s.OnlyReads (if w then t.dirty k l else t) := by
    split
    · exact h.trans rfl
    · exact h
  simp only [State.touchLine]
  apply dirty
  split
  · exact .refl s
  · split
    · exact s.onlyReads_slicePut ..
    · exact (s.onlyReads_makeRoom _).trans (.trans (t := (s.makeRoom _).miss _ _) rfl (State.onlyReads_slicePut ..))

theorem State.onlyReads_touch (s : State) (f pa n : Nat) (w : Bool) : s.OnlyReads (s.touch f pa n w) :=
  .foldl (fun _ _ => State.onlyReads_touchLine ..) _ _

/-- A message that is no write leaves memory. -/
theorem State.flitWrites_eq {s : State} {p : Nat} {xs : List Nat} (h : xs.head? ≠ some 1) : s.flitWrites p xs = s := by
  unfold State.flitWrites
  split
  · simp at h
  · rfl

theorem State.onlyReads_goOut {s : State} {link pa : Nat} {msg : Nat → List Nat} (h : ∀ off, (msg off).head? ≠ some 1) :
    s.OnlyReads (s.goOut link pa msg) := by
  unfold State.goOut
  split
  · rename_i p off _
    simp only [State.sendFlit]
    split
    · simp only [State.putFlit, State.flitWrites_eq (h off)]; rfl
    · rfl
  · rfl
  · rfl

theorem State.onlyReads_readOut (s : State) (part pa n : Nat) : s.OnlyReads (s.readOut part pa n) :=
  by
  refine .foldl (fun _ _ => State.onlyReads_goOut fun _ => ?_) _ _
  simp

theorem State.onlyReads_readBy (s : State) (part foot pa n : Nat) : s.OnlyReads (s.readBy part foot pa n) :=
  (s.onlyReads_touch ..).trans (State.onlyReads_readOut ..)

theorem State.onlyReads_fetchOut (s : State) (g : Gang) (va n : Nat) : s.OnlyReads (s.fetchOut g va n) := by
  refine State.OnlyReads.foldl (fun s x => ?_) _ _
  split
  · exact s.onlyReads_readBy ..
  · exact .refl s

theorem State.OnlyReads.cycle {s t : State} (h : s.OnlyReads t) : t.cycle = s.cycle := by rw [h]
theorem State.OnlyReads.gangs {s t : State} (h : s.OnlyReads t) : t.gangs = s.gangs := by rw [h]
theorem State.OnlyReads.bricks {s t : State} (h : s.OnlyReads t) : t.bricks = s.bricks := by rw [h]
theorem State.OnlyReads.walls {s t : State} (h : s.OnlyReads t) : t.walls = s.walls := by rw [h]
theorem State.OnlyReads.sets {s t : State} (h : s.OnlyReads t) : t.sets = s.sets := by rw [h]
theorem State.OnlyReads.foots {s t : State} (h : s.OnlyReads t) : t.foots = s.foots := by rw [h]
theorem State.OnlyReads.streams {s t : State} (h : s.OnlyReads t) : t.streams = s.streams := by rw [h]
theorem State.OnlyReads.sys {s t : State} (h : s.OnlyReads t) : t.sys = s.sys := by rw [h]

/-! ### Reads by the units (14:R445) -/

theorem State.onlyReads_walkOut (s : State) (part asid va : Nat) : s.OnlyReads (s.walkOut part asid va) :=
  .foldl (fun s _ => (s.onlyReads_touchLine ..).trans (State.onlyReads_readOut ..)) _ _

/-- A unit's access that translates has made the reads of its walk. -/
theorem State.unitPage_ok {s t : State} {foot asid va pa : Nat} {need : Need} (h : s.unitPage foot asid va need = .ok pa t) :
    t = s.walkOut (s.partOf foot) asid va := by
  simp only [State.unitPage] at h
  split at h
  · cases h
  split at h
  · split at h <;> cases h
  split at h
  · cases h
  split at h
  · cases h
  split at h
  · split at h <;> cases h
    rfl
  split at h
  · cases h
  split at h <;> cases h
  rfl

theorem State.onlyReads_unitPage {s t : State} {foot asid va pa : Nat} {need : Need} (h : s.unitPage foot asid va need = .ok pa t) :
    s.OnlyReads t := by
  rw [State.unitPage_ok h]
  exact s.onlyReads_walkOut ..

theorem State.onlyReads_unitRead {s t : State} {foot asid va n : Nat} {d : UnitData} (h : s.unitRead foot asid va n = .ok d t) :
    s.OnlyReads t := by
  simp only [State.unitRead] at h
  split at h
  · rename_i pa u hu
    split at h
    · cases h
    · cases h
      exact (State.onlyReads_unitPage hu).trans ((u.onlyReads_touch ..).trans (State.onlyReads_readOut ..))
  all_goals cases h

/-! ### Writes of memory -/

/-- Every gang of the first state is in the second one, where it was. -/
def State.SameSeats (s t : State) : Prop := ∀ g ∈ s.gangs, ∃ g' ∈ t.gangs, g'.gid = g.gid ∧ g'.place = g.place

theorem State.SameSeats.of_gangs {s t : State} (h : t.gangs = s.gangs) : s.SameSeats t :=
  fun g hg => ⟨g, h ▸ hg, rfl, rfl⟩

theorem State.SameSeats.trans {s t u : State} (h : s.SameSeats t) (h' : t.SameSeats u) : s.SameSeats u := by
  intro g hg
  obtain ⟨g', hg', gid, place⟩ := h g hg
  obtain ⟨g'', hg'', gid', place'⟩ := h' g' hg'
  exact ⟨g'', hg'', gid'.trans gid, place'.trans place⟩

/-- The two states differ at most in memory with what goes with it: the slices, writes on their way, poison, tags, the peer ports,
what has left the device, and the monitors that a write wakes. -/
structure State.OnlyWrites (s t : State) : Prop where
  rest : t = { s with
    gangs := t.gangs, marks := t.marks, foots := t.foots, writes := t.writes, orders := t.orders, wtags := t.wtags,
    nextId := t.nextId, slices := t.slices, peers := t.peers, sent := t.sent }
  seats : s.SameSeats t

theorem State.OnlyReads.onlyWrites {s t : State} (h : s.OnlyReads t) : s.OnlyWrites t := by
  refine ⟨?_, .of_gangs h.gangs⟩
  rw [h]

theorem State.OnlyWrites.refl (s : State) : s.OnlyWrites s := (State.OnlyReads.refl s).onlyWrites

theorem State.OnlyWrites.trans {s t u : State} (h : s.OnlyWrites t) (h' : t.OnlyWrites u) : s.OnlyWrites u := by
  refine ⟨?_, h.seats.trans h'.seats⟩
  have e := h'.rest
  rw [h.rest] at e
  exact e

theorem State.OnlyWrites.foldl {α : Type} {f : State → α → State} (h : ∀ (s : State) x, s.OnlyWrites (f s x)) (l : List α)
    (s : State) : s.OnlyWrites (l.foldl f s) := by
  induction l generalizing s with
  | nil => exact .refl s
  | cons x r ih => exact (h s x).trans (ih _)

theorem State.OnlyWrites.of_gangs {s t : State} (h : t.gangs = s.gangs)
    (h' : t = { s with
      gangs := t.gangs, marks := t.marks, foots := t.foots, writes := t.writes, orders := t.orders, wtags := t.wtags,
      nextId := t.nextId, slices := t.slices, peers := t.peers, sent := t.sent }) : s.OnlyWrites t := ⟨h', .of_gangs h⟩

/-- A monitor's wake leaves its gang where it was. -/
theorem State.onlyWrites_wakeLines (s : State) (foot : Option Nat) (pa len : Nat) : s.OnlyWrites (s.wakeLines foot pa len) := by
  refine ⟨rfl, fun g hg => ⟨_, List.mem_map_of_mem hg, ?_⟩⟩
  split
  · split <;> exact ⟨rfl, rfl⟩
  · exact ⟨rfl, rfl⟩

theorem State.onlyWrites_clean (s : State) (pa n : Nat) : s.OnlyWrites (s.clean pa n) := .of_gangs rfl rfl

theorem State.onlyWrites_putAll (s : State) (pa : Nat) (bs : List Byte) : s.OnlyWrites (s.putAll pa bs) :=
  ((s.onlyWrites_clean ..).trans (State.onlyWrites_wakeLines ..)).trans (.of_gangs rfl rfl)

theorem State.onlyWrites_sendFlit (s : State) (port : Nat) (payload : List Nat) : s.OnlyWrites (s.sendFlit port payload) := by
  have writes : s.OnlyWrites (s.flitWrites port payload) := by
    unfold State.flitWrites
    split
    · exact s.onlyWrites_putAll ..
    · exact .refl s
  simp only [State.sendFlit]
  split
  · exact writes.trans (.of_gangs rfl rfl)
  · exact .of_gangs rfl rfl

theorem State.onlyWrites_goOut (s : State) (link pa : Nat) (msg : Nat → List Nat) : s.OnlyWrites (s.goOut link pa msg) := by
  unfold State.goOut
  split
  · exact s.onlyWrites_sendFlit ..
  · exact .of_gangs rfl rfl
  · exact .refl s

theorem State.onlyWrites_writeBeyond (s : State) (part pa : Nat) (bs : List Byte) : s.OnlyWrites (s.writeBeyond part pa bs) := by
  have out (t : State) : t.OnlyWrites (t.writeOut part pa bs) := .foldl (fun t _ => t.onlyWrites_goOut ..) _ _
  unfold State.writeBeyond
  split
  · exact out s
  · exact (s.onlyWrites_putAll ..).trans (out _)

theorem State.onlyWrites_writeAll (s : State) (part pa : Nat) (bs : List Byte) : s.OnlyWrites (s.writeAll part pa bs) := by
  unfold State.writeAll
  split
  · exact .foldl (f := fun s _ => s.discard ((s.portOf pa).getD 0)) (fun _ _ => .of_gangs rfl rfl) _ _
  · split
    · exact (s.onlyWrites_putAll ..).trans (State.onlyReads_touch ..).onlyWrites
    · exact s.onlyWrites_writeBeyond ..

theorem State.onlyWrites_putWrite (s : State) (a : Author) (part pa : Nat) (bs : List Byte) :
    s.OnlyWrites (s.putWrite a part pa bs) := by
  by_cases hc : s.cachable pa = true
  · simp only [State.putWrite, hc, Bool.not_true, Bool.false_eq_true, if_false]
    refine .trans ?_ (State.onlyWrites_wakeLines ..)
    exact .of_gangs rfl rfl
  · simp only [State.putWrite, hc, Bool.not_false, if_true]
    exact .trans (t := s.tagBytes _) (.of_gangs rfl rfl) (State.onlyWrites_writeBeyond ..)

theorem State.onlyWrites_unitWrite (s : State) (foot pa : Nat) (bs : List Byte) : s.OnlyWrites (s.unitWrite foot pa bs) :=
  (s.onlyWrites_putWrite ..).trans (State.onlyReads_touch ..).onlyWrites

theorem State.OnlyWrites.walls {s t : State} (h : s.OnlyWrites t) : t.walls = s.walls := by rw [h.rest]
theorem State.OnlyWrites.sets {s t : State} (h : s.OnlyWrites t) : t.sets = s.sets := by rw [h.rest]
theorem State.OnlyWrites.bricks {s t : State} (h : s.OnlyWrites t) : t.bricks = s.bricks := by rw [h.rest]

/-! ### What leaves the walls and the placement sets -/

/-- The two states have the same walls and placement sets. -/
structure State.SameSets (s t : State) : Prop where
  walls : t.walls = s.walls
  sets : t.sets = s.sets

theorem State.SameSets.refl (s : State) : s.SameSets s := ⟨rfl, rfl⟩

theorem State.SameSets.trans {s t u : State} (h : s.SameSets t) (h' : t.SameSets u) : s.SameSets u :=
  ⟨h'.walls.trans h.walls, h'.sets.trans h.sets⟩

theorem State.SameSets.foldl {α : Type} {f : State → α → State} (h : ∀ (s : State) x, s.SameSets (f s x)) (l : List α)
    (s : State) : s.SameSets (l.foldl f s) := by
  induction l generalizing s with
  | nil => exact .refl s
  | cons x r ih => exact (h s x).trans (ih _)

theorem State.OnlyWrites.sameSets {s t : State} (h : s.OnlyWrites t) : s.SameSets t := ⟨h.walls, h.sets⟩
theorem State.OnlyReads.sameSets {s t : State} (h : s.OnlyReads t) : s.SameSets t := ⟨h.walls, h.sets⟩

theorem State.sameSets_writes {α : Type} (s : State) (part : Nat) (place : α → Nat) (bytes : α → List Byte) (l : List α) :
    s.SameSets (l.foldl (fun s x => s.writeAll part (place x) (bytes x)) s) :=
  .foldl (fun s _ => (s.onlyWrites_writeAll ..).sameSets) l s

theorem State.sameSets_append (s : State) (part now src : Nat) (bytes : List Byte) : s.SameSets (s.append part now src bytes) := by
  constructor
  · unfold State.append
    exact (State.sameSets_writes ..).walls
  · unfold State.append
    exact (State.sameSets_writes ..).sets

theorem State.sameSets_msix (s : State) (part : Option Nat) (v : Nat) : s.SameSets (s.msix part v) := ⟨rfl, rfl⟩

theorem State.sameSets_report (s : State) (part foot : Nat) (r : FaultRec) : s.SameSets (s.report part foot r) := by
  simp only [State.report]
  split
  · refine .trans ?_ (State.sameSets_msix ..)
    exact ⟨rfl, rfl⟩
  · split
    · exact (s.sameSets_append ..).trans (State.sameSets_msix ..)
    · exact s.sameSets_append ..

theorem State.sameSets_endEpoch (s : State) (f : Nat) : s.SameSets (s.endEpoch f) := ⟨rfl, rfl⟩

theorem State.sameSets_raise (s : State) (f g n : Nat) : s.SameSets (s.raise f g n) := by
  simp only [State.raise]
  split
  · exact .refl s
  · split
    · exact (s.sameSets_endEpoch g).trans ⟨rfl, rfl⟩
    · exact ⟨rfl, rfl⟩

theorem State.sameSets_raiseAll (s : State) (foot : Nat) (seen : Vector Nat 4) : s.SameSets (s.raiseAll foot seen) :=
  .foldl (fun _ _ => State.sameSets_raise ..) _ _

theorem State.sameSets_holdGang (s : State) (g : Gang) (cause : Nat) (tval : Word) (replay : Bool) :
    s.SameSets (s.holdGang g cause tval replay) :=
  .trans (t := s.reportGang g cause tval (epcWord g.pc g.pos) replay false 0) (s.sameSets_report ..) ⟨rfl, rfl⟩

end Sys2Proof.Machine

end

section
/-! What a step that issues a gang runs (O4): the issue of a gang that nothing stops, and the fetch of its clause. -/

namespace Sys2Proof.Machine

open Sys2Proof

/-! ### The issue of a gang that nothing stops (02:R35, 03:R72, 16:R336) -/

/-- The gang of a seat is free to issue: nothing holds it, no stop is pending or owed, and no spin history is open. -/
structure State.Issues (s : State) (c p : Nat) (g : Gang) : Prop where
  seat : s.gangAt c p = some g
  free : s.blocked g = false
  wait : g.wait = .ready
  fault : g.pendfault = none
  owed : g.owed = []
  spin : g.spin = []

/-- What stands before the issue of such a gang is its clause alone. -/
theorem State.Issues.prepare {s : State} {c p : Nat} {g : Gang} (h : s.Issues c p g) :
    s.prepare c p = ({ s with cur := (c, p) } : State).withCode { g with since := some s.cycle } State.issuePos := by
  have seat : ({ s with cur := (c, p) } : State).gangAt c p = some g := h.seat
  have free : ({ s with cur := (c, p) } : State).blocked g = false := h.free
  simp only [State.prepare, seat, free, h.wait, State.issueGang, h.fault, h.owed, Bool.false_eq_true, if_false]

theorem State.Issues.fours {s : State} {c p : Nat} {g : Gang} (h : s.Issues c p g) (f : List Nat) :
    ({ s with fours := f } : State).Issues c p g := ⟨h.seat, h.free, h.wait, h.fault, h.owed, h.spin⟩

theorem State.Issues.core {s : State} {c p : Nat} {g : Gang} (h : s.Issues c p g) : g.core = c ∧ g.seat = p := by
  have hp := List.find?_some h.seat
  have hp : g.place = .seat c p := by simpa using hp
  simp [Gang.core, Gang.seat, hp]

/-- The position issues once the WAIT mask is passed. -/
theorem State.issuePos_run {s : State} {g : Gang} {i : Instr} (hi : g.instr = some i) (hs : g.spin = [])
    (hw : g.waited = true ∨ g.waitDone = true) :
    s.issuePos g = .run i (s.setGang (if g.waited then g else g.passWait s.cycle)) := by
  have hw : (!g.waited && !g.waitDone) = false := by rcases hw with hw | hw <;> simp [hw]
  have hs : (if g.waited then g else g.passWait s.cycle).spin = [] := by split <;> exact hs
  simp only [State.issuePos, hi, hw, hs, Bool.false_eq_true, if_false, List.isEmpty_nil, Bool.true_or, if_true]

/-- A gang whose clause was decoded before runs its position. -/
theorem State.Issues.prepare_decoded {s : State} {c p : Nat} {g : Gang} {i : Instr} (h : s.Issues c p g)
    (hc : g.clause ≠ []) (hw : g.waited = true) (hi : g.instr = some i) :
    s.prepare c p = .run i (({ s with cur := (c, p) } : State).setGang { g with since := some s.cycle }) := by
  have hc : (!g.clause.isEmpty) = true := by simpa using hc
  have run := State.issuePos_run (s := { s with cur := (c, p) }) (g := { g with since := some s.cycle }) hi h.spin (.inl hw)
  rw [h.prepare, State.withCode, if_pos hc]
  exact run.trans (by rw [if_pos hw])

/-! ### The fetch of a clause (03:R46-R49, R72) -/

/-- When a fetch meets its word: the page is in a TLB, and neither a port nor a poisoned line keeps the word back. -/
theorem State.fetchWord_got {s : State} {g : Gang} {va : Nat} {w : BitVec 64} :
    s.fetchWord g va = .got w ↔ ∃ e pa, s.lookup g.core (s.asidOf g.brick.wall) va .fetch = some e ∧
      pa = e.phys (footOf g.core) va ∧ (s.mem (s.viewFoot (s.gangPart g) (footOf g.core) pa)).word pa = w ∧
      (∀ p, s.portOf pa = some p → (vget s.peers p).enable = true ∧ (vget s.peers p).ready = true) ∧
      (s.portOf pa = none → s.poisoned pa = false) := by
  unfold State.fetchWord
  cases s.lookup g.core (s.asidOf g.brick.wall) va .fetch with
  | none => simp
  | some e =>
    cases hp : s.portOf (e.phys (footOf g.core) va) with
    | none => cases hb : s.poisoned (e.phys (footOf g.core) va) <;> simp [hp, hb]
    | some p => cases he : (vget s.peers p).enable <;> cases hr : (vget s.peers p).ready <;> simp [hp, he, hr]

/-- A fetch does not ask which cores have issued a class-4 instruction. -/
theorem State.fetchWord_fours {s : State} (f : List Nat) {g : Gang} {va : Nat} {w : BitVec 64}
    (h : s.fetchWord g va = .got w) : ({ s with fours := f } : State).fetchWord g va = .got w := by
  rw [State.fetchWord_got] at h ⊢
  exact h

theorem State.fetchWords_fours {s : State} (f : List Nat) {g : Gang} {va n : Nat} {ws : List (BitVec 64)}
    (h : s.fetchWords g va n = .got ws) : ({ s with fours := f } : State).fetchWords g va n = .got ws := by
  induction n generalizing va ws with
  | zero => exact h
  | succ n ih =>
    simp only [State.fetchWords] at h ⊢
    split at h
    · cases h
    · rename_i w hw
      rw [State.fetchWord_fours f hw]
      split at h
      · cases h
      · rename_i rs hrs
        rw [ih hrs]
        exact h

/-- The gang with a clause decoded from its first position on. -/
def Gang.decoded (g : Gang) (h : Header) (is : List (Nat × Instr)) : Gang :=
  { g with clause := is, header := some h, pos := 0, waited := false, wait := g.waitOr .stalled }

/-- A clause of full slots decoded at its first position. -/
theorem State.decodeGang_got {s : State} {g : Gang} {w : Word} {h : Header} {slots : List Word} {i : Instr}
    {is : List (Nat × Instr)} (ha : g.pc.toNat % 8 = 0) (hp : g.pos = 0) (hw : s.fetchWord g g.pc.toNat = .got w)
    (hh : parseHeader w = .ok h) (hk : h.packed = 0) (hs : s.fetchWords g (g.pc.toNat + 8) h.count = .got slots)
    (hd : decodeClause g.named (((s.header? g.brick.wall).map LHeader.acct).getD 0) [] h slots = .ok ((0, i) :: is)) :
    s.decodeGang g = .got ((s.fetchOut g g.pc.toNat (1 + h.count)).setGang (g.decoded h ((0, i) :: is)),
      g.decoded h ((0, i) :: is)) := by
  have header : (s.fetchOut g g.pc.toNat (1 + h.count)).header? g.brick.wall = s.header? g.brick.wall := by
    simp only [State.header?, State.wall?, (s.onlyReads_fetchOut ..).walls]
  have clause : g.withClause h ((0, i) :: is) = some (g.decoded h ((0, i) :: is)) := by
    simp [Gang.withClause, Gang.decoded, hp]
  simp only [State.decodeGang, ha, hw, hh, hs, hk, header, hd, clause, ne_eq, not_true_eq_false, if_false, if_true]

/-- A gang that has no clause runs on with the one it decodes now. -/
theorem State.withCode_fetched {s t : State} {g d : Gang} (k : State → Gang → Prep) (hc : g.clause = [])
    (hd : (s.setGang g).decodeGang g = .got (t, d)) : s.withCode g k = k t d := by
  simp [State.withCode, hc, hd]

/-- A gang whose clause is fetched, with no token to wait for, runs the first position. -/
theorem State.Issues.prepare_fetched {s u : State} {c p : Nat} {g g' : Gang} {w : Word} {h : Header} {slots : List Word} {i : Instr}
    {is : List (Nat × Instr)} (hi : s.Issues c p g) (hu : u = { s with cur := (c, p) }) (hg : g' = { g with since := some s.cycle })
    (hc : g'.clause = []) (ha : g'.pc.toNat % 8 = 0) (hp : g'.pos = 0) (hw : (u.setGang g').fetchWord g' g'.pc.toNat = .got w)
    (hh : parseHeader w = .ok h) (hk : h.packed = 0) (hs : (u.setGang g').fetchWords g' (g'.pc.toNat + 8) h.count = .got slots)
    (hd : decodeClause g'.named (((u.header? g'.brick.wall).map LHeader.acct).getD 0) [] h slots = .ok ((0, i) :: is))
    (hm : h.wait = 0) :
    s.prepare c p = .run i ((((u.setGang g').fetchOut g' g'.pc.toNat (1 + h.count)).setGang
      (g'.decoded h ((0, i) :: is))).setGang ((g'.decoded h ((0, i) :: is)).passWait u.cycle)) := by
  have passed : (g'.decoded h ((0, i) :: is)).waitDone = true := by simp [Gang.waitDone, Gang.decoded, hm]
  have spin : (g'.decoded h ((0, i) :: is)).spin = [] := by rw [hg]; exact hi.spin
  have code := State.withCode_fetched State.issuePos hc (State.decodeGang_got (i := i) (is := is) ha hp hw hh hk hs hd)
  have run := State.issuePos_run (s := ((u.setGang g').fetchOut g' g'.pc.toNat (1 + h.count)).setGang (g'.decoded h ((0, i) :: is)))
    (g := g'.decoded h ((0, i) :: is)) rfl spin (.inr passed)
  calc s.prepare c p = u.withCode g' State.issuePos := by rw [hu, hg]; exact hi.prepare
    _ = _ := code
    _ = _ := run
    _ = _ := by rw [State.setGang_cycle, (State.onlyReads_fetchOut ..).cycle]; rfl

/-! ### The step that issues a seat's gang -/

/-- The issue of the next chosen seat: one class-4 instruction of a core in a cycle (07:R147). -/
theorem State.issueNext_pick {s u : State} {c p : Nat} {more : List (Nat × Nat)} {g : Gang} (hk : s.picks = some ((c, p) :: more))
    (hu : u = { s with picks := some more }) (hg : u.gangAt c p = some g) :
    s.issueNext c p = if !u.stands4 g then u.issue c p else if u.fours.contains c then .next u
      else ({ u with fours := c :: u.fours } : State).issue c p := by
  have chosen : s.chosen = s := by simp only [State.chosen, hk, Option.isSome_some, if_true]
  subst hu
  unfold State.issueNext
  rw [chosen]
  dsimp only
  rw [hk]
  dsimp only
  rw [if_neg (by simp), hg]
  rfl

/-- A step whose next action is the issue of the next chosen seat runs what stands before that issue in every state that differs
in the class-4 issues of the cycle; a class-4 instruction is noted for its core (07:R147). -/
theorem step_issue {s u : State} {c p : Nat} {rest : List Action} {more : List (Nat × Nat)} {g : Gang} {i : Instr} {t : List Nat → State}
    (ha : s.agenda = .issue c p :: rest) (hk : s.picks = some ((c, p) :: more)) (hs : s.sys.stopped = false)
    (ho : s.overheated = false) (hg : s.Issues c p g) (h4 : isClass4 i = true → c ∉ s.fours)
    (hu : u = { s with agenda := rest, picks := some more })
    (hp : ∀ f, ({ u with fours := f } : State).prepare c p = .run i (t f)) :
    step s = exec i (t (if isClass4 i then c :: s.fours else s.fours)) := by
  have seat : u.gangAt c p = some g := by rw [hu]; exact hg.seat
  have fours : u.fours = s.fours := by rw [hu]
  have stands : u.stands4 g = isClass4 i := by
    have prep : u.prepare c p = .run i (t u.fours) := hp u.fours
    rw [State.stands4, hg.core.1, hg.core.2, prep]
  have issue (f : List Nat) : ({ u with fours := f } : State).issue c p = exec i (t f) := by rw [State.issue, hp f]
  have next : step s = ({ s with agenda := rest } : State).issueNext c p := by
    have ho' : ({ s with agenda := rest } : State).overheated = false := ho
    simp only [step, ha, State.act, hs, ho', Bool.false_and, Bool.and_false, Bool.false_eq_true, if_false]
  rw [next, State.issueNext_pick (s := { s with agenda := rest }) hk hu seat, stands]
  cases hi : isClass4 i with
  | false => exact (issue u.fours).trans (by rw [fours]; rfl)
  | true =>
    have hc : u.fours.contains c = false := by simpa [fours] using h4 hi
    rw [hc]
    exact (issue (c :: u.fours)).trans (by rw [fours]; rfl)

end Sys2Proof.Machine

open Sys2Proof Sys2Proof.Machine

/-- Settles O4: a seat's gang that nothing stops issues its position, from a clause decoded before or fetched now. -/
theorem stepRunsDecodedInstruction : Obligations.StepRunsDecodedInstruction := by
  unfold Obligations.StepRunsDecodedInstruction
  intro s c p rest more g i ha hk hs ho seat free wait fault owed spin h4
  have hg : s.Issues c p g := ⟨seat, free, wait, fault, owed, spin⟩
  refine ⟨fun hc hw hi => ?_, fun w h slots is hc hpc hpos hword hhead hpack hslots hdec hmask => ?_⟩
  · exact step_issue ha hk hs ho hg h4 rfl
      (t := fun f => ({ s with agenda := rest, picks := some more, cur := (c, p), fours := f } : State).setGang
        { g with since := some s.cycle })
      fun f => State.Issues.prepare_decoded ⟨seat, free, wait, fault, owed, spin⟩ hc hw hi
  · have decoded : Gang.decoded { g with since := some s.cycle } h ((0, i) :: is) =
        { g with since := some s.cycle, clause := (0, i) :: is, header := some h, wait := .stalled, waited := false } := by
      simp [Gang.decoded, Gang.waitOr, wait, hpos]
    refine (step_issue ha hk hs ho hg h4 rfl fun f => State.Issues.prepare_fetched (i := i) (is := is)
      ⟨seat, free, wait, fault, owed, spin⟩ rfl rfl hc hpc hpos (State.fetchWord_fours f hword) hhead hpack
      (State.fetchWords_fours f hslots) hdec hmask).trans ?_
    rw [decoded]
    rfl

end

section
/-! What writes to the register block leave (O56). -/

namespace Sys2Proof.Machine

open Sys2Proof

/-! ### SLICECTL (08:R176) -/

/-- One line met while the remote ways of the sets are counted: the slice and the sets of the remote lines kept so far. -/
def State.drainStep (s : State) (slice rways : Nat) (a : Slice × List Nat) (l : Nat × Bool) : Slice × List Nat :=
  if s.isLocal slice l.1 then a
  else if (a.2.filter (· == setOfLine l.1)).length < rways then (a.1, setOfLine l.1 :: a.2) else (a.1.evict l, a.2)

theorem State.drainWays_eq (s : State) (slice : Nat) (x : Slice) :
    s.drainWays slice x = (x.lines.foldl (s.drainStep slice x.rways) (x, [])).1 := rfl

/-- The line is remote to the slice and lies in set `n`. -/
def State.remoteIn (s : State) (slice n : Nat) (l : Nat × Bool) : Bool := !s.isLocal slice l.1 && setOfLine l.1 == n

@[simp] theorem Slice.evict_rways (x : Slice) (l : Nat × Bool) : (x.evict l).rways = x.rways := by
  simp only [Slice.evict, Slice.writeBack]
  split
  · split <;> rfl
  · rfl

@[simp] theorem Slice.evict_lines (x : Slice) (l : Nat × Bool) : (x.evict l).lines = x.lines.erase l := by
  simp only [Slice.evict, Slice.writeBack]
  split
  · split <;> rfl
  · rfl

/-- While lines are still to be met: those kept before and those still to come make up the slice, and the ones kept are within
the remote ways of every set, as the list of their sets says. -/
structure State.Draining (s : State) (slice rways : Nat) (a : Slice × List Nat) (kept rest : List (Nat × Bool)) : Prop where
  ways : a.1.rways = rways
  lines : a.1.lines.Perm (kept ++ rest)
  sets : ∀ n, kept.countP (s.remoteIn slice n) = (a.2.filter (· == n)).length
  within : ∀ n, kept.countP (s.remoteIn slice n) ≤ rways

/-- A line met is kept or evicted. -/
theorem State.Draining.step {s : State} {slice rways : Nat} {a : Slice × List Nat} {kept rest : List (Nat × Bool)}
    {l : Nat × Bool} (h : s.Draining slice rways a kept (l :: rest)) :
    ∃ kept', s.Draining slice rways (s.drainStep slice rways a l) kept' rest := by
  obtain ⟨ways, lines, sets, within⟩ := h
  have moved : (kept ++ l :: rest).Perm (l :: kept ++ rest) := List.perm_middle
  unfold State.drainStep
  split
  · rename_i hl
    refine ⟨l :: kept, ways, lines.trans moved, fun n => ?_, fun n => ?_⟩ <;>
      simp only [List.countP_cons, State.remoteIn, hl, Bool.not_true, Bool.false_and, Bool.false_eq_true, if_false, Nat.add_zero]
    · exact sets n
    · exact within n
  · rename_i hl
    have counted (n : Nat) : s.remoteIn slice n l = (setOfLine l.1 == n) := by simp [State.remoteIn, hl]
    split
    · rename_i room
      refine ⟨l :: kept, ways, lines.trans moved, fun n => ?_, fun n => ?_⟩
      · simp only [List.countP_cons, counted, List.filter_cons, sets n]
        split <;> simp
      · simp only [List.countP_cons, counted]
        by_cases hn : setOfLine l.1 = n
        · subst hn
          simpa [sets] using room
        · simpa [hn] using within n
    · refine ⟨kept, by simpa using ways, ?_, sets, within⟩
      have gone : ((l :: kept ++ rest).erase l).Perm (kept ++ rest) := by simp
      simpa using ((lines.trans moved).erase l).trans gone

theorem State.Draining.all {s : State} {slice rways : Nat} {a : Slice × List Nat} {kept rest : List (Nat × Bool)}
    (h : s.Draining slice rways a kept rest) : ∃ kept', s.Draining slice rways (rest.foldl (s.drainStep slice rways) a) kept' [] := by
  induction rest generalizing a kept with
  | nil => exact ⟨kept, h⟩
  | cons l rest ih =>
    obtain ⟨kept', h'⟩ := h.step
    exact ih h'

/-- After a change of RWAYS no set has more remote lines than it allows. -/
theorem State.drainWays_remote (s : State) (slice : Nat) (x : Slice) :
    (s.drainWays slice x).rways = x.rways ∧
      ∀ n, ((s.drainWays slice x).lines.filter (s.remoteIn slice n)).length ≤ x.rways := by
  have start : s.Draining slice x.rways (x, []) [] x.lines := ⟨rfl, .refl _, fun _ => rfl, fun _ => Nat.zero_le _⟩
  obtain ⟨kept, ways, lines, -, within⟩ := start.all
  rw [State.drainWays_eq]
  refine ⟨ways, fun n => ?_⟩
  rw [← List.countP_eq_length_filter, lines.countP_eq, List.append_nil]
  exact within n

/-! ### Registers written and read (22:R413) -/

theorem State.anyStream_eq_false {s : State} : s.anyStream = false ↔ s.streams = [] := by
  simp [State.anyStream]

theorem State.anyStream_eq_true {s : State} : s.anyStream = true ↔ s.streams ≠ [] := by
  simp [State.anyStream]

/-- Offsets below 0x200 take nothing. -/
theorem State.regWrite_low (s : State) {off : Nat} (v : Nat) (h : off < 0x200) : s.regWrite off v = s := by
  unfold State.regWrite
  simp only [show off ≠ 0x200 by omega, show off ≠ 0x400 by omega, show off ≠ 0x3000 by omega, show off ≠ 0x4008 by omega,
    show off ≠ 0x4018 by omega, show off ≠ 0x5000 by omega, show off ≠ 0x5008 by omega, show ¬ 0x1020 ≤ off by omega,
    show ¬ 0x800100 ≤ off by omega, show ¬ 0x1000000 ≤ off by omega, false_and, if_false]

/-- A write to a footing's part of the block. -/
theorem State.regWrite_foot (s : State) {off : Nat} (v : Nat) (h : 0x1000000 ≤ off) (h' : off < 0x1400000) :
    s.regWrite off v = s.footReg ((off - 0x1000000) / 0x100000) (off % 0x100000) v := by
  unfold State.regWrite
  simp only [show off ≠ 0x200 by omega, show off ≠ 0x400 by omega, show off ≠ 0x3000 by omega, show off ≠ 0x4008 by omega,
    show off ≠ 0x4018 by omega, show off ≠ 0x5000 by omega, show off ≠ 0x5008 by omega, show ¬ off < 0x1100 by omega,
    show ¬ off < 0x800120 by omega, h, h', false_and, and_false, true_and, if_false, if_true]

/-- PLACECTL and RATECAP of a footing. -/
theorem State.regWrite_placectl (s : State) {f : Nat} (v : Nat) (h : f < 4) :
    s.regWrite (0x1000000 + 0x100000 * f) v = s.footReg f 0 v := by
  rw [State.regWrite_foot s v (by omega) (by omega)]
  congr 1 <;> omega

theorem State.regWrite_ratecap (s : State) {f : Nat} (v : Nat) (h : f < 4) :
    s.regWrite (0x1000008 + 0x100000 * f) v = s.footReg f 8 v := by
  rw [State.regWrite_foot s v (by omega) (by omega)]
  congr 1 <;> omega

/-- A read of a footing's part of the block. -/
theorem State.regRead_foot (s : State) {off : Nat} (hf : s.sys.firmware = true) (h : 0x1000000 ≤ off) (h' : off < 0x1400000) :
    s.regRead off = s.footRead ((off - 0x1000000) / 0x100000) (off % 0x100000) := by
  unfold State.regRead
  simp only [hf, Bool.not_true, Bool.false_and, Bool.false_eq_true, show off ≠ 0 by omega, show off ≠ 0x100 by omega,
    show off ≠ 0x200 by omega, show off ≠ 0x300 by omega, show off ≠ 0x308 by omega, show off ≠ 0x400 by omega,
    show ¬ off < 0x1100 by omega, show off ≠ 0x1800 by omega, show off ≠ 0x2000 by omega, show off ≠ 0x2008 by omega,
    show off ≠ 0x3000 by omega, show off ≠ 0x4000 by omega, show off ≠ 0x4008 by omega, show off ≠ 0x4010 by omega,
    show off ≠ 0x4018 by omega, show off ≠ 0x5000 by omega, show off ≠ 0x5008 by omega, show ¬ off < 0x6080 by omega,
    show off ≠ 0x800000 by omega, show ¬ off < 0x800120 by omega, show ¬ off < 0x1000000 by omega, h, h', and_false, true_and,
    if_false, if_true]

/-- A multicast group's record reads as its word (09:R195). -/
theorem State.regRead_mcrec (s : State) {f n : Nat} (hf : s.sys.firmware = true) (h : f < 4) (hn : n < 64) :
    s.regRead (0x1001000 + 0x100000 * f + 8 * n) = (vget (vget s.foots f).mc n).word := by
  rw [State.regRead_foot s hf (by omega) (by omega)]
  have foot : (0x1001000 + 0x100000 * f + 8 * n - 0x1000000) / 0x100000 = f := by omega
  have off : (0x1001000 + 0x100000 * f + 8 * n) % 0x100000 = 0x1000 + 8 * n := by omega
  have entry : (0x1000 + 8 * n - 0x1000) / 8 = n := by
    rw [Nat.add_sub_cancel_left, Nat.mul_div_cancel_left _ (by decide)]
  have range : 0x1000 ≤ 0x1000 + 8 * n ∧ 0x1000 + 8 * n < 0x1200 := by omega
  have ctl : 0x1000 + 8 * n ≠ 0 := by omega
  have cap : 0x1000 + 8 * n ≠ 8 := by omega
  rw [foot, off]
  simp only [State.footRead, ctl, cap, range, entry, and_self, if_false, if_true]

theorem McGroup.word_eq (r : McGroup) : r.word = r.owner + 2 ^ 11 * r.members.length + 2 ^ 18 * r.timer := by
  simp only [McGroup.word, field, Nat.shiftLeft_eq, Nat.mul_comm]

/-- DEVID: the device and the stepping. -/
theorem State.regRead_devid (s : State) : s.regRead 0 = 9 + Config.stepping.toNat * 2 ^ 16 := by
  simp [State.regRead, field, Nat.shiftLeft_eq]

/-- In recovery a register other than DEVID and the mailbox reads 0 (22:R425). -/
theorem State.regRead_recovery {s : State} {off : Nat} (hf : s.sys.firmware = false) (h0 : off ≠ 0) (hm : inMailbox off = false) :
    s.regRead off = 0 := by
  unfold State.regRead
  simp only [h0, hf, hm, Bool.not_false, Bool.and_self, if_false, if_true]

theorem State.regRead_asidbase {s : State} (hf : s.sys.firmware = true) : s.regRead 0x200 = s.sys.asidbase := by
  simp [State.regRead, hf]

/-- In recovery a write outside the mailbox is not answered (22:R425). -/
theorem State.happen_recovery {s : State} {off : Nat} (v : Nat) (hf : s.sys.firmware = false) (hm : inMailbox off = false) :
    s.happen (.registerWrite off v) = .next s := by
  have event : (encode (.registerWrite off v)).isSome = false := rfl
  simp only [State.happen, event, hf, unanswered, hm, Bool.not_false, Bool.and_self, Bool.false_eq_true, if_false, if_true]

/-! ### PEER (22:R421, R422) -/

/-- A port with nothing to send, in a device with no request under way, has nothing to end when it is disabled. -/
theorem State.portOff_idle {s : State} {p : Nat} (hr : s.reqs = []) (ho : (vget s.peers p).outq = []) :
    ((s.dropOut p).portEnds p).tidy = s := by
  have same : s.setPeer p { vget s.peers p with outq := [] } = s := by
    have entry : ({ vget s.peers p with outq := [] } : Peer) = vget s.peers p := by rw [← ho]
    rw [entry]
    simp [State.setPeer, vset, vget]
  simp only [State.dropOut, ho, List.foldl_nil, same, State.portEnds, hr, List.flatMap_nil, State.tidy, List.filter_nil]
  rw [← hr]

theorem execPeerWrite_next {p : Nat} (v : Nat) (s : State) (h : p < 8) : ∃ t : State, execPeerWrite p v s = .next t := by
  simp only [execPeerWrite, show ¬ 8 ≤ p by omega, if_false]
  exact ⟨_, rfl⟩

/-- ENABLE and DISC are what is written, where nothing has to end. -/
theorem execPeerWrite_set {p v : Nat} {s : State} (h : p < 8) (hv : v / 2 % 2 = 1 ∨ s.reqs = [] ∧ (vget s.peers p).outq = []) :
    execPeerWrite p v s =
      .next (s.setPeer p { vget s.peers p with enable := v / 2 % 2 == 1, disc := BitVec.ofNat 8 (v / 256) }) := by
  simp only [execPeerWrite, show ¬ 8 ≤ p by omega, if_false]
  split
  · rfl
  · rename_i he
    obtain ⟨hr, ho⟩ := hv.resolve_left (by simpa using he)
    exact congrArg _ (State.portOff_idle hr (by simpa [State.setPeer] using ho))

/-- A vector is raised, or pending while it is masked (22:R412). -/
theorem Sys.raise_eq (y : Sys) (x : Nat × Nat) : y.raise x =
    if x ∈ y.msixOff then { y with msixPend := y.msixPend.filter (· != x) ++ [x] } else { y with msix := y.msix ++ [x] } := by
  simp only [Sys.raise, List.contains_iff_mem]

/-! ### PARTCFG, the fault queues, SLICECTL, the pool (22:R414, R416, 08:R176) -/

theorem execPartcfgWrite_idle (v : Nat) {s : State} (hw : s.openWalls = 0) (hs : s.streams = []) : execPartcfgWrite v s =
    .next { s with sys := { s.sys with partcfg := if v % 4 = 3 then 0 else v % 4, ss4 := v / 16 % 16 } } := by
  have hs := State.anyStream_eq_false.2 hs
  simp [execPartcfgWrite, hw, hs]

theorem execPartcfgWrite_busy (v : Nat) {s : State} (h : s.openWalls ≠ 0 ∨ s.streams ≠ []) : execPartcfgWrite v s = .next s := by
  rw [← State.anyStream_eq_true] at h
  simp only [execPartcfgWrite, h, if_true]

theorem execFqheadWrite_eq (v : Nat) {s : State} {p : Nat} (hp : p < 4) : execFqheadWrite p v s =
    .next (if (vget s.sys.fq p).tail < v then s else s.setFq p { vget s.sys.fq p with head := v }) := by
  simp only [execFqheadWrite, show ¬ 4 ≤ p by omega, if_false]

theorem execFqReconfigure_eq (v : Nat) {s : State} {p n : Nat} (hp : p < 4) (hn : n ≤ 16) : execFqReconfigure p n v s =
    .next (s.setFq p { vget s.sys.fq p with base := v % 2 ^ 52 / 32 * 32, size := n, head := 0, tail := 0 }) := by
  simp only [execFqReconfigure, show ¬ 4 ≤ p by omega, hn, if_false, if_true]

theorem execSlicectlRead_eq {s : State} {k : Nat} (hk : k < 96) :
    execSlicectlRead k s = .next { s with slices := vset s.slices k { vget s.slices k with misshi := 0 } } := by
  simp only [execSlicectlRead, show ¬ 96 ≤ k by omega, if_false]

theorem execSlicectlWrite_eq (v : Nat) {s : State} {k : Nat} (hk : k < 96) : execSlicectlWrite k v s =
    .next { s with slices := vset s.slices k (s.drainWays k { vget s.slices k with rways := Nat.min (v % 16) 8 }) } := by
  simp only [execSlicectlWrite, show ¬ 96 ≤ k by omega, if_false]

/-- POOLVA and NPOOL stand while a stream is admitted. -/
theorem State.regWrite_poolBusy {s : State} {off : Nat} (v : Nat) (h : s.streams ≠ []) (ho : off = 0x5000 ∨ off = 0x5008) :
    s.regWrite off v = s := by
  have h := State.anyStream_eq_true.2 h
  rcases ho with rfl | rfl <;> simp [State.regWrite, h]

theorem State.regWrite_poolva {s : State} (v : Nat) (h : s.streams = []) :
    s.regWrite 0x5000 v = { s with sys := { s.sys with poolva := v % 2 ^ 56 } } := by
  have h := State.anyStream_eq_false.2 h
  simp [State.regWrite, h]

end Sys2Proof.Machine

open Sys2Proof Sys2Proof.Machine

/-- Settles O56, clause by clause from what each register's write does. -/
theorem registerBlockWrites : Obligations.RegisterBlockWrites := by
  unfold Obligations.RegisterBlockWrites
  intro s v
  refine ⟨?partcfg, ?partcfgBusy, ?faultQueue, ?slicectl, ?low, rfl, rfl, rfl, rfl, ?pool, ?poolBusy, ?foot, ?peer, ?devid,
    ?recovery, ?asidbase, ?mcrec, ?raise⟩
  case partcfg => exact fun hw hs => execPartcfgWrite_idle v hw hs
  case partcfgBusy => exact fun h => execPartcfgWrite_busy v h
  case faultQueue =>
    intro p hp
    refine ⟨fun hv => ?_, fun hv => ?_, fun n hn => execFqReconfigure_eq v hp hn⟩
    · exact (execFqheadWrite_eq v hp).trans (by rw [if_neg (by omega)])
    · exact (execFqheadWrite_eq v hp).trans (by rw [if_pos hv])
  case slicectl =>
    intro k hk
    obtain ⟨ways, remote⟩ := s.drainWays_remote k { vget s.slices k with rways := Nat.min (v % 16) 8 }
    refine ⟨execSlicectlRead_eq hk, _, execSlicectlWrite_eq v hk, ways, fun n => ?_⟩
    rw [ways]
    exact remote n
  case low =>
    intro off h
    exact congrArg _ (s.regWrite_low v h)
  case pool => exact fun h => congrArg _ (State.regWrite_poolva v h)
  case poolBusy =>
    exact fun h => ⟨congrArg _ (State.regWrite_poolBusy v h (.inl rfl)), congrArg _ (State.regWrite_poolBusy v h (.inr rfl))⟩
  case foot =>
    intro f hf
    exact ⟨congrArg _ (s.regWrite_placectl v hf), congrArg _ (s.regWrite_ratecap v hf)⟩
  case peer =>
    intro p hp
    exact ⟨execPeerWrite_set hp, execPeerWrite_next v s hp⟩
  case devid =>
    rw [State.regRead_devid]
    omega
  case recovery =>
    intro hf off h0 hm
    exact ⟨State.regRead_recovery hf h0 hm, State.happen_recovery v hf hm⟩
  case asidbase =>
    intro hf t ht
    obtain rfl : ({ s with sys := { s.sys with asidbase := v % 2 ^ 52 } } : State) = t := by injection ht
    exact State.regRead_asidbase hf
  case mcrec =>
    intro hf f h n hn
    rw [State.regRead_mcrec s hf h hn]
    exact McGroup.word_eq _
  case raise => exact s.sys.raise_eq

end

section
/-! Settles O59: the halt, the way to the park store and to memory, and the return of placement sets (14:R299-R301, 16:R326,
R334, R335). -/

namespace Sys2Proof.Machine

open Sys2Proof

/-! ### Halts: pre-emption and swap-out (16:R326, R334, R335) -/

theorem execHighDelayExpiry_next {s : State} {wall n : Nat} {x : NoFit}
    (hx : (s.nofit.find? fun x => x.wall == wall && x.num == n) = some x) (hc : s.classOf wall = 1) (ha : x.asked = false)
    (ht : x.since + 256 * s.sys.highdelay ≤ s.cycle) :
    execHighDelayExpiry wall n s = .next { s with nofit := s.nofit.map fun y => if y = x then { x with asked := true } else y } := by
  have wait : ¬ (s.classOf wall ≠ 1 ∨ x.asked = true ∨ s.cycle < x.since + 256 * s.sys.highdelay) := by
    simp only [hc, ha, ne_eq, not_true, Bool.false_eq_true, false_or, not_lt, ht]
  simp only [execHighDelayExpiry, hx, if_neg wait]

/-- A waiting set that asks halts its victims, where none of their gangs is in the middle of an access (16:R326). -/
theorem execPreemptRequest_next {s : State} {wall n : Nat} {x : NoFit} {w : Wall} {h : LHeader}
    (hx : (s.nofit.find? fun x => x.wall == wall && x.num == n) = some x) (hw : s.wall? wall = some w) (hh : w.header = some h)
    (ha : x.asked = true) (hv : s.victims w h n ≠ []) (hm : ∀ p ∈ s.victims w h n, ∀ g ∈ s.setGangs p, g.midway = false)
    (hact : s.mayAct ((s.victims w h n).flatMap fun p => (s.setBricks p).map fun b => groupOf b.core) 1 = true) :
    execPreemptRequest wall n s = .next (((s.victims w h n).foldl (fun s p => s.haltSet p false) s).noteAct
      ((s.victims w h n).flatMap fun p => (s.setBricks p).map fun b => groupOf b.core) 1) := by
  have some : (s.victims w h n).isEmpty = false := by simpa using hv
  have ended : (s.victims w h n).any (fun p => (s.setGangs p).any Gang.midway) = false := by
    simp only [List.any_eq_false, Bool.not_eq_true]
    exact hm
  simp only [execPreemptRequest, hw, hx, hh, ha, if_true, some, ended, hact, Bool.not_true, Bool.or_self, Bool.false_eq_true, if_false]

theorem execSwapOut_next {s : State} {wall n : Nat} {p : PSet} (hp : s.set? wall n = some p) (hth : s.sys.swapth ≠ 0)
    (hr : p.phase = .resident) (hg : s.setGangs p ≠ []) (hj : ∀ g ∈ s.setGangs p, s.longJoin g = true) :
    execSwapOut wall n s = .next (s.haltSet p true) := by
  have all : (s.setGangs p).all s.longJoin = true := List.all_eq_true.2 hj
  have some : (s.setGangs p).isEmpty = false := by simpa using hg
  simp only [execSwapOut, hp, hth, hr, all, some, ne_eq, not_true, Bool.not_true, Bool.false_eq_true, or_self, if_false]

/-- The counter of one saved JOINC at its value suffices (16:R335). -/
theorem execSwapConditionEnd_next {s : State} {wall n : Nat} {p : PSet} {j : Addr × Word} {d : UnitData} {u : State}
    (hp : s.set? wall n = some p) (hr : p.phase ≠ .resident) (hn : p.restorable = false) (hj : j ∈ p.joins)
    (hd : s.unitRead p.foot (s.asidOf wall) j.1.toNat 8 = .ok d u) (hz : 0 ≤ (d.word 0 - j.2).toInt) :
    execSwapConditionEnd wall n s = .next (s.setPSet { p with restorable := true }) := by
  simp only [execSwapConditionEnd, hp, hr, hn, Bool.false_eq_true, false_or]
  rw [if_neg]
  simp only [Bool.not_eq_true', Bool.not_eq_false, List.any_eq_true]
  exact ⟨j, hj, by simp only [hd, hz, decide_true]⟩

/-! ### Into the park store (14:R300) -/

/-- The brick after it has been replaced. -/
theorem State.brickOpt_setBrick {s : State} {b b' : Brick} {k : BKey} (h : s.brick? k = some b) (hk : b'.key = k) :
    (s.setBrick b').brick? k = some b' := by
  subst hk
  have key (l : List Brick) (h : (l.find? fun b => b.key == b'.key) = some b) :
      ((l.map fun x => if x.key = b'.key then b' else x).find? fun b => b.key == b'.key) = some b' := by
    induction l with
    | nil => cases h
    | cons x r ih =>
      by_cases hx : x.key = b'.key
      · simp [hx]
      · rw [List.find?_cons_of_neg (by simpa using hx)] at h
        rw [List.map_cons, if_neg hx, List.find?_cons_of_neg (by simpa using hx)]
        exact ih h
  exact key _ h

/-- The phase of a set is all that its settling changes. -/
theorem State.settlePhase_eq (s : State) (p : PSet) : s.settlePhase p = { s with sets := (s.settlePhase p).sets } := by
  unfold State.settlePhase
  split <;> rfl

theorem execParkMoveDone_next {s : State} {g : Gang} {p : PSet} {b : Brick} (hg : s.gang? g.gid = some g)
    (hp : s.setOfBrick g.brick = some p) (hb : s.brick? g.brick = some b) (hh : p.phase = .halted) (hs : g.seated = true)
    (hl : s.lateDone g.gid = true) (hf : (s.parkedOn g.core).length < 48) (hw : ∀ id, g.wait ≠ .posted id) :
    execParkMoveDone g.gid s = .next (((s.setGang { g with place := .park g.core g.seat s.cycle }).setBrick
      { b with seats := b.seats.filter (· != g.seat) }).settlePhase p) := by
  have goes : ¬ (p.phase ≠ .halted ∨ (!g.seated) = true ∨ (!s.lateDone g.gid) = true ∨ 48 ≤ (s.parkedOn g.core).length) := by
    simp [hh, hs, hl, hf]
  simp only [execParkMoveDone, hg, hp, hb, if_neg goes]

theorem parkMoveDone_leaves {s : State} {g : Gang} {p : PSet} {b : Brick} (hg : s.gang? g.gid = some g)
    (hp : s.setOfBrick g.brick = some p) (hb : s.brick? g.brick = some b) (hh : p.phase = .halted) (hs : g.seated = true)
    (hl : s.lateDone g.gid = true) (hf : (s.parkedOn g.core).length < 48) (hw : ∀ id, g.wait ≠ .posted id) :
    ∃ t : State, execParkMoveDone g.gid s = .next t ∧ t.gang? g.gid = some { g with place := .park g.core g.seat s.cycle } ∧
      t.brick? b.key = some { b with seats := b.seats.filter (· != g.seat) } ∧ s.SameMem t := by
  have key : b.key = g.brick := by simpa using List.find?_some hb
  refine ⟨_, execParkMoveDone_next hg hp hb hh hs hl hf hw, ?_⟩
  rw [State.settlePhase_eq]
  refine ⟨?_, ?_, fun f a => rfl⟩
  · exact State.gangOpt_setGang hg rfl
  · exact State.brickOpt_setBrick (s := s.setGang _) (by rw [key]; exact hb) rfl

/-! ### To memory (02:R37, 14:R300) -/

theorem State.onlyWrites_writeParts {s t : State} {foot asid : Nat} {l : List (Nat × List Byte)}
    (h : s.writeParts foot asid l = .ok () t) : s.OnlyWrites t := by
  induction l generalizing s with
  | nil => cases h; exact .refl _
  | cons x r ih =>
    simp only [State.writeParts] at h
    split at h
    · rename_i pa u hu
      exact (State.onlyReads_unitPage hu).onlyWrites.trans ((u.onlyWrites_writeAll ..).trans (ih h))
    all_goals cases h

/-- The gangs stay where they are while their records are written. -/
theorem State.sameSeats_writeContext {s t : State} {p : PSet} {gs : List Gang} (h : s.writeContext p gs = .ok () t) :
    s.SameSeats t :=
  (State.onlyWrites_writeParts (s := s.fresh.2) h).seats

/-- The state after a context has been written: its gangs and its bricks are in memory. -/
def State.contextOut (s : State) (gs : List Gang) (bricks : List Brick) : State :=
  { s with
    gangs := s.gangs.map fun g =>
      if (gs.map Gang.gid).contains g.gid then
        { g with place := .memory g.core g.seat, stack := [], xfer := none, away := some ⟨g.out, g.live, g.pendfault.isSome⟩ }
      else g
    bricks := s.bricks.map fun b =>
      if bricks.any fun x => x.key == b.key then { b with place := .memory, phys := [], spad := [] } else b }

theorem execContextToMemory_next {s u : State} {wall n : Nat} {p : PSet} (hp : s.set? wall n = some p) (hr : p.phase ≠ .resident)
    (hd : s.isDead (.context wall n) = false) (hg : (s.setGangs p).filter (s.movesOn p) ≠ [])
    (hu : s.writeContext p ((s.setGangs p).filter (s.movesOn p)) = .ok () u) :
    execContextToMemory wall n s = .next (((u.contextOut ((s.setGangs p).filter (s.movesOn p))
      ((s.setBricks p).filter fun b => !b.retired && b.place == .core)).unhold (.context wall n)).settlePhase p) := by
  have goes : ¬ (p.phase = .resident ∨ s.isDead (.context wall n) = true) := by simp [hr, hd]
  have some : ((s.setGangs p).filter (s.movesOn p)).isEmpty = false := by simpa using hg
  simp only [execContextToMemory, hp, if_neg goes, some, Bool.false_and, Bool.false_eq_true, if_false, hu]
  rfl

theorem Gang.core_eq_of_place {g g' : Gang} (h : g'.place = g.place) : g'.core = g.core := by simp only [Gang.core, h]

theorem Gang.seat_eq_of_place {g g' : Gang} (h : g'.place = g.place) : g'.seat = g.seat := by simp only [Gang.seat, h]

/-- Each gang whose context went out is in memory, with the core and the seat that it had. -/
theorem State.contextOut_gangs {s u : State} {gs : List Gang} (bricks : List Brick) (h : s.SameSeats u) {g : Gang} (hs : g ∈ s.gangs)
    (hg : g ∈ gs) : ∃ g' ∈ (u.contextOut gs bricks).gangs, g'.gid = g.gid ∧ g'.place = .memory g.core g.seat := by
  obtain ⟨g', hg', gid, place⟩ := h g hs
  have out : (gs.map Gang.gid).contains g'.gid = true := by
    rw [List.contains_iff_mem, gid]
    exact List.mem_map_of_mem hg
  refine ⟨_, List.mem_map_of_mem hg', ?_⟩
  rw [if_pos out]
  refine ⟨gid, ?_⟩
  rw [Gang.core_eq_of_place place, Gang.seat_eq_of_place place]

/-! ### Back from the park store (14:R301) -/

theorem State.sameSets_setBrick (s : State) (b : Brick) : s.SameSets (s.setBrick b) := ⟨rfl, rfl⟩
theorem State.sameSets_setGang (s : State) (g : Gang) : s.SameSets (s.setGang g) := ⟨rfl, rfl⟩
theorem State.sameSets_setCore (s : State) (n : Nat) (c : Core) : s.SameSets (s.setCore n c) := ⟨rfl, rfl⟩
theorem State.sameSets_setGroup (s : State) (n : Nat) (x : Group) : s.SameSets (s.setGroup n x) := ⟨rfl, rfl⟩
theorem State.sameSets_setMcGroup (s : State) (n i : Nat) (x : McGroup) : s.SameSets (s.setMcGroup n i x) := ⟨rfl, rfl⟩
theorem State.sameSets_setCopy (s : State) (c : CopyOp) : s.SameSets (s.setCopy c) := ⟨rfl, rfl⟩
theorem State.sameSets_tested (s : State) (h : McHold) : s.SameSets (s.tested h) := ⟨rfl, rfl⟩
theorem State.sameSets_dropPlain (s : State) (c : Nat) : s.SameSets (s.dropPlain c) := ⟨rfl, rfl⟩
theorem State.sameSets_moveOps (s : State) (mine : BKey → Bool) : s.SameSets (s.moveOps mine) := ⟨rfl, rfl⟩
theorem State.sameSets_enterMq (s : State) (n : Nat) (e : MatEntry) : s.SameSets (s.enterMq n e) := ⟨rfl, rfl⟩

/-- A record of a state with the same walls and placement sets. -/
theorem State.SameSets.of_eq {s t : State} (hw : t.walls = s.walls) (hs : t.sets = s.sets) : s.SameSets t := ⟨hw, hs⟩

theorem State.SameSets.foldl_of {α : Type} {f : State → α → State} {s t : State} (h : s.SameSets t)
    (hf : ∀ (s : State) x, s.SameSets (f s x)) (l : List α) : s.SameSets (l.foldl f t) := h.trans (.foldl hf l t)

theorem State.sameSets_grant (s : State) (copies : List Nat) : s.SameSets (s.grant copies false) := by
  unfold State.grant
  refine .foldl_of ?_ (fun s c => s.sameSets_setCopy _) _
  exact .of_eq rfl rfl

theorem State.sameSets_checkHolds (s : State) (foot grp : Nat) : s.SameSets (s.checkHolds foot grp) := by
  simp only [State.checkHolds, List.partition_eq_filter_filter]
  refine .foldl_of ?_ (fun s h => (s.sameSets_grant _).trans (State.sameSets_tested ..)) _
  exact .of_eq rfl rfl

theorem State.sameSets_mcLeave (s : State) (k : BKey) (foot grp : Nat) : s.SameSets (s.mcLeave k foot grp) := by
  simp only [State.mcLeave]
  split
  · exact (s.sameSets_setMcGroup ..).trans (State.sameSets_checkHolds ..)
  · exact .refl s

theorem State.sameSets_mcJoin {s t : State} {k : BKey} {foot grp timer asid : Nat} (h : s.mcJoin k foot grp timer asid = some t) :
    s.SameSets t := by
  simp only [State.mcJoin] at h
  split at h
  · cases h
  · split at h <;> cases h
    · exact .refl s
    · exact ⟨rfl, rfl⟩

theorem State.sameSets_setEnrolled (s : State) (k : BKey) (f : BitVec 64 → BitVec 64) : s.SameSets (s.setEnrolled k f) := by
  unfold State.setEnrolled
  split
  · exact ⟨rfl, rfl⟩
  · exact .refl s

theorem State.sameSets_rejoin (s : State) (b : Brick) (old new : Nat) : s.SameSets (s.rejoin b old new) := by
  unfold State.rejoin
  split
  · exact .refl s
  · refine .foldl (fun s n => ?_) _ s
    dsimp only
    split
    · split
      · rename_i t ht
        exact (s.sameSets_mcLeave ..).trans (State.sameSets_mcJoin ht)
      · exact (s.sameSets_mcLeave ..).trans (State.sameSets_setEnrolled ..)
    · exact s.sameSets_mcLeave ..

theorem State.sameSets_rebind (s : State) (b : Brick) : s.SameSets (s.rebind b) := by
  have near (s : State) (t : Nat × BitVec 11 × Option (Word × MsgInfo)) : s.SameSets (if (vget (s.core b.core).tx t.1).bound.isSome
      then s else s.setCore b.core { s.core b.core with
        tx := vset (s.core b.core).tx t.1 ⟨some (t.2.1.toNat % 512, t.2.1.toNat / 512), some b.key, t.2.2⟩ }) := by
    split
    · exact .refl s
    · exact s.sameSets_setCore ..
  simp only [State.rebind]
  generalize hu : b.savedTx.foldl _ s = u
  have bound : s.SameSets u := by rw [← hu]; exact .foldl near _ _
  generalize hv : b.farTx.foldl _ u = v
  have far : u.SameSets v := by
    rw [← hv]
    refine .foldl (fun s t => ?_) _ _
    split
    · exact .refl s
    · split
      · exact .refl s
      · exact s.sameSets_setCore ..
  split
  · exact (bound.trans far).trans (State.sameSets_setBrick ..)
  · exact bound.trans far

theorem State.sameSets_reloadLead (s : State) (k : BKey) : s.SameSets (s.reloadLead k) := by
  unfold State.reloadLead
  refine .foldl (fun s x => ?_) _ s
  split
  · exact ⟨rfl, rfl⟩
  · exact .refl s

theorem State.sameSets_parkErrors (s : State) (gid : Nat) : s.SameSets (s.parkErrors gid) := by
  simp only [State.parkErrors]
  split
  · rename_i g m _ _ _
    generalize hu : { s.setGang (s.marked g) with marks := s.marks.filter fun m => !(m.unit == 4 && m.owner == gid) } = u
    have marked : s.SameSets u := by rw [← hu]; exact .of_eq rfl rfl
    split
    · exact marked
    · exact marked.trans (State.sameSets_holdGang ..)
  · exact .refl s

theorem State.sameSets_seatGang (s : State) (g : Gang) (core : Nat) : s.SameSets (s.seatGang g core) := by
  simp only [State.seatGang]
  generalize hu : State.parkErrors (s.setGang _) g.gid = u
  have seated : s.SameSets u := by
    rw [← hu]
    exact (s.sameSets_setGang _).trans (State.sameSets_parkErrors ..)
  split
  · exact seated.trans (State.sameSets_setBrick ..)
  · exact seated

theorem State.sameSets_reenter (s : State) (mine : BKey → Bool) : s.SameSets (s.reenter mine) := by
  simp only [State.reenter, List.partition_eq_filter_filter]
  refine .foldl_of ?_ (fun s q => s.sameSets_setGroup ..) _
  generalize hu : List.foldl _ _ _ = u
  have entered : s.SameSets u := by
    rw [← hu]
    refine .foldl_of ?_ (fun s e => ?_) _
    · exact .of_eq rfl rfl
    split
    · split
      · exact s.sameSets_enterMq ..
      · exact .of_eq rfl rfl
    · exact .refl s
  exact entered.trans (.of_eq rfl rfl)

/-- A placement set replaced by one of the same number is among the sets. -/
theorem State.mem_setPSet {s : State} {p q : PSet} (h : p ∈ s.sets) (hw : q.wall = p.wall) (hn : q.num = p.num) :
    q ∈ (s.setPSet q).sets :=
  List.mem_map.2 ⟨p, h, by simp [hw, hn]⟩

/-- All that a restore does before the set is resident leaves the placement sets. -/
theorem State.finishRestore_mem {s : State} {p : PSet} (foot : Nat) (gangs : List Gang) (h : p ∈ s.sets) :
    ∃ q ∈ (s.finishRestore p foot gangs).sets,
      q.wall = p.wall ∧ q.num = p.num ∧ q.phase = .resident ∧ q.restorable = false := by
  have bricks (s : State) (bs : List Brick) : s.SameSets
      (bs.foldl (fun s b => (((s.rejoin b p.foot foot).rebind b).reloadLead b.key).dropPlain b.core) s) :=
    .foldl (fun s b => (((s.sameSets_rejoin ..).trans (State.sameSets_rebind ..)).trans (State.sameSets_reloadLead ..)).trans
      (State.sameSets_dropPlain ..)) bs s
  have engines (s : State) (mine : BKey → Bool) (seen : Vector Nat 4) :
      s.SameSets (((s.reenter mine).moveOps mine).raiseAll foot seen) :=
    .trans (.trans (s.sameSets_reenter mine) (State.sameSets_moveOps ..)) (State.sameSets_raiseAll ..)
  unfold State.finishRestore
  refine ⟨_, State.mem_setPSet (p := p) ?_ rfl rfl, rfl, rfl, rfl, rfl⟩
  change p ∈ (State.raiseAll ..).sets
  rw [(engines ..).sets, State.SameSets.sets (.foldl (fun s g => ?_) _ _), (bricks ..).sets]
  · exact h
  split
  · exact s.sameSets_seatGang ..
  · exact .refl s

theorem execRestore_parked {s : State} {wall n : Nat} {p : PSet} {w : Wall} (hp : s.set? wall n = some p) (hw : s.wall? wall = some w)
    (hr : p.restorable = true) (hd : s.isDead (.context wall n) = false) (hk : p.phase = .parked)
    (ht : s.turnOf w.cls (.restore p) = true) (hy : s.parkedReady p = true)
    (ha : s.mayAct ((s.setBricks p).map fun b => groupOf b.core) 3 = true) :
    execRestore wall n s =
      .next ((s.finishRestore p p.foot (s.setGangs p)).noteAct ((s.setBricks p).map fun b => groupOf b.core) 3) := by
  simp only [execRestore, hp, hw, hr, hd, hk, ht, hy, ha, Bool.not_true, Bool.false_eq_true, or_self, if_false, Bool.and_self, if_true]

end Sys2Proof.Machine

open Sys2Proof Sys2Proof.Machine

/-- Settles O59, operation by operation: each goes on under its premises, and what it leaves is read off the state that it gives. -/
theorem setsHaltAndReturn : Obligations.SetsHaltAndReturn := by
  refine ⟨fun s wall n x hx => ⟨fun hc ha ht => execHighDelayExpiry_next hx hc ha ht,
    fun w h hw hh ha hv hm hact => execPreemptRequest_next hx hw hh ha hv hm hact⟩, fun s wall n p hp => ⟨?_, ?_, ?_, ?_⟩,
    fun s g p b hg hset hb hh hs hl hf hw => parkMoveDone_leaves hg hset hb hh hs hl hf hw⟩
  · exact fun hth hr hg hj => execSwapOut_next hp hth hr hg hj
  · exact fun j d u hr hn hj hd hz => execSwapConditionEnd_next hp hr hn hj hd hz
  · intro u hr hd gs hgs hu
    refine ⟨_, execContextToMemory_next hp hr hd hgs hu, fun g hg => ?_⟩
    have hmem : g ∈ s.gangs := (List.mem_filter.1 (List.mem_filter.1 hg).1).1
    rw [State.settlePhase_eq]
    exact State.contextOut_gangs ((s.setBricks p).filter fun b => !b.retired && b.place == .core)
      (State.sameSeats_writeContext hu) hmem hg
  · intro w hw hr hd hk ht hy gs hact
    obtain ⟨q, hq, hwall, hnum, hphase, hrest⟩ := s.finishRestore_mem p.foot (s.setGangs p) (List.mem_of_find?_eq_some hp)
    exact ⟨_, q, execRestore_parked hp hw hr hd hk ht hy hact, hq, hwall, hnum, hphase, hrest, rfl⟩

end

section
/-! Settles O58: what the dispatcher does with packets, walls, records, claims, held accesses, bricks and steps (02:R29, R39, R40,
16:R318-R325, R330-R332, 18:R352). -/

namespace Sys2Proof.Machine

open Sys2Proof

/-! ### Ready walls and headers (16:R321, R322) -/

theorem execWallReady_next {s u : State} {id : Nat} {w : Wall} {seen : Vector Nat 4} (hw : s.wall? id = some w)
    (hs : w.state = .waiting) (hr : s.readWaits w (Packet.waits w.words) = .ok (some seen) u) :
    execWallReady id s =
      .next ((u.unhold (.counter id)).setWall { w with state := .ready, readyAt := u.cycle, seen := maxVec w.seen seen }) := by
  simp only [execWallReady, hw, hs, hr, ne_eq, not_true, if_false]

theorem execPlaceSet_first {s : State} {id : Nat} {w : Wall} (hw : s.wall? id = some w) (hs : w.state = .ready)
    (ht : s.turnOf w.cls (.new w) = true) (hh : w.header = none) : execPlaceSet id w.nextSet s = s.firstAttempt w := by
  simp only [execPlaceSet, hw, hs, ht, hh, ne_eq, not_true, Bool.not_true, Bool.false_eq_true, or_self, if_false]

theorem execPlaceSet_later {s : State} {id : Nat} {w : Wall} {h : LHeader} (hw : s.wall? id = some w) (hs : w.state = .ready)
    (ht : s.turnOf w.cls (.new w) = true) (hh : w.header = some h) : execPlaceSet id w.nextSet s = s.placeNext w h := by
  simp only [execPlaceSet, hw, hs, ht, hh, ne_eq, not_true, Bool.not_true, Bool.false_eq_true, or_self, if_false]

theorem State.serveRing_walls (s : State) (w : Wall) (a : Nat) : (s.serveRing w a).walls = s.walls := by
  simp only [State.serveRing]
  split <;> rfl

/-- The first attempt of a wall whose header passes its checks notes the header. -/
theorem State.firstAttempt_next {s u : State} {w : Wall} {h : LHeader} {args : Vector Word 8} (ho : s.headerOrdered w = true)
    (hr : s.readHeader w = .ok (some h, args) u) (hf : (u.unhold (.header w.id)).stepFits w h = true)
    (hn : Packet.x w.words * Packet.y w.words * Packet.z w.words * h.stages < 2 ^ 32)
    (hp : (u.unhold (.header w.id)).placeable w h = true) :
    s.firstAttempt w = .next ((u.unhold (.header w.id)).setHeader w h args) := by
  have few : ¬ 2 ^ 32 - 1 < Packet.x w.words * Packet.y w.words * Packet.z w.words * h.stages := by omega
  simp only [State.firstAttempt, ho, hr, hf, few, hp, Bool.not_true, Bool.false_eq_true, if_false]

theorem State.placeNext_next {s : State} {w : Wall} {h : LHeader} {x : Fit} (hx : s.fit w h w.nextSet = some x)
    (ha : s.hasApplied x.foot w.seen = true) (hm : s.mayAct (x.courses.map Prod.fst) 4 = true) :
    s.placeNext w h = .next ((s.placeAt w h w.nextSet x).noteAct (x.courses.map Prod.fst) 4) := by
  simp only [State.placeNext, hx, ha, hm, Bool.and_self, if_true]

/-! ### Placement (02:R29) -/

theorem State.sameSets_startBrick (s : State) (w : Wall) (h : LHeader) (c : Coord) (core : Nat) :
    s.SameSets (s.startBrick w h c core) := by
  unfold State.startBrick
  refine .foldl_of ?_ (fun s x => ?_) _
  all_goals exact .of_eq rfl rfl

theorem State.sameSets_startCourse (s : State) (w : Wall) (h : LHeader) (num stage : Nat) (place : Nat × List Nat) :
    s.SameSets (s.startCourse w h num stage place) := by
  unfold State.startCourse
  refine .foldl_of ?_ (fun s x => s.sameSets_startBrick ..) _
  exact .of_eq rfl rfl

/-- A set placed leaves of the walls all but the number of the next set, where the wall is no stream's. -/
theorem State.placeAt_walls {s : State} {w : Wall} {h : LHeader} {num : Nat} {x : Fit} (hs : ∀ n, w.src ≠ .stream n) :
    (s.placeAt w h num x).walls = (s.setWall { w with nextSet := num + 1 }).walls := by
  simp only [State.placeAt]
  generalize hu : List.foldl _ (s.afterWalk x) _ = u
  have placed : s.SameSets u := by
    rw [← hu]
    refine .foldl_of ?_ (fun s y => s.sameSets_startCourse ..) _
    exact .of_eq rfl rfl
  rw [(State.sameSets_raiseAll ..).walls]
  change u.walls.map _ = s.walls.map _
  rw [placed.walls]

/-! ### Walls taken (16:R318, R332) -/

/-- The two states differ at most in the slices, the peer ports, what has left the device, and the queues. -/
def State.OnlyServes (s t : State) : Prop :=
  t = { s with slices := t.slices, peers := t.peers, sent := t.sent, queues := t.queues }

theorem State.OnlyReads.onlyServes {s t : State} (h : s.OnlyReads t) : s.OnlyServes t := by
  unfold State.OnlyServes
  rw [h]

theorem State.onlyServes_serveRing {s t : State} (h : s.OnlyReads t) (w : Wall) (a : Nat) : s.OnlyServes (t.serveRing w a) := by
  simp only [State.serveRing]
  split <;> · rw [h]; rfl

theorem State.onlyServes_ringAtTaking (s : State) (w : Wall) : s.OnlyServes (s.ringAtTaking w) := by
  simp only [State.ringAtTaking]
  split
  · rename_i d t hd
    split
    · exact (State.OnlyReads.refl s).onlyServes
    · exact State.onlyServes_serveRing (State.onlyReads_unitRead hd) ..
  · exact (State.OnlyReads.refl s).onlyServes

/-- The wall that `addWall` makes. -/
def State.newWall (s : State) (asid foot slot : Nat) (src : Source) (p : Packet) (seen : Vector Nat 4) (args : Vector Word 8) : Wall :=
  { id := s.nextId, asid := asid, cls := Packet.cls p, words := p, src := src, foot := foot,
    state := if Packet.nwait p = 0 then .ready else .waiting, readyAt := s.cycle, header := none,
    args := args, nextSet := 0, slot := slot, seen := seen, ends := Vector.replicate 4 0, ended := false }

/-- A wall taken joins the walls; its ring may join the queues. -/
theorem State.addWall_onlyServes (s : State) (asid foot slot : Nat) (src : Source) (p : Packet) (seen : Vector Nat 4)
    (args : Vector Word 8) :
    State.OnlyServes { s with nextId := s.nextId + 1, walls := s.walls ++ [s.newWall asid foot slot src p seen args] }
      (s.addWall asid foot slot src p seen args) :=
  State.onlyServes_ringAtTaking _ (s.newWall asid foot slot src p seen args)

section
variable (s : State) (asid foot slot : Nat) (src : Source) (p : Packet) (seen : Vector Nat 4) (args : Vector Word 8)

theorem State.addWall_walls :
    (s.addWall asid foot slot src p seen args).walls = s.walls ++ [s.newWall asid foot slot src p seen args] := by
  rw [s.addWall_onlyServes asid foot slot src p seen args]

theorem State.addWall_bricks : (s.addWall asid foot slot src p seen args).bricks = s.bricks := by
  rw [s.addWall_onlyServes asid foot slot src p seen args]

theorem State.addWall_foots : (s.addWall asid foot slot src p seen args).foots = s.foots := by
  rw [s.addWall_onlyServes asid foot slot src p seen args]

theorem State.addWall_streams : (s.addWall asid foot slot src p seen args).streams = s.streams := by
  rw [s.addWall_onlyServes asid foot slot src p seen args]

end

/-! ### Records of bricks (16:R331) -/

/-- The state in which a record taken from its brick becomes a wall. -/
def State.recordTaken (s : State) (b : Brick) (r : PendRec) (rest : List PendRec) : State :=
  (((s.setBrick { b with pendq := rest }).setFoot (footOf r.core) { vget s.foots (footOf r.core) with taken := s.cycle }).endEpoch
    (footOf r.core)).complete r.gid r.tok

theorem State.complete_frame (s : State) (gid : Nat) (tok : Tok) :
    (s.complete gid tok).walls = s.walls ∧ (s.complete gid tok).bricks = s.bricks := by
  unfold State.complete
  split
  · split <;> exact ⟨rfl, rfl⟩
  · exact ⟨rfl, rfl⟩

theorem State.recordTaken_frame (s : State) (b : Brick) (r : PendRec) (rest : List PendRec) :
    (s.recordTaken b r rest).walls = s.walls ∧ (s.recordTaken b r rest).bricks = (s.setBrick { b with pendq := rest }).bricks :=
  State.complete_frame ..

theorem execPendingLaunchTake_next {s : State} {k : BKey} {b : Brick} {r : PendRec} {rest : List PendRec}
    (hb : s.brick? k = some b) (hq : b.pendq = r :: rest) (he : r.entered + 32 ≤ s.cycle)
    (ht : (vget s.foots (footOf r.core)).taken + 32 ≤ s.cycle) (ho : s.openWalls < 16384)
    (hd : ∀ x ∈ r.deps, s.hidden (footOf r.core) x = false) :
    execPendingLaunchTake k.wall k.idx s = .next ((s.recordTaken b r rest).addWall (s.asidOf k.wall) (footOf r.core) 0
      (.pending r.core r.seat) r.words ((s.recordTaken b r rest).relSeen (footOf r.core))) := by
  have goes : ¬ (s.cycle < r.entered + 32 ∨ s.cycle < (vget s.foots (footOf r.core)).taken + 32 ∨ 16384 ≤ s.openWalls ∨
      r.deps.any (s.hidden (footOf r.core)) = true) := by
    simp only [not_or, not_lt, not_le, Bool.not_eq_true, List.any_eq_false]
    exact ⟨he, ht, ho, hd⟩
  simp only [execPendingLaunchTake, hb, hq, if_neg goes]
  rfl

/-! ### Overflow claims (16:R332) -/

theorem execOverflowClaim_invalid {s s1 : State} {r : OvfReq} {id pa : Nat} (hr : (s.ovf.find? fun x => x.id == id) = some r)
    (hd : ∀ x ∈ r.deps, s.hidden (footOf r.core) x = false) (hb : s.claimBehind r = false)
    (hp : s.unitPage (footOf r.core) (s.asidOf r.wall) (s.ovfDesc r.wall) .write = .ok pa s1) (hx : s1.poisoned pa = false)
    (hv : (UnitData.qdesc ⟨pa, s1.unitHome (footOf r.core) pa, (s1.mem (s1.unitHome (footOf r.core) pa)).readN pa 40⟩).valid = false) :
    execOverflowClaim id s = .next (s1.route r 2) := by
  have deps : r.deps.any (s.hidden (footOf r.core)) = false := by
    simp only [List.any_eq_false, Bool.not_eq_true]
    exact hd
  simp only [execOverflowClaim, hr, deps, hb, hp, hx, hv, Bool.or_self, Bool.not_false, Bool.false_eq_true, if_false, if_true]

theorem execOverflowClaim_slot {s s1 s2 : State} {r : OvfReq} {d : QDesc} {id pa slotPa : Nat}
    (hr : (s.ovf.find? fun x => x.id == id) = some r)
    (hd : ∀ x ∈ r.deps, s.hidden (footOf r.core) x = false) (hb : s.claimBehind r = false)
    (hp : s.unitPage (footOf r.core) (s.asidOf r.wall) (s.ovfDesc r.wall) .write = .ok pa s1) (hx : s1.poisoned pa = false)
    (hq : UnitData.qdesc ⟨pa, s1.unitHome (footOf r.core) pa, (s1.mem (s1.unitHome (footOf r.core) pa)).readN pa 40⟩ = d)
    (hv : d.valid = true) (hs : s1.unitPage (footOf r.core) (s.asidOf r.wall) (d.slot d.wr) .write = .ok slotPa s2)
    (hh : s2.homeReady r.core pa 128 = true) (hf : s1.unitHome (footOf r.core) pa = footOf r.core) (hc : s2.cachable pa = true)
    (hc' : s2.cachable slotPa = true) :
    execOverflowClaim id s = .next (if 2 ^ d.logsz ≤ (d.wr - d.rd).toNat then s2.route r 2
      else (s2.writeClaim r d (footOf r.core) (s1.unitHome (footOf r.core) pa) pa slotPa).route r 1) := by
  have deps : r.deps.any (s.hidden (footOf r.core)) = false := by
    simp only [List.any_eq_false, Bool.not_eq_true]
    exact hd
  have ready {x : Nat} (h : s2.cachable x = true) : (s2.endEpoch (footOf r.core)).hostReady (footOf r.core) x = true := by
    have h' : (s2.endEpoch (footOf r.core)).cachable x = true := h
    simp only [State.hostReady, h', Bool.true_or]
  simp only [execOverflowClaim, hr, deps, hb, hp, hx, hq, hv, hs, hh, ready hc, ready hc', Bool.or_self, Bool.not_true,
    Bool.false_eq_true, if_false]
  simp only [hf, beq_self_eq_true, Bool.true_or, Bool.not_true, Bool.and_self, Bool.or_self, Bool.false_eq_true, if_false]
  split <;> rfl

/-! ### Held accesses (14:R445) -/

theorem execUnitAccessRetry_eq {s : State} {n : Nat} {h : UnitHold} (hh : s.unitHolds[n]? = some h) :
    execUnitAccessRetry n s = s.unitWork h.work := by
  simp only [execUnitAccessRetry, hh]

/-! ### Steps of streams (18:R352) -/

theorem execStreamClose_next {s : State} {n : Nat} {x : Stream} {p : CloseProg} (hx : s.stream? n = some x) (hs : x.state = 1)
    (ht : x.closeAt ≤ (vget s.foots x.homef).ptp) (hc : x.close = some p) (hi : p.items = some []) :
    execStreamClose n s = .next (s.endClose x p) := by
  have due : ¬ (x.state ≠ 1 ∨ ((vget s.foots x.homef).ptp : Int) < x.closeAt) := by
    simp only [hs, ne_eq, not_true, false_or, not_lt, ht]
  simp only [execStreamClose, State.closeStream, hx, if_neg due, hc, State.closeRun, State.closeOne, hi]

/-- The arguments of a step (18:R353). -/
def Stream.stepArgs (x : Stream) : Vector Word 8 := Vector.ofFn fun i =>
  if i.val < 4 then vget x.arg i.val
  else if i.val = 4 then BitVec.ofNat 64 x.num
  else if i.val = 5 then BitVec.ofNat 64 x.step
  else if i.val = 6 then x.status
  else x.ctx.setWidth 64

theorem execStreamStepLaunch_next {s : State} {n : Nat} {x : Stream} (hx : s.stream? n = some x) (hs : x.state = 2)
    (ht : x.tick ≤ (vget s.foots x.homef).ptp) :
    execStreamStepLaunch n s = .next ((s.addWall x.asid x.homef 0 (.stream x.num) (newRecord (x.hdr.setWidth 64) 0 0)
      (vget s.foots x.homef).observed x.stepArgs).setStream { x with state := 3 }) := by
  have due : ¬ (x.state ≠ 2 ∨ (vget s.foots x.homef).ptp < x.tick) := by
    simp only [hs, ne_eq, not_true, false_or, not_lt, ht]
  simp only [execStreamStepLaunch, hx, if_neg due]
  rfl

/-- A step's record is of class 0 and names no wait. -/
theorem newRecord_word2 (hdr args : Word) (cls : Nat) :
    vget (newRecord hdr args cls) 2 = putBits (putBits (putBits (putBits 0 0 16 1) 16 16 1) 32 16 1) 57 2 cls := by
  simp only [newRecord, Packet.setWord, vget_vset_same]

theorem newRecord_cls_nwait (hdr args : Word) :
    Packet.cls (newRecord hdr args 0) = 0 ∧ Packet.nwait (newRecord hdr args 0) = 0 := by
  unfold Packet.cls Packet.nwait
  rw [newRecord_word2]
  decide

theorem Stream.stepArgs_arg (x : Stream) {i : Nat} (h : i < 4) : vget x.stepArgs i = vget x.arg i := by
  have e : i % 8 = i := Nat.mod_eq_of_lt (by omega)
  simp only [Stream.stepArgs, vget, Vector.getElem_ofFn, e, h, if_true]

/-! ### Packets taken (16:R318, R320) -/

theorem State.sameSets_tryMark {s t : State} {foot : Nat} {m : DescMark} (h : s.tryMark foot m = some t) : s.SameSets t := by
  simp only [State.tryMark] at h
  split at h
  · cases h; exact .refl _
  · rename_i d u hu
    have read := State.onlyReads_unitRead hu
    split at h
    · cases h; exact read.sameSets
    · split at h
      · cases h; exact .refl _
      · rename_i pa v hv
        cases h
        exact (read.trans (State.onlyReads_unitPage hv)).sameSets.trans (State.onlyWrites_unitWrite ..).sameSets
      · cases h
  · cases h

theorem State.sameSets_oweMark (s : State) (foot : Nat) (m : DescMark) : s.SameSets (s.oweMark foot m) := .of_eq rfl rfl

theorem State.sameSets_markDesc (s : State) (foot : Nat) (m : DescMark) : s.SameSets (s.markDesc foot m) := by
  unfold State.markDesc
  split
  · exact s.sameSets_oweMark ..
  · cases h : s.tryMark foot m with
    | none => exact s.sameSets_oweMark ..
    | some t => exact State.sameSets_tryMark h

/-- A rejection leaves the walls. -/
theorem State.sameSets_reject (s : State) (asid foot slot seq : Nat) (src : Source) (cause : Nat) :
    s.SameSets (s.reject asid foot slot seq src cause) := by
  simp only [State.reject]
  split
  · exact (s.sameSets_report ..).trans (State.sameSets_markDesc ..)
  · exact s.sameSets_report ..

section
variable {s : State} {q : Queue} {d : QDesc} {slot rdPa : Nat} {x : UnitData}

theorem State.dropRing_queue (s : State) {q : Queue} (h : q.wall = none) (empty : Bool) : s.dropRing q empty = s := by
  simp only [State.dropRing, h]

/-- A packet that R320 rejects makes no wall. -/
theorem State.takeSlot_rejected (hq : q.wall = none) (h : Packet.formOk x.packet = false ∨ Packet.cls x.packet < q.maxcls) :
    (s.takeSlot q d slot x rdPa).walls = s.walls := by
  have written (t : State) (c : Nat) (src : Source) (ht : (s.unitWrite q.home rdPa (natLe 8 (d.rd + 1).toNat)) = t) :
      (t.reject q.asid q.home slot (Packet.seq x.packet) src c).walls = s.walls := by
    rw [(t.sameSets_reject ..).walls, ← ht, (s.onlyWrites_unitWrite ..).walls]
  simp only [State.takeSlot, State.dropRing_queue _ hq]
  by_cases hf : Packet.formOk x.packet = false
  · rw [if_pos (by rw [hf]; rfl)]
    exact written _ _ _ rfl
  · rw [if_neg (by simpa using hf), if_pos (h.resolve_left hf)]
    exact written _ _ _ rfl

/-- A packet that is taken: RDIDX is written and a wall is made. -/
theorem State.takeSlot_taken (hq : q.wall = none) (hf : Packet.formOk x.packet = true) (hc : q.maxcls ≤ Packet.cls x.packet) :
    let t := s.unitWrite q.home rdPa (natLe 8 (d.rd + 1).toNat)
    s.takeSlot q d slot x rdPa =
      t.addWall q.asid q.home slot (.queue q.asid q.desc) x.packet (seenOf (t.tagsAt x.home x.pa 64)) := by
  simp only [State.takeSlot, State.dropRing_queue _ hq, hf, hq, Option.isSome_none, Bool.not_true, Bool.false_eq_true, if_false,
    if_neg (Nat.not_lt.2 hc)]

theorem leNat_natLe (n x : Nat) : leNat (natLe n x) = x % 256 ^ n := by
  induction n generalizing x with
  | zero => simp [natLe, leNat, Nat.mod_one]
  | succ n ih => rw [natLe, leNat, ih, BitVec.toNat_ofNat, Nat.pow_succ' (n := n), Nat.mod_mul]

theorem length_natLe (n x : Nat) : (natLe n x).length = n := by
  induction n generalizing x with
  | zero => rfl
  | succ n ih => rw [natLe, List.length_cons, ih]

/-- What a unit's write of memory of the device leaves at the home slice. -/
theorem State.read_unitWrite {pa foot : Nat} {bs : List Byte} (hc : s.cachable pa = true) (i : Nat) (hi : i < bs.length) :
    ((s.unitWrite foot pa bs).mem (s.unitHome foot pa)).read (pa + i) = bs.getD i 0 := by
  have touched : (s.unitWrite foot pa bs).foots =
      (s.putWrite { foot := s.unitHome foot pa } (s.partOf foot) pa bs).foots := State.touch_foots ..
  rw [State.mem, touched]
  refine (State.read_putWrite hc ..).trans ?_
  rw [if_pos ⟨rfl, by omega, by omega⟩, Nat.add_sub_cancel_left]

theorem State.word_unitWrite {pa foot : Nat} {v : Word} (hc : s.cachable pa = true) :
    ((s.unitWrite foot pa (natLe 8 v.toNat)).mem (s.unitHome foot pa)).word pa = v := by
  have bytes : ((s.unitWrite foot pa (natLe 8 v.toNat)).mem (s.unitHome foot pa)).readN pa 8 = natLe 8 v.toNat := by
    refine List.ext_getElem (by simp [Memory.readN, length_natLe]) fun i h h' => ?_
    simp only [Memory.readN, List.getElem_map, List.getElem_range]
    rw [State.read_unitWrite hc i h', List.getD_eq_getElem _ _ h']
  rw [Memory.word, bytes, leNat_natLe, show (256 : Nat) ^ 8 = 2 ^ 64 from rfl, Nat.mod_eq_of_lt v.isLt, BitVec.ofNat_toNat,
    BitVec.setWidth_eq]

end

/-- A packet taken from the ring of a queue, up to what becomes of it. -/
theorem State.serve_next {s s1 s2 s3 : State} {pa : Nat} {q : Queue} {u x : UnitData} (reread : Bool) (hv : q.served = true)
    (hw : q.wall = none) (ho : s.openWalls < 16384) (hu : s.unitRead q.home q.asid q.desc 40 = .ok u s1) (hd : u.qdesc.valid = true)
    (hlt : u.qdesc.rd.toNat < u.qdesc.wr.toNat) (hx : s1.unitRead q.home q.asid (u.qdesc.slot u.qdesc.rd) 64 = .ok x s2)
    (hs : bits (x.word 0) 0 16 = u.qdesc.rd.toNat % 65536)
    (hp : s2.unitPage q.home q.asid (q.desc + 8) .write = .ok pa s3) :
    s.serve q reread = .next ((s3.unhold (.queueRead q.asid q.desc)).takeSlot q u.qdesc (u.qdesc.slot u.qdesc.rd) x pa) := by
  have home : s.atHomeOf q = q := by simp only [State.atHomeOf, hw, Option.isSome_none, Bool.false_eq_true, if_false]
  have served : (!q.served || decide (16384 ≤ s.openWalls)) = false := by simp [hv, ho]
  have full : (!u.qdesc.valid || decide (u.qdesc.wr.toNat ≤ u.qdesc.rd.toNat)) = false := by simp [hd, hlt]
  simp only [State.serve, home, served, hu, full, hx, hs, hp, ne_eq, not_true, Bool.false_eq_true, if_false]

theorem State.OnlyReads.unitHome {s t : State} (h : s.OnlyReads t) (foot pa : Nat) : t.unitHome foot pa = s.unitHome foot pa := by
  rw [h]
  rfl

theorem State.OnlyReads.cachable {s t : State} (h : s.OnlyReads t) (pa : Nat) : t.cachable pa = s.cachable pa := by
  rw [h]
  rfl

/-! ### Bricks retired (02:R39, R40, 11:R236) -/

/-- The two states have the same bricks, gangs and memory. -/
structure State.SameBoard (s t : State) : Prop where
  bricks : t.bricks = s.bricks
  gangs : t.gangs = s.gangs
  mem : ∀ f, t.mem f = s.mem f

theorem State.SameBoard.refl (s : State) : s.SameBoard s := ⟨rfl, rfl, fun _ => rfl⟩

theorem State.SameBoard.trans {s t u : State} (h : s.SameBoard t) (h' : t.SameBoard u) : s.SameBoard u :=
  ⟨h'.bricks.trans h.bricks, h'.gangs.trans h.gangs, fun f => (h'.mem f).trans (h.mem f)⟩

theorem State.SameBoard.foldl_of {α : Type} {f : State → α → State} {s t : State} (h : s.SameBoard t)
    (hf : ∀ (s : State) x, s.SameBoard (f s x)) (l : List α) : s.SameBoard (l.foldl f t) := by
  induction l generalizing t with
  | nil => exact h
  | cons x r ih => exact ih (h.trans (hf t x))

theorem State.SameBoard.of_foots {s t : State} (hb : t.bricks = s.bricks) (hg : t.gangs = s.gangs) (hf : t.foots = s.foots) :
    s.SameBoard t := ⟨hb, hg, fun f => by simp only [State.mem, hf]⟩

/-- A footing whose memory stays. -/
theorem State.sameBoard_setFoot {s : State} {n : Nat} {f : Footing} (h : f.mem = s.mem n) : s.SameBoard (s.setFoot n f) := by
  refine ⟨rfl, rfl, fun g => ?_⟩
  by_cases e : g % 4 = n % 4
  · have at_n : (s.setFoot n f).mem g = f.mem := by
      simp only [State.mem, State.setFoot, vget, vset, e]
      simp
    have eq : s.mem n = s.mem g := by simp only [State.mem, vget]; congr 1; simp [e]
    rw [at_n, h, eq]
  · simp only [State.mem, State.setFoot, vget_vset_ne _ _ e]

theorem State.sameBoard_endEpoch (s : State) (f : Nat) : s.SameBoard (s.endEpoch f) := State.sameBoard_setFoot rfl

theorem State.sameBoard_checkHolds (s : State) (foot grp : Nat) : s.SameBoard (s.checkHolds foot grp) := by
  have grant (s : State) (l : List Nat) : s.SameBoard (s.grant l false) := by
    unfold State.grant
    refine .foldl_of ?_ (fun s c => ?_) _
    all_goals exact .of_foots rfl rfl rfl
  simp only [State.checkHolds, List.partition_eq_filter_filter]
  refine .foldl_of ?_ (fun s h => (grant s h.copies).trans (u := (s.grant h.copies false).tested h) ?_) _
  all_goals exact .of_foots rfl rfl rfl

theorem State.sameBoard_mcLeave (s : State) (k : BKey) (foot grp : Nat) : s.SameBoard (s.mcLeave k foot grp) := by
  simp only [State.mcLeave]
  split
  · exact .trans (t := s.setMcGroup foot grp _) (State.sameBoard_setFoot rfl) (State.sameBoard_checkHolds ..)
  · exact .refl s

theorem State.sameBoard_endCourse (s : State) (k : CKey) : s.SameBoard (s.endCourse k) := by
  simp only [State.endCourse]
  split
  · generalize hu : List.foldl _ s _ = u
    have left : s.SameBoard u := by
      rw [← hu]
      exact .foldl_of (.refl s) (fun s b => .foldl_of (.refl s) (fun s n => s.sameBoard_mcLeave ..) _) _
    exact left.trans (.of_foots rfl rfl rfl)
  · exact .refl s

theorem State.sameBoard_endSet (s : State) (wall num : Nat) : s.SameBoard (s.endSet wall num) := by
  unfold State.endSet
  split
  · split
    · exact .of_foots rfl rfl rfl
    · exact .refl s
  · exact .refl s

/-- Another brick of the brick's wall has not retired. -/
def State.OtherRuns (s : State) (k : BKey) : Prop := ∃ c ∈ s.bricks, c.key.wall = k.wall ∧ c.key ≠ k ∧ c.retired = false

/-- A wall one of whose bricks runs has not ended. -/
theorem State.SameBoard.allRetired {s t : State} {k : BKey} {w : Wall} (h : s.SameBoard t) (ho : s.OtherRuns k) (hw : w.id = k.wall) :
    t.allRetired w = false := by
  obtain ⟨c, hc, hwall, _, hrun⟩ := ho
  unfold State.allRetired
  rw [h.bricks, Bool.and_eq_false_iff]
  refine .inr (List.all_eq_false.2 ⟨c, hc, ?_⟩)
  simp [hwall, hw, hrun]

/-- While another brick of the wall runs, the wall does not end: a retirement leaves the course and the set. -/
theorem State.afterRetire_next {s : State} {b : Brick} (h : s.OtherRuns b.key) : ∃ t, s.afterRetire b = .next t ∧ s.SameBoard t := by
  have course := s.sameBoard_endCourse ⟨b.key.wall, b.course⟩
  simp only [State.afterRetire]
  split
  · exact ⟨_, rfl, course⟩
  · rename_i w hw
    have id : w.id = b.key.wall := by simpa using List.find?_some hw
    have set := course.trans (State.sameBoard_endSet _ w.id (Packet.setOf w.words (Packet.coord w.words b.key.idx)))
    rw [if_pos (by rw [set.allRetired h id]; rfl)]
    exact ⟨_, rfl, set⟩

/-- What the news of a brick's retirement to its neighbours keeps: the brick, another brick that runs, and memory. -/
structure State.KeepsBricks (k : BKey) (s t : State) : Prop where
  here : (s.brick? k).isSome → (t.brick? k).isSome
  other : s.OtherRuns k → t.OtherRuns k
  mem : ∀ f, t.mem f = s.mem f

theorem State.KeepsBricks.trans {k : BKey} {s t u : State} (h : s.KeepsBricks k t) (h' : t.KeepsBricks k u) : s.KeepsBricks k u :=
  ⟨fun x => h'.here (h.here x), fun x => h'.other (h.other x), fun f => (h'.mem f).trans (h.mem f)⟩

theorem State.keepsBricks_of_bricks {k : BKey} {s t : State} (hb : t.bricks = s.bricks) (hm : ∀ f, t.mem f = s.mem f) :
    s.KeepsBricks k t := ⟨by simp only [State.brick?, hb]; exact id, by simp only [State.OtherRuns, hb]; exact id, hm⟩

/-- A brick that runs is replaced by one that runs. -/
theorem State.keepsBricks_setBrick {k : BKey} {s : State} {nb : Brick} (h : nb.retired = false) : s.KeepsBricks k (s.setBrick nb) := by
  refine ⟨fun hk => ?_, fun ⟨c, hc, hwall, hne, hrun⟩ => ?_, fun f => rfl⟩
  · obtain ⟨b, hb, key⟩ := List.find?_isSome.1 hk
    refine List.find?_isSome.2 ⟨_, List.mem_map_of_mem hb, ?_⟩
    split
    · rename_i e
      exact e ▸ key
    · exact key
  · refine ⟨_, List.mem_map_of_mem hc, ?_⟩
    split
    · rename_i e
      exact ⟨e ▸ hwall, e ▸ hne, h⟩
    · exact ⟨hwall, hne, hrun⟩

theorem State.keepsBricks_tellNeighbours (s : State) (k : BKey) : s.KeepsBricks k (s.tellNeighbours k) := by
  have run : ∀ x ∈ s.neighbours k, x.2.retired = false := by
    intro x hx
    simp only [State.neighbours, List.mem_filterMap] at hx
    obtain ⟨y, _, hy⟩ := hx
    obtain ⟨b, hb, rfl⟩ := Option.map_eq_some_iff.1 hy
    simpa using (Option.filter_eq_some_iff.1 hb).2
  unfold State.tellNeighbours
  revert run
  generalize s.neighbours k = l
  intro run
  induction l generalizing s with
  | nil => exact State.keepsBricks_of_bricks rfl fun _ => rfl
  | cons x r ih =>
    refine .trans ?_ (ih _ fun y hy => run y (List.mem_cons_of_mem _ hy))
    refine .trans (t := { s with leads := _ }) ?_ (State.keepsBricks_setBrick ?_)
    · exact State.keepsBricks_of_bricks rfl fun _ => rfl
    · split <;> exact run x List.mem_cons_self

theorem State.length_recordOf (s : State) (b : Brick) : (s.recordOf b).length = 128 := by
  simp only [State.recordOf, List.length_append, length_natLe, List.length_replicate]

/-- The completion record of a brick written (02:R40). -/
def State.recorded (s : State) (b : Brick) (pa : Nat) : State :=
  let t := s.endEpoch (footOf b.core)
  t.putWrite { foot := footOf b.core } (t.partOf (footOf b.core)) pa (t.recordOf b)

theorem State.recordOf_endEpoch (s : State) (f : Nat) (b : Brick) : (s.endEpoch f).recordOf b = s.recordOf b := by
  have now : (vget (s.endEpoch f).foots (footOf b.core)).gtsc = (vget s.foots (footOf b.core)).gtsc := by
    by_cases e : footOf b.core % 4 = f % 4
    · simp only [State.endEpoch, State.setFoot, vget, vset, e]
      simp
    · simp only [State.endEpoch, State.setFoot, vget_vset_ne _ _ e]
  unfold State.recordOf
  rw [now]
  rfl

theorem State.read_recorded {s : State} {b : Brick} {pa : Nat} (hc : s.cachable pa = true) {k : Nat} (hk : k < 128) :
    ((s.recorded b pa).mem (footOf b.core)).read (pa + k) = (s.recordOf b).getD k 0 := by
  refine (State.read_putWrite (s := s.endEpoch (footOf b.core)) hc ..).trans ?_
  rw [State.length_recordOf, State.recordOf_endEpoch, if_pos ⟨rfl, by omega, by omega⟩, Nat.add_sub_cancel_left]

/-- What a retired brick's neighbours and send registers leave. -/
def State.released (s : State) (b : Brick) : State :=
  (((s.endEpoch (footOf b.core)).tellNeighbours b.key).releaseTx b.key).unhold (.completion b.key)

theorem State.keepsBricks_released (s : State) (b : Brick) : s.KeepsBricks b.key (s.released b) := by
  refine .trans (t := s.endEpoch (footOf b.core)) ?_ (.trans (State.keepsBricks_tellNeighbours _ b.key) ?_)
  · exact State.keepsBricks_of_bricks rfl (s.sameBoard_endEpoch _).mem
  · exact State.keepsBricks_of_bricks rfl fun _ => rfl

/-- A brick once it has retired. -/
def Brick.gone (b : Brick) : Brick := { b with retired := true, seats := [], spad := [], phys := [] }

/-- A brick that retires leaves its seats, its allotment and its tiles; its gangs go. -/
def State.remove (s : State) (b : Brick) : State :=
  { s.setBrick b.gone with gangs := s.gangs.filter fun g => g.brick != b.key }

/-- The parts of a retirement: the record, the neighbours, the brick and its gangs; what follows touches none of these. -/
theorem State.sameBoard_retireOne (s : State) (b : Brick) (pa : Nat) :
    (((s.recorded b pa).released b).remove b).SameBoard (s.retireOne b (some pa)) := by
  have lines (t : State) (core asid : Nat) : t.SameBoard (t.dropSpaceLines core asid) := by
    unfold State.dropSpaceLines
    split
    · exact .refl t
    · exact .of_foots rfl rfl rfl
  simp only [State.retireOne]
  generalize hv : State.dropSpaceLines _ _ _ = v
  have dropped : (((s.recorded b pa).released b).remove b).SameBoard v := by
    rw [← hv]
    refine .trans ?_ (lines ..)
    exact .of_foots rfl rfl rfl
  split
  · exact dropped.trans (.of_foots rfl rfl rfl)
  · exact dropped

/-- What the retirement of a brick leaves, while another one of its wall runs. -/
theorem State.retireOne_leaves {s : State} {b : Brick} {pa : Nat} (hb : s.brick? b.key = some b) (hc : s.cachable pa = true)
    (ho : s.OtherRuns b.key) :
    (s.retireOne b (some pa)).OtherRuns b.key ∧ (s.retireOne b (some pa)).brick? b.key = some b.gone ∧
      (∀ g ∈ (s.retireOne b (some pa)).gangs, g.brick ≠ b.key) ∧
      ∀ k < 128, ((s.retireOne b (some pa)).mem (footOf b.core)).read (pa + k) = (s.recordOf b).getD k 0 := by
  have written : (s.recorded b pa).bricks = s.bricks := (State.onlyWrites_putWrite ..).bricks
  have kept := (s.recorded b pa).keepsBricks_released b
  have board := s.sameBoard_retireOne b pa
  refine ⟨?_, ?_, fun g hg => ?_, fun k hk => ?_⟩
  · have other : ((s.recorded b pa).released b).OtherRuns b.key := kept.other (by simpa only [State.OtherRuns, written] using ho)
    obtain ⟨c, hc, hwall, hne, hrun⟩ := other
    refine ⟨c, ?_, hwall, hne, hrun⟩
    rw [board.bricks]
    exact List.mem_map.2 ⟨c, hc, if_neg hne⟩
  · have here : (((s.recorded b pa).released b).brick? b.key).isSome :=
      kept.here (by simp only [State.brick?, written] at hb ⊢; rw [hb]; rfl)
    obtain ⟨b', hb'⟩ := Option.isSome_iff_exists.1 here
    have set := State.brickOpt_setBrick (b' := b.gone) hb' rfl
    simp only [State.brick?, board.bricks]
    exact set
  · rw [board.gangs] at hg
    simpa using (List.mem_filter.1 hg).2
  · rw [board.mem]
    exact (congrArg (fun m => Memory.read m (pa + k)) (kept.mem (footOf b.core))).trans (State.read_recorded hc hk)

theorem State.recordPage_onlyReads {s u : State} {b : Brick} {x : Option Nat} (h : s.recordPage b = .ok x u) : s.OnlyReads u := by
  simp only [State.recordPage] at h
  split at h
  · cases h; exact .refl _
  · split at h
    · rename_i pa v hv
      split at h <;> cases h
      exact State.onlyReads_unitPage hv
    all_goals cases h

theorem State.OnlyReads.recordOf {s t : State} (h : s.OnlyReads t) (b : Brick) : t.recordOf b = s.recordOf b := by
  rw [h]
  rfl

/-- A brick that retires alone, whose record can be written. -/
theorem execBrickRetire_alone {s u : State} {b : Brick} {x : Option Nat} (hb : s.brick? b.key = some b) (hd : s.brickDone b = true)
    (hw : s.retireWith b = [b]) (hm : s.mayAct [groupOf b.core] 2 = true)
    (hp : (s.noteAct [groupOf b.core] 2).recordPage b = .ok x u) :
    execBrickRetire b.key.wall b.key.idx s = (u.retireOne b x).afterRetire b := by
  have here : u.brick? b.key = some b := by
    simp only [State.brick?, (State.recordPage_onlyReads hp).bricks]
    exact hb
  have goes : ¬ ((!s.brickDone b) = true ∨ (!s.brickDone b) = true ∨ (!s.mayAct [groupOf b.core] 2) = true) := by simp [hd, hm]
  simp only [execBrickRetire, hb, hw, List.map_cons, List.map_nil, List.all_cons, List.all_nil, hd, hm, Bool.not_true, Bool.and_true,
    Bool.or_self, Bool.false_eq_true, if_false, State.retireAll, List.findSome?_cons, List.findSome?_nil, hp, readAll, List.zip_cons_cons,
    List.zip_nil_right, List.foldl_cons, List.foldl_nil, here]

end Sys2Proof.Machine

open Sys2Proof Sys2Proof.Machine

/-- Settles O58, act by act: each goes on under its premises, and what it leaves is read off the state that it gives. -/
theorem dispatcherActs : Obligations.DispatcherActs := by
  refine ⟨?_, fun s u id w seen hw hs hr => execWallReady_next hw hs hr, fun s id w hw hs ht => ⟨?_, ?_⟩, ?_, ?_,
    fun s n h hh => ⟨?_, ?_, ?_, ?_, ?_⟩, ?_, fun s n x p hx => ⟨?_, ?_⟩⟩
  · intro s s1 s2 s3 n pa q u x i hi hq hv hw ho hu d hd hlt hx hs hp hc
    have reads : s.OnlyReads s3 :=
      (State.onlyReads_unitRead hu).trans ((State.onlyReads_unitRead hx).trans (State.onlyReads_unitPage hp))
    have go : exec i s = .next ((s3.unhold (.queueRead q.asid q.desc)).takeSlot q d (d.slot d.rd) x pa) := by
      rcases hi with rfl | rfl
      · change execPacketTake n s = _
        simp only [execPacketTake, hq]
        exact State.serve_next false hv hw ho hu hd hlt hx hs hp
      · change execQueueReread n s = _
        simp only [execQueueReread, hq]
        exact State.serve_next true hv hw ho hu hd hlt hx hs hp
    refine ⟨_, go, fun h => (State.takeSlot_rejected hw h).trans reads.walls, fun hf hcls => ?_⟩
    have cach : (s3.unhold (.queueRead q.asid q.desc)).cachable pa = true := (reads.cachable pa).trans hc
    have home : (s3.unhold (.queueRead q.asid q.desc)).unitHome q.home pa = s.unitHome q.home pa := reads.unitHome q.home pa
    rw [State.takeSlot_taken hw hf hcls]
    refine ⟨?_, _, (State.addWall_walls ..).trans (congrArg (· ++ _) ?_), rfl, rfl, rfl, rfl, ?_⟩
    · rw [← home, State.mem, State.addWall_foots]
      exact State.word_unitWrite cach
    · exact (State.onlyWrites_unitWrite ..).walls.trans reads.walls
    · simp [State.newWall]
  · intro u h args hh ho hr hf hn hp
    have id_eq : w.id = id := by simpa using List.find?_some hw
    subst id_eq
    refine ⟨_, (execPlaceSet_first hw hs ht hh).trans (State.firstAttempt_next ho hr hf hn hp), ?_⟩
    rw [State.setHeader, State.serveRing_walls]
    rfl
  · intro h x hh hx ha hm
    exact ⟨(execPlaceSet_later hw hs ht hh).trans (State.placeNext_next hx ha hm), fun hsrc => State.placeAt_walls hsrc⟩
  · intro s k b r rest hb hq he ht ho hd
    obtain ⟨walls, bricks⟩ := s.recordTaken_frame b r rest
    exact ⟨_, _, execPendingLaunchTake_next hb hq he ht ho hd, (State.addWall_walls ..).trans (congrArg (· ++ _) walls), rfl, rfl,
      rfl, (State.addWall_bricks ..).trans bricks⟩
  · intro s s1 s2 r id pa slotPa hr foot asid home u d hd hb hp hx
    refine ⟨fun hv => execOverflowClaim_invalid hr hd hb hp hx hv, fun hv hs hh hf hc hc' => ?_⟩
    exact execOverflowClaim_slot hr hd hb hp hx rfl hv hs hh hf hc hc'
  · intro id w u seen hwork hw hs hr
    refine (execUnitAccessRetry_eq hh).trans ?_
    simp only [hwork, State.unitWork, hw, execWallReady_next hw hs hr, orElse]
  · intro id w hwork hw
    refine (execUnitAccessRetry_eq hh).trans ?_
    simp only [hwork, State.unitWork, hw]
    rfl
  · intro k hwork
    refine (execUnitAccessRetry_eq hh).trans ?_
    rw [hwork]
    rfl
  · intro wall m p hwork hp
    refine (execUnitAccessRetry_eq hh).trans ?_
    simp only [hwork, State.unitWork, hp]
    rfl
  · intro m hwork
    refine (execUnitAccessRetry_eq hh).trans ?_
    rw [hwork]
    rfl
  · intro s u b c pa _ hb hd hw hm hp hc hmem hwall hne hrun
    have reads := State.recordPage_onlyReads hp
    have here : u.brick? b.key = some b := by
      simp only [State.brick?, reads.bricks]
      exact hb
    have other : u.OtherRuns b.key := ⟨c, reads.bricks ▸ hmem, hwall, hne, hrun⟩
    obtain ⟨other', gone, gangs, record⟩ := State.retireOne_leaves here ((reads.cachable pa).trans hc) other
    obtain ⟨t, ht, board⟩ := State.afterRetire_next other'
    refine ⟨t, b.gone, (execBrickRetire_alone hb hd hw hm hp).trans ht, ?_, rfl, rfl, rfl, ?_, fun k hk => ?_⟩
    · simp only [State.brick?, board.bricks]
      exact gone
    · rw [board.gangs]
      exact gangs
    · rw [board.mem]
      exact (record k hk).trans (congrArg (List.getD · k 0) (reads.recordOf b))
  · intro hs ht hc hi
    exact execStreamClose_next hx hs ht hc hi
  · intro hs ht
    refine ⟨_, _, execStreamStepLaunch_next hx hs ht, State.addWall_walls .., rfl, ?_, ?_, rfl, rfl,
      fun i hi => x.stepArgs_arg hi, rfl, rfl, ?_⟩
    · simp only [State.newWall, newRecord_cls_nwait, if_true]
    · exact (newRecord_cls_nwait _ _).1
    · change List.map _ _ = List.map _ _
      rw [State.addWall_streams]

end


section
/-! The field parsers of the decoder and the codes of the encoder: which values each parser reads, and from which code
(03:R55-R62 and the modifiers of the chapters). -/

namespace Sys2Proof

/-! ### Words put together from fields -/

/-- A word is its high part before its low part. -/
theorem append_eq_iff {m n : Nat} {v : BitVec (m + n)} {x : BitVec m} {y : BitVec n} :
    x ++ y = v ↔ x = v.extractLsb' n m ∧ y = v.extractLsb' 0 n := by
  constructor
  · rintro rfl
    exact ⟨BitVec.extractLsb'_append_eq_left.symm, BitVec.extractLsb'_append_eq_right.symm⟩
  · rintro ⟨rfl, rfl⟩
    exact BitVec.extractLsb'_append_extractLsb'

/-- The bits of a word from `m` on are zero when the word is below `2 ^ m`. -/
theorem high_eq_zero_iff {k m : Nat} {v : BitVec (k + m)} : v.extractLsb' m k = 0 ↔ v.toNat < 2 ^ m := by
  have hv : v.toNat / 2 ^ m < 2 ^ k := Nat.div_lt_of_lt_mul (v.isLt.trans_eq (by rw [Nat.pow_add, Nat.mul_comm]))
  rw [← BitVec.toNat_inj, BitVec.extractLsb'_toNat, Nat.shiftRight_eq_div_pow, Nat.mod_eq_of_lt hv]
  exact Nat.div_eq_zero_iff_lt (Nat.two_pow_pos m)

/-- A zero-extended field leaves the bits above it zero. -/
theorem setWidth_eq_iff {m w : Nat} (h : m ≤ w) {x : BitVec m} {v : BitVec w} :
    x.setWidth w = v ↔ v.toNat < 2 ^ m ∧ x = v.extractLsb' 0 m := by
  constructor
  · rintro rfl
    rw [BitVec.toNat_setWidth_of_le h]
    exact ⟨x.isLt, by rw [BitVec.extractLsb'_setWidth_of_le (by omega), BitVec.extractLsb'_eq_self]⟩
  · rintro ⟨hv, rfl⟩
    simp [← BitVec.toNat_inj, BitVec.extractLsb'_toNat, Nat.mod_eq_of_lt hv]

theorem bv1_eq_iff {b : Bool} {v : BitVec 1} : bv1 b = v ↔ v.getLsbD 0 = b := by
  revert b v
  decide

/-- The fields of a word make that word, and no other (03:R54). -/
theorem Raw.toWord_eq_iff {r : Raw} {w : BitVec 64} : r.toWord = w ↔ r = Raw.ofWord w := by
  cases r
  simp only [Raw.toWord, Raw.ofWord]
  rw [append_eq_iff, append_eq_iff, append_eq_iff, append_eq_iff, append_eq_iff, append_eq_iff, append_eq_iff]
  simp [BitVec.extractLsb'_extractLsb'_of_le]

/-! ### Parsers and codes -/

/-- The parser `f` reads the codes `c m` of the values `m` that `ok` admits, and nothing else. -/
def Reads {α β : Type} (f : β → Option α) (c : α → β) (ok : α → Bool := fun _ => true) : Prop :=
  ∀ v m, f v = some m ↔ c m = v ∧ ok m = true

section
variable {α β : Type} {f : β → Option α} {c : α → β} {ok : α → Bool}

theorem Reads.parse_code (h : Reads f c ok) {m : α} (hm : ok m = true) : f (c m) = some m := (h _ _).2 ⟨rfl, hm⟩

theorem Reads.code_parse (h : Reads f c ok) {v : β} {m : α} (hm : f v = some m) : c m = v ∧ ok m = true := (h _ _).1 hm

/-- Both directions by evaluation: of the values' codes, and of every word. -/
theorem Reads.of_checks [DecidableEq β] (code : ∀ m, ok m = true → f (c m) = some m)
    (parse : ∀ v, (f v).all (fun m => c m = v ∧ ok m) = true) : Reads f c ok := by
  refine fun v m => ⟨fun h => ?_, fun ⟨h, hm⟩ => h ▸ code m hm⟩
  simpa [h] using parse v

theorem Reads.filter (h : Reads f c ok) (q : α → Bool) : Reads (fun v => (f v).filter q) c fun m => ok m && q m := by
  intro v m
  simp [Option.filter_eq_some_iff, h _ _, and_assoc]

end

theorem reads_some {β : Type} : Reads (some : β → Option β) id := by
  intro v m
  simp [eq_comm]

theorem Ty.reads : Reads Ty.parse Ty.code := .of_checks (by rintro ⟨⟩ <;> decide) (by decide)

theorem FTy.reads : Reads FTy.parse FTy.code := .of_checks (by rintro ⟨⟩ <;> decide) (by decide)

theorem FTy.readsTy : Reads FTy.parseTy fun t => t.ty.code := .of_checks (by rintro ⟨⟩ <;> decide) (by decide)

theorem Semiring.reads : Reads Semiring.parse Semiring.code := .of_checks (by rintro ⟨⟩ <;> decide) (by decide)

theorem QFmt.reads : Reads QFmt.parse QFmt.code := .of_checks (by rintro ⟨⟩ <;> decide) (by decide)

theorem CopySpace.reads : Reads CopySpace.parse CopySpace.code := .of_checks (by rintro ⟨⟩ <;> decide) (by decide)

theorem Scope.reads : Reads Scope.parse Scope.code := .of_checks (by rintro ⟨⟩ <;> decide) (by decide)

theorem Tok.reads : Reads Tok.parse Tok.code := by
  refine .of_checks (fun t _ => ?_) (by decide)
  cases t with
  | none => rfl
  | some j => revert j; decide

theorem Dest.reads : Reads Dest.parse Dest.code := by
  refine .of_checks (fun d _ => ?_) (by decide)
  cases d with
  | none => rfl
  | n i | k i => revert i; decide

theorem Opnd.reads : Reads Opnd.parse Opnd.code := by
  refine .of_checks (fun o _ => ?_) (by decide)
  cases o with
  | q i | n i | k i | g i | cst i => revert i; decide
  | _ => rfl

theorem Rnd.parse_eq {v : BitVec 2} {m : Rnd} : Rnd.parse v = m ↔ m.code = v := by
  cases m <;> revert v <;> decide

theorem ICond.parse_eq {v : BitVec 3} {m : ICond} : ICond.parse v = m ↔ m.code = v := by
  cases m <;> revert v <;> decide

theorem FCond.parse_eq {v : BitVec 3} {m : FCond} : FCond.parse v = m ↔ m.code = v := by
  cases m <;> revert v <;> decide

theorem ICond.code_parse {v : BitVec 3} : (ICond.parse v).code = v := ICond.parse_eq.1 rfl

theorem FCond.code_parse {v : BitVec 3} : (FCond.parse v).code = v := FCond.parse_eq.1 rfl

theorem Ord.parse_eq {v : BitVec 2} {m : Ord} : Ord.parse v = m ↔ m.code = v := by
  cases m <;> revert v <;> decide

theorem PRef.parse_eq {v : BitVec 4} {m : PRef} : PRef.parse v = m ↔ m.code = v := by
  obtain ⟨b, p⟩ := m
  revert v b p
  decide

theorem Guard.parse_eq {v : BitVec 4} {m : Guard} : Guard.parse v = m ↔ m.code = v := by
  obtain ⟨b, p⟩ := m
  revert v b p
  decide

/-! ### IMM of 16 bits -/

theorem immZero_reads : Reads immZero fun _ => 0 := by
  intro v m
  simp [immZero, @eq_comm _ v]

theorem immLow_reads {n : Nat} (h : n ≤ 16) : Reads (immLow n) zx := by
  intro v m
  simp [immLow, zx, setWidth_eq_iff h, @eq_comm _ m]

theorem imm4_reads : Reads (immLow 4) zx := immLow_reads (by decide)

theorem immOff_reads : Reads immOff offImm := by
  intro v m
  simp only [offImm]
  rw [append_eq_iff]
  simp [immOff]
  grind

theorem immScOff_reads : Reads immScOff fun m => scOffImm m.1 m.2 := by
  rintro v ⟨s, o⟩
  simp only [scOffImm]
  rw [append_eq_iff, append_eq_iff]
  simp [immScOff, Scope.reads _ _]
  grind

theorem immSc_reads : Reads immSc fun s => zx s.code := by
  intro v m
  have h : v.extractLsb' 3 13 = 0 ↔ v.toNat < 8 := high_eq_zero_iff
  simp only [zx, immSc, setWidth_eq_iff (show 3 ≤ 16 by decide), h]
  simp [Scope.reads _ _, and_comm]

theorem AtMod.reads : Reads AtMod.parse AtMod.code := by
  rintro v ⟨sc, o, off⟩
  simp only [AtMod.code]
  rw [append_eq_iff, append_eq_iff]
  simp [AtMod.parse, Scope.reads _ _, Ord.parse_eq]
  grind

theorem immAt_reads : Reads immAt AtMod.code AtMod.ok := AtMod.reads.filter _

theorem immRed_reads : Reads immRed AtMod.code AtMod.redOk := AtMod.reads.filter _

theorem immDq_reads : Reads immDq (fun m => AtMod.code ⟨m.1, m.2, 0⟩) fun m => scOrdOk m.1 m.2 := by
  rintro v ⟨sc, o⟩
  simp only [immDq, Option.bind_eq_some_iff, AtMod.reads _ _]
  constructor
  · rintro ⟨⟨s, r, off⟩, ⟨rfl, -⟩, h⟩
    obtain ⟨⟨ok, rfl⟩, rfl, rfl⟩ : (_ ∧ off = 0) ∧ s = sc ∧ r = o := by simpa using h
    exact ⟨rfl, ok⟩
  · rintro ⟨rfl, ok⟩
    exact ⟨⟨sc, o, 0⟩, by simp, if_pos ⟨ok, rfl⟩⟩

theorem CvtMod.reads : Reads CvtMod.parse CvtMod.code CvtMod.ok := by
  rintro v ⟨d, s, r, x⟩
  simp only [CvtMod.code]
  rw [append_eq_iff, append_eq_iff, append_eq_iff, append_eq_iff, bv1_eq_iff]
  constructor
  · intro h
    unfold CvtMod.parse at h
    split at h
    next d' s' hd hs =>
      obtain ⟨⟨z, ok⟩, rfl, rfl, rfl, rfl⟩ :
        (v.extractLsb' 11 5 = 0 ∧ _) ∧ d' = d ∧ s' = s ∧ Rnd.parse _ = r ∧ v.getLsbD 10 = x := by simpa using h
      simp [z, ok, (Ty.reads.code_parse hd).1, (Ty.reads.code_parse hs).1, Rnd.parse_eq.1 rfl]
    next => cases h
  · rintro ⟨⟨z, hx, hr, hs, hd⟩, ok⟩
    have hd : Ty.parse (v.extractLsb' 0 4) = some d := (Ty.reads _ _).2 ⟨by simpa using hd, rfl⟩
    have hs : Ty.parse (v.extractLsb' 4 4) = some s := (Ty.reads _ _).2 ⟨by simpa using hs, rfl⟩
    have hr : Rnd.parse (v.extractLsb' 8 2) = r := Rnd.parse_eq.2 (by simpa using hr)
    have hx : v.getLsbD 10 = x := by simpa using hx
    simp only [CvtMod.parse, hd, hs, hr, hx]
    exact if_pos ⟨by simpa using z.symm, ok⟩

theorem pImm_reads : Reads (fun v => (immLow 4 v).map PRef.parse) pImm := by
  intro v m
  have h : v.extractLsb' 4 12 = 0 ↔ v.toNat < 2 ^ 4 := high_eq_zero_iff
  simp only [pImm, immLow, ← h]
  rw [append_eq_iff]
  simp [PRef.parse_eq]
  grind

theorem ppImm_reads : Reads (fun v => (immLow 8 v).map fun v =>
    (PRef.parse (v.extractLsb' 0 4), PRef.parse (v.extractLsb' 4 4)))
    (fun m => ppImm m.1 m.2) := by
  rintro v ⟨a, b⟩
  have h : v.extractLsb' 8 8 = 0 ↔ v.toNat < 2 ^ 8 := high_eq_zero_iff
  simp only [ppImm, immLow, ← h]
  rw [append_eq_iff, append_eq_iff]
  simp [PRef.parse_eq]
  grind

theorem immSr_reads {lo : Nat} (h : lo + 3 < 2 ^ 16) : Reads (immSr lo (lo + 3)) fun x => BitVec.ofNat 16 lo + zx x := by
  intro v m
  simp [immSr, ← BitVec.toNat_inj, zx]
  have := m.isLt
  omega

theorem barRef_reads (b : Bool) : Reads (barRef b) BarRef.imm fun x => x.var == b.toNat := by
  have hb (i : BitVec 4) : (BarRef.brick i).imm = zx i := by revert i; decide
  have hc (i : BitVec 2) : (BarRef.course i).imm = zx i := by revert i; decide
  intro v x
  cases b <;> cases x <;> simp [barRef, BarRef.var, hb, hc, immLow_reads _ _ _]

theorem pref_reads : Reads (fun v : BitVec 16 => if v = 0 then some false else if v = 0x20 then some true else none)
    fun l => if l then 0x20 else 0 := by
  intro v l
  by_cases h0 : v = 0
  · subst h0
    cases l <;> decide
  · by_cases h1 : v = 0x20
    · subst h1
      cases l <;> decide
    · simp only [if_neg h0, if_neg h1]
      cases l <;> simp [@eq_comm _ _ v]
      exacts [h0, h1]

/-! ### Immediates of 24 bits -/

theorem i24Zero_reads : Reads i24Zero fun _ => 0 := by
  intro v m
  simp [i24Zero, @eq_comm _ v]

theorem i24Copy_reads : Reads i24Copy fun m => copyImm m.1 m.2 := by
  rintro v ⟨s, b⟩
  simp only [copyImm]
  rw [append_eq_iff, append_eq_iff]
  simp [i24Copy, CopySpace.reads _ _]
  grind

theorem i24Mc_reads : Reads i24Mc fun m => (0 : BitVec 4) ++ (m.2 ++ m.1) := by
  rintro v ⟨s, b⟩
  simp only
  rw [append_eq_iff, append_eq_iff]
  simp [i24Mc]
  grind

theorem i24Idx_reads (op : Bool) : Reads (i24Idx op) fun m => idxImm op m.1 m.2.1 m.2.2 := by
  rintro v ⟨b, sh, m⟩
  simp only [idxImm]
  rw [append_eq_iff, append_eq_iff, append_eq_iff]
  simp [i24Idx, bv1_eq_iff]
  grind

theorem i24Src_reads {hi : Nat} : Reads (i24Src hi) fun s => BitVec.ofNat 21 hi ++ s := by
  intro v m
  simp only
  rw [append_eq_iff]
  simp [i24Src]
  grind

theorem i24Src_zero_reads : Reads (i24Src 0) fun s => s.setWidth 24 := by
  have h (s : BitVec 3) : BitVec.ofNat 21 0 ++ s = s.setWidth 24 := by revert s; decide
  simpa only [h] using i24Src_reads (hi := 0)

theorem i24Scale_reads : Reads i24Scale fun m => scaleImm m.1 m.2.1 m.2.2 := by
  rintro v ⟨s, x, y⟩
  simp only [scaleImm]
  rw [append_eq_iff, append_eq_iff, append_eq_iff, append_eq_iff]
  simp [i24Scale, bv1_eq_iff]
  grind

theorem i24Acc_reads : Reads i24Acc fun m => accImm m.1 m.2 := by
  rintro v ⟨s, x⟩
  simp only [accImm]
  rw [append_eq_iff, append_eq_iff, append_eq_iff]
  simp [i24Acc, bv1_eq_iff]
  grind

theorem i24Q_reads : Reads i24Q fun s => s.code.setWidth 24 := by
  intro v m
  have h : v.extractLsb' 2 22 = 0 ↔ v.toNat < 4 := high_eq_zero_iff
  simp only [i24Q, setWidth_eq_iff (show 2 ≤ 24 by decide), h]
  simp [FTy.reads _ _, and_comm]

theorem MmaMod.reads : Reads MmaMod.parse MmaMod.code := by
  rintro v ⟨sa, sb, x, y⟩
  simp only [MmaMod.code]
  rw [append_eq_iff, append_eq_iff, append_eq_iff, append_eq_iff]
  simp [MmaMod.parse, bv1_eq_iff]
  grind

end Sys2Proof
end

section
/-! What the parser of each form reads: exactly the words whose fields are the codes of its parts (03:R54, R55). -/

namespace Sys2Proof

/-! ### The fields of a word, each by its parser -/

theorem Raw.mk_eq_iff {r : Raw} {mj vr gd dest a b c imm} : Raw.mk mj vr gd dest a b c imm = r ↔
    mj = r.maj ∧ vr = r.var ∧ gd = r.gd ∧ dest = r.dest ∧ a = r.a ∧ b = r.b ∧ c = r.c ∧ imm = r.imm := by
  cases r
  simp

theorem zero_eq_iff {w : Nat} {v : BitVec w} : 0 = v ↔ v = 0 := eq_comm

theorem Guard.code_eq_iff {r : Raw} {g : Guard} : g.code = r.gd ↔ r.guard = g := Guard.parse_eq.symm

theorem Dest.code_eq_iff {v : BitVec 8} {d : Dest} : d.code = v ↔ Dest.parse v = some d := by simp [Dest.reads _ _]

theorem Dest.none_code_eq_iff {v : BitVec 8} : Dest.none.code = v ↔ v = 0 := eq_comm

theorem Dest.code_eq_zero {d : Dest} : d.code = 0 ↔ d = .none := by
  rw [Dest.code_eq_iff]
  exact Option.some_inj.trans eq_comm

theorem Opnd.code_eq_iff {v : BitVec 8} {o : Opnd} : o.code = v ↔ Opnd.parse v = some o := by simp [Opnd.reads _ _]

theorem opndM_eq_some {v : BitVec 8} {o : Opnd} : opndM v = some o ↔ Opnd.parse v = some o ∧ o.isImm = false := by
  simp [opndM, Option.filter_eq_some_iff]

theorem Reads.code_and {α β : Type} {f : β → Option α} {c : α → β} {ok : α → Bool}
    (h : Reads f c ok) {v : β} {m : α} {P : Prop} :
    c m = v ∧ ok m = true ∧ P ↔ f v = some m ∧ P := by
  rw [← and_assoc, h v m]

theorem Tok.code_eq_iff {v : BitVec 4} {t : Tok} : t.code = v ↔ Tok.parse v = some t := by simp [Tok.reads _ _]

theorem edest_eq_iff {r : Raw} {t : Tok} : edest t none = r.dest ↔ eTok r = some t := by
  simp only [edest]
  rw [append_eq_iff, Tok.code_eq_iff, eTok, show Tok.code none = 0 from rfl]
  simp only [zero_eq_iff, and_comm, Option.ite_none_right_eq_some]

theorem edest_some_eq_iff {r : Raw} {t : Tok} {w : BitVec 3} : edest t (some w) = r.dest ↔ eRes r = some (t, w) := by
  simp only [edest]
  rw [append_eq_iff, Tok.code_eq_iff, Tok.code_eq_iff, eRes]
  split <;> simp_all

/-- The byte DEST of form P (03:R55). -/
def pDestCode (cc pd : BitVec 3) : BitVec 8 := (0 : BitVec 2) ++ (cc ++ pd)

theorem pDestCode_eq_iff {r : Raw} {cc pd : BitVec 3} : pDestCode cc pd = r.dest ↔ pDest r = some (cc, pd) := by
  rw [pDestCode, append_eq_iff, append_eq_iff, pDest]
  simp
  grind

theorem pDestCode_zero_eq_iff {r : Raw} {pd : BitVec 3} : pDestCode 0 pd = r.dest ↔ pDest0 r = some pd := by
  have h : pDestCode 0 pd = (0 : BitVec 5) ++ pd := by revert pd; decide
  rw [h, append_eq_iff, pDest0]
  simp
  grind

theorem imm24_eq_iff {r : Raw} {v : BitVec 24} {P : Prop} :
    v.extractLsb' 16 8 = r.c ∧ v.extractLsb' 0 16 = r.imm ∧ P ↔ v = r.imm24 ∧ P := by
  have h : r.imm24 = v ↔ _ := append_eq_iff
  rw [@eq_comm _ v, h, and_assoc]
  simp [eq_comm]

theorem imm40_eq_iff {r : Raw} {v : BitVec 40} {P : Prop} :
    v.extractLsb' 32 8 = r.a ∧ v.extractLsb' 24 8 = r.b ∧ v.extractLsb' 16 8 = r.c ∧ v.extractLsb' 0 16 = r.imm ∧ P ↔
      v = r.imm40 ∧ P := by
  simp only [@eq_comm _ v, Raw.imm40]
  rw [append_eq_iff, append_eq_iff, append_eq_iff]
  simp [eq_comm, and_assoc]

/-! ### Forms -/

/-- The parser `p` reads `k x` from the fields that `fields` gives for `x`, with the word's own major and variant,
for the parts `x` that `ok` admits, and nothing else. -/
def Parses {α : Type} (p : Raw → Option Instr) (fields : BitVec 8 → BitVec 4 → α → Raw) (ok : α → Prop)
    (k : α → Instr) : Prop :=
  ∀ r i, p r = some i ↔ ∃ x, fields r.maj r.var x = r ∧ ok x ∧ k x = i

/-! ### Form V: a named destination -/

section
variable {α : Type} {f : BitVec 16 → Option α} {c : α → BitVec 16} {ok : α → Bool}

theorem v1_parses {k} : Parses (α := Guard × Dest × Opnd × BitVec 16) (v1 k)
    (fun mj vr (g, d, x, imm) => ⟨mj, vr, g.code, d.code, x.code, 0, 0, imm⟩)
    (fun (_, _, x, imm) => immOk [x] imm = true) (fun (g, d, x, imm) => k g d x imm) := by
  intro r i
  simp only [v1, Prod.exists, Raw.mk_eq_iff, zero_eq_iff, Guard.code_eq_iff, Dest.code_eq_iff, Opnd.code_eq_iff]
  split <;> simp_all [and_assoc]

theorem v2_parses {k} : Parses (α := Guard × Dest × Opnd × Opnd × BitVec 16) (v2 k)
    (fun mj vr (g, d, x, y, imm) => ⟨mj, vr, g.code, d.code, x.code, y.code, 0, imm⟩)
    (fun (_, _, x, y, imm) => immOk [x, y] imm = true) (fun (g, d, x, y, imm) => k g d x y imm) := by
  intro r i
  simp only [v2, Prod.exists, Raw.mk_eq_iff, zero_eq_iff, Guard.code_eq_iff, Dest.code_eq_iff, Opnd.code_eq_iff]
  split <;> simp_all [and_assoc]

theorem v3_parses {k} : Parses (α := Guard × Dest × Opnd × Opnd × Opnd × BitVec 16) (v3 k)
    (fun mj vr (g, d, x, y, z, imm) => ⟨mj, vr, g.code, d.code, x.code, y.code, z.code, imm⟩)
    (fun (_, _, x, y, z, imm) => immOk [x, y, z] imm = true) (fun (g, d, x, y, z, imm) => k g d x y z imm) := by
  intro r i
  simp only [v3, Prod.exists, Raw.mk_eq_iff, Guard.code_eq_iff, Dest.code_eq_iff, Opnd.code_eq_iff]
  split <;> simp_all [and_assoc]

theorem d0_parses (hf : Reads f c ok) {k} : Parses (α := Guard × Dest × α) (d0 f k)
    (fun mj vr (g, d, m) => ⟨mj, vr, g.code, d.code, 0, 0, 0, c m⟩)
    (fun (_, _, m) => ok m = true) (fun (g, d, m) => k g d m) := by
  intro r i
  simp only [d0, Prod.exists, Raw.mk_eq_iff, zero_eq_iff, Guard.code_eq_iff, Dest.code_eq_iff, and_assoc, hf.code_and]
  split <;> simp_all [and_assoc]

theorem d1_parses (hf : Reads f c ok) {k} : Parses (α := Guard × Dest × Opnd × α) (d1 f k)
    (fun mj vr (g, d, x, m) => ⟨mj, vr, g.code, d.code, x.code, 0, 0, c m⟩)
    (fun (_, _, x, m) => ok m = true ∧ noImm [x] = true) (fun (g, d, x, m) => k g d x m) := by
  intro r i
  simp only [d1, Prod.exists, Raw.mk_eq_iff, zero_eq_iff, Guard.code_eq_iff, Dest.code_eq_iff, Opnd.code_eq_iff, and_assoc,
    hf.code_and]
  split
  · simp_all [opndM_eq_some, noImm, and_assoc]
  · simp_all [opndM_eq_some, noImm]
    grind

theorem d2_parses (hf : Reads f c ok) {k} : Parses (α := Guard × Dest × Opnd × Opnd × α) (d2 f k)
    (fun mj vr (g, d, x, y, m) => ⟨mj, vr, g.code, d.code, x.code, y.code, 0, c m⟩)
    (fun (_, _, x, y, m) => ok m = true ∧ noImm [x, y] = true) (fun (g, d, x, y, m) => k g d x y m) := by
  intro r i
  simp only [d2, Prod.exists, Raw.mk_eq_iff, zero_eq_iff, Guard.code_eq_iff, Dest.code_eq_iff, Opnd.code_eq_iff, and_assoc,
    hf.code_and]
  split
  · simp_all [opndM_eq_some, noImm, and_assoc]
  · simp_all [opndM_eq_some, noImm]
    grind

theorem d3_parses (hf : Reads f c ok) {k} : Parses (α := Guard × Dest × Opnd × Opnd × Opnd × α) (d3 f k)
    (fun mj vr (g, d, x, y, z, m) => ⟨mj, vr, g.code, d.code, x.code, y.code, z.code, c m⟩)
    (fun (_, _, x, y, z, m) => ok m = true ∧ noImm [x, y, z] = true) (fun (g, d, x, y, z, m) => k g d x y z m) := by
  intro r i
  simp only [d3, Prod.exists, Raw.mk_eq_iff, Guard.code_eq_iff, Dest.code_eq_iff, Opnd.code_eq_iff, and_assoc, hf.code_and]
  split
  · simp_all [opndM_eq_some, noImm, and_assoc]
  · simp_all [opndM_eq_some, noImm]
    grind

/-! ### Form V without a destination -/

theorem s0_parses (hf : Reads f c ok) {k} : Parses (α := Guard × α) (s0 f k)
    (fun mj vr (g, m) => ⟨mj, vr, g.code, Dest.none.code, 0, 0, 0, c m⟩)
    (fun (_, m) => ok m = true) (fun (g, m) => k g m) := by
  intro r i
  rw [s0]
  split
  next h =>
    rw [d0_parses hf]
    simp only [Prod.exists, Raw.mk_eq_iff, h, Dest.code_eq_zero]
    simp
  next h => simp only [reduceCtorEq, Raw.mk_eq_iff, Dest.none_code_eq_iff, h, false_and, and_false, exists_false]

theorem s1_parses (hf : Reads f c ok) {k} : Parses (α := Guard × Opnd × α) (s1 f k)
    (fun mj vr (g, x, m) => ⟨mj, vr, g.code, Dest.none.code, x.code, 0, 0, c m⟩)
    (fun (_, x, m) => ok m = true ∧ noImm [x] = true) (fun (g, x, m) => k g x m) := by
  intro r i
  rw [s1]
  split
  next h =>
    rw [d1_parses hf]
    simp only [Prod.exists, Raw.mk_eq_iff, h, Dest.code_eq_zero]
    simp
  next h => simp only [reduceCtorEq, Raw.mk_eq_iff, Dest.none_code_eq_iff, h, false_and, and_false, exists_false]

theorem s2_parses (hf : Reads f c ok) {k} : Parses (α := Guard × Opnd × Opnd × α) (s2 f k)
    (fun mj vr (g, x, y, m) => ⟨mj, vr, g.code, Dest.none.code, x.code, y.code, 0, c m⟩)
    (fun (_, x, y, m) => ok m = true ∧ noImm [x, y] = true) (fun (g, x, y, m) => k g x y m) := by
  intro r i
  rw [s2]
  split
  next h =>
    rw [d2_parses hf]
    simp only [Prod.exists, Raw.mk_eq_iff, h, Dest.code_eq_zero]
    simp
  next h => simp only [reduceCtorEq, Raw.mk_eq_iff, Dest.none_code_eq_iff, h, false_and, and_false, exists_false]

theorem s3_parses (hf : Reads f c ok) {k} : Parses (α := Guard × Opnd × Opnd × Opnd × α) (s3 f k)
    (fun mj vr (g, x, y, z, m) => ⟨mj, vr, g.code, Dest.none.code, x.code, y.code, z.code, c m⟩)
    (fun (_, x, y, z, m) => ok m = true ∧ noImm [x, y, z] = true) (fun (g, x, y, z, m) => k g x y z m) := by
  intro r i
  rw [s3]
  split
  next h =>
    rw [d3_parses hf]
    simp only [Prod.exists, Raw.mk_eq_iff, h, Dest.code_eq_zero]
    simp
  next h => simp only [reduceCtorEq, Raw.mk_eq_iff, Dest.none_code_eq_iff, h, false_and, and_false, exists_false]

end

/-! ### Form P -/

theorem pCmp_parses {k} : Parses (α := Guard × BitVec 3 × BitVec 3 × Opnd × Opnd × BitVec 16) (pCmp k)
    (fun mj vr (g, cc, pd, x, y, imm) => ⟨mj, vr, g.code, pDestCode cc pd, x.code, y.code, 0, imm⟩)
    (fun (_, _, _, x, y, imm) => immOk [x, y] imm = true) (fun (g, cc, pd, x, y, imm) => k g cc pd x y imm) := by
  intro r i
  simp only [pCmp, Prod.exists, Raw.mk_eq_iff, zero_eq_iff, Guard.code_eq_iff, pDestCode_eq_iff, Opnd.code_eq_iff]
  split
  · simp_all [and_assoc]
  · simp_all
    grind

theorem pImm_eq_iff {v : BitVec 16} {p : PRef} : pImm p = v ↔ ∃ x, immLow 4 v = some x ∧ PRef.parse x = p := by
  simpa using (pImm_reads v p).symm

theorem ppImm_eq_iff {v : BitVec 16} {p q : PRef} : ppImm p q = v ↔
    ∃ x, immLow 8 v = some x ∧ PRef.parse (x.extractLsb' 0 4) = p ∧ PRef.parse (x.extractLsb' 4 4) = q := by
  simpa using (ppImm_reads v (p, q)).symm

theorem pVote_parses {k} : Parses (α := Guard × BitVec 3 × PRef) (pVote k)
    (fun mj vr (g, pd, p) => ⟨mj, vr, g.code, pDestCode 0 pd, 0, 0, 0, pImm p⟩)
    (fun _ => True) (fun (g, pd, p) => k g pd p) := by
  intro r i
  simp only [pVote, Prod.exists, Raw.mk_eq_iff, zero_eq_iff, Guard.code_eq_iff, pDestCode_zero_eq_iff, pImm_eq_iff]
  split <;> simp_all [and_assoc]

theorem pLeadeq_parses : Parses (α := Guard × BitVec 3 × Opnd) pLeadeq
    (fun mj vr (g, pd, x) => ⟨mj, vr, g.code, pDestCode 0 pd, x.code, 0, 0, 0⟩)
    (fun (_, _, x) => noImm [x] = true) (fun (g, pd, x) => .voteLeadeq g pd x) := by
  intro r i
  simp only [pLeadeq, Prod.exists, Raw.mk_eq_iff, zero_eq_iff, Guard.code_eq_iff, pDestCode_zero_eq_iff, Opnd.code_eq_iff]
  split
  · simp_all [opndM_eq_some, noImm, and_assoc]
  · simp_all [opndM_eq_some, noImm]

theorem pPlop_parses {k} : Parses (α := Guard × BitVec 3 × PRef × PRef) (pPlop k)
    (fun mj vr (g, pd, p, q) => ⟨mj, vr, g.code, pDestCode 0 pd, 0, 0, 0, ppImm p q⟩)
    (fun _ => True) (fun (g, pd, p, q) => k g pd p q) := by
  intro r i
  simp only [pPlop, Prod.exists, Raw.mk_eq_iff, zero_eq_iff, Guard.code_eq_iff, pDestCode_zero_eq_iff, ppImm_eq_iff]
  split <;> simp_all [and_assoc]

/-! ### Forms K and E -/

/-- The fields of forms K and E (03:R55). -/
def eFields (mj : BitVec 8) (vr : BitVec 4) (g : Guard) (dest a b : BitVec 8) (imm : BitVec 24) : Raw :=
  ⟨mj, vr, g.code, dest, a, b, imm.extractLsb' 16 8, imm.extractLsb' 0 16⟩

section
variable {α : Type} {f : BitVec 24 → Option α} {c : α → BitVec 24} {ok : α → Bool}

theorem kLd_parses {k} : Parses (α := Guard × Dest × Opnd × BitVec 24) (kLd k)
    (fun mj vr (g, d, x, i24) => eFields mj vr g d.code x.code 0 i24)
    (fun (_, _, x, _) => noImm [x] = true) (fun (g, d, x, i24) => k g d x i24) := by
  intro r i
  simp only [kLd, Prod.exists, eFields, Raw.mk_eq_iff, zero_eq_iff, Guard.code_eq_iff, Dest.code_eq_iff, Opnd.code_eq_iff,
    and_assoc, imm24_eq_iff]
  split
  · simp_all [opndM_eq_some, noImm]
  · simp_all [opndM_eq_some, noImm]

theorem kSt_parses {k} : Parses (α := Guard × Opnd × Opnd × BitVec 24) (kSt k)
    (fun mj vr (g, x, y, i24) => eFields mj vr g 0 x.code y.code i24)
    (fun (_, x, y, _) => noImm [x, y] = true) (fun (g, x, y, i24) => k g x y i24) := by
  intro r i
  simp only [kSt, Prod.exists, eFields, Raw.mk_eq_iff, zero_eq_iff, Guard.code_eq_iff, Opnd.code_eq_iff, and_assoc,
    imm24_eq_iff]
  split
  · simp_all [opndM_eq_some, noImm, and_assoc]
  · simp_all [opndM_eq_some, noImm]

theorem e0_parses {k} : Parses (α := Guard × Tok) (e0 k)
    (fun mj vr (g, t) => eFields mj vr g (edest t none) 0 0 0)
    (fun _ => True) (fun (g, t) => k g t) := by
  intro r i
  simp only [e0, Prod.exists, eFields, Raw.mk_eq_iff, zero_eq_iff, Guard.code_eq_iff, edest_eq_iff, and_assoc, imm24_eq_iff]
  split <;> simp_all [and_assoc]

theorem e1_parses (hf : Reads f c ok) {k} : Parses (α := Guard × Tok × Opnd × α) (e1 f k)
    (fun mj vr (g, t, x, m) => eFields mj vr g (edest t none) x.code 0 (c m))
    (fun (_, _, x, m) => ok m = true ∧ noImm [x] = true) (fun (g, t, x, m) => k g t x m) := by
  intro r i
  simp only [e1, Prod.exists, eFields, Raw.mk_eq_iff, zero_eq_iff, Guard.code_eq_iff, edest_eq_iff, Opnd.code_eq_iff, and_assoc,
    imm24_eq_iff, hf.code_and]
  split
  · simp_all [opndM_eq_some, noImm]
  · simp_all [opndM_eq_some, noImm]
    grind

theorem e2_parses (hf : Reads f c ok) {k} : Parses (α := Guard × Tok × Opnd × Opnd × α) (e2 f k)
    (fun mj vr (g, t, x, y, m) => eFields mj vr g (edest t none) x.code y.code (c m))
    (fun (_, _, x, y, m) => ok m = true ∧ noImm [x, y] = true) (fun (g, t, x, y, m) => k g t x y m) := by
  intro r i
  simp only [e2, Prod.exists, eFields, Raw.mk_eq_iff, Guard.code_eq_iff, edest_eq_iff, Opnd.code_eq_iff, and_assoc,
    imm24_eq_iff, hf.code_and]
  split
  · simp_all [opndM_eq_some, noImm, and_assoc]
  · simp_all [opndM_eq_some, noImm]
    grind

theorem r0_parses (hf : Reads f c ok) {k} : Parses (α := Guard × Tok × BitVec 3 × α) (r0 f k)
    (fun mj vr (g, t, w, m) => eFields mj vr g (edest t (some w)) 0 0 (c m))
    (fun (_, _, _, m) => ok m = true) (fun (g, t, w, m) => k g t w m) := by
  intro r i
  simp only [r0, Prod.exists, eFields, Raw.mk_eq_iff, zero_eq_iff, Guard.code_eq_iff, edest_some_eq_iff, and_assoc,
    imm24_eq_iff, hf.code_and]
  split
  · simp_all [and_assoc]
  · simp_all
    grind

theorem r1_parses (hf : Reads f c ok) {k} : Parses (α := Guard × Tok × BitVec 3 × Opnd × α) (r1 f k)
    (fun mj vr (g, t, w, x, m) => eFields mj vr g (edest t (some w)) x.code 0 (c m))
    (fun (_, _, _, x, m) => ok m = true ∧ noImm [x] = true) (fun (g, t, w, x, m) => k g t w x m) := by
  intro r i
  simp only [r1, Prod.exists, eFields, Raw.mk_eq_iff, zero_eq_iff, Guard.code_eq_iff, edest_some_eq_iff, Opnd.code_eq_iff,
    and_assoc, imm24_eq_iff, hf.code_and]
  split
  · simp_all [opndM_eq_some, noImm, and_assoc]
  · simp_all [opndM_eq_some, noImm]
    grind

theorem r2_parses (hf : Reads f c ok) {k} : Parses (α := Guard × Tok × BitVec 3 × Opnd × Opnd × α) (r2 f k)
    (fun mj vr (g, t, w, x, y, m) => eFields mj vr g (edest t (some w)) x.code y.code (c m))
    (fun (_, _, _, x, y, m) => ok m = true ∧ noImm [x, y] = true) (fun (g, t, w, x, y, m) => k g t w x y m) := by
  intro r i
  simp only [r2, Prod.exists, eFields, Raw.mk_eq_iff, Guard.code_eq_iff, edest_some_eq_iff, Opnd.code_eq_iff, and_assoc,
    imm24_eq_iff, hf.code_and]
  split
  · simp_all [opndM_eq_some, noImm, and_assoc]
  · simp_all [opndM_eq_some, noImm]
    grind

end

/-! ### Form L -/

/-- The fields of form L (03:R55). -/
def lFields (mj : BitVec 8) (vr : BitVec 4) (g : Guard) (dest : BitVec 8) (imm : BitVec 40) : Raw :=
  ⟨mj, vr, g.code, dest, imm.extractLsb' 32 8, imm.extractLsb' 24 8, imm.extractLsb' 16 8, imm.extractLsb' 0 16⟩

theorem lFields_eq_iff {r : Raw} {g : Guard} {dest : BitVec 8} {imm : BitVec 40} {P : Prop} :
    lFields r.maj r.var g dest imm = r ∧ P ↔ r.guard = g ∧ dest = r.dest ∧ imm = r.imm40 ∧ P := by
  simp only [lFields, Raw.mk_eq_iff, Guard.code_eq_iff, and_assoc, imm40_eq_iff, true_and]

theorem lMovi_parses {t : Ty} : Parses (α := Guard × Dest × BitVec 40) (lMovi t)
    (fun mj vr (g, d, v) => lFields mj vr g d.code v)
    (fun (g, d, v) => (Instr.movi g t d v).wf = true) (fun (g, d, v) => .movi g t d v) := by
  intro r i
  simp only [lMovi, Prod.exists, lFields_eq_iff, Dest.code_eq_iff]
  split <;> simp_all

theorem l0_parses {k} : Parses (α := Guard × BitVec 40) (l0 k)
    (fun mj vr (g, v) => lFields mj vr g 0 v)
    (fun _ => True) (fun (g, v) => k g v) := by
  intro r i
  simp only [l0, Prod.exists, lFields_eq_iff, zero_eq_iff]
  simp

theorem lTrap_parses {k} : Parses (α := Guard × BitVec 16) (lTrap k)
    (fun mj vr (g, n) => lFields mj vr g 0 (n.setWidth 40))
    (fun _ => True) (fun (g, n) => k g n) := by
  have high (n : BitVec 16) {lo : Nat} (h : 16 ≤ lo) : (n.setWidth 40).extractLsb' lo 8 = 0 := by
    have := Nat.shiftRight_eq_zero n.toNat lo (n.isLt.trans_le (Nat.pow_le_pow_right (by decide) h))
    rw [← BitVec.toNat_inj, BitVec.extractLsb'_toNat, BitVec.toNat_setWidth_of_le (by decide), this]
    rfl
  have low (n : BitVec 16) : (n.setWidth 40).extractLsb' 0 16 = n := by
    rw [BitVec.extractLsb'_setWidth_of_le (by decide), BitVec.extractLsb'_eq_self]
  intro r i
  simp only [lTrap, Prod.exists, lFields_eq_iff, zero_eq_iff, ← imm40_eq_iff, high _ (by decide : 16 ≤ 32),
    high _ (by decide : 16 ≤ 24),
    high _ (by decide : 16 ≤ 16), low]
  simp [and_assoc]

/-! ### REORDER -/

/-- Operand B of REORDER.PACK and REORDER.ALIGN: the first register, absent with an empty mask (13:R266). -/
def reorderB (base : BitVec 6) (mask : BitVec 16) : BitVec 8 := if mask = 0 then 0 else (2 : BitVec 2) ++ base

theorem vReorder_parses {k} : Parses (α := Guard × Opnd × BitVec 6 × BitVec 16) (vReorder k)
    (fun mj vr (g, x, base, mask) => ⟨mj, vr, g.code, Dest.none.code, x.code, reorderB base mask, 0, mask⟩)
    (fun (_, x, base, mask) => noImm [x] = true ∧ (mask != 0 || base == 0) = true)
    (fun (g, x, base, mask) => k g x base mask) := by
  intro r i
  have hb {base : BitVec 6} : (2 : BitVec 2) ++ base = r.b ↔ r.b.extractLsb' 6 2 = 2 ∧ r.b.extractLsb' 0 6 = base := by
    rw [append_eq_iff, eq_comm, @eq_comm _ base]
  simp only [vReorder, reorderB, Prod.exists, Raw.mk_eq_iff, zero_eq_iff, Guard.code_eq_iff, Dest.none_code_eq_iff,
    Opnd.code_eq_iff]
  split
  · by_cases hm : r.imm = 0
    · simp_all [opndM_eq_some, noImm]
      grind
    · simp_all [opndM_eq_some, noImm]
      grind
  next h =>
    have h x (hx : Opnd.parse r.a = some x) : x.isImm = true := by simpa [hx, opndM] using h
    simp_all [noImm]


end Sys2Proof
end

section
/-! Decoding drops no bit: what a row of the opcode map reads is well-formed, and its fields are those it was read from
(03:R54-R71, R73). -/

namespace Sys2Proof

/-- `i` is well-formed and `r` holds its fields. -/
def Instr.Fits (i : Instr) (r : Raw) : Prop := i.wf = true ∧ encodeRaw i = some r

/-- What the parser `p` reads from words of the major `mj` and variant `vr` that meet `D` fits them. -/
def Sound (mj vr : Nat) (p : Raw → Option Instr) (D : Raw → Prop := fun _ => True) : Prop :=
  ∀ r i, r.maj = BitVec.ofNat 8 mj → r.var = BitVec.ofNat 4 vr → D r → p r = some i → i.Fits r

/-- The row `o` of the opcode map for the major `mj` and variant `v` is sound. -/
def Row (mj : Nat) (v : BitVec 4) (o : Option (Raw → Option Instr)) : Prop := ∀ p, o = some p → Sound mj v.toNat p

theorem and_of_true {a b : Bool} (ha : a = true) (hb : b = true) : (a && b) = true := Bool.and_eq_true_iff.2 ⟨ha, hb⟩

/-! ### Parsers -/

section
variable {mj vr : Nat} {p q : Raw → Option Instr} {D E : Raw → Prop}

theorem Parses.sound_on {α : Type} {fields : BitVec 8 → BitVec 4 → α → Raw} {ok : α → Prop} {k : α → Instr}
    (hp : Parses p fields ok k)
    (h : ∀ x, ok x → D (fields (BitVec.ofNat 8 mj) (BitVec.ofNat 4 vr) x) →
      (k x).Fits (fields (BitVec.ofNat 8 mj) (BitVec.ofNat 4 vr) x)) : Sound mj vr p D := by
  intro r i hm hv hD hr
  obtain ⟨x, hx, ok, rfl⟩ := (hp r i).1 hr
  rw [hm, hv] at hx
  exact hx ▸ h x ok (hx ▸ hD)

theorem Parses.sound {α : Type} {fields : BitVec 8 → BitVec 4 → α → Raw} {ok : α → Prop} {k : α → Instr}
    (hp : Parses p fields ok k) (h : ∀ x, ok x → (k x).Fits (fields (BitVec.ofNat 8 mj) (BitVec.ofNat 4 vr) x)) :
    Sound mj vr p D :=
  hp.sound_on fun x ok _ => h x ok

theorem Sound.ite [DecidablePred E] (hp : Sound mj vr p fun r => D r ∧ E r) (hq : Sound mj vr q fun r => D r ∧ ¬ E r) :
    Sound mj vr (fun r => if E r then p r else q r) D := by
  intro r i hm hv hD hr
  by_cases hE : E r
  · exact hp r i hm hv ⟨hD, hE⟩ ((if_pos hE).symm.trans hr)
  · exact hq r i hm hv ⟨hD, hE⟩ ((if_neg hE).symm.trans hr)

theorem sound_none : Sound mj vr (fun _ => none) D := fun _ _ _ _ _ h => nomatch h

theorem Sound.noTok (hp : Sound mj vr p fun r => r.dest.getLsbD 7 = false) : Sound mj vr (noTok p) := by
  intro r i hm hv _ hr
  unfold Sys2Proof.noTok at hr
  split at hr
  next => cases hr
  next h => exact hp r i hm hv (by simpa using h) hr

end

theorem edest_eq_zero {t : Tok} (h : edest t none = 0) : t = none := by
  cases t with
  | none => rfl
  | some j => revert j; decide

theorem edest_token {t : Tok} {w : BitVec 3} (h : (edest t (some w)).getLsbD 7 = false) : t = none := by
  cases t with
  | none => rfl
  | some j => revert j w; decide

/-! ### Rows -/

section
variable {mj : Nat} {v : BitVec 4}

theorem row_none : Row mj v none := fun _ h => nomatch h

theorem row_some {p : Raw → Option Instr} (h : Sound mj v.toNat p) : Row mj v (some p) := fun _ e => Option.some.inj e ▸ h

theorem row_variant {p : Raw → Option Instr} {n : Nat} (hv : v.toNat = n) (h : Sound mj n p) : Row mj v (some p) :=
  row_some (hv.symm ▸ h)

theorem row_map {α : Type} {f : BitVec 4 → Option α} {c : α → BitVec 4} (hf : Reads f c) {p : α → Raw → Option Instr}
    (h : ∀ t, Sound mj (c t).toNat (p t)) : Row mj v ((f v).map p) := by
  intro q hq
  obtain ⟨t, ht, rfl⟩ := Option.map_eq_some_iff.1 hq
  obtain ⟨rfl, -⟩ := hf.code_parse ht
  exact h t

theorem row_byTy {ts : List Ty} {p : Ty → Raw → Option Instr} (h : ∀ t, ts.contains t = true → Sound mj t.code.toNat (p t)) :
    Row mj v (byTy v ts p) := by
  intro q hq
  obtain ⟨t, ht, rfl⟩ := Option.map_eq_some_iff.1 hq
  unfold Ty.parseIn at ht
  split at ht
  next t' h' =>
    obtain ⟨hts, ht⟩ := Option.ite_none_right_eq_some.1 ht
    cases ht
    obtain ⟨rfl, -⟩ := Ty.reads.code_parse h'
    exact h _ hts
  next => cases ht

theorem row_var0 {p : Raw → Option Instr} (h : Sound mj 0 p) : Row mj v (var0 v p) := by
  intro q hq
  obtain ⟨rfl, hq⟩ := Option.ite_none_right_eq_some.1 hq
  cases hq
  exact h

theorem row_if {P : Prop} [Decidable P] {p : Raw → Option Instr} (h : P → Sound mj v.toNat p) :
    Row mj v (if P then some p else none) := by
  split
  next hP => exact row_some (h hP)
  next => exact row_none

theorem fvar_parse {t : FTy} (h : FTy.parse (v.extractLsb' 0 2) = some t) :
    fvar (Rnd.parse (v.extractLsb' 2 2)) t = v.toNat := by
  have hr : (Rnd.parse (v.extractLsb' 2 2)).code = v.extractLsb' 2 2 := Rnd.parse_eq.1 rfl
  rw [fvar, hr, (FTy.reads.code_parse h).1]
  clear h hr
  revert v
  decide

theorem row_byF {p : FTy → Rnd → Raw → Option Instr} (h : ∀ t m, Sound mj (fvar m t) (p t m)) : Row mj v (byF v p) := by
  intro q hq
  obtain ⟨t, ht, rfl⟩ := Option.map_eq_some_iff.1 hq
  exact fvar_parse ht ▸ h t _

theorem row_byF0 {p : FTy → Raw → Option Instr} (h : ∀ t, Sound mj (fvar .rne t) (p t)) : Row mj v (byF0 v p) := by
  intro q hq
  obtain ⟨t, ht, rfl⟩ := Option.map_eq_some_iff.1 hq
  refine .ite (fun r i hm hv hE hr => ?_) sound_none
  have hrne : Rnd.parse (v.extractLsb' 2 2) = .rne := by rw [hE.2]; rfl
  have h := h t
  rw [← hrne, fvar_parse ht] at h
  exact h r i hm hv trivial hr

theorem row_byBar {p : (BitVec 16 → Option BarRef) → Raw → Option Instr} (h : ∀ b : Bool, Sound mj b.toNat (p (barRef b))) :
    Row mj v (byBar v p) := by
  unfold byBar
  split
  next hv => exact row_variant hv (h false)
  next hv => exact row_variant hv (h true)
  next => exact row_none

end

theorem cmp_fields {g t cc pd x y imm} : encodeRaw (.cmp g t (ICond.parse cc) pd x y imm) =
    some ⟨0x19, BitVec.ofNat 4 t.code.toNat, g.code, pDestCode cc pd, x.code, y.code, 0, imm⟩ :=
  (rfl : _ = some (mkP 0x19 t.code.toNat g (ICond.parse cc).code pd x.code y.code imm)).trans (by rw [ICond.code_parse]; rfl)

theorem cmpF_fields {g t cc pd x y imm} : encodeRaw (.cmpF g t (FCond.parse cc) pd x y imm) =
    some ⟨0x28, BitVec.ofNat 4 (fvar .rne t), g.code, pDestCode cc pd, x.code, y.code, 0, imm⟩ :=
  (rfl : _ = some (mkP 0x28 (fvar .rne t) g (FCond.parse cc).code pd x.code y.code imm)).trans (by rw [FCond.code_parse]; rfl)

/-- A predicate reference in IMM (06:R130). -/
theorem vBallot_sound : Sound 0x1D 0 vBallot := (d0_parses pImm_reads).sound fun _ _ => ⟨rfl, rfl⟩

/-- Bit 3 of IMM chooses ADDSC.W. -/
theorem addsc_sound {t : Ty} (ht : [Ty.a56].contains t = true) : Sound 0x1C t.code.toNat (d2 (immLow 4) fun g d a b m =>
    if m.getLsbD 3 then .addscW g d a b (m.extractLsb' 0 3) else .addsc g d a b (m.extractLsb' 0 3)) := by
  have wide (m : BitVec 4) (h : m.getLsbD 3 = true) : zx ((1 : BitVec 1) ++ m.extractLsb' 0 3) = zx m := by revert m; decide
  have narrow (m : BitVec 4) (h : ¬ m.getLsbD 3 = true) : zx (m.extractLsb' 0 3) = zx m := by revert m; decide
  obtain rfl : t = .a56 := by simpa using ht
  refine (d2_parses (immLow_reads (by decide))).sound fun ⟨g, d, x, y, m⟩ ⟨_, h⟩ => ?_
  dsimp only
  split
  next hm => exact ⟨h, wide m hm ▸ rfl⟩
  next hm => exact ⟨h, narrow m hm ▸ rfl⟩

/-! ### Class 0 (03:R63) -/

/-- Case `h_k` is the `k`-th row of the class (03:R63). -/
theorem class0_sound (n : Nat) (v : BitVec 4) : Row n v (class0 n v) := by
  unfold class0
  split
  case h_1 | h_2 | h_3 | h_4 | h_5 | h_7 | h_8 | h_9 | h_10 | h_12 | h_13 | h_14 | h_16 | h_17 | h_18 | h_19 | h_20 =>
    exact row_byTy fun t ht => v2_parses.sound fun ⟨g, d, x, y, imm⟩ h => ⟨and_of_true ht h, rfl⟩
  case h_6 | h_21 => exact row_byTy fun t ht => v3_parses.sound fun ⟨g, d, x, y, z, imm⟩ h => ⟨and_of_true ht h, rfl⟩
  case h_11 | h_15 | h_22 | h_23 | h_24 | h_27 =>
    exact row_byTy fun t ht => v1_parses.sound fun ⟨g, d, x, imm⟩ h => ⟨and_of_true ht h, rfl⟩
  case h_25 => exact row_byTy fun t ht => (d2_parses pImm_reads).sound fun _ ⟨_, h⟩ => ⟨and_of_true ht h, rfl⟩
  case h_26 => exact row_byTy fun t ht => pCmp_parses.sound fun ⟨g, cc, pd, x, y, imm⟩ h => ⟨and_of_true ht h, cmp_fields⟩
  case h_28 => exact row_byTy fun t _ => lMovi_parses.sound fun ⟨g, d, v⟩ h => ⟨h, rfl⟩
  case h_29 => exact row_byTy fun t ht => addsc_sound ht
  case h_30 =>
    split
    case h_1 h => exact row_variant h vBallot_sound
    case h_2 h | h_3 h => exact row_variant h (pVote_parses.sound fun _ _ => ⟨rfl, rfl⟩)
    case h_4 h => exact row_variant h (pLeadeq_parses.sound fun _ h => ⟨h, rfl⟩)
    case h_5 => exact row_none
  case h_31 =>
    split
    case h_1 h | h_2 h | h_3 h | h_4 h => exact row_variant h (pPlop_parses.sound fun _ _ => ⟨rfl, rfl⟩)
    case h_5 => exact row_none
  case h_32 =>
    split
    case h_1 h | h_3 h | h_4 h => exact row_variant h ((d0_parses immZero_reads).sound fun _ _ => ⟨rfl, rfl⟩)
    case h_2 h => exact row_variant h ((d1_parses immZero_reads).sound fun _ ⟨_, h⟩ => ⟨h, rfl⟩)
    case h_5 h => exact row_variant h ((s1_parses immZero_reads).sound fun _ ⟨_, h⟩ => ⟨h, rfl⟩)
    case h_6 => exact row_none
  case h_33 => exact row_none

/-! ### Class 1 (03:R64) -/

theorem cvtX2_wf {g d x y} {m : CvtMod} (hm : (m.ok && decide (m.dst.width ≤ 16)) = true) (h : noImm [x, y] = true) :
    (Instr.cvtX2 g d x y m).wf = true := by
  obtain ⟨hok, hw⟩ := Bool.and_eq_true_iff.1 hm
  exact and_of_true (and_of_true hok h) hw

theorem bpext_wf {g d x} {m : BitVec 4} (hm : (decide (2 ≤ m.toNat) && decide (m.toNat ≤ 8)) = true) (h : noImm [x] = true) :
    (Instr.bpext g d x m).wf = true := by
  obtain ⟨h2, h8⟩ := Bool.and_eq_true_iff.1 hm
  exact and_of_true (and_of_true h h2) h8

/-- Case `h_k` is the `k`-th row of the class (03:R64). -/
theorem class1_sound (n : Nat) (v : BitVec 4) : Row n v (class1 n v) := by
  unfold class1
  split
  case h_1 | h_2 | h_3 => exact row_byF fun t m => v2_parses.sound fun ⟨g, d, x, y, imm⟩ h => ⟨h, rfl⟩
  case h_4 => exact row_byF fun t m => v3_parses.sound fun ⟨g, d, x, y, z, imm⟩ h => ⟨h, rfl⟩
  case h_5 | h_6 => exact row_byF0 fun t => v2_parses.sound fun ⟨g, d, x, y, imm⟩ h => ⟨h, rfl⟩
  case h_7 | h_8 | h_10 | h_11 | h_12 | h_13 | h_14 | h_16 =>
    exact row_byF0 fun t => v1_parses.sound fun ⟨g, d, x, imm⟩ h => ⟨h, rfl⟩
  case h_9 => exact row_byF0 fun t => pCmp_parses.sound fun ⟨g, cc, pd, x, y, imm⟩ h => ⟨h, cmpF_fields⟩
  case h_15 => exact row_byF fun t m => v1_parses.sound fun ⟨g, d, x, imm⟩ h => ⟨h, rfl⟩
  case h_17 => exact row_var0 ((d1_parses CvtMod.reads).sound fun ⟨g, d, x, m⟩ ⟨hm, h⟩ => ⟨and_of_true hm h, rfl⟩)
  case h_18 => exact row_var0 ((d2_parses (CvtMod.reads.filter _)).sound fun ⟨g, d, x, y, m⟩ ⟨hm, h⟩ => ⟨cvtX2_wf hm h, rfl⟩)
  case h_19 =>
    split
    case h_1 h | h_2 h => exact row_variant h (v2_parses.sound fun ⟨g, d, x, y, imm⟩ h => ⟨h, rfl⟩)
    case h_3 => exact row_none
  case h_20 =>
    split
    case h_1 h | h_2 h | h_3 h => exact row_variant h (v1_parses.sound fun ⟨g, d, x, imm⟩ h => ⟨h, rfl⟩)
    case h_4 => exact row_none
  case h_21 => exact row_var0 (v3_parses.sound fun ⟨g, d, x, y, z, imm⟩ h => ⟨h, rfl⟩)
  case h_22 => exact row_var0 ((d1_parses immZero_reads).sound fun ⟨g, d, x, _⟩ ⟨_, h⟩ => ⟨h, rfl⟩)
  case h_23 => exact row_var0 ((d1_parses (imm4_reads.filter _)).sound fun ⟨g, d, x, m⟩ ⟨hm, h⟩ => ⟨bpext_wf hm h, rfl⟩)
  case h_24 => exact row_none

/-! ### Class 2 (03:R65) -/

theorem byOne_sound {u t : Ty} {mj : Nat} {p : Raw → Option Instr} (ht : [u].contains t = true) (h : Sound mj u.code.toNat p) :
    Sound mj t.code.toNat p := by
  obtain rfl : t = u := by simpa using ht
  exact h

/-- IMM chooses the form of CCTL (08:R187). -/
theorem cctl_sound : Sound 0x4D 0 fun r =>
    match r.imm.toNat with
    | 0x00 => s0 some (fun g _ => .cctlInv g) r
    | 0x20 => s0 some (fun g _ => .cctlInvro g) r
    | 0x40 => s1 some (fun g a _ => .cctlLine g a) r
    | _ => none := by
  intro r i hm hv _ hr
  dsimp only at hr
  split at hr
  next h =>
    exact (s0_parses reads_some).sound_on (D := fun r => r.imm.toNat = 0x00) (fun ⟨g, m⟩ _ e => by
      obtain rfl : m = 0x00 := BitVec.eq_of_toNat_eq e
      exact ⟨rfl, rfl⟩) r i hm hv h hr
  next h =>
    exact (s0_parses reads_some).sound_on (D := fun r => r.imm.toNat = 0x20) (fun ⟨g, m⟩ _ e => by
      obtain rfl : m = 0x20 := BitVec.eq_of_toNat_eq e
      exact ⟨rfl, rfl⟩) r i hm hv h hr
  next h =>
    exact (s1_parses reads_some).sound_on (D := fun r => r.imm.toNat = 0x40) (fun ⟨g, x, m⟩ ⟨_, hx⟩ e => by
      obtain rfl : m = 0x40 := BitVec.eq_of_toNat_eq e
      exact ⟨hx, rfl⟩) r i hm hv h hr
  next => cases hr

/-- Case `h_k` is the `k`-th row of the class (03:R65). -/
theorem class2_sound (n : Nat) (v : BitVec 4) : Row n v (class2 n v) := by
  unfold class2
  split
  case h_1 | h_2 => exact row_byTy fun t ht => (d1_parses immOff_reads).sound fun ⟨g, d, x, m⟩ ⟨_, h⟩ => ⟨and_of_true ht h, rfl⟩
  case h_3 => exact row_byTy fun t ht => (d1_parses immScOff_reads).sound fun ⟨g, d, x, m⟩ ⟨_, h⟩ => ⟨and_of_true ht h, rfl⟩
  case h_4 | h_7 => exact row_byTy fun t ht => (s2_parses immOff_reads).sound fun ⟨g, x, y, m⟩ ⟨_, h⟩ => ⟨and_of_true ht h, rfl⟩
  case h_5 => exact row_byTy fun t ht => (s2_parses immScOff_reads).sound fun ⟨g, x, y, m⟩ ⟨_, h⟩ => ⟨and_of_true ht h, rfl⟩
  case h_6 => exact row_byTy fun t ht => (d2_parses immOff_reads).sound fun ⟨g, d, x, y, m⟩ ⟨_, h⟩ => ⟨and_of_true ht h, rfl⟩
  case h_8 | h_10 => exact row_byTy fun t ht => kLd_parses.sound fun ⟨g, d, x, m⟩ h => ⟨and_of_true ht h, rfl⟩
  case h_9 | h_11 => exact row_byTy fun t ht => kSt_parses.sound fun ⟨g, x, y, m⟩ h => ⟨and_of_true ht h, rfl⟩
  case h_12 =>
    split
    case h_1 h | h_2 h | h_3 h => exact row_variant h ((s0_parses immSc_reads).sound fun ⟨g, m⟩ _ => ⟨rfl, rfl⟩)
    case h_4 h => exact row_variant h ((s0_parses immZero_reads).sound fun ⟨g, _⟩ _ => ⟨rfl, rfl⟩)
    case h_5 => exact row_none
  case h_13 => exact row_var0 ((s1_parses pref_reads).sound fun ⟨g, x, m⟩ ⟨_, h⟩ => ⟨h, rfl⟩)
  case h_14 => exact row_var0 cctl_sound
  case h_15 => exact row_var0 ((s1_parses immZero_reads).sound fun ⟨g, x, _⟩ ⟨_, h⟩ => ⟨h, rfl⟩)
  case h_16 | h_17 | h_18 | h_19 | h_20 | h_21 | h_22 =>
    exact row_byTy fun t ht => (d2_parses immAt_reads).sound fun ⟨g, d, x, y, m⟩ ⟨hm, h⟩ =>
      ⟨and_of_true (and_of_true ht h) hm, rfl⟩
  case h_23 =>
    exact row_byTy fun t ht => (d3_parses immAt_reads).sound fun ⟨g, d, x, y, z, m⟩ ⟨hm, h⟩ =>
      ⟨and_of_true (and_of_true ht h) hm, rfl⟩
  case h_24 =>
    exact row_byTy fun t ht => byOne_sound ht ((d2_parses immAt_reads).sound fun ⟨g, d, x, y, m⟩ ⟨hm, h⟩ =>
      ⟨and_of_true h hm, rfl⟩)
  case h_25 =>
    exact row_byTy fun t ht => byOne_sound ht ((d2_parses immDq_reads).sound fun ⟨g, d, x, y, m⟩ ⟨hm, h⟩ =>
      ⟨and_of_true h hm, rfl⟩)
  case h_26 | h_27 =>
    exact row_byTy fun t ht => byOne_sound ht ((d1_parses immDq_reads).sound fun ⟨g, d, x, m⟩ ⟨hm, h⟩ =>
      ⟨and_of_true h hm, rfl⟩)
  case h_28 | h_29 | h_30 =>
    exact row_byTy fun t ht => (s2_parses immRed_reads).sound fun ⟨g, x, y, m⟩ ⟨hm, h⟩ =>
      ⟨and_of_true (and_of_true ht h) hm, rfl⟩
  case h_31 => exact row_none

/-! ### Class 3 (03:R66) -/

/-- Bit 23 of the immediate chooses the write and the add (12:R243, R244). -/
theorem eScatter_sound {t : Ty} (ht : stTys.contains t = true) : Sound 0x67 t.code.toNat (eScatter t) := by
  refine .ite ?_ ((e2_parses (i24Idx_reads false)).sound fun ⟨g, tk, x, y, m⟩ ⟨_, h⟩ => ⟨and_of_true ht h, rfl⟩)
  by_cases h : (t == .z32 || t == .s64) = true
  · simp only [h, if_true]
    have ht : [Ty.z32, .s64].contains t = true := by simpa using h
    exact (e2_parses (i24Idx_reads true)).sound fun ⟨g, tk, x, y, m⟩ ⟨_, h⟩ => ⟨and_of_true ht h, rfl⟩
  · simp only [h]
    exact sound_none

theorem waitt_parses : Parses (α := Guard × BitVec 3) (fun r =>
      match eTok r with
      | some (some j) => if r.a = 0 ∧ r.b = 0 ∧ r.imm24 = 0 then some (.waitt r.guard j) else none
      | _ => none)
    (fun mj vr (g, j) => eFields mj vr g (edest (some j) none) 0 0 0) (fun _ => True) (fun (g, j) => .waitt g j) := by
  intro r i
  simp only [Prod.exists, eFields, Raw.mk_eq_iff, zero_eq_iff, Guard.code_eq_iff, edest_eq_iff, and_assoc, imm24_eq_iff]
  split <;> simp_all [and_assoc]

/-- IMM chooses the field that LREC.SET writes (16:R329). -/
theorem lrecSet_sound : Sound 0x6A 1 fun r =>
    match r.imm.toNat with
    | 0 => s3 some (fun g a b c _ => .lrecSetGrid g a b c) r
    | 1 => s3 some (fun g a b c _ => .lrecSetCourse g a b c) r
    | 2 => s1 some (fun g a _ => .lrecSetClass g a) r
    | 3 => s1 some (fun g a _ => .lrecSetCounter g a) r
    | _ => none := by
  intro r i hm hv _ hr
  dsimp only at hr
  split at hr
  next h =>
    exact (s3_parses reads_some).sound_on (D := fun r => r.imm.toNat = 0) (fun ⟨g, x, y, z, m⟩ ⟨_, hx⟩ e => by
      obtain rfl : m = 0 := BitVec.eq_of_toNat_eq e
      exact ⟨hx, rfl⟩) r i hm hv h hr
  next h =>
    exact (s3_parses reads_some).sound_on (D := fun r => r.imm.toNat = 1) (fun ⟨g, x, y, z, m⟩ ⟨_, hx⟩ e => by
      obtain rfl : m = 1 := BitVec.eq_of_toNat_eq e
      exact ⟨hx, rfl⟩) r i hm hv h hr
  next h =>
    exact (s1_parses reads_some).sound_on (D := fun r => r.imm.toNat = 2) (fun ⟨g, x, m⟩ ⟨_, hx⟩ e => by
      obtain rfl : m = 2 := BitVec.eq_of_toNat_eq e
      exact ⟨hx, rfl⟩) r i hm hv h hr
  next h =>
    exact (s1_parses reads_some).sound_on (D := fun r => r.imm.toNat = 3) (fun ⟨g, x, m⟩ ⟨_, hx⟩ e => by
      obtain rfl : m = 3 := BitVec.eq_of_toNat_eq e
      exact ⟨hx, rfl⟩) r i hm hv h hr
  next => cases hr

/-- IMM chooses the form of STRM.PAGE (18:R361). -/
theorem strmPage_sound : Sound 0x6D 3 fun r =>
    match r.imm.toNat with
    | 0 => d2 some (fun g d a b _ => .strmPage g d a b) r
    | 1 => d3 some (fun g d a b c _ => .strmPageW g d a b c) r
    | 2 => d3 some (fun g d a b c _ => .strmPageC g d a b c) r
    | _ => none := by
  intro r i hm hv _ hr
  dsimp only at hr
  split at hr
  next h =>
    exact (d2_parses reads_some).sound_on (D := fun r => r.imm.toNat = 0) (fun ⟨g, d, x, y, m⟩ ⟨_, hx⟩ e => by
      obtain rfl : m = 0 := BitVec.eq_of_toNat_eq e
      exact ⟨hx, rfl⟩) r i hm hv h hr
  next h =>
    exact (d3_parses reads_some).sound_on (D := fun r => r.imm.toNat = 1) (fun ⟨g, d, x, y, z, m⟩ ⟨_, hx⟩ e => by
      obtain rfl : m = 1 := BitVec.eq_of_toNat_eq e
      exact ⟨hx, rfl⟩) r i hm hv h hr
  next h =>
    exact (d3_parses reads_some).sound_on (D := fun r => r.imm.toNat = 2) (fun ⟨g, d, x, y, z, m⟩ ⟨_, hx⟩ e => by
      obtain rfl : m = 2 := BitVec.eq_of_toNat_eq e
      exact ⟨hx, rfl⟩) r i hm hv h hr
  next => cases hr

/-- Case `h_k` is the `k`-th row of the class (03:R66). -/
theorem class3_sound (n : Nat) (v : BitVec 4) : Row n v (class3 n v) := by
  unfold class3
  split
  case h_1 | h_2 =>
    exact row_if fun hn => (r2_parses i24Copy_reads).sound fun ⟨g, t, w, x, y, m⟩ ⟨_, h⟩ =>
      ⟨and_of_true (decide_eq_true hn) h, rfl⟩
  case h_3 =>
    split
    case h_1 h | h_3 h | h_4 h => exact row_variant h (.noTok ((r0_parses i24Zero_reads).sound_on fun ⟨g, t, w, _⟩ _ hd => by
      cases edest_token hd
      exact ⟨rfl, rfl⟩))
    case h_2 h => exact row_variant h (.noTok ((r1_parses i24Zero_reads).sound_on fun ⟨g, t, w, x, _⟩ ⟨_, h⟩ hd => by
      cases edest_token hd
      exact ⟨h, rfl⟩))
    case h_5 => exact row_none
  case h_4 | h_16 => exact row_var0 ((e2_parses i24Zero_reads).sound fun ⟨g, t, x, y, _⟩ ⟨_, h⟩ => ⟨h, rfl⟩)
  case h_5 => exact row_var0 ((e1_parses i24Zero_reads).sound fun ⟨g, t, x, _⟩ ⟨_, h⟩ => ⟨h, rfl⟩)
  case h_6 =>
    exact row_if fun hn => (r2_parses i24Mc_reads).sound fun ⟨g, t, w, x, y, m⟩ ⟨_, h⟩ =>
      ⟨and_of_true (decide_eq_true hn) h, rfl⟩
  case h_7 =>
    exact row_byTy fun t ht => (r2_parses (i24Idx_reads false)).sound fun ⟨g, tk, w, x, y, m⟩ ⟨_, h⟩ => ⟨and_of_true ht h, rfl⟩
  case h_8 => exact row_byTy fun t ht => eScatter_sound ht
  case h_9 => exact row_map QFmt.reads fun f => (e1_parses i24Q_reads).sound fun ⟨g, t, x, m⟩ ⟨_, h⟩ => ⟨h, rfl⟩
  case h_10 => exact row_var0 (waitt_parses.sound fun ⟨g, j⟩ _ => ⟨rfl, rfl⟩)
  case h_11 =>
    split
    case h_1 h | h_3 h => exact row_variant h ((s2_parses immZero_reads).sound fun ⟨g, x, y, _⟩ ⟨_, h⟩ => ⟨h, rfl⟩)
    case h_2 h => exact row_variant h lrecSet_sound
    case h_4 => exact row_none
  case h_12 => exact row_var0 (e0_parses.sound fun ⟨g, t⟩ _ => ⟨rfl, rfl⟩)
  case h_13 =>
    exact row_var0 (.ite (E := fun r => r.dest = 0) ((e2_parses i24Zero_reads).sound_on fun ⟨g, t, x, y, _⟩ ⟨_, h⟩ hd => by
      cases edest_eq_zero hd.2
      exact ⟨h, rfl⟩) sound_none)
  case h_14 =>
    split
    case h_1 h => exact row_variant h ((d1_parses immZero_reads).sound fun ⟨g, d, x, _⟩ ⟨_, h⟩ => ⟨h, rfl⟩)
    case h_2 h | h_3 h => exact row_variant h ((d2_parses immZero_reads).sound fun ⟨g, d, x, y, _⟩ ⟨_, h⟩ => ⟨h, rfl⟩)
    case h_4 h => exact row_variant h strmPage_sound
    case h_5 => exact row_none
  case h_15 =>
    exact row_var0 (.ite (E := fun r => r.dest = 0) ((e1_parses i24Zero_reads).sound_on fun ⟨g, t, x, _⟩ ⟨_, h⟩ hd => by
      cases edest_eq_zero hd.2
      exact ⟨h, rfl⟩) sound_none)
  case h_17 | h_18 | h_19 =>
    exact row_map FTy.readsTy fun t => (e1_parses i24Zero_reads).sound fun ⟨g, tk, x, _⟩ ⟨_, h⟩ => ⟨h, rfl⟩
  case h_20 => exact row_none

/-! ### Class 4 (03:R67) -/

theorem mmaBp_wf {g tk c x y} {p : BitVec 4} {m : MmaMod} (hp : 2 ≤ p.toNat ∧ p.toNat ≤ 8) (hm : (m.sa.toNat % 8 == 0) = true)
    (h : noImm [x, y] = true) : (Instr.mmaBp g p tk c x y m).wf = true :=
  and_of_true (and_of_true (and_of_true (decide_eq_true hp.1) (decide_eq_true hp.2)) h) hm

theorem accPutAdd_imm {mj vr g dest a b} {m : BitVec 24} (h : (eFields mj vr g dest a b m).imm24 = 1) : m = 1 := by
  rw [← h]
  exact (BitVec.extractLsb'_append_extractLsb' (w := 8) (len := 16)).symm

/-- Case `h_k` is the `k`-th row of the class (03:R67). -/
theorem class4_sound (n : Nat) (v : BitVec 4) : Row n v (class4 n v) := by
  unfold class4
  split
  case h_1 | h_3 =>
    exact row_byTy fun t ht => (r2_parses MmaMod.reads).sound fun ⟨g, tk, c, x, y, m⟩ ⟨_, h⟩ => ⟨and_of_true ht h, rfl⟩
  case h_2 => exact row_map Semiring.reads fun sr => (r2_parses MmaMod.reads).sound fun ⟨g, tk, c, x, y, m⟩ ⟨_, h⟩ => ⟨h, rfl⟩
  case h_4 =>
    exact row_if fun hv => (r2_parses (MmaMod.reads.filter _)).sound fun ⟨g, tk, c, x, y, m⟩ ⟨hm, h⟩ => ⟨mmaBp_wf hv hm h, rfl⟩
  case h_5 => exact row_var0 ((r0_parses i24Zero_reads).sound fun ⟨g, tk, c, _⟩ _ => ⟨rfl, rfl⟩)
  case h_6 | h_7 =>
    exact row_byTy fun t ht => (r1_parses i24Acc_reads).sound fun ⟨g, tk, c, x, m⟩ ⟨_, h⟩ => ⟨and_of_true ht h, rfl⟩
  case h_8 =>
    exact row_byTy fun t ht => (r2_parses i24Scale_reads).sound fun ⟨g, tk, c, x, y, m⟩ ⟨_, h⟩ => ⟨and_of_true ht h, rfl⟩
  case h_9 => exact row_var0 ((r0_parses i24Src_zero_reads).sound fun ⟨g, tk, c, m⟩ _ => ⟨rfl, rfl⟩)
  case h_10 =>
    exact row_var0 (.ite (E := fun r => r.imm24.getLsbD 3 = true)
      ((r0_parses i24Src_reads).sound fun ⟨g, tk, c, m⟩ _ => ⟨rfl, rfl⟩)
      ((r0_parses i24Src_zero_reads).sound fun ⟨g, tk, c, m⟩ _ => ⟨rfl, rfl⟩))
  case h_11 =>
    exact row_byTy fun t ht => .noTok ((r1_parses i24Zero_reads).sound_on fun ⟨g, tk, c, x, _⟩ ⟨_, h⟩ hd => by
      cases edest_token hd
      exact ⟨and_of_true ht h, rfl⟩)
  case h_12 =>
    refine row_byTy fun t ht => .noTok (.ite (E := fun r => r.imm24 = 1) ?_ ?_)
    · exact (r2_parses reads_some).sound_on fun ⟨g, tk, c, x, y, m⟩ ⟨_, h⟩ hd => by
        cases edest_token hd.1
        obtain rfl := accPutAdd_imm hd.2
        exact ⟨and_of_true ht h, rfl⟩
    · exact (r2_parses i24Zero_reads).sound_on fun ⟨g, tk, c, x, y, _⟩ ⟨_, h⟩ hd => by
        cases edest_token hd.1
        exact ⟨and_of_true ht h, rfl⟩
  case h_13 => exact row_none

/-! ### Class 5 (03:R68) -/

/-- Case `h_k` is the `k`-th row of the class (03:R68). -/
theorem class5_sound (n : Nat) (v : BitVec 4) : Row n v (class5 n v) := by
  unfold class5
  split
  case h_1 =>
    split
    case h_1 h | h_2 h =>
      exact row_variant h (vReorder_parses.sound fun ⟨g, x, base, mask⟩ ⟨hx, hb⟩ => ⟨and_of_true hx hb, rfl⟩)
    case h_3 => exact row_none
  case h_2 => exact row_var0 ((d1_parses immZero_reads).sound fun ⟨g, d, x, _⟩ ⟨_, h⟩ => ⟨h, rfl⟩)
  case h_3 | h_4 => exact row_var0 ((d0_parses immZero_reads).sound fun ⟨g, d, _⟩ _ => ⟨rfl, rfl⟩)
  case h_5 => exact row_none

/-! ### Class 6 (03:R69) -/

theorem call_parses : Parses (α := Guard × Dest × BitVec 40)
    (fun r => (Dest.parse r.dest).map fun d => .call r.guard d r.imm40)
    (fun mj vr (g, d, v) => lFields mj vr g d.code v) (fun _ => True) (fun (g, d, v) => .call g d v) := by
  intro r i
  simp [lFields_eq_iff, Dest.code_eq_iff, and_comm]

theorem split_parses : Parses (α := Guard × PRef × BitVec 40)
    (fun r => if r.dest.extractLsb' 4 4 = 0 then some (.split r.guard (PRef.parse (r.dest.extractLsb' 0 4)) r.imm40) else none)
    (fun mj vr (g, p, v) => lFields mj vr g ((0 : BitVec 4) ++ p.code) v) (fun _ => True) (fun (g, p, v) => .split g p v) := by
  intro r i
  have hd (p : PRef) : (0 : BitVec 4) ++ p.code = r.dest ↔ r.dest.extractLsb' 4 4 = 0 ∧
    PRef.parse (r.dest.extractLsb' 0 4) = p := by
    rw [append_eq_iff, PRef.parse_eq, eq_comm]
  simp only [Prod.exists, lFields_eq_iff, hd]
  simp

theorem join_parses : Parses (α := Guard) (fun r => if r.imm40 = 0 then l0 (fun g _ => .join g) r else none)
    (fun mj vr g => lFields mj vr g 0 0) (fun _ => True) .join := by
  intro r i
  simp only [l0, lFields_eq_iff, zero_eq_iff]
  split <;> simp_all

/-- Bit 0 of IMM chooses ERET.SKIP (14:R294). -/
theorem eret_sound : Sound 0xCE 0 (s0 (immLow 1) fun g m => if m = 0 then .eret g else .eretSkip g) := by
  refine (s0_parses (immLow_reads (by decide))).sound fun ⟨g, m⟩ _ => ?_
  obtain rfl | rfl := (by decide : ∀ m : BitVec 1, m = 0 ∨ m = 1) m
  · exact ⟨rfl, rfl⟩
  · exact ⟨rfl, rfl⟩

/-- Case `h_k` is the `k`-th row of the class (03:R69). -/
theorem class6_sound (n : Nat) (v : BitVec 4) : Row n v (class6 n v) := by
  unfold class6
  split
  case h_1 | h_9 | h_10 | h_11 | h_21 => exact row_var0 ((s0_parses immZero_reads).sound fun ⟨g, _⟩ _ => ⟨rfl, rfl⟩)
  case h_2 => exact row_var0 (l0_parses.sound fun ⟨g, v⟩ _ => ⟨rfl, rfl⟩)
  case h_3 | h_6 => exact row_var0 ((s1_parses immZero_reads).sound fun ⟨g, x, _⟩ ⟨_, h⟩ => ⟨h, rfl⟩)
  case h_4 => exact row_var0 (call_parses.sound fun ⟨g, d, v⟩ _ => ⟨rfl, rfl⟩)
  case h_5 => exact row_var0 ((d1_parses immZero_reads).sound fun ⟨g, d, x, _⟩ ⟨_, h⟩ => ⟨h, rfl⟩)
  case h_7 => exact row_var0 (split_parses.sound fun ⟨g, p, v⟩ _ => ⟨rfl, rfl⟩)
  case h_8 => exact row_var0 (join_parses.sound fun g _ => ⟨rfl, rfl⟩)
  case h_12 | h_13 | h_14 => exact row_var0 (lTrap_parses.sound fun ⟨g, n⟩ _ => ⟨rfl, rfl⟩)
  case h_15 => exact row_var0 eret_sound
  case h_16 | h_18 =>
    exact row_byBar fun b => (s1_parses (barRef_reads b)).sound fun ⟨g, x, b⟩ ⟨hb, hx⟩ => ⟨hx, by rw [← eq_of_beq hb]; rfl⟩
  case h_17 | h_20 =>
    exact row_byBar fun b => (d0_parses (barRef_reads b)).sound fun ⟨g, d, b⟩ hb => ⟨rfl, by rw [← eq_of_beq hb]; rfl⟩
  case h_19 => exact row_byBar fun b => (s0_parses (barRef_reads b)).sound fun ⟨g, b⟩ hb => ⟨rfl, by rw [← eq_of_beq hb]; rfl⟩
  case h_22 => exact row_var0 ((d2_parses immZero_reads).sound fun ⟨g, d, x, y, _⟩ ⟨_, h⟩ => ⟨h, rfl⟩)
  case h_23 => exact row_var0 ((d0_parses immZero_reads).sound fun ⟨g, d, _⟩ _ => ⟨rfl, rfl⟩)
  case h_24 => exact row_none

/-! ### Class 7 (03:R70) -/

/-- MOVS reads %rx by its own row, the other registers by number (06:R135). -/
theorem vMovs_sound : Sound 0xE0 0 vMovs := by
  have rx : Sound 0xE0 0 (d0 (immSr 0x34 0x37) .movsRx) :=
    (d0_parses (immSr_reads (by decide))).sound fun ⟨g, d, x⟩ _ => ⟨rfl, rfl⟩
  have other : Sound 0xE0 0 (d0 (fun v => (immLow 10 v).filter movsOk) .movs) :=
    (d0_parses ((immLow_reads (by decide)).filter _)).sound fun ⟨g, d, x⟩ hx => ⟨hx, rfl⟩
  intro r i hm hv hD hr
  unfold vMovs at hr
  split at hr
  next h => exact Option.some.inj hr ▸ rx r _ hm hv hD h
  next => exact other r i hm hv hD hr

/-- MOVSP writes %tx by its own row, the other registers by number (06:R135). -/
theorem vMovsp_sound : Sound 0xE1 0 vMovsp := by
  have tx : Sound 0xE1 0 (s1 (immSr 0x30 0x33) fun g a x => .movspTx g x a) :=
    (s1_parses (immSr_reads (by decide))).sound fun ⟨g, a, x⟩ ⟨_, ha⟩ => ⟨ha, rfl⟩
  have other : Sound 0xE1 0 (s1 (fun v => (immLow 10 v).filter movspOk) fun g a x => .movsp g x a) :=
    (s1_parses ((immLow_reads (by decide)).filter _)).sound fun ⟨g, a, x⟩ ⟨hx, ha⟩ => ⟨and_of_true hx ha, rfl⟩
  intro r i hm hv hD hr
  unfold vMovsp at hr
  split at hr
  next h => exact Option.some.inj hr ▸ tx r _ hm hv hD h
  next => exact other r i hm hv hD hr

/-- Case `h_k` is the `k`-th row of the class (03:R70). -/
theorem class7_sound (n : Nat) (v : BitVec 4) : Row n v (class7 n v) := by
  unfold class7
  split
  case h_1 => exact row_var0 vMovs_sound
  case h_2 => exact row_var0 vMovsp_sound
  case h_3 | h_9 => exact row_var0 ((d0_parses (immLow_reads (by decide))).sound fun ⟨g, d, n⟩ _ => ⟨rfl, rfl⟩)
  case h_4 | h_7 => exact row_var0 ((s1_parses (immLow_reads (by decide))).sound fun ⟨g, x, n⟩ ⟨_, h⟩ => ⟨h, rfl⟩)
  case h_5 => exact row_var0 ((d1_parses (immLow_reads (by decide))).sound fun ⟨g, d, x, n⟩ ⟨_, h⟩ => ⟨h, rfl⟩)
  case h_6 => exact row_var0 ((d0_parses (imm4_reads.filter _)).sound fun ⟨g, d, u⟩ hu => ⟨hu, rfl⟩)
  case h_8 => exact row_var0 ((s0_parses (immLow_reads (by decide))).sound fun ⟨g, n⟩ _ => ⟨rfl, rfl⟩)
  case h_10 => exact row_none

/-! ### The opcode map -/

theorem opcodeMap_sound (mj : BitVec 8) (v : BitVec 4) : Row mj.toNat v (opcodeMap mj v) := by
  unfold opcodeMap
  split
  · exact class0_sound _ v
  · exact class1_sound _ v
  · exact class2_sound _ v
  · exact class3_sound _ v
  · exact class4_sound _ v
  · exact class5_sound _ v
  · exact class6_sound _ v
  · exact class7_sound _ v

theorem decodeRaw_ok_iff {r : Raw} {i : Instr} : decodeRaw r = .ok i ↔ ∃ p, opcodeMap r.maj r.var = some p ∧ p r = some i := by
  unfold decodeRaw
  split
  next h => simp [h]
  next p h => split <;> simp_all

/-- What is decoded fits the fields it was decoded from. -/
theorem fits_of_decodeRaw {r : Raw} {i : Instr} (h : decodeRaw r = .ok i) : i.Fits r := by
  obtain ⟨p, hm, hp⟩ := decodeRaw_ok_iff.1 h
  exact opcodeMap_sound r.maj r.var p hm r i (by simp) (by simp) trivial hp

/-- An instruction with an encoding is the code NOP or has fields that it fits. -/
theorem encode_eq_some_iff {i : Instr} {n w : Nat} : encode i = some (n, w) ↔
    (i = .nopCode ∧ n = 16 ∧ w = 0xFFFF) ∨ ∃ r, encodeRaw i = some r ∧ n = 64 ∧ w = r.toWord.toNat := by
  unfold encode
  split
  next =>
    have none : encodeRaw .nopCode = none := rfl
    simp [none, eq_comm]
  next h => simp_all [eq_comm]

end Sys2Proof

open Sys2Proof

/-- Settles O2: each row of the opcode map reads only the fields that the encoder writes. -/
theorem decodedWordsEncodeBack : Obligations.DecodedWordsEncodeBack := by
  unfold Obligations.DecodedWordsEncodeBack
  intro w i h
  obtain ⟨wf, fields⟩ := fits_of_decodeRaw h
  exact ⟨wf, encode_eq_some_iff.2 (.inr ⟨_, fields, rfl, congrArg BitVec.toNat (Raw.toWord_eq_iff.2 rfl).symm⟩)⟩

end

section
/-! Encoding loses nothing: the decoder reads a well-formed instruction back from its fields (03:R54-R71). -/

namespace Sys2Proof

theorem byTy_code {t : Ty} {ts : List Ty} {p : Ty → Raw → Option Instr} (ht : ts.contains t = true) :
    byTy (BitVec.ofNat 4 t.code.toNat) ts p = some (p t) := by
  have h : Ty.parse t.code = some t := Ty.reads.parse_code rfl
  simp [byTy, Ty.parseIn, h, List.contains_iff_mem.1 ht]

theorem edest_none_token (t : Tok) : (edest none t).getLsbD 7 = false := by
  cases t with
  | none => rfl
  | some w => exact (by decide : ∀ w : BitVec 3, (edest none (some w)).getLsbD 7 = false) w

theorem stTys_of_add {t : Ty} (h : [Ty.z32, .s64].contains t = true) : stTys.contains t = true := by
  revert h
  cases t <;> decide

theorem movi_ty {g t d v} (h : (Instr.movi g t d v).wf = true) : [Ty.z32, .s32, .s64, .a56].contains t = true := by
  have h : ([Ty.s64, .a56].contains t || ([Ty.z32, .s32].contains t && decide (v.toNat < 2 ^ 32))) = true := h
  cases t <;> simp at h ⊢

theorem noTok_none {p : Raw → Option Instr} {r : Raw} {t : Tok} (h : r.dest = edest none t) : noTok p r = p r := by
  rw [noTok, h, edest_none_token]
  rfl

theorem imm24_mk {mj vr gd dest a b} {m : BitVec 24} :
    (Raw.mk mj vr gd dest a b (m.extractLsb' 16 8) (m.extractLsb' 0 16)).imm24 = m :=
  BitVec.extractLsb'_append_extractLsb' (w := 8) (len := 16)

theorem idxImm_op {op : Bool} {base : BitVec 19} {sh : BitVec 3} {m : Bool} : (idxImm op base sh m).getLsbD 23 = op := by
  have h : i24Idx op (idxImm op base sh m) = some (base, sh, m) := (i24Idx_reads op).parse_code (m := (base, sh, m)) rfl
  exact (Option.ite_none_right_eq_some.1 h).1

theorem accCvt_imm : ∀ s : BitVec 3, ¬ (s.setWidth 24).getLsbD 3 = true ∧ (BitVec.ofNat 21 1 ++ s).getLsbD 3 = true := by decide

theorem immSr_below {lo hi : Nat} {v : BitVec 16} (h : v.toNat < lo) : immSr lo hi v = none := if_neg (by omega)

theorem vMovs_rx {r : Raw} {i : Instr} (h : d0 (immSr 0x34 0x37) .movsRx r = some i) : vMovs r = some i := by
  rw [vMovs, h]

theorem vMovs_number {r : Raw} (h : r.imm.toNat < 0x34) :
    vMovs r = d0 (fun v => (immLow 10 v).filter movsOk) .movs r := by
  have hn : d0 (immSr 0x34 0x37) .movsRx r = none := by
    unfold d0
    rw [immSr_below h]
    split <;> simp_all
  rw [vMovs, hn]

theorem vMovsp_tx {r : Raw} {i : Instr} (h : s1 (immSr 0x30 0x33) (fun g a x => .movspTx g x a) r = some i) :
    vMovsp r = some i := by
  rw [vMovsp, h]

theorem vMovsp_number {r : Raw} (h : r.imm.toNat < 0x30) :
    vMovsp r = s1 (fun v => (immLow 10 v).filter movspOk) (fun g a x => .movsp g x a) r := by
  have hn : s1 (immSr 0x30 0x33) (fun g a x => .movspTx g x a) r = none := by
    unfold s1 d1
    rw [immSr_below h]
    split <;> [split <;> simp_all; rfl]
  rw [vMovsp, hn]

theorem zx_lt {x : BitVec 10} {n : Nat} (h : x.toNat < n) : (zx x).toNat < n := by
  rwa [zx, BitVec.toNat_setWidth_of_le (by decide)]

theorem movsOk_lt {x : BitVec 10} (h : movsOk x = true) : x.toNat < 0x34 := by
  simp [movsOk] at h
  omega

theorem movspOk_lt {x : BitVec 10} (h : movspOk x = true) : x.toNat < 0x30 := by
  simp [movspOk] at h
  omega

theorem addsc_imm : ∀ s : BitVec 3, zx ((0 : BitVec 1) ++ s) = zx s ∧ ¬ ((0 : BitVec 1) ++ s).getLsbD 3 = true := by decide

theorem addscW_imm : ∀ s : BitVec 3, ((1 : BitVec 1) ++ s).getLsbD 3 = true := by decide

/-- The fields of an instruction decode to it when the parser of their row reads it from them. -/
theorem decodes {mj vr : Nat} {gd dest a b c imm} {r : Raw} {p : Raw → Option Instr} {i : Instr}
    (he : some ⟨BitVec.ofNat 8 mj, BitVec.ofNat 4 vr, gd, dest, a, b, c, imm⟩ = some r)
    (hm : opcodeMap (BitVec.ofNat 8 mj) (BitVec.ofNat 4 vr) = some p)
    (hp : p ⟨BitVec.ofNat 8 mj, BitVec.ofNat 4 vr, gd, dest, a, b, c, imm⟩ = some i) : decodeRaw r = .ok i := by
  cases he
  exact decodeRaw_ok_iff.2 ⟨p, hm, hp⟩

/-- The same where the row has the variant's bits for a field. -/
theorem decodes_variant {mj : Nat} {v : BitVec 4} {gd dest a b c imm} {r : Raw} {p : Raw → Option Instr} {i : Instr}
    (he : some ⟨BitVec.ofNat 8 mj, BitVec.ofNat 4 v.toNat, gd, dest, a, b, c, imm⟩ = some r)
    (hm : opcodeMap (BitVec.ofNat 8 mj) v = some p) (hp : p ⟨BitVec.ofNat 8 mj, v, gd, dest, a, b, c, imm⟩ = some i) :
    decodeRaw r = .ok i := by
  rw [BitVec.ofNat_toNat, BitVec.setWidth_eq] at he
  cases he
  exact decodeRaw_ok_iff.2 ⟨p, hm, hp⟩

/-- An instruction decodes from the fields that it fits, each constructor through the parser of its form. -/
theorem decodeRaw_of_fits {i : Instr} {r : Raw} (h : i.Fits r) : decodeRaw r = .ok i := by
  obtain ⟨wf, he⟩ := h
  cases i with
  | add g t d a b imm | sub g t d a b imm | mul g t d a b imm | mulhi g t d a b imm | mulw g t d a b imm
  | addSat g t d a b imm | subSat g t d a b imm | min g t d a b imm | max g t d a b imm | and g t d a b imm
  | or g t d a b imm | xor g t d a b imm | shl g t d a b imm | shr g t d a b imm | sar g t d a b imm | rotl g t d a b imm
  | bfx g t d a b imm =>
    obtain ⟨ht, h⟩ := Bool.and_eq_true_iff.1 wf
    exact decodes he (byTy_code ht) ((v2_parses _ _).2 ⟨(g, d, a, b, imm), rfl, h, rfl⟩)
  | mad g t d a b c imm | bfi g t d a b c imm =>
    obtain ⟨ht, h⟩ := Bool.and_eq_true_iff.1 wf
    exact decodes he (byTy_code ht) ((v3_parses _ _).2 ⟨(g, d, a, b, c, imm), rfl, h, rfl⟩)
  | abs g t d a imm | not g t d a imm | popc g t d a imm | clz g t d a imm | brev g t d a imm | mov g t d a imm =>
    obtain ⟨ht, h⟩ := Bool.and_eq_true_iff.1 wf
    exact decodes he (byTy_code ht) ((v1_parses _ _).2 ⟨(g, d, a, imm), rfl, h, rfl⟩)
  | sel g t d a b p =>
    obtain ⟨ht, h⟩ := Bool.and_eq_true_iff.1 wf
    exact decodes he (byTy_code ht) ((d2_parses pImm_reads _ _).2 ⟨(g, d, a, b, p), rfl, ⟨rfl, h⟩, rfl⟩)
  | cmp g t cc pd a b imm =>
    obtain ⟨ht, h⟩ := Bool.and_eq_true_iff.1 wf
    refine decodes he (byTy_code ht) ((pCmp_parses _ _).2 ⟨(g, cc.code, pd, a, b, imm), rfl, h, ?_⟩)
    exact congrArg (Instr.cmp g t · pd a b imm) (ICond.parse_eq.2 rfl)
  | movi g t d v =>
    have ht : [Ty.z32, .s32, .s64, .a56].contains t = true := movi_ty wf
    exact decodes he (byTy_code ht) ((lMovi_parses _ _).2 ⟨(g, d, v), rfl, wf, rfl⟩)
  | addsc g d a b s =>
    refine decodes he rfl ((d2_parses imm4_reads _ _).2
      ⟨(g, d, a, b, (0 : BitVec 1) ++ s), congrArg (Raw.mk _ _ _ _ _ _ _) (addsc_imm s).1, ⟨rfl, wf⟩, ?_⟩)
    exact (if_neg (addsc_imm s).2).trans (congrArg _ BitVec.extractLsb'_append_eq_right)
  | addscW g d a b s =>
    refine decodes he rfl ((d2_parses imm4_reads _ _).2 ⟨(g, d, a, b, (1 : BitVec 1) ++ s), rfl, ⟨rfl, wf⟩, ?_⟩)
    exact (if_pos (addscW_imm s)).trans (congrArg _ BitVec.extractLsb'_append_eq_right)
  | voteBallot g d p =>
    exact decodes he rfl ((d0_parses pImm_reads _ _).2 ⟨(g, d, p), rfl, rfl, rfl⟩)
  | voteAny g pd p | voteAll g pd p =>
    exact decodes he rfl ((pVote_parses _ _).2 ⟨(g, pd, p), rfl, trivial, rfl⟩)
  | voteLeadeq g pd a =>
    exact decodes he rfl ((pLeadeq_parses _ _).2 ⟨(g, pd, a), rfl, wf, rfl⟩)
  | plopAnd g pd p q | plopOr g pd p q | plopXor g pd p q | plopAndn g pd p q =>
    exact decodes he rfl ((pPlop_parses _ _).2 ⟨(g, pd, p, q), rfl, trivial, rfl⟩)
  | movemGet g d | movemGetfm g d | movemGetp g d | riddleStat g d | seatmap g d | leadRd g d =>
    exact decodes he rfl ((d0_parses immZero_reads _ _).2 ⟨(g, d, ()), rfl, rfl, rfl⟩)
  | movemSet g d a | bpack g d a | strmStat g d a | reorderCount g d a | callx g d a =>
    exact decodes he rfl ((d1_parses immZero_reads _ _).2 ⟨(g, d, a, ()), rfl, ⟨rfl, wf⟩, rfl⟩)
  | movemSetp g a | mirrorSync g a | brx g a | ret g a =>
    exact decodes he rfl ((s1_parses immZero_reads _ _).2 ⟨(g, a, ()), rfl, ⟨rfl, wf⟩, rfl⟩)
  | addF g t m d a b imm | subF g t m d a b imm | mulF g t m d a b imm =>
    cases t <;> cases m <;>
      exact decodes he rfl ((v2_parses _ _).2 ⟨(g, d, a, b, imm), rfl, wf, rfl⟩)
  | fma g t m d a b c imm =>
    cases t <;> cases m <;>
      exact decodes he rfl ((v3_parses _ _).2 ⟨(g, d, a, b, c, imm), rfl, wf, rfl⟩)
  | rint g t m d a imm =>
    cases t <;> cases m <;>
      exact decodes he rfl ((v1_parses _ _).2 ⟨(g, d, a, imm), rfl, wf, rfl⟩)
  | minF g t d a b imm | maxF g t d a b imm =>
    cases t <;>
      exact decodes he rfl ((if_pos rfl).trans ((v2_parses _ _).2 ⟨(g, d, a, b, imm), rfl, wf, rfl⟩))
  | absF g t d a imm | neg g t d a imm | rcp g t d a imm | rsq g t d a imm | sqrt g t d a imm | ex2 g t d a imm
  | lg2 g t d a imm | frc g t d a imm =>
    cases t <;>
      exact decodes he rfl ((if_pos rfl).trans ((v1_parses _ _).2 ⟨(g, d, a, imm), rfl, wf, rfl⟩))
  | cmpF g t cc pd a b imm =>
    cases t <;> cases cc <;>
      exact decodes he rfl ((if_pos rfl).trans ((pCmp_parses _ _).2 ⟨(g, _, pd, a, b, imm), rfl, wf, rfl⟩))
  | cvt g d a m =>
    obtain ⟨hm, h⟩ := Bool.and_eq_true_iff.1 wf
    exact decodes he rfl ((d1_parses CvtMod.reads _ _).2 ⟨(g, d, a, m), rfl, ⟨hm, h⟩, rfl⟩)
  | cvtX2 g d a b m =>
    obtain ⟨hm, hw⟩ := Bool.and_eq_true_iff.1 wf
    obtain ⟨hm, h⟩ := Bool.and_eq_true_iff.1 hm
    exact decodes he rfl ((d2_parses (CvtMod.reads.filter _) _ _).2 ⟨(g, d, a, b, m), rfl, ⟨and_of_true hm hw, h⟩, rfl⟩)
  | packB16X2 g d a b imm | packB32X2 g d a b imm =>
    exact decodes he rfl ((v2_parses _ _).2 ⟨(g, d, a, b, imm), rfl, wf, rfl⟩)
  | unpkLo16 g d a imm | unpkHi16 g d a imm | unpkHi32 g d a imm =>
    exact decodes he rfl ((v1_parses _ _).2 ⟨(g, d, a, imm), rfl, wf, rfl⟩)
  | swzb g d a b c imm =>
    exact decodes he rfl ((v3_parses _ _).2 ⟨(g, d, a, b, c, imm), rfl, wf, rfl⟩)
  | bpext g d a p =>
    obtain ⟨h2, h8⟩ := Bool.and_eq_true_iff.1 wf
    obtain ⟨h, h2⟩ := Bool.and_eq_true_iff.1 h2
    exact decodes he rfl ((d1_parses (imm4_reads.filter _) _ _).2 ⟨(g, d, a, p), rfl, ⟨and_of_true rfl (and_of_true h2 h8), h⟩,
      rfl⟩)
  | ld g t d a off | ldRo g t d a off =>
    obtain ⟨ht, h⟩ := Bool.and_eq_true_iff.1 wf
    exact decodes he (byTy_code ht) ((d1_parses immOff_reads _ _).2 ⟨(g, d, a, off), rfl, ⟨rfl, h⟩, rfl⟩)
  | ldAcq g t d a sc off =>
    obtain ⟨ht, h⟩ := Bool.and_eq_true_iff.1 wf
    exact decodes he (byTy_code ht) ((d1_parses immScOff_reads _ _).2 ⟨(g, d, a, sc, off), rfl, ⟨rfl, h⟩, rfl⟩)
  | st g t a b off | stMc g t a b off =>
    obtain ⟨ht, h⟩ := Bool.and_eq_true_iff.1 wf
    exact decodes he (byTy_code ht) ((s2_parses immOff_reads _ _).2 ⟨(g, a, b, off), rfl, ⟨rfl, h⟩, rfl⟩)
  | stRel g t a b sc off =>
    obtain ⟨ht, h⟩ := Bool.and_eq_true_iff.1 wf
    exact decodes he (byTy_code ht) ((s2_parses immScOff_reads _ _).2 ⟨(g, a, b, sc, off), rfl, ⟨rfl, h⟩, rfl⟩)
  | stP g t d a b off =>
    obtain ⟨ht, h⟩ := Bool.and_eq_true_iff.1 wf
    exact decodes he (byTy_code ht) ((d2_parses immOff_reads _ _).2 ⟨(g, d, a, b, off), rfl, ⟨rfl, h⟩, rfl⟩)
  | lds g t d a imm | ldc g t d a imm =>
    obtain ⟨ht, h⟩ := Bool.and_eq_true_iff.1 wf
    exact decodes he (byTy_code ht) ((kLd_parses _ _).2 ⟨(g, d, a, imm), rfl, h, rfl⟩)
  | sts g t a b imm | stc g t a b imm =>
    obtain ⟨ht, h⟩ := Bool.and_eq_true_iff.1 wf
    exact decodes he (byTy_code ht) ((kSt_parses _ _).2 ⟨(g, a, b, imm), rfl, h, rfl⟩)
  | fenceAcq g sc | fenceRel g sc | fenceFull g sc =>
    exact decodes he rfl ((s0_parses immSc_reads _ _).2 ⟨(g, sc), rfl, rfl, rfl⟩)
  | fenceAck g | nop g | exit g | kill g | yield g | phase g =>
    exact decodes he rfl ((s0_parses immZero_reads _ _).2 ⟨(g, ()), rfl, rfl, rfl⟩)
  | pref g a l =>
    exact decodes he rfl ((s1_parses pref_reads _ _).2 ⟨(g, a, l), rfl, ⟨rfl, wf⟩, rfl⟩)
  | cctlInv g =>
    exact decodes he rfl ((s0_parses reads_some _ _).2 ⟨(g, 0x00), rfl, rfl, rfl⟩)
  | cctlInvro g =>
    exact decodes he rfl ((s0_parses reads_some _ _).2 ⟨(g, 0x20), rfl, rfl, rfl⟩)
  | cctlLine g a =>
    exact decodes he rfl ((s1_parses reads_some _ _).2 ⟨(g, a, 0x40), rfl, ⟨rfl, wf⟩, rfl⟩)
  | atomAdd g t d a b m | atomMin g t d a b m | atomMax g t d a b m | atomAnd g t d a b m | atomOr g t d a b m
  | atomXor g t d a b m | atomXchg g t d a b m =>
    obtain ⟨h, hm⟩ := Bool.and_eq_true_iff.1 wf
    obtain ⟨ht, h⟩ := Bool.and_eq_true_iff.1 h
    exact decodes he (byTy_code ht) ((d2_parses immAt_reads _ _).2 ⟨(g, d, a, b, m), rfl, ⟨hm, h⟩, rfl⟩)
  | atomCas g t d a b c m =>
    obtain ⟨h, hm⟩ := Bool.and_eq_true_iff.1 wf
    obtain ⟨ht, h⟩ := Bool.and_eq_true_iff.1 h
    exact decodes he (byTy_code ht) ((d3_parses immAt_reads _ _).2 ⟨(g, d, a, b, c, m), rfl, ⟨hm, h⟩, rfl⟩)
  | atomInc g d a b m =>
    obtain ⟨h, hm⟩ := Bool.and_eq_true_iff.1 wf
    exact decodes he rfl ((d2_parses immAt_reads _ _).2 ⟨(g, d, a, b, m), rfl, ⟨hm, h⟩, rfl⟩)
  | atomPush g d a b sc o =>
    obtain ⟨h, hm⟩ := Bool.and_eq_true_iff.1 wf
    exact decodes he rfl ((d2_parses immDq_reads _ _).2 ⟨(g, d, a, b, sc, o), rfl, ⟨hm, h⟩, rfl⟩)
  | atomPop g d a sc o | atomSteal g d a sc o =>
    obtain ⟨h, hm⟩ := Bool.and_eq_true_iff.1 wf
    exact decodes he rfl ((d1_parses immDq_reads _ _).2 ⟨(g, d, a, sc, o), rfl, ⟨hm, h⟩, rfl⟩)
  | redAdd g t a b m | redMin g t a b m | redMax g t a b m =>
    obtain ⟨h, hm⟩ := Bool.and_eq_true_iff.1 wf
    obtain ⟨ht, h⟩ := Bool.and_eq_true_iff.1 h
    exact decodes he (byTy_code ht) ((s2_parses immRed_reads _ _).2 ⟨(g, a, b, m), rfl, ⟨hm, h⟩, rfl⟩)
  | copy g t w sp n a b base | copyl g t w sp n a b base =>
    obtain ⟨hn, h⟩ := Bool.and_eq_true_iff.1 wf
    exact decodes_variant he (if_pos (of_decide_eq_true hn))
      ((r2_parses i24Copy_reads _ _).2 ⟨(g, t, w, a, b, sp, base), rfl, ⟨rfl, h⟩, rfl⟩)
  | wmarkRel g w | wmarkGet g w | wmarkGen g w =>
    exact decodes he rfl ((noTok_none rfl).trans ((r0_parses i24Zero_reads _ _).2 ⟨(g, none, w, ()), rfl, rfl, rfl⟩))
  | wmarkWaitg g w a =>
    exact decodes he rfl ((noTok_none rfl).trans ((r1_parses i24Zero_reads _ _).2 ⟨(g, none, w, a, ()), rfl, ⟨rfl, wf⟩, rfl⟩))
  | mcJoin g t a b | pgfree g t a b =>
    exact decodes he rfl ((e2_parses i24Zero_reads _ _).2 ⟨(g, t, a, b, ()), rfl, ⟨rfl, wf⟩, rfl⟩)
  | mcLeave g t a =>
    exact decodes he rfl ((e1_parses i24Zero_reads _ _).2 ⟨(g, t, a, ()), rfl, ⟨rfl, wf⟩, rfl⟩)
  | mcLd g t w n a b base grp =>
    obtain ⟨hn, h⟩ := Bool.and_eq_true_iff.1 wf
    exact decodes_variant he (if_pos (of_decide_eq_true hn))
      ((r2_parses i24Mc_reads _ _).2 ⟨(g, t, w, a, b, base, grp), rfl, ⟨rfl, h⟩, rfl⟩)
  | gather g t tk w a b base sh m =>
    obtain ⟨ht, h⟩ := Bool.and_eq_true_iff.1 wf
    exact decodes he (byTy_code ht) ((r2_parses (i24Idx_reads false) _ _).2 ⟨(g, tk, w, a, b, base, sh, m), rfl, ⟨rfl, h⟩, rfl⟩)
  | scatter g t tk a b base sh m =>
    obtain ⟨ht, h⟩ := Bool.and_eq_true_iff.1 wf
    exact decodes he (byTy_code ht) ((if_neg (by rw [imm24_mk, idxImm_op]; decide)).trans
      ((e2_parses (i24Idx_reads false) _ _).2 ⟨(g, tk, a, b, base, sh, m), rfl, ⟨rfl, h⟩, rfl⟩))
  | scatterAdd g t tk a b base sh m =>
    obtain ⟨ht, h⟩ := Bool.and_eq_true_iff.1 wf
    exact decodes he (byTy_code (stTys_of_add ht)) ((if_pos (by rw [imm24_mk, idxImm_op])).trans
      ((if_pos (by simpa using ht)).trans ((e2_parses (i24Idx_reads true) _ _).2 ⟨(g, tk, a, b, base, sh, m), rfl, ⟨rfl, h⟩,
        rfl⟩)))
  | quant g f t a s =>
    cases f <;>
      exact decodes he rfl ((e1_parses i24Q_reads _ _).2 ⟨(g, t, a, s), rfl, ⟨rfl, wf⟩, rfl⟩)
  | waitt g j =>
    exact decodes he rfl ((waitt_parses _ _).2 ⟨(g, j), rfl, trivial, rfl⟩)
  | lrecNew g a b | lrecWait g a b =>
    exact decodes he rfl ((s2_parses immZero_reads _ _).2 ⟨(g, a, b, ()), rfl, ⟨rfl, wf⟩, rfl⟩)
  | lrecSetGrid g a b c =>
    exact decodes he rfl ((s3_parses reads_some _ _).2 ⟨(g, a, b, c, 0), rfl, ⟨rfl, wf⟩, rfl⟩)
  | lrecSetCourse g a b c =>
    exact decodes he rfl ((s3_parses reads_some _ _).2 ⟨(g, a, b, c, 1), rfl, ⟨rfl, wf⟩, rfl⟩)
  | lrecSetClass g a =>
    exact decodes he rfl ((s1_parses reads_some _ _).2 ⟨(g, a, 2), rfl, ⟨rfl, wf⟩, rfl⟩)
  | lrecSetCounter g a =>
    exact decodes he rfl ((s1_parses reads_some _ _).2 ⟨(g, a, 3), rfl, ⟨rfl, wf⟩, rfl⟩)
  | launch g t =>
    exact decodes he rfl ((e0_parses _ _).2 ⟨(g, t), rfl, trivial, rfl⟩)
  | joinc g a b =>
    exact decodes he rfl ((if_pos rfl).trans ((e2_parses i24Zero_reads _ _).2 ⟨(g, none, a, b, ()), rfl, ⟨rfl, wf⟩, rfl⟩))
  | pgalloc g a =>
    exact decodes he rfl ((if_pos rfl).trans ((e1_parses i24Zero_reads _ _).2 ⟨(g, none, a, ()), rfl, ⟨rfl, wf⟩, rfl⟩))
  | strmCommit g d a b | strmReserve g d a b | monitor g d a b =>
    exact decodes he rfl ((d2_parses immZero_reads _ _).2 ⟨(g, d, a, b, ()), rfl, ⟨rfl, wf⟩, rfl⟩)
  | strmPage g d a b =>
    exact decodes he rfl ((d2_parses reads_some _ _).2 ⟨(g, d, a, b, 0), rfl, ⟨rfl, wf⟩, rfl⟩)
  | strmPageW g d a b c =>
    exact decodes he rfl ((d3_parses reads_some _ _).2 ⟨(g, d, a, b, c, 1), rfl, ⟨rfl, wf⟩, rfl⟩)
  | strmPageC g d a b c =>
    exact decodes he rfl ((d3_parses reads_some _ _).2 ⟨(g, d, a, b, c, 2), rfl, ⟨rfl, wf⟩, rfl⟩)
  | topk g t tk a | rhist g t tk a | biasadd g t tk a =>
    cases t <;>
      exact decodes he rfl ((e1_parses i24Zero_reads _ _).2 ⟨(g, tk, a, ()), rfl, ⟨rfl, wf⟩, rfl⟩)
  | mma g t tk c a b m | mmaSp g t tk c a b m =>
    obtain ⟨ht, h⟩ := Bool.and_eq_true_iff.1 wf
    exact decodes he (byTy_code ht) ((r2_parses MmaMod.reads _ _).2 ⟨(g, tk, c, a, b, m), rfl, ⟨rfl, h⟩, rfl⟩)
  | mmaSr g s tk c a b m =>
    cases s <;>
      exact decodes he rfl ((r2_parses MmaMod.reads _ _).2 ⟨(g, tk, c, a, b, m), rfl, ⟨rfl, wf⟩, rfl⟩)
  | mmaBp g p tk c a b m =>
    obtain ⟨h, hm⟩ := Bool.and_eq_true_iff.1 wf
    obtain ⟨hn, h⟩ := Bool.and_eq_true_iff.1 h
    obtain ⟨h2, h8⟩ := Bool.and_eq_true_iff.1 hn
    exact decodes_variant he (if_pos ⟨of_decide_eq_true h2, of_decide_eq_true h8⟩)
      ((r2_parses (MmaMod.reads.filter _) _ _).2 ⟨(g, tk, c, a, b, m), rfl, ⟨and_of_true rfl hm, h⟩, rfl⟩)
  | accZero g tk c =>
    exact decodes he rfl ((r0_parses i24Zero_reads _ _).2 ⟨(g, tk, c, ()), rfl, rfl, rfl⟩)
  | accMov g tk c s =>
    exact decodes he rfl ((r0_parses i24Src_zero_reads _ _).2 ⟨(g, tk, c, s), rfl, rfl, rfl⟩)
  | accCvtS32F32 g tk c s =>
    exact decodes he rfl ((if_neg (by rw [imm24_mk]; exact (accCvt_imm s).1)).trans
      ((r0_parses i24Src_zero_reads _ _).2 ⟨(g, tk, c, s), rfl, rfl, rfl⟩))
  | accCvtF32S32 g tk c s =>
    exact decodes he rfl ((if_pos (by rw [imm24_mk]; exact (accCvt_imm s).2)).trans
      ((r0_parses i24Src_reads _ _).2 ⟨(g, tk, c, s), rfl, rfl, rfl⟩))
  | accScale g t tk c s a b x y =>
    obtain ⟨ht, h⟩ := Bool.and_eq_true_iff.1 wf
    exact decodes he (byTy_code ht) ((r2_parses i24Scale_reads _ _).2 ⟨(g, tk, c, a, b, s, x, y), rfl, ⟨rfl, h⟩, rfl⟩)
  | accLd g t tk c a st sp | accSt g t tk c a st sp =>
    obtain ⟨ht, h⟩ := Bool.and_eq_true_iff.1 wf
    exact decodes he (byTy_code ht) ((r1_parses i24Acc_reads _ _).2 ⟨(g, tk, c, a, st, sp), rfl, ⟨rfl, h⟩, rfl⟩)
  | accGet g t c a =>
    obtain ⟨ht, h⟩ := Bool.and_eq_true_iff.1 wf
    exact decodes he (byTy_code ht) ((noTok_none rfl).trans
      ((r1_parses i24Zero_reads _ _).2 ⟨(g, none, c, a, ()), rfl, ⟨rfl, h⟩, rfl⟩))
  | accPut g t c a b =>
    obtain ⟨ht, h⟩ := Bool.and_eq_true_iff.1 wf
    exact decodes he (byTy_code ht) ((noTok_none rfl).trans
      ((if_neg (by rw [imm24_mk]; decide)).trans ((r2_parses i24Zero_reads _ _).2 ⟨(g, none, c, a, b, ()), rfl, ⟨rfl, h⟩,
        rfl⟩)))
  | accPutAdd g t c a b =>
    obtain ⟨ht, h⟩ := Bool.and_eq_true_iff.1 wf
    exact decodes he (byTy_code ht) ((noTok_none rfl).trans
      ((if_pos imm24_mk).trans ((r2_parses reads_some _ _).2 ⟨(g, none, c, a, b, 1), rfl, ⟨rfl, h⟩, rfl⟩)))
  | reorderPack g key base mask | reorderAlign g key base mask =>
    obtain ⟨hk, hb⟩ := Bool.and_eq_true_iff.1 wf
    exact decodes he rfl ((vReorder_parses _ _).2 ⟨(g, key, base, mask), rfl, ⟨hk, hb⟩, rfl⟩)
  | bra g v =>
    exact decodes he rfl ((l0_parses _ _).2 ⟨(g, v), rfl, trivial, rfl⟩)
  | call g d v =>
    exact decodes he rfl ((call_parses _ _).2 ⟨(g, d, v), rfl, trivial, rfl⟩)
  | split g p v =>
    exact decodes he rfl ((split_parses _ _).2 ⟨(g, p, v), rfl, trivial, rfl⟩)
  | join g =>
    exact decodes he rfl ((join_parses _ _).2 ⟨g, rfl, trivial, rfl⟩)
  | trap g n | sysc g n | brk g n =>
    exact decodes he rfl ((lTrap_parses _ _).2 ⟨(g, n), rfl, trivial, rfl⟩)
  | eret g =>
    exact decodes he rfl ((s0_parses (immLow_reads (by decide)) _ _).2 ⟨(g, 0), rfl, rfl, rfl⟩)
  | eretSkip g =>
    exact decodes he rfl ((s0_parses (immLow_reads (by decide)) _ _).2 ⟨(g, 1), rfl, rfl, rfl⟩)
  | barInit g x a | barWait g x a =>
    cases x <;>
      exact decodes he rfl ((s1_parses (barRef_reads _) _ _).2 ⟨(g, a, _), rfl, ⟨rfl, wf⟩, rfl⟩)
  | barArrive g x d | barPeek g x d =>
    cases x <;>
      exact decodes he rfl ((d0_parses (barRef_reads _) _ _).2 ⟨(g, d, _), rfl, rfl, rfl⟩)
  | barSync g x =>
    cases x <;>
      exact decodes he rfl ((s0_parses (barRef_reads _) _ _).2 ⟨(g, _), rfl, rfl, rfl⟩)
  | movs g d x =>
    exact decodes he rfl ((vMovs_number (zx_lt (movsOk_lt wf))).trans
      ((d0_parses ((immLow_reads (by decide)).filter _) _ _).2 ⟨(g, d, x), rfl, wf, rfl⟩))
  | movsRx g d x =>
    exact decodes he rfl (vMovs_rx ((d0_parses (immSr_reads (by decide)) _ _).2 ⟨(g, d, x), rfl, rfl, rfl⟩))
  | movsp g x a =>
    obtain ⟨hx, ha⟩ := Bool.and_eq_true_iff.1 wf
    exact decodes he rfl ((vMovsp_number (zx_lt (movspOk_lt hx))).trans
      ((s1_parses ((immLow_reads (by decide)).filter _) _ _).2 ⟨(g, a, x), rfl, ⟨hx, ha⟩, rfl⟩))
  | movspTx g x a =>
    exact decodes he rfl (vMovsp_tx ((s1_parses (immSr_reads (by decide)) _ _).2 ⟨(g, a, x), rfl, ⟨rfl, wf⟩, rfl⟩))
  | csrr g d n =>
    exact decodes he rfl ((d0_parses (immLow_reads (by decide)) _ _).2 ⟨(g, d, n), rfl, rfl, rfl⟩)
  | csrw g n a =>
    exact decodes he rfl ((s1_parses (immLow_reads (by decide)) _ _).2 ⟨(g, a, n), rfl, ⟨rfl, wf⟩, rfl⟩)
  | csrx g d n a =>
    exact decodes he rfl ((d1_parses (immLow_reads (by decide)) _ _).2 ⟨(g, d, a, n), rfl, ⟨rfl, wf⟩, rfl⟩)
  | scrubSt g d u =>
    exact decodes he rfl ((d0_parses (imm4_reads.filter _) _ _).2 ⟨(g, d, u), rfl, wf, rfl⟩)
  | txbind g r a =>
    exact decodes he rfl ((s1_parses (immLow_reads (by decide)) _ _).2 ⟨(g, a, r), rfl, ⟨rfl, wf⟩, rfl⟩)
  | txunbind g r =>
    exact decodes he rfl ((s0_parses (immLow_reads (by decide)) _ _).2 ⟨(g, r), rfl, rfl, rfl⟩)
  | rxpoll g d r =>
    exact decodes he rfl ((d0_parses (immLow_reads (by decide)) _ _).2 ⟨(g, d, r), rfl, rfl, rfl⟩)
  | _ => exact nomatch he

end Sys2Proof

open Sys2Proof

/-- Settles O1: each constructor's fields are read back by the parser of its row. -/
theorem encodedInstructionsDecode : Obligations.EncodedInstructionsDecode := by
  unfold Obligations.EncodedInstructionsDecode
  intro i n w wf he
  obtain ⟨rfl, rfl, rfl⟩ | ⟨r, hr, rfl, rfl⟩ := encode_eq_some_iff.1 he
  · rfl
  · have word : Raw.ofWord (BitVec.ofNat 64 r.toWord.toNat) = r := by
      rw [BitVec.ofNat_toNat, BitVec.setWidth_eq]
      exact (Raw.toWord_eq_iff.1 rfl).symm
    have fields : decodeWord (BitVec.ofNat 64 r.toWord.toNat) = .ok i := by
      rw [decodeWord, word]
      exact decodeRaw_of_fits ⟨wf, hr⟩
    rw [decodeTableWord, if_neg (by decide), fields]
    rfl

end

section
/-! The gangs' events (O50): operations that leave aside what a gang's record holds, the outcome of a trap's entry, and the fills of
the split stack (03:R72, 06:R124, R137, 14:R292, R296). -/

namespace Sys2Proof.Machine

open Sys2Proof

/-! ### Operations that leave a gang's record aside -/

/-- Once a gang's record is replaced after the operation, it makes no difference what the record was before. -/
def IgnoresRecords (f : State → State) : Prop :=
  ∀ (s : State) {g h : Gang}, g.gid = h.gid → (f (s.setGang h)).setGang g = (f s).setGang g

theorem IgnoresRecords.of_comm {f : State → State} (hf : ∀ s h, f (s.setGang h) = (f s).setGang h) : IgnoresRecords f := by
  intro s g h hid
  rw [hf, State.setGang_setGang _ hid]

theorem IgnoresRecords.id : IgnoresRecords fun s => s := .of_comm fun _ _ => rfl

theorem IgnoresRecords.comp {f f' : State → State} (hf : IgnoresRecords f) (hf' : IgnoresRecords f') :
    IgnoresRecords fun s => f' (f s) := by
  intro s g h hid
  calc (f' (f (s.setGang h))).setGang g = (f' ((f (s.setGang h)).setGang g)).setGang g := (hf' _ rfl).symm
    _ = (f' ((f s).setGang g)).setGang g := by rw [hf s hid]
    _ = (f' (f s)).setGang g := hf' _ rfl

theorem IgnoresRecords.foldl {α : Type} {f : State → α → State} (hf : ∀ x, IgnoresRecords (f · x)) (l : List α) :
    IgnoresRecords (l.foldl f) := by
  induction l with
  | nil => exact .id
  | cons x r ih => exact (hf x).comp ih

/-- A choice by what no gang's record decides. -/
theorem IgnoresRecords.ite {f f' : State → State} {c : State → Bool} (hc : ∀ s h, c (s.setGang h) = c s) (hf : IgnoresRecords f)
    (hf' : IgnoresRecords f') : IgnoresRecords fun s => if c s then f s else f' s := by
  intro s g h hid
  simp only [hc]
  cases c s with
  | true => exact hf s hid
  | false => exact hf' s hid

theorem State.slicePut_setGang (s : State) (h : Gang) (k l : Nat) : (s.setGang h).slicePut k l = (s.slicePut k l).setGang h := by
  simp only [State.slicePut]
  rw [apply_ite (State.setGang · h)]
  rfl

theorem State.makeRoom_setGang (s : State) (h : Gang) (k : Nat) : (s.setGang h).makeRoom k = (s.makeRoom k).setGang h := by
  simp only [State.makeRoom, State.setGang_slices, State.slicePut_setGang]
  split
  · split <;> rfl
  · rfl

theorem ignoresRecords_touchLine (foot pa : Nat) (w : Bool) : IgnoresRecords (·.touchLine foot pa w) := by
  refine .of_comm fun s h => ?_
  have miss (t : State) (k l : Nat) : (t.setGang h).miss k l = (t.miss k l).setGang h := rfl
  have dirty (t : State) (k l : Nat) : (t.setGang h).dirty k l = (t.dirty k l).setGang h := rfl
  have at_ : (s.setGang h).sliceAt foot pa = s.sliceAt foot pa := rfl
  have holds (k l : Nat) : (s.setGang h).holdsLine k l = s.holdsLine k l := rfl
  simp only [State.touchLine, at_, holds, State.setGang_slices, State.slicePut_setGang, State.makeRoom_setGang, miss,
    ← apply_ite (State.setGang · h), dirty]

theorem ignoresRecords_touch (foot pa n : Nat) (w : Bool) : IgnoresRecords (·.touch foot pa n w) :=
  .foldl (f := fun s i => s.touchLine foot (pa + 128 * i) w) (fun _ => ignoresRecords_touchLine _ _ _) _

/-- A change of every gang that keeps the ids meets the same gang as the replacement of its record. -/
theorem ignoresRecords_mapGangs {w : Gang → Gang} (hw : ∀ g, (w g).gid = g.gid) :
    IgnoresRecords fun s => { s with gangs := s.gangs.map w } := by
  intro s g h hid
  simp only [State.setGang, List.map_map]
  congr 1
  apply List.map_congr_left
  intro x _
  by_cases hx : x.gid = h.gid <;> simp [hx, hw, hid]

theorem ignoresRecords_wakeLines (foot : Option Nat) (pa n : Nat) : IgnoresRecords (·.wakeLines foot pa n) := by
  refine ignoresRecords_mapGangs fun g => ?_
  split
  · split <;> rfl
  · rfl

theorem ignoresRecords_putAll (pa : Nat) (bs : List Byte) : IgnoresRecords (·.putAll pa bs) := by
  have cleaned : IgnoresRecords (·.clean pa bs.length) := .of_comm fun _ _ => rfl
  have put : IgnoresRecords fun s => { s with
      foots := s.foots.map fun f => { f with mem := f.mem.write pa bs }
      writes := s.writes.map fun w => if w.order.isSome then
        { w with bytes := w.bytes.filter fun b => !(decide (pa ≤ b.1) && decide (b.1 < pa + bs.length)) } else w } :=
    .of_comm fun _ _ => rfl
  exact (cleaned.comp (ignoresRecords_wakeLines none pa bs.length)).comp put

theorem ignoresRecords_flitWrites (port : Nat) (xs : List Nat) : IgnoresRecords (·.flitWrites port xs) := by
  unfold State.flitWrites
  split
  · exact ignoresRecords_putAll _ _
  · exact .id

/-- The flit goes into the port's retry buffer and out. -/
theorem ignoresRecords_putFlit (port : Nat) (xs : List Nat) : IgnoresRecords (·.putFlit port xs) := by
  have sent : IgnoresRecords fun s => (s.setPeer port { vget s.peers port with
      nextseq := ((vget s.peers port).nextseq + 1) % 65536,
      buffer := (vget s.peers port).buffer ++ [((vget s.peers port).nextseq, xs)] }).send port
        ((vget s.peers port).nextseq :: (vget s.peers port).expect :: xs) := .of_comm fun _ _ => rfl
  exact (ignoresRecords_flitWrites port xs).comp sent

theorem ignoresRecords_sendFlit (port : Nat) (xs : List Nat) : IgnoresRecords (·.sendFlit port xs) := by
  have waits : IgnoresRecords fun s => s.setPeer port { vget s.peers port with outq := (vget s.peers port).outq ++ [xs] } :=
    .of_comm fun _ _ => rfl
  exact .ite (c := fun s => (vget s.peers port).ready) (fun _ _ => rfl) (ignoresRecords_putFlit port xs) waits

theorem ignoresRecords_goOut (part pa : Nat) (msg : Nat → List Nat) : IgnoresRecords fun s => s.goOut (s.linkOf part) pa msg := by
  intro s g h hid
  have target : (s.setGang h).target pa = s.target pa := rfl
  have link : (s.setGang h).linkOf part = s.linkOf part := rfl
  simp only [State.goOut, target, link]
  split
  · exact ignoresRecords_sendFlit _ _ s hid
  · rename_i off _
    exact State.setGang_setGang (s.send (8 + s.linkOf part) (msg off)) hid
  · exact IgnoresRecords.id s hid

theorem ignoresRecords_writeBeyond (part pa : Nat) (bs : List Byte) : IgnoresRecords (·.writeBeyond part pa bs) :=
  (IgnoresRecords.ite (c := fun s => (s.portOf pa).isSome) (fun _ _ => rfl) .id (ignoresRecords_putAll pa bs)).comp
    (.foldl (fun _ => ignoresRecords_goOut _ _ _) _)

theorem ignoresRecords_writeAll (part pa : Nat) (bs : List Byte) : IgnoresRecords (·.writeAll part pa bs) := by
  intro s g h hid
  have shut : (s.setGang h).portShut pa = s.portShut pa := rfl
  have cachable : (s.setGang h).cachable pa = s.cachable pa := rfl
  have home : (s.setGang h).homeFoot part pa = s.homeFoot part pa := rfl
  simp only [State.writeAll, shut, cachable, home]
  split
  · exact IgnoresRecords.foldl (f := fun s _ => s.discard ((s.portOf pa).getD 0)) (fun _ => .of_comm fun _ _ => rfl) _ s hid
  · split
    · exact ((ignoresRecords_putAll pa bs).comp (ignoresRecords_touch _ _ _ _)) s hid
    · exact ignoresRecords_writeBeyond part pa bs s hid

/-! ### An event that changes a gang's record occurs -/

/-- A state in which a gang's record has been replaced by another one holds the first one no more. -/
theorem State.gangOpt_setGang_ne (s : State) {g g' : Gang} (hid : g'.gid = g.gid) (hne : g' ≠ g) :
    (s.setGang g').gang? g.gid ≠ some g := by
  intro h
  obtain ⟨x, -, hx⟩ := List.mem_map.mp (List.mem_of_find?_eq_some h)
  split at hx
  · exact hne hx
  · rename_i hg
    exact hg (by rw [hx, hid])

theorem State.moved_setGang {s t : State} {g g' : Gang} (hid : g'.gid = g.gid) (hne : g' ≠ g) :
    s.moved g (.next (t.setGang g')) = .next (t.setGang g') :=
  if_neg fun h => t.gangOpt_setGang_ne hid hne h.1

/-! ### A clause decoded ahead (03:R72) -/

/-- A gang that stands before an issue without a decoded clause can decode it. -/
theorem State.decodable_ready {s : State} {g : Gang} (hb : s.blocked g = false) (hc : g.clause = []) (hp : g.pendfault = none)
    (ho : g.owed = []) (hw : g.wait = .ready ∨ g.wait = .stalled) : s.decodable g = true := by
  rcases hw with hw | hw <;> simp [State.decodable, hb, hc, hp, ho, hw]

theorem exec_clauseDecode {s t : State} {c p : Nat} {g g' : Gang} (hg : s.gangAt c p = some g) (hd : s.decodable g = true)
    (hc : s.decodeGang g = .got (t.setGang g', g')) (hid : g'.gid = g.gid) (hne : g' ≠ g) :
    exec (.clauseDecode c p) s = .next (t.setGang g') := by
  change execClauseDecode c p s = _
  simp only [execClauseDecode, hg, hd, hc, State.moved_setGang hid hne, Bool.not_true, Bool.false_eq_true, if_false]

/-! ### Transfers of the split stack (06:R123, R124) -/

/-- A departure of no lane replaces the gang's record alone. -/
theorem State.afterDepart_sameLive (s : State) {g g' : Gang} (h : g'.live = g.live) : s.afterDepart g g' = s.setGang g' := by
  have none_gone : g.originsOf (g.live &&& ~~~g'.live) = [] := by
    rw [h, BitVec.and_not_self]
    rfl
  have stays : ¬ (g'.live = 0 ∧ g.live ≠ 0) := by
    rw [h]
    exact fun x => x.2 x.1
  simp only [State.afterDepart, none_gone, List.foldl_nil, if_neg stays]

/-- The entries that memory gives back lie within the live lanes. -/
theorem SSEntry.ofMem_within (m : Memory) (pa : Nat) (live : Mask) : (SSEntry.ofMem m pa live).within live = SSEntry.ofMem m pa live := by
  simp [SSEntry.within, SSEntry.ofMem, BitVec.and_assoc]

/-- The gang with one more entry below its resident ones. -/
def Gang.refill (g : Gang) (e : SSEntry) : Gang := { g with stack := g.stack ++ [e] }

theorem Gang.fillNeeded_eq {g : Gang} {n : Nat} (hn : g.stack.length = n) (h : Nat) :
    g.fillNeeded h = if n < h ∧ n < g.depth then some (.fill (g.depth - n - 1)) else none := by
  rw [Gang.fillNeeded, hn]

/-- Where the gang has an active lane a fill only asks for the next one. -/
theorem Gang.filled_active {g : Gang} (h : g.em ≠ 0) (n : Nat) : g.filled n = { g with xfer := g.fillNeeded n } := by
  have resume : ({ g with xfer := none } : Gang).resume n = { g with xfer := none } := if_pos h
  simp only [Gang.filled, resume, Option.isSome_none, Bool.false_eq_true, if_false]
  rfl

/-- The entry on top has pending lanes: they are the active ones, and the gang goes on at the entry's continuation (06:R123). -/
theorem settle_pending {e : SSEntry} {live : Mask} (he : e.within live = e) (hp : e.pend ≠ 0) (r : List SSEntry) (depth : Nat) :
    settle live (e :: r) depth = ⟨e.pend, live, { e with pend := 0 } :: r, depth, some e.cont⟩ := by
  simp only [settle, he, if_pos hp]

/-- A gang of one resident entry, with pending lanes, resumes. -/
theorem Gang.resume_pending {g : Gang} {e : SSEntry} (hem : g.em = 0) (hs : g.stack = [e]) (he : e.within g.live = e)
    (hp : e.pend ≠ 0) (n : Nat) : g.resume n =
      ({ g with em := e.pend, stack := [{ e with pend := 0 }], xfer := g.fillNeeded n } : Gang).jump e.cont := by
  have live : g.live ≠ 0 := by
    intro h
    have pend : (e.within g.live).pend = 0 := by simp [SSEntry.within, h]
    exact hp (by rwa [he] at pend)
  have within : ({ e with pend := 0 } : SSEntry).within g.live = { e with pend := 0 } := by
    have fields : ({ e with pend := 0 } : SSEntry).within g.live = { e.within g.live with pend := 0 } := by simp [SSEntry.within]
    rw [fields, he]
  have next : g.fillNeeded n = ({ g with em := e.pend, stack := [{ e with pend := 0 }] } : Gang).fillNeeded n := by
    simp only [Gang.fillNeeded, hs, List.length_singleton]
  simp only [Gang.resume, hem, ne_eq, not_true_eq_false, if_false, hs, settle_pending he hp, List.map_cons, List.map_nil, within, next]
  exact if_neg live

theorem Gang.filled_pending {g : Gang} {e : SSEntry} (hem : g.em = 0) (hs : g.stack = [e]) (he : e.within g.live = e)
    (hp : e.pend ≠ 0) (n : Nat) : g.filled n =
      ({ g with em := e.pend, stack := [{ e with pend := 0 }], xfer := g.fillNeeded n } : Gang).jump e.cont := by
  have asked : ∀ j : Gang, j.fillNeeded n = j.xfer → (if j.xfer.isSome then j else { j with xfer := j.fillNeeded n }) = j := by
    intro j h
    rw [h, ite_self]
  simp only [Gang.filled, Gang.resume_pending (g := { g with xfer := none }) hem hs he hp]
  exact asked _ (by simp only [Gang.fillNeeded, Gang.jump, Gang.goto, hs, List.length_singleton])

/-- The gang whose split-stack transfer can complete: nothing holds it, and it waits for no walk. -/
structure State.Transfers (s : State) (c p : Nat) (g : Gang) (x : Xfer) : Prop where
  seat : s.gangAt c p = some g
  hold : g.hold = none
  walk : ∀ id, g.wait ≠ .walk id
  xfer : g.xfer = some x

theorem State.Transfers.spill {s : State} {c p d : Nat} {g : Gang} {e : SSEntry} {x : TlbEntry} (h : s.Transfers c p g (.spill e d))
    (hx : s.lookup c (s.asidOf g.brick.wall) (s.ovfVa g d) .write = some x)
    (hb : s.portBusy (x.phys (footOf c) (s.ovfVa g d)) = false) :
    exec (.splitStackTransfer c p) s = .next ((s.writeAll (s.gangPart g) (x.phys (footOf c) (s.ovfVa g d)) e.bytes).setGang
      { g with xfer := none, stack := g.stack.dropLast }) := by
  have hold : g.hold.isSome = false := by rw [h.hold]; rfl
  change execSplitStackTransfer c p s = _
  simp only [execSplitStackTransfer, h.seat, hold, h.xfer, Bool.false_eq_true, if_false]
  split
  case h_1 id hw => exact absurd hw (h.walk id)
  case h_2 none_open _ => cases none_open
  case h_3 spill _ =>
    cases spill
    simp only [hx, hb, Bool.false_eq_true, if_false]
  case h_4 fill _ => cases fill

/-- The state after the entry at an address has been read from the overflow area. -/
def State.refilled (s : State) (g : Gang) (foot pa : Nat) : State :=
  (s.touchLine foot pa false).readOut (s.gangPart g) pa 32

theorem State.onlyReads_refilled (s : State) (g : Gang) (foot pa : Nat) : s.OnlyReads (s.refilled g foot pa) :=
  (s.onlyReads_touchLine ..).trans (State.onlyReads_readOut ..)

theorem State.OnlyReads.mem {s t : State} (h : s.OnlyReads t) (f : Nat) : t.mem f = s.mem f := by
  rw [State.mem, h.foots, State.mem]

theorem State.OnlyReads.stackH {s t : State} (h : s.OnlyReads t) (g : Gang) : t.stackH g = s.stackH g := by
  rw [h]
  rfl

theorem State.Transfers.fill {s : State} {c p d pa foot : Nat} {g : Gang} {x : TlbEntry} (h : s.Transfers c p g (.fill d))
    (hx : s.lookup c (s.asidOf g.brick.wall) (s.ovfVa g d) .read = some x) (hpa : pa = x.phys (footOf c) (s.ovfVa g d))
    (hf : foot = s.viewFoot (s.gangPart g) (footOf c) pa) (hp : s.poisoned pa = false) (hb : s.portBusy pa = false)
    (hs : s.portShut pa = false) :
    exec (.splitStackTransfer c p) s = .next ((s.refilled g foot pa).afterDepart g
      ((g.refill (SSEntry.ofMem (s.mem foot) pa g.live)).filled (s.stackH g))) := by
  subst hpa hf
  have hold : g.hold.isSome = false := by rw [h.hold]; rfl
  have reads := s.onlyReads_refilled g (s.viewFoot (s.gangPart g) (footOf c) (x.phys (footOf c) (s.ovfVa g d)))
    (x.phys (footOf c) (s.ovfVa g d))
  change execSplitStackTransfer c p s = _
  simp only [execSplitStackTransfer, h.seat, hold, h.xfer, Bool.false_eq_true, if_false]
  split
  case h_1 id hw => exact absurd hw (h.walk id)
  case h_2 none_open _ => cases none_open
  case h_3 spill _ => cases spill
  case h_4 fill _ =>
    cases fill
    simp only [hx, hb, hs, hp, Bool.false_eq_true, if_false]
    rw [← reads.mem, ← reads.stackH]
    rfl

/-! ### The wakes of a monitor (06:R137) -/

theorem State.wake_eq {s : State} {c p : Nat} {g : Gang} {m : MonWait} {ok : MonWait → Bool} (hg : s.gangAt c p = some g)
    (hm : g.wait = .monitor m) (hk : m.woken = false) (ho : ok m = true) :
    s.wake c p ok = .next (s.setGang { g with wait := .monitor { m with woken := true } }) := by
  simp only [State.wake, hg, hm, ho, hk, Bool.not_false, Bool.and_self, if_true]

theorem exec_monitorEarlyWake {s : State} {c p : Nat} {g : Gang} {m : MonWait} (hg : s.gangAt c p = some g)
    (hm : g.wait = .monitor m) (hk : m.woken = false) :
    exec (.monitorEarlyWake c p) s = .next (s.setGang { g with wait := .monitor { m with woken := true } }) :=
  State.wake_eq hg hm hk rfl

theorem exec_monitorTimeout {s : State} {c p : Nat} {g : Gang} {m : MonWait} (hg : s.gangAt c p = some g)
    (hm : g.wait = .monitor m) (hk : m.woken = false) (ht : m.since + 65536 ≤ s.cycle) :
    exec (.monitorTimeout c p) s = .next (s.setGang { g with wait := .monitor { m with woken := true } }) :=
  State.wake_eq hg hm hk (decide_eq_true ht)

/-! ### The entry of a trap (14:R292, R296) -/

/-- What the entry of a trap needs: no late value is open, the gang has a handler and is not in one, its frame has no uncorrectable
word, and the frame's page is there to be written. -/
structure State.Enters (s : State) (g : Gang) (t : TrapInfo) (x : TlbEntry) : Prop where
  late : s.lateOpen g.gid = false
  tvec : g.tvec ≠ 0
  tmode : g.tmode = false
  frame : g.frameBad = none
  page : s.lookup g.core (s.asidOf g.brick.wall) (s.recordVa g + 0x6000) .write = some x
  port : s.portBusy (x.phys (footOf g.core) (s.recordVa g + 0x6000)) = false
  cause : causeToSystem t.cause = false ∨ t.forced = true

/-- The trap enters the handler, of the gang as it is or without the pending fault that it takes. -/
theorem State.Enters.takeTrap {s : State} {g : Gang} {t : TrapInfo} {x : TlbEntry} (h : s.Enters g t x) (fault : Bool) :
    s.takeTrap g t fault = .next ((if fault then s.setGang (g.took t) else s).enterHandler (if fault then g.took t else g)
      (x.phys (footOf g.core) (s.recordVa g + 0x6000)) t) := by
  have handler : ((causeToSystem t.cause && !t.forced) || decide (g.tvec = 0) || g.tmode) = false := by
    have tvec : decide (g.tvec = 0) = false := decide_eq_false h.tvec
    rw [tvec, h.tmode]
    rcases h.cause with hc | hc <;> simp [hc]
  simp only [State.takeTrap, h.late, h.page, h.frame, h.port, handler, Bool.false_eq_true, if_false]
  cases fault <;> rfl

/-- The gang in its handler, as the trap leaves it. -/
def Gang.handling (g : Gang) (t : TrapInfo) : Gang :=
  ({ g with tcause := t.tcause, tepc := t.tepc, tval := t.tval, tlanes := t.lanes, tmode := true } : Gang).goto g.tvec 0

theorem exec_trapEntry {s : State} {c p : Nat} {g : Gang} {t : TrapInfo} {x : TlbEntry} (hg : s.gangAt c p = some g)
    (hh : g.hold = none) (hw : g.wait = .trapping t false) (h : s.Enters g t x) :
    exec (.trapEntry c p) s = .next ((s.writeAll (s.gangPart g) (x.phys (footOf g.core) (s.recordVa g + 0x6000)) g.frame).setGang
      (g.handling t)) := by
  have enters : s.takeTrap g t false = .next ((s.writeAll (s.gangPart g) (x.phys (footOf g.core) (s.recordVa g + 0x6000))
      g.frame).setGang (g.handling t)) := h.takeTrap false
  have changed : g.handling t ≠ g := fun e => by
    have tmode : true = g.tmode := congrArg Gang.tmode e
    rw [h.tmode] at tmode
    cases tmode
  change execTrapEntry c p s = _
  simp only [execTrapEntry, hg, hw, hh, enters, Option.isSome_none, Bool.false_eq_true, if_false]
  exact State.moved_setGang rfl changed

/-- The gang takes its pending engine fault. -/
theorem Gang.took_pendTrap {g : Gang} {cause : Nat} {v : Word} (h : g.pendfault = some (cause, v)) :
    g.took (g.pendTrap cause v) = { g with pendfault := none, lost := 0 } := by
  have pends : g.pends (g.pendTrap cause v) = true := by simp [Gang.pends, Gang.pendTrap, h]
  exact if_pos pends

theorem exec_engineFaultTaken {s : State} {c p : Nat} {g : Gang} {cause : Nat} {v : Word} {x : TlbEntry}
    (hg : s.gangAt c p = some g) (hp : g.pendfault = some (cause, v)) (ht : s.takes g = true)
    (h : s.Enters g (g.pendTrap cause v) x) :
    exec (.engineFaultTaken c p) s = .next ((s.writeAll (s.gangPart g) (x.phys (footOf g.core) (s.recordVa g + 0x6000))
      g.frame).setGang (({ g with pendfault := none, lost := 0 } : Gang).handling (g.pendTrap cause v))) := by
  change execEngineFaultTaken c p s = _
  simp only [execEngineFaultTaken, hg, hp, ht, if_true, h.takeTrap true, Gang.took_pendTrap hp]
  exact congrArg Host.Outcome.next (ignoresRecords_writeAll _ _ _ s rfl)

end Sys2Proof.Machine

open Sys2Proof Sys2Proof.Machine

/-- Settles O50: each event reads its gang and the state once, changes the gang's record, and so is not refused. -/
theorem gangEventsHappen : Obligations.GangEventsHappen := by
  intro s c p g hg
  refine ⟨?_, ?_, ?_, ?_⟩
  · intro w h slots i is hb hc hp ho hw ha hpos hf hh hk hs hd
    have got := State.decodeGang_got ha hpos hf hh hk hs hd
    have changed : g.decoded h ((0, i) :: is) ≠ g := fun e => by
      have clause : (0, i) :: is = g.clause := congrArg Gang.clause e
      rw [hc] at clause
      cases clause
    have wait : g.waitOr .stalled = .stalled := by rcases hw with hw | hw <;> simp [Gang.waitOr, hw]
    rw [exec_clauseDecode hg (State.decodable_ready hb hc hp ho hw) got rfl changed, Gang.decoded, wait, hpos]
  · intro x d hh hw
    refine ⟨fun e he hx hb => ?_, fun he hx => ?_⟩
    · exact State.Transfers.spill ⟨hg, hh, hw, he⟩ hx hb
    · intro pa foot hp hb hs e s1 more
      have ran := State.Transfers.fill ⟨hg, hh, hw, he⟩ hx rfl rfl hp hb hs
      have within : e.within g.live = e := SSEntry.ofMem_within ..
      refine ⟨fun hem => ?_, fun hem hst hpend => ?_⟩
      · have active : (g.refill e).em ≠ 0 := hem
        rw [ran, Gang.filled_active active, State.afterDepart_sameLive, Gang.fillNeeded_eq List.length_append]
        · rfl
        · rfl
      · have inactive : (g.refill e).em = 0 := hem
        have stack : (g.refill e).stack = [e] := congrArg (· ++ [e]) hst
        rw [ran, Gang.filled_pending inactive stack within hpend, State.afterDepart_sameLive,
          Gang.fillNeeded_eq (congrArg List.length stack)]
        · rfl
        · rfl
  · intro m hm hk
    exact ⟨exec_monitorEarlyWake hg hm hk, exec_monitorTimeout hg hm hk⟩
  · intro x t hh hl htv htm hfr hx hb hc enters
    refine ⟨fun hw => exec_trapEntry hg hh hw ⟨hl, htv, htm, hfr, hx, hb, hc⟩, ?_⟩
    rintro cause v hp ht rfl
    have ran := exec_engineFaultTaken hg hp ht ⟨hl, htv, htm, hfr, hx, hb, hc⟩
    exact ran

end

section
/-! Registers read under a type and exact results reduced to it, over bit vectors of the type's width (04:R76, R88, R89). -/

namespace Sys2Proof.Machine

open Sys2Proof

/-! ### Readings of a register -/

/-- The integer that `n` bits hold, signed or not. -/
def reading (sg : Bool) {n : Nat} (x : BitVec n) : Int := if sg then x.toInt else x.toNat

@[simp] theorem ofInt_reading (sg : Bool) {n : Nat} (x : BitVec n) : BitVec.ofInt n (reading sg x) = x := by
  cases sg <;> simp [reading]

/-- A field extended by its reading's sign. -/
theorem ofInt_reading_extend (sg : Bool) {n : Nat} (m : Nat) (x : BitVec n) :
    BitVec.ofInt m (reading sg x) = if sg then x.signExtend m else x.setWidth m := by
  cases sg
  · simp [reading]
  · rfl

/-- A wider field's reading, cut down. -/
theorem ofInt_reading_cut (sg : Bool) {n m : Nat} (h : m ≤ n) (x : BitVec n) : BitVec.ofInt m (reading sg x) = x.setWidth m := by
  rw [ofInt_reading_extend]
  cases sg
  · rfl
  · exact BitVec.signExtend_eq_setWidth_of_le x h

theorem reading_lt_iff (sg : Bool) {n : Nat} (x y : BitVec n) :
    reading sg x < reading sg y ↔ (if sg then x.slt y else x.ult y) = true := by
  cases sg <;> simp [reading, BitVec.slt, BitVec.ult]

theorem reading_le_iff (sg : Bool) {n : Nat} (x y : BitVec n) :
    reading sg x ≤ reading sg y ↔ (if sg then x.sle y else x.ule y) = true := by
  cases sg <;> simp [reading, BitVec.sle, BitVec.ule]

theorem reading_inj (sg : Bool) {n : Nat} {x y : BitVec n} : reading sg x = reading sg y ↔ x = y := by
  constructor
  · intro h
    rw [← ofInt_reading sg x, h, ofInt_reading]
  · rintro rfl
    rfl

theorem uval_eq_toNat (n : Nat) (x : Word) : uval n x = (x.setWidth n).toNat := by simp [uval]

theorem sval_eq_toInt {n : Nat} (hn : 0 < n) (x : Word) : sval n x = (x.setWidth n).toInt := by
  obtain ⟨m, rfl⟩ : ∃ m, n = m + 1 := ⟨n - 1, by omega⟩
  simp only [sval, uval_eq_toNat, BitVec.toInt_eq_toNat_cond, Nat.add_sub_cancel, pow_succ]
  generalize (x.setWidth (m + 1)).toNat = u
  push_cast
  congr 1
  exact propext ⟨fun h => by omega, fun h => by omega⟩

/-- A result reduced to `n` bits. -/
theorem red_eq_ofInt (n : Nat) (x : Int) : red n x = (BitVec.ofInt n x).setWidth 64 := by
  apply BitVec.eq_of_toNat_eq
  simp [red]

/-! ### Types of the arithmetic instructions -/

/-- The types of an arithmetic instruction (04:R89). -/
inductive ArithTy : Ty → Prop
  | z32 : ArithTy .z32
  | s32 : ArithTy .s32
  | s64 : ArithTy .s64

/-- The signed types. -/
theorem ArithTy.of_signed {t : Ty} (ht : t = .s32 ∨ t = .s64) : ArithTy t ∧ Ty.sgnd t = true := by
  rcases ht with rfl | rfl
  · exact ⟨.s32, rfl⟩
  · exact ⟨.s64, rfl⟩

theorem tval_arith {t : Ty} (ht : ArithTy t) (x : Word) : tval t x = reading (Ty.sgnd t) (x.setWidth (nbits t)) := by
  cases ht
  case z32 => simp [tval, reading, Ty.sgnd, nbits, uval_eq_toNat]
  case s32 => simp [tval, reading, Ty.sgnd, nbits, sval_eq_toInt]
  case s64 => simp [tval, reading, Ty.sgnd, nbits, sval_eq_toInt]

theorem atN1_eq (t : Ty) (f : (n : Nat) → BitVec n → BitVec n) (a : Word) :
    atN1 t f a = (f (nbits t) (a.setWidth (nbits t))).setWidth 64 := by
  cases t <;> simp [atN1, nbits]

theorem atN2_eq (t : Ty) (f : (n : Nat) → BitVec n → BitVec n → BitVec n) (a b : Word) :
    atN2 t f a b = (f (nbits t) (a.setWidth (nbits t)) (b.setWidth (nbits t))).setWidth 64 := by
  cases t <;> simp [atN2, nbits]

theorem atN3_eq (t : Ty) (f : (n : Nat) → BitVec n → BitVec n → BitVec n → BitVec n) (a b c : Word) :
    atN3 t f a b c = (f (nbits t) (a.setWidth (nbits t)) (b.setWidth (nbits t)) (c.setWidth (nbits t))).setWidth 64 := by
  cases t <;> simp [atN3, nbits]

theorem atN1_toNat (t : Ty) (f : (n : Nat) → BitVec n → BitVec n) (a : Word) :
    atN1 t f a = BitVec.ofNat 64 (f (nbits t) (a.setWidth (nbits t))).toNat := by
  rw [atN1_eq, BitVec.ofNat_toNat]

theorem nbits_pos (t : Ty) : 0 < nbits t := by cases t <;> decide

/-- A result of two operands that is reduced to the type's width is the operation on the bits that gives its low bits. -/
theorem red_binary {t : Ty} (ht : ArithTy t) (F : Int → Int → Int) {f : (n : Nat) → BitVec n → BitVec n → BitVec n}
    (h : ∀ x y : BitVec (nbits t), BitVec.ofInt (nbits t) (F (reading (Ty.sgnd t) x) (reading (Ty.sgnd t) y)) = f (nbits t) x y)
    (a b : Word) : red (nbits t) (F (tval t a) (tval t b)) = atN2 t f a b := by
  rw [red_eq_ofInt, tval_arith ht, tval_arith ht, h, atN2_eq]

/-- A number clamped to the range of `n` bits, signed or not. -/
def clampTo (sg : Bool) (n : Nat) (z : Int) : Int :=
  clamp (if sg then -2 ^ (n - 1) else 0) (if sg then 2 ^ (n - 1) - 1 else 2 ^ n - 1) z

theorem clamp_arith {t : Ty} (ht : ArithTy t) (z : Int) : clamp (tyMin t) (tyMax t) z = clampTo (Ty.sgnd t) (nbits t) z := by
  cases ht <;> rfl

/-! ### Sums and products -/

theorem ofInt_sub (n : Nat) (x y : Int) : BitVec.ofInt n (x - y) = BitVec.ofInt n x - BitVec.ofInt n y := by
  rw [Int.sub_eq_add_neg, BitVec.ofInt_add, BitVec.ofInt_neg, BitVec.sub_eq_add_neg]

theorem addVal_eq {t : Ty} (ht : ArithTy t) (a b : Word) : addVal t a b = atN2 t (fun _ x y => x + y) a b := by
  have reduced : addVal t a b = red (nbits t) (tval t a + tval t b) := by cases ht <;> rfl
  rw [reduced]
  exact red_binary ht (· + ·) (fun x y => by simp [BitVec.ofInt_add]) a b

theorem subVal_eq {t : Ty} (ht : ArithTy t) (a b : Word) : subVal t a b = atN2 t (fun _ x y => x - y) a b := by
  have reduced : subVal t a b = red (nbits t) (tval t a - tval t b) := by cases ht <;> rfl
  rw [reduced]
  exact red_binary ht (· - ·) (fun x y => by simp [ofInt_sub]) a b

theorem mulVal_eq {t : Ty} (ht : ArithTy t) (a b : Word) : mulVal t a b = atN2 t (fun _ x y => x * y) a b :=
  red_binary ht (· * ·) (fun x y => by simp [BitVec.ofInt_mul]) a b

theorem madVal_eq {t : Ty} (ht : ArithTy t) (a b c : Word) : madVal t a b c = atN3 t (fun _ x y z => x * y + z) a b c := by
  rw [madVal, red_eq_ofInt, tval_arith ht, tval_arith ht, tval_arith ht, BitVec.ofInt_add, BitVec.ofInt_mul, ofInt_reading,
    ofInt_reading, ofInt_reading, atN3_eq]

theorem mulwVal_eq {t : Ty} (ht : t = .z32 ∨ t = .s32) (a b : Word) :
    mulwVal t a b = if Ty.sgnd t then (a.setWidth 32).signExtend 64 * (b.setWidth 32).signExtend 64
      else (a.setWidth 32).setWidth 64 * (b.setWidth 32).setWidth 64 := by
  obtain ⟨full, width⟩ : ArithTy t ∧ nbits t = 32 := by
    rcases ht with rfl | rfl
    · exact ⟨.z32, rfl⟩
    · exact ⟨.s32, rfl⟩
  rw [mulwVal, red_eq_ofInt, tval_arith full, tval_arith full, width, BitVec.ofInt_mul, ofInt_reading_extend, ofInt_reading_extend,
    BitVec.setWidth_eq]
  split <;> rfl

/-- The bits of an integer above its low `n`. -/
theorem extractLsb'_ofInt (n : Nat) (z : Int) : (BitVec.ofInt (2 * n) z).extractLsb' n n = BitVec.ofInt n (z / 2 ^ n) := by
  have pos : (0 : Int) < 2 ^ n := by positivity
  have upper : z % (2 ^ n * 2 ^ n) / 2 ^ n = z / 2 ^ n % 2 ^ n := by
    rw [Int.emod_def, Int.emod_def, ← Int.ediv_ediv_of_nonneg pos.le, mul_assoc, sub_eq_add_neg, ← mul_neg,
      Int.add_mul_ediv_left _ _ pos.ne', sub_eq_add_neg]
  apply BitVec.eq_of_toNat_eq
  have low : 0 ≤ z % (2 ^ n * 2 ^ n) := Int.emod_nonneg _ (by positivity)
  rw [BitVec.extractLsb'_toNat, BitVec.toNat_ofInt, BitVec.toNat_ofInt, Nat.shiftRight_eq_div_pow, two_mul, pow_add]
  zify
  rw [Int.toNat_of_nonneg low, Int.toNat_of_nonneg (Int.emod_nonneg _ pos.ne'), upper, Int.emod_emod]

theorem mulhiVal_eq {t : Ty} (ht : ArithTy t) (a b : Word) : mulhiVal t a b = atN2 t (mulHigh (Ty.sgnd t)) a b := by
  refine red_binary ht (fun x y => x * y / 2 ^ nbits t) (fun x y => ?_) a b
  rw [← extractLsb'_ofInt, BitVec.ofInt_mul, ofInt_reading_extend, ofInt_reading_extend, mulHigh]
  split <;> rfl

/-! ### Clamped results -/

theorem ofInt_two_pow (n k : Nat) : BitVec.ofInt n (2 ^ k) = BitVec.twoPow n k := by
  have nat : (2 : Int) ^ k = ((2 ^ k : Nat) : Int) := by push_cast; rfl
  rw [nat, BitVec.ofInt_natCast]
  apply BitVec.eq_of_toNat_eq
  rw [BitVec.toNat_ofNat, BitVec.toNat_twoPow]

theorem ofInt_two_pow_sub_one (n : Nat) : BitVec.ofInt n (2 ^ n - 1) = BitVec.allOnes n := by
  have zero : BitVec.twoPow n n = 0#n := BitVec.eq_of_toNat_eq (BitVec.toNat_twoPow_of_le le_rfl)
  rw [ofInt_sub, ofInt_two_pow, zero, BitVec.zero_sub, ← BitVec.neg_one_eq_allOnes]
  rfl

theorem ofInt_intMax (n : Nat) : BitVec.ofInt n (2 ^ (n - 1) - 1) = BitVec.intMax n := by
  rw [ofInt_sub, ofInt_two_pow]
  rfl

theorem ofInt_clampTo_signed (n : Nat) (z : Int) : BitVec.ofInt n (clampTo true n z) = clampSigned n z := by
  simp only [clampTo, clamp, clampSigned, if_true]
  split
  · exact BitVec.intMin_eq_neg_two_pow.symm
  · have bound : 2 ^ (n - 1) - 1 < z ↔ 2 ^ (n - 1) ≤ z := by omega
    simp only [bound]
    split
    · exact ofInt_intMax n
    · rfl

theorem ofInt_clampTo_add (sg : Bool) (n : Nat) (x y : BitVec n) :
    BitVec.ofInt n (clampTo sg n (reading sg x + reading sg y)) = addClamped sg n x y := by
  cases sg
  case true => exact ofInt_clampTo_signed n _
  case false =>
    have hx := x.isLt
    have hy := y.isLt
    have carry : x + y < x ↔ ((2 : Int) ^ n - 1 < (x.toNat : Int) + y.toNat) := by
      have whole : 2 ^ n ≤ x.toNat + y.toNat ↔ (2 : Int) ^ n - 1 < (x.toNat : Int) + y.toNat := by
        zify
        exact Int.sub_one_lt_iff.symm
      rw [← whole, BitVec.lt_def, BitVec.toNat_add]
      by_cases wraps : 2 ^ n ≤ x.toNat + y.toNat
      · rw [Nat.mod_eq_sub_mod wraps, Nat.mod_eq_of_lt (by omega)]
        omega
      · rw [Nat.mod_eq_of_lt (by omega)]
        omega
    simp only [addClamped, clampTo, clamp, reading, carry, Bool.false_eq_true, if_false]
    rw [if_neg (by omega)]
    split
    · exact ofInt_two_pow_sub_one n
    · rw [BitVec.ofInt_add]; simp

theorem ofInt_clampTo_sub (sg : Bool) (n : Nat) (x y : BitVec n) :
    BitVec.ofInt n (clampTo sg n (reading sg x - reading sg y)) = subClamped sg n x y := by
  cases sg
  case true => exact ofInt_clampTo_signed n _
  case false =>
    have fits : ¬ ((2 : Int) ^ n - 1 < (x.toNat : Int) - y.toNat) := by
      have := x.isLt
      zify at this
      omega
    have borrow : x < y ↔ (x.toNat : Int) - y.toNat < 0 := by
      rw [BitVec.lt_def]
      omega
    simp only [subClamped, clampTo, clamp, reading, borrow, fits, Bool.false_eq_true, if_false]
    split
    · simp
    · rw [ofInt_sub]; simp

theorem addSatVal_eq {t : Ty} (ht : ArithTy t) (a b : Word) : addSatVal t a b = atN2 t (addClamped (Ty.sgnd t)) a b := by
  rw [addSatVal, clamp_arith ht]
  exact red_binary ht (fun x y => clampTo _ _ (x + y)) (ofInt_clampTo_add _ _) a b

theorem subSatVal_eq {t : Ty} (ht : ArithTy t) (a b : Word) : subSatVal t a b = atN2 t (subClamped (Ty.sgnd t)) a b := by
  rw [subSatVal, clamp_arith ht]
  exact red_binary ht (fun x y => clampTo _ _ (x - y)) (ofInt_clampTo_sub _ _) a b

theorem minVal_eq {t : Ty} (ht : ArithTy t) (a b : Word) : minVal t a b = atN2 t (lesser (Ty.sgnd t)) a b := by
  refine red_binary ht (fun x y => if y < x then y else x) (fun x y => ?_) a b
  simp only [reading_lt_iff, apply_ite (BitVec.ofInt _), ofInt_reading, lesser]

theorem maxVal_eq {t : Ty} (ht : ArithTy t) (a b : Word) : maxVal t a b = atN2 t (greater (Ty.sgnd t)) a b := by
  refine red_binary ht (fun x y => if x < y then y else x) (fun x y => ?_) a b
  simp only [reading_lt_iff, apply_ite (BitVec.ofInt _), ofInt_reading, greater]

/-- The absolute value of a signed number clamps at the most negative one alone. -/
theorem ofInt_clampTo_natAbs {n : Nat} (hn : 0 < n) (x : BitVec n) :
    BitVec.ofInt n (clampTo true n x.toInt.natAbs) = absOf n x := by
  have pos : (0 : Int) < 2 ^ (n - 1) := by positivity
  have above : ¬ ((x.toInt.natAbs : Int) < -2 ^ (n - 1)) := by omega
  rw [clampTo, if_pos rfl, if_pos rfl, clamp, if_neg above, absOf]
  by_cases hx : x = BitVec.intMin n
  · rw [if_pos hx, hx, BitVec.toInt_intMin_of_pos hn, if_pos (by omega), ofInt_intMax]
  · have low := BitVec.le_toInt (x := x)
    have high := BitVec.toInt_lt (x := x)
    have edge : x.toInt ≠ -2 ^ (n - 1) := by
      rw [← BitVec.toInt_intMin_of_pos hn]
      exact fun h => hx (BitVec.eq_of_toInt_eq h)
    rw [if_neg hx, if_neg (by omega)]
    by_cases hm : x.msb = true
    · have neg : x.toInt < 0 := by simpa [BitVec.msb_eq_toInt] using hm
      rw [if_pos hm, Int.ofNat_natAbs_of_nonpos neg.le, BitVec.ofInt_neg, BitVec.ofInt_toInt]
    · have nonneg : 0 ≤ x.toInt := by simpa [BitVec.msb_eq_toInt] using hm
      rw [if_neg hm, Int.natAbs_of_nonneg nonneg, BitVec.ofInt_toInt]

theorem absVal_eq {t : Ty} (ht : t = .s32 ∨ t = .s64) (a : Word) : absVal t a = atN1 t absOf a := by
  obtain ⟨arith, signed⟩ := ArithTy.of_signed ht
  rw [absVal, clamp_arith arith, tval_arith arith, signed, red_eq_ofInt, atN1_eq]
  exact congrArg _ (ofInt_clampTo_natAbs (nbits_pos t) _)

/-! ### Logic and bit counts -/

theorem lowN_eq (t : Ty) (x : Word) : lowN t x = (x.setWidth (nbits t)).setWidth 64 := by
  rw [lowN, uval_eq_toNat, BitVec.ofNat_toNat]

theorem notVal_eq (t : Ty) (a : Word) : notVal t a = atN1 t (fun _ x => ~~~x) a := by
  have fits : nbits t ≤ 64 := by cases t <;> decide
  rw [notVal, lowN_eq, atN1_eq, BitVec.setWidth_not fits]

theorem popcN_toNat {n : Nat} (x : BitVec n) (i : Nat) : popcN x.toNat i = x.cpopNatRec i 0 := by
  induction i with
  | zero => rfl
  | succ i ih =>
    rw [popcN, ih, BitVec.cpopNatRec_succ, BitVec.cpopNatRec_eq (0 + _), BitVec.testBit_toNat]
    cases x.getLsbD i <;> rfl

theorem popcVal_eq (t : Ty) (a : Word) : popcVal t a = atN1 t (fun _ x => x.cpop) a := by
  rw [popcVal, popcN_toNat, atN1_toNat, BitVec.toNat_cpop, BitVec.cpopNatRec_setWidth_of_le _ le_rfl]

theorem clzN_le (k i : Nat) : clzN k i ≤ i := by
  induction i with
  | zero => exact le_rfl
  | succ i ih => rw [clzN]; split <;> omega

/-- The recursion of the bit vectors counts the width's bits beyond the low `i + 1` too. -/
theorem clzAuxRec_eq {n k : Nat} {x : BitVec n} (h : ∀ i < n, x.getLsbD i = k.testBit i) (i : Nat) (hi : i < n) :
    x.clzAuxRec i = BitVec.ofNat n (n - 1 - i + clzN k (i + 1)) := by
  induction i with
  | zero =>
    rw [BitVec.clzAuxRec_zero, h 0 hi, clzN, clzN]
    split
    · rfl
    · congr 1; omega
  | succ i ih =>
    rw [BitVec.clzAuxRec_succ, h _ hi, clzN]
    split
    · rfl
    · rw [ih (by omega)]; congr 1; omega

theorem clzVal_eq (t : Ty) (a : Word) : clzVal t a = atN1 t (fun _ x => x.clz) a := by
  have pos := nbits_pos t
  have bits : ∀ i < nbits t, (a.setWidth (nbits t)).getLsbD i = a.toNat.testBit i := by
    intro i hi
    simp [hi, BitVec.testBit_toNat]
  have all : nbits t - 1 - (nbits t - 1) + clzN a.toNat (nbits t - 1 + 1) = clzN a.toNat (nbits t) := by
    rw [Nat.sub_self, Nat.zero_add, Nat.sub_add_cancel pos]
  have small : clzN a.toNat (nbits t) < 2 ^ nbits t := lt_of_le_of_lt (clzN_le _ _) Nat.lt_two_pow_self
  rw [clzVal, atN1_toNat, BitVec.clz, clzAuxRec_eq bits _ (by omega), all, BitVec.toNat_ofNat, Nat.mod_eq_of_lt small]

theorem testBit_revN (k n i : Nat) : (revN k n).testBit i = (decide (i < n) && k.testBit (n - 1 - i)) := by
  induction n generalizing i with
  | zero => simp [revN]
  | succ n ih =>
    have pair : revN k (n + 1) = Nat.bit (k.testBit n) (revN k n) := by
      rw [revN, Nat.bit_val]; cases k.testBit n <;> rfl
    cases i with
    | zero => rw [pair, Nat.testBit_bit_zero]; simp
    | succ i => rw [pair, Nat.testBit_bit_succ, ih]; simp [Nat.sub_sub, Nat.add_comm]

theorem brevVal_eq (t : Ty) (a : Word) : brevVal t a = atN1 t (fun _ x => x.reverse) a := by
  rw [brevVal, atN1_eq]
  apply BitVec.eq_of_getLsbD_eq
  intro i hi
  rw [BitVec.getLsbD_ofNat, testBit_revN, BitVec.getLsbD_setWidth, BitVec.getLsbD_reverse, BitVec.getMsbD_eq_getLsbD,
    BitVec.getLsbD_setWidth, BitVec.testBit_toNat]
  by_cases h : i < nbits t
  · have inside : nbits t - 1 - i < nbits t := by omega
    simp [h, inside]
  · simp [h]

theorem lowN_eq_atN1 (t : Ty) (a : Word) : lowN t a = atN1 t (fun _ x => x) a := by
  rw [lowN_eq, atN1_eq]

theorem lowN_and (t : Ty) (a b : Word) : lowN t (a &&& b) = atN2 t (fun _ x y => x &&& y) a b := by
  rw [lowN_eq, atN2_eq, BitVec.setWidth_and]

theorem lowN_or (t : Ty) (a b : Word) : lowN t (a ||| b) = atN2 t (fun _ x y => x ||| y) a b := by
  rw [lowN_eq, atN2_eq, BitVec.setWidth_or]

theorem lowN_xor (t : Ty) (a b : Word) : lowN t (a ^^^ b) = atN2 t (fun _ x y => x ^^^ y) a b := by
  rw [lowN_eq, atN2_eq, BitVec.setWidth_xor]

end Sys2Proof.Machine
end

section
/-! Shifts, bit fields and addresses over bit vectors of the type's width (04:R90-R92). -/

namespace Sys2Proof.Machine

open Sys2Proof

/-! ### Shifts -/

theorem shCount_eq (b : Word) : shCount b = count6 b := by simp [shCount, count6]

theorem shlVal_eq (t : Ty) (a b : Word) : shlVal t a b = atN1 t (fun _ x => x <<< count6 b) a := by
  rw [shlVal, shCount_eq, uval_eq_toNat, atN1_toNat]
  split
  · rw [BitVec.toNat_shiftLeft, Nat.shiftLeft_eq]
  · rw [BitVec.shiftLeft_eq_zero (by omega)]
    simp

theorem shrVal_eq (t : Ty) (a b : Word) : shrVal t a b = atN1 t (fun _ x => x >>> count6 b) a := by
  rw [shrVal, shCount_eq, uval_eq_toNat, atN1_toNat, BitVec.toNat_ushiftRight, Nat.shiftRight_eq_div_pow]

theorem sarVal_eq {t : Ty} (ht : t = .s32 ∨ t = .s64) (a b : Word) :
    sarVal t a b = atN1 t (fun _ x => x.sshiftRight (count6 b)) a := by
  obtain ⟨arith, signed⟩ := ArithTy.of_signed ht
  rw [sarVal, shCount_eq, tval_arith arith, signed, red_eq_ofInt, atN1_eq, BitVec.sshiftRight, Int.shiftRight_eq_div_pow]
  rfl

/-- A rotation puts the bits that leave at the top below the ones that stay. -/
theorem toNat_rotateLeft_add {n : Nat} (hn : 0 < n) (x : BitVec n) (k : Nat) :
    (x.rotateLeft k).toNat = x.toNat * 2 ^ (k % n) % 2 ^ n + x.toNat / 2 ^ (n - k % n) := by
  have hk : k % n < n := Nat.mod_lt _ hn
  have apart : x.toNat * 2 ^ (k % n) % 2 ^ n = x.toNat % 2 ^ (n - k % n) * 2 ^ (k % n) := by
    have split : 2 ^ n = 2 ^ (n - k % n) * 2 ^ (k % n) := by rw [← pow_add, Nat.sub_add_cancel hk.le]
    rw [split]
    exact Nat.mul_mod_mul_right ..
  have low : x.toNat / 2 ^ (n - k % n) < 2 ^ (k % n) := by
    rw [Nat.div_lt_iff_lt_mul (by positivity), ← pow_add, Nat.add_sub_cancel' hk.le]
    exact x.isLt
  rw [BitVec.toNat_rotateLeft, Nat.shiftLeft_eq, Nat.shiftRight_eq_div_pow, apart, ← Nat.shiftLeft_eq,
    Nat.shiftLeft_add_eq_or_of_lt low]

theorem rotlVal_eq (t : Ty) (a b : Word) : rotlVal t a b = atN1 t (fun _ x => x.rotateLeft (count6 b)) a := by
  rw [atN1_toNat, toNat_rotateLeft_add (nbits_pos t), ← uval_eq_toNat, ← shCount_eq]
  rfl

/-! ### Bit fields -/

theorem bfPos_eq (ctl : Word) : bfPos ctl = ctlPos ctl := by simp [bfPos, ctlPos]

theorem bfWidth_eq (t : Ty) (ctl : Word) : bfWidth t ctl = ctlWidth (nbits t) ctl := by
  have named : ctl.toNat / 256 % 128 = (ctl.extractLsb' 8 7).toNat := by
    rw [BitVec.extractLsb'_toNat, Nat.shiftRight_eq_div_pow]
  rw [bfWidth, ctlWidth, bfPos_eq, named]

/-- A field lies within the width. -/
theorem ctlPos_add_ctlWidth_le {n : Nat} {ctl : Word} (h : ctlWidth n ctl ≠ 0) : ctlPos ctl + ctlWidth n ctl ≤ n := by
  unfold ctlWidth at h ⊢
  split
  · have := Nat.min_le_right (ctl.extractLsb' 8 7).toNat (n - ctlPos ctl)
    simp only [Nat.min_def] at *
    omega
  · rename_i outside
    exact absurd (if_neg outside) h

/-- A field read as a signed number: what is below half its range as it is, the rest less the range. -/
theorem toInt_field {w : Nat} (f : BitVec w) :
    f.toInt = if w = 0 ∨ f.toNat < 2 ^ (w - 1) then (f.toNat : Int) else f.toNat - 2 ^ w := by
  rcases Nat.eq_zero_or_pos w with rfl | hw
  · simp [BitVec.of_length_zero (x := f)]
  · obtain ⟨m, rfl⟩ : ∃ m, w = m + 1 := ⟨w - 1, by omega⟩
    have half : 2 * f.toNat < 2 ^ (m + 1) ↔ m + 1 = 0 ∨ f.toNat < 2 ^ (m + 1 - 1) := by
      rw [pow_succ, Nat.add_sub_cancel]; omega
    simp only [BitVec.toInt_eq_toNat_cond, half]
    push_cast
    rfl

/-- The field extracted, extended as a number of its sign. -/
theorem bfxOf_eq (sg : Bool) (ctl : Word) (n : Nat) (x : BitVec n) :
    bfxOf sg ctl n x = BitVec.ofInt n (reading sg (x.extractLsb' (ctlPos ctl) (ctlWidth n ctl))) := by
  rw [ofInt_reading_extend]
  rfl

theorem bfxVal_eq {t : Ty} (ht : ArithTy t) (a ctl : Word) : bfxVal t a ctl = atN1 t (bfxOf (Ty.sgnd t) ctl) a := by
  rw [atN1_eq, bfxOf_eq, ← red_eq_ofInt, bfxVal, bfPos_eq, bfWidth_eq, uval_eq_toNat]
  have named : (a.setWidth (nbits t)).toNat / 2 ^ ctlPos ctl % 2 ^ ctlWidth (nbits t) ctl =
      ((a.setWidth (nbits t)).extractLsb' (ctlPos ctl) (ctlWidth (nbits t) ctl)).toNat := by
    rw [BitVec.extractLsb'_toNat, Nat.shiftRight_eq_div_pow]
  have small : ((a.setWidth (nbits t)).extractLsb' (ctlPos ctl) (ctlWidth (nbits t) ctl)).toNat < 2 ^ nbits t := by
    rw [← named]
    exact lt_of_le_of_lt (Nat.mod_le _ _) (lt_of_le_of_lt (Nat.div_le_self _ _) (a.setWidth (nbits t)).isLt)
  simp only [named]
  generalize (a.setWidth (nbits t)).extractLsb' (ctlPos ctl) (ctlWidth (nbits t) ctl) = f at small ⊢
  have plain : red (nbits t) f.toNat = BitVec.ofNat 64 f.toNat := by
    rw [red_eq_ofInt, BitVec.ofInt_natCast, ← BitVec.ofNat_toNat, BitVec.toNat_ofNat, Nat.mod_eq_of_lt small]
  have signed : t ≠ .z32 → reading (Ty.sgnd t) f = f.toInt := by
    intro hz
    cases ht
    · exact absurd rfl hz
    · rfl
    · rfl
  by_cases hz : t = .z32
  · subst hz
    rw [if_pos (.inl rfl), ← plain]
    rfl
  · rw [signed hz, toInt_field]
    simp only [hz, false_or]
    split
    · exact plain.symm
    · rfl

theorem testBit_bfi (x ins pos we j : Nat) :
    (x % 2 ^ pos + (ins % 2 ^ we) * 2 ^ pos + x / 2 ^ (pos + we) * 2 ^ (pos + we)).testBit j =
      if pos ≤ j ∧ j < pos + we then ins.testBit (j - pos) else x.testBit j := by
  have below : x % 2 ^ pos + (ins % 2 ^ we) * 2 ^ pos < 2 ^ (pos + we) := by
    have h1 : x % 2 ^ pos < 2 ^ pos := Nat.mod_lt _ (by positivity)
    have h2 : ins % 2 ^ we + 1 ≤ 2 ^ we := Nat.mod_lt _ (by positivity)
    calc x % 2 ^ pos + (ins % 2 ^ we) * 2 ^ pos < (ins % 2 ^ we + 1) * 2 ^ pos := by linarith
      _ ≤ 2 ^ we * 2 ^ pos := Nat.mul_le_mul_right _ h2
      _ = 2 ^ (pos + we) := by rw [pow_add, Nat.mul_comm]
  rw [Nat.add_comm, Nat.mul_comm (x / _), Nat.testBit_two_pow_mul_add _ below, Nat.add_comm (x % _), Nat.mul_comm (ins % _),
    Nat.testBit_two_pow_mul_add _ (Nat.mod_lt _ (by positivity)), Nat.testBit_mod_two_pow, Nat.testBit_mod_two_pow,
    Nat.testBit_div_two_pow]
  by_cases low : j < pos
  · have below' : j < pos + we := by omega
    simp [low, below']
  · by_cases mid : j < pos + we
    · have inside : pos ≤ j ∧ j < pos + we := by omega
      have within : j - pos < we := by omega
      simp [low, mid, inside, within]
    · have back : j - (pos + we) + (pos + we) = j := by omega
      simp [mid, back]

/-- The bits that a field takes. -/
theorem getLsbD_fieldMask (n pos we i : Nat) :
    ((BitVec.allOnes we).setWidth n <<< pos).getLsbD i = decide (i < n ∧ pos ≤ i ∧ i < pos + we) := by
  rw [BitVec.getLsbD_shiftLeft, BitVec.getLsbD_setWidth, BitVec.getLsbD_allOnes, Bool.eq_iff_iff]
  simp only [Bool.and_eq_true, Bool.not_eq_true', decide_eq_true_eq, decide_eq_false_iff_not]
  omega

theorem bfiVal_eq (t : Ty) (a ctl ins : Word) : bfiVal t a ctl ins = atN2 t (bfiOf ctl) a ins := by
  rw [atN2_eq, bfiVal, bfPos_eq, bfWidth_eq, uval_eq_toNat]
  apply BitVec.eq_of_getLsbD_eq
  intro i hi
  have inside := ctlPos_add_ctlWidth_le (n := nbits t) (ctl := ctl)
  rw [BitVec.getLsbD_ofNat, testBit_bfi, BitVec.getLsbD_setWidth]
  simp only [bfiOf, BitVec.getLsbD_or, BitVec.getLsbD_and, BitVec.getLsbD_not, BitVec.testBit_toNat, getLsbD_fieldMask, hi]
  by_cases within : i < nbits t
  · by_cases field : ctlPos ctl ≤ i ∧ i < ctlPos ctl + ctlWidth (nbits t) ctl
    · simp [field, within]
    · simp [field, within]
  · have field : ¬ (ctlPos ctl ≤ i ∧ i < ctlPos ctl + ctlWidth (nbits t) ctl) := by omega
    simp [field, within]

/-! ### Addresses -/

theorem ofInt_scaled (n : Nat) (z : Int) (k : Nat) : BitVec.ofInt n (z * 2 ^ k) = BitVec.ofInt n z <<< k := by
  rw [BitVec.ofInt_mul, ofInt_two_pow, BitVec.shiftLeft_eq_mul_twoPow]

/-- A sum modulo 2^56: bits 63:56 of the first operand have no effect (04:R92). -/
theorem red56_add (a : Word) (z : Int) : red 56 (uval 56 a + z) = low56 (a + BitVec.ofInt 64 z) := by
  have cut : BitVec.ofInt 56 z = (BitVec.ofInt 64 z).setWidth 56 := by
    apply BitVec.eq_of_toNat_eq
    rw [BitVec.toNat_setWidth, BitVec.toNat_ofInt, BitVec.toNat_ofInt]
    omega
  rw [red_eq_ofInt, BitVec.ofInt_add, BitVec.ofInt_natCast, uval_eq_toNat, BitVec.ofNat_toNat, BitVec.setWidth_eq, cut, low56,
    BitVec.setWidth_add (w := 64) (i := 56) a _ (by decide)]

theorem addVal_a56 (a b : Word) : addVal .a56 a b = low56 (a + b) := by
  rw [addVal, red56_add, sval_eq_toInt (by decide), BitVec.setWidth_eq, BitVec.ofInt_toInt]

theorem subVal_a56 (a b : Word) : subVal .a56 a b = low56 (a - b) := by
  rw [subVal, Int.sub_eq_add_neg, red56_add, BitVec.ofInt_neg, sval_eq_toInt (by decide), BitVec.setWidth_eq, BitVec.ofInt_toInt,
    BitVec.sub_eq_add_neg]

theorem addscVal_narrow (a b : Word) (sh : Nat) :
    addscVal false a b sh = low56 (a + (b.setWidth 32).signExtend 64 <<< sh) := by
  rw [addscVal, if_neg (by decide), red56_add, ofInt_scaled, sval_eq_toInt (by decide)]
  rfl

theorem addscVal_wide (a b : Word) (sh : Nat) : addscVal true a b sh = low56 (a + b <<< sh) := by
  rw [addscVal, if_pos rfl, red56_add, ofInt_scaled, sval_eq_toInt (by decide), BitVec.setWidth_eq, BitVec.ofInt_toInt]

end Sys2Proof.Machine
end

section
/-! Settles O8 to O12: what the integer, address and selection instructions of class 0 push (04:R89-R94). -/

namespace Sys2Proof.Machine

open Sys2Proof

/-! ### Instructions of one, two and three operands -/

/-- An instruction that pushes a value known at issue leaves what its form says once its operands can be read. -/
theorem ValueForm.runs {s : State} {g : Gang} (f : ValueForm) (preds : Bool) (hg : s.curGang = some g) (h : g.Ready f.gd f.os) :
    s.value f.gd f.d f.os (f.val s) preds = .next (f.after s g) := State.value_ready f.d (f.val s) preds hg h

theorem unary_runs {val : Ty → Word → Word} {t : Ty} {r : Word → Word} (hv : ∀ a, val t a = r a) {s : State} {g : Gang}
    {gd : Guard} {d : Dest} {a : Opnd} {imm : BitVec 16} (hg : s.curGang = some g) (h : g.Ready gd [a]) :
    unary val gd t d a imm s = .next ((form1 gd d imm a r).after s g) := by
  obtain rfl : r = val t := funext fun a => (hv a).symm
  exact ValueForm.runs (form1 gd d imm a (val t)) false hg h

theorem binary_runs {val : Ty → Word → Word → Word} {t : Ty} {r : Word → Word → Word} (hv : ∀ a b, val t a b = r a b)
    {s : State} {g : Gang} {gd : Guard} {d : Dest} {a b : Opnd} {imm : BitVec 16} (hg : s.curGang = some g) (h : g.Ready gd [a, b]) :
    binary val gd t d a b imm s = .next ((form2 gd d imm a b r).after s g) := by
  obtain rfl : r = val t := funext fun a => funext fun b => (hv a b).symm
  exact ValueForm.runs (form2 gd d imm a b (val t)) false hg h

theorem ternary_runs {val : Ty → Word → Word → Word → Word} {t : Ty} {r : Word → Word → Word → Word}
    (hv : ∀ a b c, val t a b c = r a b c) {s : State} {g : Gang} {gd : Guard} {d : Dest} {a b c : Opnd} {imm : BitVec 16}
    (hg : s.curGang = some g) (h : g.Ready gd [a, b, c]) :
    ternary val gd t d a b c imm s = .next ((form3 gd d imm a b c r).after s g) := by
  obtain rfl : r = val t := funext fun a => funext fun b => funext fun c => (hv a b c).symm
  exact ValueForm.runs (form3 gd d imm a b c (val t)) false hg h

/-! ### Types that the encoding admits -/

theorem ArithTy.of_contains {t : Ty} {b : Bool} (h : ([Ty.z32, .s32, .s64].contains t && b) = true) : ArithTy t := by
  have listed : t = .z32 ∨ t = .s32 ∨ t = .s64 := by
    simpa using (Bool.and_eq_true_iff.1 h).1
  rcases listed with rfl | rfl | rfl <;> constructor

theorem ArithTy.of_not_a56 {t : Ty} {b : Bool} (h : ([Ty.z32, .s32, .s64, .a56].contains t && b) = true) (ha : t ≠ .a56) :
    ArithTy t := by
  have listed : t = .z32 ∨ t = .s32 ∨ t = .s64 ∨ t = .a56 := by simpa using (Bool.and_eq_true_iff.1 h).1
  rcases listed with rfl | rfl | rfl | rfl
  · exact .z32
  · exact .s32
  · exact .s64
  · exact absurd rfl ha

theorem eq_or_eq_of_contains {t x y : Ty} {b : Bool} (h : ([x, y].contains t && b) = true) : t = x ∨ t = y := by
  simpa using (Bool.and_eq_true_iff.1 h).1

end Sys2Proof.Machine

open Sys2Proof Sys2Proof.Machine

/-- Settles O8: each row of 04:R89 by the lemma that reads its result over the type's bits. -/
theorem arithmeticResults : Obligations.ArithmeticResults := by
  unfold Obligations.ArithmeticResults Pushes
  intro i f s g hw hf hg h
  unfold arithForm at hf
  split at hf
  case h_1 =>
    split at hf
    · cases hf
    · rename_i ha
      cases hf
      exact binary_runs (addVal_eq (.of_not_a56 hw ha)) hg h
  case h_2 =>
    split at hf
    · cases hf
    · rename_i ha
      cases hf
      exact binary_runs (subVal_eq (.of_not_a56 hw ha)) hg h
  case h_3 => cases hf; exact binary_runs (mulVal_eq (.of_contains hw)) hg h
  case h_4 => cases hf; exact binary_runs (mulhiVal_eq (.of_contains hw)) hg h
  case h_5 => cases hf; exact binary_runs (mulwVal_eq (eq_or_eq_of_contains hw)) hg h
  case h_6 => cases hf; exact ternary_runs (madVal_eq (.of_contains hw)) hg h
  case h_7 => cases hf; exact binary_runs (addSatVal_eq (.of_contains hw)) hg h
  case h_8 => cases hf; exact binary_runs (subSatVal_eq (.of_contains hw)) hg h
  case h_9 => cases hf; exact binary_runs (minVal_eq (.of_contains hw)) hg h
  case h_10 => cases hf; exact binary_runs (maxVal_eq (.of_contains hw)) hg h
  case h_11 => cases hf; exact unary_runs (absVal_eq (eq_or_eq_of_contains hw)) hg h
  case h_12 => cases hf; exact binary_runs (val := fun t a b => lowN t (a &&& b)) (lowN_and _) hg h
  case h_13 => cases hf; exact binary_runs (val := fun t a b => lowN t (a ||| b)) (lowN_or _) hg h
  case h_14 => cases hf; exact binary_runs (val := fun t a b => lowN t (a ^^^ b)) (lowN_xor _) hg h
  case h_15 => cases hf; exact unary_runs (notVal_eq _) hg h
  case h_16 => cases hf; exact unary_runs (popcVal_eq _) hg h
  case h_17 => cases hf; exact unary_runs (clzVal_eq _) hg h
  case h_18 => cases hf; exact unary_runs (brevVal_eq _) hg h
  case h_19 => cases hf; exact unary_runs (lowN_eq_atN1 _) hg h
  case h_20 => cases hf


/-- Settles O9: the shifts take the low six bits of their count (04:R90). -/
theorem shiftResults : Obligations.ShiftResults := by
  unfold Obligations.ShiftResults Pushes
  intro i f s g hw hf hg h
  unfold shiftForm at hf
  split at hf
  case h_1 => cases hf; exact binary_runs (shlVal_eq _) hg h
  case h_2 => cases hf; exact binary_runs (shrVal_eq _) hg h
  case h_3 => cases hf; exact binary_runs (sarVal_eq (eq_or_eq_of_contains hw)) hg h
  case h_4 => cases hf; exact binary_runs (rotlVal_eq _) hg h
  case h_5 => cases hf

/-- Settles O10: a field of the effective width, extracted or inserted (04:R91). -/
theorem bitFieldResults : Obligations.BitFieldResults := by
  unfold Obligations.BitFieldResults Pushes
  intro i f s g hw hf hg h
  unfold fieldForm at hf
  split at hf
  case h_1 => cases hf; exact binary_runs (bfxVal_eq (.of_contains hw)) hg h
  case h_2 => cases hf; exact ternary_runs (bfiVal_eq _) hg h
  case h_3 => cases hf

/-- Settles O11: address sums modulo 2^56, the index scaled in 64 bits (04:R92). -/
theorem addressResults : Obligations.AddressResults := by
  unfold Obligations.AddressResults Pushes
  intro i f s g hw hf hg h
  unfold addressForm at hf
  split at hf
  case h_1 =>
    split at hf
    · rename_i ha
      subst ha
      cases hf
      exact binary_runs addVal_a56 hg h
    · cases hf
  case h_2 =>
    split at hf
    · rename_i ha
      subst ha
      cases hf
      exact binary_runs subVal_a56 hg h
    · cases hf
  case h_3 gd d a b sh =>
    cases hf
    exact binary_runs (val := fun _ a b => addscVal false a b sh.toNat) (t := .a56) (fun a b => addscVal_narrow a b _) hg h
  case h_4 gd d a b sh =>
    cases hf
    exact binary_runs (val := fun _ a b => addscVal true a b sh.toNat) (t := .a56) (fun a b => addscVal_wide a b _) hg h
  case h_5 => cases hf

/-- Settles O12: SEL reads its predicate in the lane, MOVI its type (04:R93, R94). -/
theorem selectedAndImmediateResults : Obligations.SelectedAndImmediateResults := by
  unfold Obligations.SelectedAndImmediateResults Pushes
  intro i f s g hw hf hg h
  unfold choiceForm at hf
  split at hf
  case h_1 gd t d a b p =>
    cases hf
    have kept (x : Word) : atN1 t (fun _ x => x) x = lowN t x := (lowN_eq_atN1 t x).symm
    simp only [kept] at h ⊢
    exact ValueForm.runs
      ⟨gd, d, [a, b], fun s G l => lowN t (if (G.lane l).pref p then s.opnd G 0 a l else s.opnd G 0 b l)⟩ true hg h
  case h_2 gd t d v =>
    cases hf
    exact ValueForm.runs ⟨gd, d, [], fun _ _ _ => moviVal t v⟩ false hg h
  case h_3 => cases hf

end

section
/-! Settles O13: what a push leaves (03:R56, 04:R77, R85). -/

namespace Sys2Proof.Machine

open Sys2Proof

theorem Lanes.at_mapIdx {α β : Type} (v : Lanes α) (f : Nat → α → β) {l : Nat} (hl : l < 32) :
    Lanes.at (v.mapIdx f) l = f l (Lanes.at v l) := by
  simp [Lanes.at, Nat.mod_eq_of_lt hl]

/-- A vector's element by a number within its size. -/
theorem vget_eq_getElem {α : Type} {n : Nat} (v : Vector α (n + 1)) (i : Fin (n + 1)) : vget v i.val = v[i] := by
  simp [vget, Nat.mod_eq_of_lt i.isLt]

theorem getElem_vset {α : Type} {n : Nat} (v : Vector α (n + 1)) {k : Nat} (hk : k < n + 1) (x : α) (j : Fin (n + 1)) :
    (vset v k x)[j] = if k = j.val then x else v[j] := by
  rw [vset]
  simp only [Fin.getElem_fin, Vector.getElem_set, Nat.mod_eq_of_lt hk]

theorem Lane.shift_q (x : Lane) (c : Option QCell) (a : Fin 16) :
    (x.shift c).q[a] = if a.val = 0 then c.getD (vget x.q 0) else vget x.q (a.val - 1) := by
  simp [Lane.shift]

theorem Lane.shift_rest (x : Lane) (c : Option QCell) : x.shift c = { x with q := (x.shift c).q } := rfl

/-- One lane after a push in which it acts. -/
def Lane.pushed (x : Lane) (d : Dest) (c : NCell) : Lane :=
  match d with
  | .n j => (x.shift (some ⟨c.val, true, c.pend, false⟩)).writeN j c
  | _ => x.shift (some ⟨c.val, true, c.pend, false⟩)

theorem Lane.pushed_q (x : Lane) (d : Dest) (c : NCell) : (x.pushed d c).q = (x.shift (some ⟨c.val, true, c.pend, false⟩)).q := by
  cases d <;> rfl

theorem Lane.pushed_n (x : Lane) (d : Dest) (c : NCell) (j : Fin 64) :
    (x.pushed d c).n[j] = if d = .n (BitVec.ofNat 6 j.val) then c else x.n[j] := by
  cases d with
  | none => rfl
  | k i => rfl
  | n i =>
    have named : Dest.n i = .n (BitVec.ofNat 6 j.val) ↔ i.toNat = j.val := by
      rw [Dest.n.injEq, ← BitVec.toNat_inj, BitVec.toNat_ofNat, Nat.mod_eq_of_lt j.isLt]
    simp only [named]
    exact getElem_vset x.n i.isLt c j

theorem Lane.pushed_rest (x : Lane) (d : Dest) (c : NCell) :
    x.pushed d c = { x with q := (x.pushed d c).q, n := (x.pushed d c).n } := by
  cases d <;> rfl

theorem Gang.lane_pushCells (g : Gang) (m : Mask) (d : Dest) (f : Nat → NCell) {l : Nat} (hl : l < 32) :
    (g.pushCells m d f).lane l = if m.getLsbD l then (g.lane l).pushed d (f l) else (g.lane l).shift none := by
  have lanes : (g.pushCells m d f).lanes =
      g.lanes.mapIdx fun i x => if m.getLsbD i then x.pushed d (f i) else x.shift none := by
    cases d <;> cases hlow : lowest m <;> simp only [Gang.pushCells, hlow] <;> rfl
  rw [Gang.lane, lanes, Lanes.at_mapIdx _ _ hl]
  rfl

theorem lowest_eq_none_iff (m : Mask) : lowest m = none ↔ m = 0 := by
  constructor
  · intro h
    by_contra hm
    obtain ⟨l, hl, -⟩ := lowest_some hm
    rw [h] at hl
    cases hl
  · rintro rfl
    rfl

theorem Gang.pushCells_k_vector (g : Gang) (m : Mask) (d : Dest) (f : Nat → NCell) : (g.pushCells m d f).k =
    match d, lowest m with
    | .k j, some l => vset g.k j.toNat (f l)
    | _, _ => g.k := by
  cases d <;> cases hlow : lowest m <;> simp only [Gang.pushCells, hlow]

theorem Gang.pushCells_k (g : Gang) (m : Mask) (d : Dest) (f : Nat → NCell) (j : Fin 32) :
    (g.pushCells m d f).k[j] = if m ≠ 0 ∧ d = .k (BitVec.ofNat 5 j.val) then f ((lowest m).getD 0) else g.k[j] := by
  rw [← vget_eq_getElem, Gang.pushCells_k_vector]
  cases d with
  | none => simpa only [reduceCtorEq, and_false, if_false] using vget_eq_getElem g.k j
  | n i => simpa only [reduceCtorEq, and_false, if_false] using vget_eq_getElem g.k j
  | k i =>
    have named : Dest.k i = .k (BitVec.ofNat 5 j.val) ↔ i.toNat = j.val := by
      rw [Dest.k.injEq, ← BitVec.toNat_inj, BitVec.toNat_ofNat, Nat.mod_eq_of_lt j.isLt]
    simp only [named, ne_eq, ← lowest_eq_none_iff]
    cases lowest m with
    | none => exact vget_eq_getElem g.k j
    | some l =>
      simp only [reduceCtorEq, not_false_eq_true, true_and]
      exact (vget_eq_getElem _ j).trans (getElem_vset g.k i.isLt (f l) j)

theorem Gang.pushCells_rest (g : Gang) (m : Mask) (d : Dest) (f : Nat → NCell) :
    g.pushCells m d f = { g with lanes := (g.pushCells m d f).lanes, k := (g.pushCells m d f).k } := by
  cases d <;> cases hlow : lowest m <;> simp only [Gang.pushCells, hlow]

end Sys2Proof.Machine

open Sys2Proof Sys2Proof.Machine

/-- Settles O13: the queue shifts in every lane; the acting ones hold their result at `q1` and in the named destination. -/
theorem pushShiftsEveryLane : Obligations.PushShiftsEveryLane := by
  unfold Obligations.PushShiftsEveryLane
  intro g m d f l hl x y
  have lane : y = if m.getLsbD l then x.pushed d (NCell.of (f l)) else x.shift none := g.lane_pushCells m d _ hl
  have named : ∀ j : Fin 32, (g.push m d f).k[j] = _ := g.pushCells_k m d _
  by_cases acts : m.getLsbD l = true
  · rw [if_pos acts] at lane
    clear_value y
    subst lane
    refine ⟨fun a ha => ?_, ?_, fun j => ?_, x.pushed_rest d _, named, g.pushCells_rest m d _⟩
    · rw [← vget_eq_getElem, Lane.pushed_q, vget_eq_getElem, Lane.shift_q, if_neg ha]
    · rw [if_pos acts, Lane.pushed_q]
      rfl
    · rw [Lane.pushed_n]
      simp only [acts, true_and]
      rfl
  · rw [if_neg acts] at lane
    clear_value y
    subst lane
    refine ⟨fun a ha => ?_, ?_, fun j => ?_, x.shift_rest none, named, g.pushCells_rest m d _⟩
    · rw [Lane.shift_q, if_neg ha]
    · rw [if_neg acts]
      exact x.shift_q none 0
    · rw [if_neg fun h => acts h.1]
      rfl

end

section
/-! Settles O3: the words written out in file 04 (the table after 04:R95). -/

open Sys2Proof Sys2Proof.Machine

/-- Settles O3: each word read by the decoder. -/
theorem specWordsDecode : Obligations.SpecWordsDecode := by
  unfold Obligations.SpecWordsDecode
  decide

end

section
/-! Settles O14: the instructions that write a predicate, in the lanes where they act (04:R95, 05:R109, 06:R130). -/

namespace Sys2Proof.Machine

open Sys2Proof

/-! ### Predicates written -/

theorem Lane.setPred_rest (x : Lane) (p : BitVec 3) (v : Bool) : x.setPred p v = { x with p := (x.setPred p v).p } := by
  unfold Lane.setPred
  split <;> rfl

/-- One bit of the predicates is written; `p7` is none of the seven that are kept. -/
theorem Lane.setPred_p (x : Lane) (p : BitVec 3) (v : Bool) (j : Fin 7) :
    (x.setPred p v).p[j] = if p = BitVec.ofNat 3 j.val then v else x.p[j] := by
  have named : p = BitVec.ofNat 3 j.val ↔ p.toNat = j.val := by
    rw [← BitVec.toNat_inj, BitVec.toNat_ofNat, Nat.mod_eq_of_lt (by omega)]
  have one : (BitVec.ofNat 7 (2 ^ p.toNat))[j.val] = decide (p.toNat = j.val) := by
    rw [← BitVec.getLsbD_eq_getElem, BitVec.getLsbD_ofNat, Nat.testBit_two_pow]
    simp [j.isLt]
  rw [Lane.setPred]
  by_cases last : p = 7
  · have other : p.toNat ≠ j.val := by
      subst last
      exact fun h => absurd h.symm j.isLt.ne
    rw [if_pos last, if_neg fun h => other (named.1 h)]
  · rw [if_neg last]
    cases v with
    | true =>
      simp only [if_true, Fin.getElem_fin, BitVec.getElem_or, one, named]
      by_cases here : p.toNat = j.val <;> simp [here]
    | false =>
      simp only [Bool.false_eq_true, if_false, Fin.getElem_fin, BitVec.getElem_and, BitVec.getElem_not, one, named]
      by_cases here : p.toNat = j.val <;> simp [here]

theorem Gang.lane_setPreds (g : Gang) (m : Mask) (p : BitVec 3) (f : Nat → Bool) {l : Nat} (hl : l < 32) :
    (g.setPreds m p f).lane l = if m.getLsbD l then (g.lane l).setPred p (f l) else g.lane l :=
  Lanes.at_mapIdx g.lanes _ hl

/-! ### The comparisons of integers (04:R95) -/

/-- A comparison of two words of `n` bits. -/
def compareAt (c : ICond) (sg : Bool) {n : Nat} (x y : BitVec n) : Bool :=
  match c with
  | .eq => x == y
  | .ne => x != y
  | .lt => if sg then x.slt y else x.ult y
  | .le => if sg then x.sle y else x.ule y
  | .gt => if sg then y.slt x else y.ult x
  | .ge => if sg then y.sle x else y.ule x
  | .tst => x &&& y != 0
  | .ntst => x &&& y == 0

/-- The type's readings and compared bits are those of the words' low `n` bits. -/
structure Ty.ReadsAt (t : Ty) (sg : Bool) (n : Nat) : Prop where
  fits : n ≤ 64
  val : ∀ x, tval t x = reading sg (x.setWidth n)
  bits : ∀ x, cmpBits t x = (x.setWidth n).setWidth 64

theorem and_low_bits {n : Nat} (x m : Word) (hm : m.toNat = 2 ^ n - 1) :
    x &&& m = (x.setWidth n).setWidth 64 := by
  apply BitVec.eq_of_toNat_eq
  have small : x.toNat % 2 ^ n < 2 ^ 64 := lt_of_le_of_lt (Nat.mod_le ..) x.isLt
  rw [BitVec.toNat_and, hm, Nat.and_two_pow_sub_one_eq_mod, BitVec.toNat_setWidth, BitVec.toNat_setWidth, Nat.mod_eq_of_lt small]

theorem Ty.readsAt_z32 : Ty.ReadsAt .z32 false 32 :=
  ⟨by decide, tval_arith .z32, fun x => and_low_bits x _ (by decide)⟩

theorem Ty.readsAt_s32 : Ty.ReadsAt .s32 true 32 :=
  ⟨by decide, tval_arith .s32, fun x => and_low_bits x _ (by decide)⟩

theorem Ty.readsAt_s64 : Ty.ReadsAt .s64 true 64 :=
  ⟨by decide, tval_arith .s64, fun x => by simp [cmpBits]⟩

theorem Ty.readsAt_a56 : Ty.ReadsAt .a56 false 56 :=
  ⟨by decide, fun x => congrArg Int.ofNat (uval_eq_toNat 56 x), fun x => and_low_bits x _ (by decide)⟩

theorem Ty.ReadsAt.eval {t : Ty} {sg : Bool} {n : Nat} (h : Ty.ReadsAt t sg n) (c : ICond) (a b : Word) :
    ICond.eval c t a b = compareAt c sg (a.setWidth n) (b.setWidth n) := by
  have common : cmpBits t a &&& cmpBits t b = 0 ↔ a.setWidth n &&& b.setWidth n = 0 := by
    rw [h.bits, h.bits, ← BitVec.setWidth_and, ← BitVec.toNat_inj, ← BitVec.toNat_inj, BitVec.toNat_setWidth_of_le h.fits]
    rfl
  cases c with
  | eq => rw [Bool.eq_iff_iff]; simp [ICond.eval, compareAt, h.val, reading_inj]
  | ne => rw [Bool.eq_iff_iff]; simp [ICond.eval, compareAt, h.val, reading_inj]
  | lt => simp [ICond.eval, compareAt, h.val, reading_lt_iff]
  | le => simp [ICond.eval, compareAt, h.val, reading_le_iff]
  | gt => simp [ICond.eval, compareAt, h.val, reading_lt_iff]
  | ge => simp [ICond.eval, compareAt, h.val, reading_le_iff]
  | tst => rw [Bool.eq_iff_iff]; simpa [ICond.eval, compareAt] using not_congr common
  | ntst => rw [Bool.eq_iff_iff]; simpa [ICond.eval, compareAt] using common

theorem ICond.eval_eq_compare {t : Ty} {b : Bool} (h : ([Ty.z32, .s32, .s64, .a56].contains t && b) = true) (c : ICond)
    (x y : Word) : ICond.eval c t x y = compare c t x y := by
  have listed : t = .z32 ∨ t = .s32 ∨ t = .s64 ∨ t = .a56 := by simpa using (Bool.and_eq_true_iff.1 h).1
  rcases listed with rfl | rfl | rfl | rfl
  · exact (Ty.readsAt_z32.eval c x y).trans (by cases c <;> rfl)
  · exact (Ty.readsAt_s32.eval c x y).trans (by cases c <;> rfl)
  · exact (Ty.readsAt_s64.eval c x y).trans (by cases c <;> rfl)
  · exact (Ty.readsAt_a56.eval c x y).trans (by cases c <;> rfl)

/-! ### Instructions -/

/-- An instruction that writes the bits of its form in the lanes where it acts. -/
theorem PredForm.writes {i : Instr} {f : PredForm} {s : State} {g : Gang}
    (h : exec i s = .next (s.setGang (g.setPreds (g.acts f.gd) f.pd (f.bit s g)).advance)) :
    ∃ g' : Gang, exec i s = .next (s.setGang g'.advance) ∧ g' = { g with lanes := g'.lanes } ∧
      ∀ l < 32, (g'.lane l) = { g.lane l with p := (g'.lane l).p } ∧
        ∀ j : Fin 7, (g'.lane l).p[j] =
          (if (g.acts f.gd).getLsbD l = true ∧ f.pd = BitVec.ofNat 3 j.val then f.bit s g l else (g.lane l).p[j]) := by
  refine ⟨_, h, rfl, fun l hl => ?_⟩
  rw [Gang.lane_setPreds _ _ _ _ hl]
  by_cases acts : (g.acts f.gd).getLsbD l = true
  · rw [if_pos acts]
    refine ⟨Lane.setPred_rest .., fun j => ?_⟩
    rw [Lane.setPred_p]
    simp only [acts, true_and]
  · rw [if_neg acts]
    refine ⟨rfl, fun j => ?_⟩
    rw [if_neg fun h => acts h.1]

theorem State.perLane_setPreds {s : State} {g : Gang} {gd : Guard} {os : List Opnd} (pd : BitVec 3)
    (bit : Gang → Mask → Nat → Bool) (preds : Bool) (hg : s.curGang = some g) (h : g.Ready gd os) :
    s.perLane gd os (fun G m => s.done (G.setPreds m pd (bit G m))) preds =
      .next (s.setGang (g.setPreds (g.acts gd) pd (bit g (g.acts gd))).advance) :=
  State.perLane_ready _ preds hg h

end Sys2Proof.Machine

open Sys2Proof Sys2Proof.Machine

/-- Settles O14: each instruction by the bit of its form. -/
theorem predicatesWritten : Obligations.PredicatesWritten := by
  unfold Obligations.PredicatesWritten
  intro i f s g hw hf hg h
  unfold predForm at hf
  split at hf
  case h_1 gd t cc pd a b imm =>
    cases hf
    apply PredForm.writes
    have eval : ICond.eval cc t = compare cc t := funext fun x => funext fun y => ICond.eval_eq_compare hw cc x y
    have ran : exec (.cmp gd t cc pd a b imm) s = _ := State.perLane_setPreds pd
      (fun G _ l => ICond.eval cc t (s.opnd G imm a l) (s.opnd G imm b l)) false hg h
    rw [ran, eval]
  case h_2 gd t cc pd a b imm =>
    cases hf
    exact PredForm.writes (State.perLane_setPreds pd
      (fun G _ l => (ftyFmt t).cmp cc (s.fread G imm a l (ftyFmt t)) (s.fread G imm b l (ftyFmt t))) false hg h)
  case h_3 gd pd pa =>
    cases hf
    exact PredForm.writes (State.perLane_setPreds pd (fun G m _ => G.ballot m pa != 0) true hg h)
  case h_4 gd pd pa =>
    cases hf
    exact PredForm.writes (State.perLane_setPreds pd (fun G m _ => G.ballot m pa == m) true hg h)
  case h_5 gd pd a =>
    cases hf
    exact PredForm.writes (State.perLane_setPreds pd
      (fun G m l => s.opnd G 0 a l == s.opnd G 0 a ((lowest m).getD 0)) false hg h)
  case h_6 gd pd pa pb =>
    cases hf
    exact PredForm.writes (State.perLane_setPreds pd (fun G _ l => (G.lane l).pref pa && (G.lane l).pref pb) true hg h)
  case h_7 gd pd pa pb =>
    cases hf
    exact PredForm.writes (State.perLane_setPreds pd (fun G _ l => (G.lane l).pref pa || (G.lane l).pref pb) true hg h)
  case h_8 gd pd pa pb =>
    cases hf
    exact PredForm.writes (State.perLane_setPreds pd (fun G _ l => (G.lane l).pref pa != (G.lane l).pref pb) true hg h)
  case h_9 gd pd pa pb =>
    cases hf
    exact PredForm.writes (State.perLane_setPreds pd (fun G _ l => (G.lane l).pref pa && !(G.lane l).pref pb) true hg h)
  case h_10 => cases hf

end

section
/-! Settles O49: an arriving value fills the cells that wait for it (04:R81, R82). -/

namespace Sys2Proof.Machine

open Sys2Proof

/-! ### Cells -/

/-- A queue entry once the value of request `id` has come. -/
def QCell.fill (c : QCell) (id : Nat) (v : Word) : QCell := if c.pend = some id then { c with val := v, pend := none } else c

/-- A named register once the value of request `id` has come. -/
def NCell.fill (c : NCell) (id : Nat) (v : Word) : NCell := if c.pend = some id then NCell.of v else c

/-- The gang `g'` is `g` with the cells that wait for request `id` filled, its spin history aside. -/
structure Gang.Filled (g g' : Gang) (id : Nat) (vals : Nat → Word) (m : Mask) : Prop where
  rest : g' = { g with lanes := g'.lanes, k := g'.k, spin := g'.spin }
  lane : ∀ l < 32, g'.lane l = { g.lane l with
    q := (g.lane l).q.map fun c => c.fill id (vals l), n := (g.lane l).n.map fun c => c.fill id (vals l) }
  k : g'.k = g.k.map fun c => c.fill id (vals ((lowest m).getD 0))

/-- The values that a request brings fill the cells of its gang. -/
theorem Gang.filled_deliver (g : Gang) (id : Nat) (vals : Nat → Word) (m : Mask) (returned : List Nat) (load : Bool) :
    g.Filled ((g.deliver id vals m).spinReturn returned load) id vals m :=
  ⟨rfl, fun _ hl => Lanes.at_mapIdx g.lanes _ hl, rfl⟩

theorem Gang.Filled.gid {g g' : Gang} {id : Nat} {vals : Nat → Word} {m : Mask} (h : g.Filled g' id vals m) : g'.gid = g.gid := by
  rw [h.rest]

/-- What the claim says of the cells of a gang that is filled. -/
theorem Gang.Filled.cells {g g' : Gang} {id : Nat} {vals : Nat → Word} {m : Mask} (h : g.Filled g' id vals m) :
    (∀ l < 32, (g'.lane l) = { g.lane l with q := (g'.lane l).q, n := (g'.lane l).n } ∧
      (∀ a : Fin 16, (g'.lane l).q[a] = ((g.lane l).q[a]).fill id (vals l)) ∧
      ∀ j : Fin 64, (g'.lane l).n[j] = ((g.lane l).n[j]).fill id (vals l)) ∧
    ∀ j : Fin 32, g'.k[j] = (g.k[j]).fill id (vals ((lowest m).getD 0)) := by
  refine ⟨fun l hl => ?_, fun j => ?_⟩
  · have lane := h.lane l hl
    generalize g'.lane l = x at lane
    subst lane
    exact ⟨rfl, fun a => Vector.getElem_map .., fun j => Vector.getElem_map ..⟩
  · have k := h.k
    generalize g'.k = v at k
    subst k
    exact Vector.getElem_map ..

/-! ### Arrivals -/

theorem State.forGang_some {s : State} {gid : Nat} {g : Gang} (hg : s.gang? gid = some g) (f : Gang → Gang) :
    (s.forGang gid fun s g => (s, f g)) = s.setGang (f g) := by
  rw [State.forGang, hg]

/-- The late values of an instruction arrive. -/
theorem execLateValueArrival_late {s : State} {id : Nat} {x : LateVal} {g : Gang} (hr : s.reqs.find? (fun r => r.id == id) = none)
    (hx : s.lates.find? (fun y => y.id == id) = some x) (ready : x.ready = true) (hg : s.gang? x.gid = some g) :
    ∃ (t : State) (g' : Gang), exec (.lateValueArrival id) s = .next t ∧ t.gangs = (s.setGang g').gangs ∧
      g.Filled g' id (Lanes.at x.vals) x.lanes ∧ s.SameMem t := by
  have hid : x.id = id := by simpa using List.find?_some hx
  refine ⟨{ s.setGang ((g.deliver x.id (Lanes.at x.vals) x.lanes).spinReturn
    ((lanesOf x.lanes).map fun l => (Lanes.at x.vals l).toNat) false) with lates := s.lates.filter fun y => y.id != x.id },
    _, ?_, rfl, hid ▸ g.filled_deliver x.id _ _ _ _, fun _ _ => rfl⟩
  change execLateValueArrival id s = _
  simp only [execLateValueArrival, hr, hx, ready, Bool.not_true, Bool.false_eq_true, if_false, State.forGang_some hg]
  rfl

/-- The values of a request to memory arrive, behind the replies that were sent before them. -/
theorem execLateValueArrival_request {s : State} {id : Nat} {r : MemReq} {g : Gang}
    (hr : s.reqs.find? (fun r => r.id == id) = some r) (new : r.arrived = false) (done : r.performed = true)
    (first : ∀ x ∈ s.reqs, s.repliesFirst x r = false) (hg : s.gang? r.gid = some g) :
    ∃ (t : State) (g' : Gang), exec (.lateValueArrival id) s = .next t ∧ t.gangs = (s.setGang g').gangs ∧
      g.Filled g' id r.value r.lanes ∧ s.SameMem t := by
  have hid : r.id = id := by simpa using List.find?_some hr
  have behind : s.reqs.any (s.repliesFirst · r) = false := by simpa using first
  obtain ⟨load, ran⟩ : ∃ load, exec (.lateValueArrival id) s = .next ((s.setGang ((g.deliver r.id r.value r.lanes).spinReturn
      (r.accs.map fun a => a.val.toNat) load)).setReq { r with arrived := true }).tidy := by
    apply Exists.intro
    change execLateValueArrival id s = _
    simp only [execLateValueArrival, hr, new, done, behind, Bool.not_true, Bool.and_false, Bool.or_false,
      Bool.false_eq_true, if_false, State.forGang_some hg]
    rfl
  exact ⟨_, _, ran, rfl, hid ▸ g.filled_deliver r.id _ _ _ load, fun _ _ => rfl⟩

end Sys2Proof.Machine

open Sys2Proof Sys2Proof.Machine

/-- Settles O49: late values and requests fill the cells of their gang alike. -/
theorem lateValuesFillTheirCells : Obligations.LateValuesFillTheirCells := by
  unfold Obligations.LateValuesFillTheirCells
  intro s id g vals m h
  obtain ⟨t, g', ran, gangs, filled, mem⟩ : ∃ (t : State) (g' : Gang), exec (.lateValueArrival id) s = .next t ∧
      t.gangs = (s.setGang g').gangs ∧ g.Filled g' id vals m ∧ s.SameMem t := by
    rcases h with ⟨x, hr, hx, ready, hg, rfl, rfl⟩ | ⟨r, hr, new, done, first, hg, rfl, rfl⟩
    · exact execLateValueArrival_late hr hx ready hg
    · exact execLateValueArrival_request hr new done first hg
  exact ⟨t, g', ran, gangs, filled.rest, filled.cells.1, filled.cells.2, mem⟩

end

section
/-! Settles O57: attestation, monitors, the exchange of the stream clock, scrubbers, resets and power failure (14:R298, 18:R349,
22:R425-R427). -/

namespace Sys2Proof.Machine

open Sys2Proof

/-! ### Attestation (22:R426) -/

theorem exec_attestQuote_next {s : State} (idle : s.sys.attState ≠ 1) (left : s.sys.attNext < 32768) :
    exec .attestQuote s = .next { s with sys := { s.sys with
      attState := 1, attNext := s.sys.attNext + 1, attMsg := s.quote s.sys.attNext, attSig := [] } } := by
  change execAttestQuote s = _
  simp only [execAttestQuote, idle, Nat.not_le.2 left, if_false]

theorem exec_attestQuote_exhausted {s : State} (idle : s.sys.attState ≠ 1) (none : 32768 ≤ s.sys.attNext) :
    exec .attestQuote s = .next (({ s with sys := { s.sys with attState := 3 } } : State).msix .none 12) := by
  change execAttestQuote s = _
  simp only [execAttestQuote, idle, none, if_false, if_true]

theorem exec_attestSignDone {s : State} (runs : s.sys.attState = 1) :
    exec .attestSignDone s = .next (({ s with sys := { s.sys with
      attState := 2, attSig := identitySign (s.sys.attNext - 1) s.sys.attMsg } } : State).msix none 12) := by
  change execAttestSignDone s = _
  simp only [execAttestSignDone, runs, ne_eq, not_true_eq_false, if_false]

/-! ### Monitors (22:R427) -/

theorem State.group_setGroup (s : State) (k : Nat) (x : Group) : (s.setGroup k x).group k = x := vget_vset_same ..

theorem exec_thermalThrottle (s : State) {k : Nat} (temp droop proc : Nat) (hot : Bool) (hk : k < 96) :
    ∃ t : State, exec (.thermalThrottle k temp droop proc hot) s = .next t ∧
      (t.group k).temp = BitVec.ofNat 12 temp ∧ (t.group k).droop = BitVec.ofNat 8 droop ∧ t.gangs = s.gangs ∧
      t.sys.clock = if 420 < temp % 4096 ∨ hot = true then Nat.max 650 (s.sys.clock - 25) else s.sys.clock := by
  refine ⟨_, if_neg (Nat.not_le.2 hk), ?_⟩
  have group : (s.readings k temp droop proc).group k =
      { s.group k with temp := BitVec.ofNat 12 temp, droop := BitVec.ofNat 8 droop, proc := BitVec.ofNat 16 proc } :=
    State.group_setGroup ..
  by_cases slow : 420 < temp % 4096 ∨ hot = true
  · have slow' : (decide (420 < temp % 4096) || hot) = true := by simpa using slow
    rw [if_pos slow]
    simp only [slow', if_true]
    exact ⟨congrArg Group.temp group, congrArg Group.droop group, rfl, rfl⟩
  · have slow' : (decide (420 < temp % 4096) || hot) = false := by simpa using slow
    rw [if_neg slow]
    simp only [slow', Bool.false_eq_true, if_false]
    exact ⟨congrArg Group.temp group, congrArg Group.droop group, rfl, rfl⟩

theorem State.overheated_iff (s : State) : s.overheated = true ↔ ∃ k : Fin 96, 460 ≤ s.groups[k].temp.toNat := by
  simp only [State.overheated, Vector.any_eq_true, decide_eq_true_eq]
  exact ⟨fun ⟨i, hi, h⟩ => ⟨⟨i, hi⟩, h⟩, fun ⟨k, h⟩ => ⟨k, k.isLt, h⟩⟩

theorem exec_thermalStop {s : State} (h : s.overheated = true) :
    exec .thermalStop s = .next (({ s with sys := { s.sys with stopped := true } } : State).msix none 0) := by
  change execThermalStop s = _
  simp only [execThermalStop, h, Bool.not_true, Bool.false_eq_true, if_false]

theorem exec_thermalStop_cool {s : State} (h : s.overheated = false) : exec .thermalStop s = .refused .cannotOccur := by
  change execThermalStop s = _
  simp only [execThermalStop, h, Bool.not_false, if_true]

theorem Action.stops_iff (a : Action) : a.stops = true ↔
    a = .event .thermalStop ∨ a = .event .powerFailure ∨ ∃ image signed, a = .event (.deviceReset image signed) := by
  constructor
  · intro h
    unfold Action.stops at h
    split at h
    · exact .inl rfl
    · exact .inr (.inr ⟨_, _, rfl⟩)
    · exact .inr (.inl rfl)
    · cases h
  · rintro (rfl | rfl | ⟨image, signed, rfl⟩) <;> rfl

/-- An overheated device does nothing but what stops it. -/
theorem State.act_overheated {s t : State} {a : Action} (h : s.overheated = true) (runs : s.sys.stopped = false)
    (done : s.act a = .next t) : a.stops = true := by
  by_contra other
  have other : a.stops = false := by simpa using other
  simp [State.act, h, runs, other] at done

/-! ### The exchange of the stream clock (18:R349, 22:R423) -/

theorem exec_ptmExchange_early {s : State} (h : s.ptmDue = false) (ns : Int) :
    exec (.ptmExchange ns) s = .refused .cannotOccur := by
  change execPtmExchange ns s = _
  simp only [execPtmExchange, h, Bool.not_false, if_true]

theorem exec_ptmExchange {s : State} (h : s.ptmDue = true) (ns : Int) : ∃ t : State, exec (.ptmExchange ns) s = .next t ∧
    t.sys.ptmAt = s.sys.ptmAt + 1000 * (s.sys.ptmctl % 65536) ∧
    (1000000 < ns → t.sys.ptp = s.sys.ptp + ns.toNat ∧ t.sys.slew = s.sys.slew ∧
      ∀ f : Fin 4, t.foots[f].ptp = s.foots[f].ptp + ns.toNat) ∧
    (ns ≤ 1000000 → t = { s with sys := { s.sys with slew := s.sys.slew + ns, ptmAt := t.sys.ptmAt } }) := by
  have due : exec (.ptmExchange ns) s = _ := if_neg (show ¬ (!s.ptmDue) = true by simp [h])
  by_cases jump : 1000000 < ns
  · refine ⟨_, due.trans (if_pos jump), rfl, fun _ => ⟨rfl, rfl, fun f => ?_⟩, fun h => absurd h (not_le.2 jump)⟩
    simp
  · exact ⟨_, due.trans (if_neg jump), rfl, fun h => absurd h jump, fun _ => rfl⟩

/-! ### Scrubbers (04:R87, 14:R298) -/

/-- A word counted. -/
def scrubUp (double : Bool) (x : BitVec 32 × BitVec 32) : BitVec 32 × BitVec 32 :=
  if double then (x.1, x.2 + 1) else (x.1 + 1, x.2)

/-- A word marked changes a gang's register, the marks or an L1 line alone. -/
theorem State.markWord_rest (s : State) (c u : Nat) (m : Nat × Nat × Nat) : s.markWord c u m =
    { s with gangs := (s.markWord c u m).gangs, marks := (s.markWord c u m).marks, l1 := (s.markWord c u m).l1 } := by
  unfold State.markWord
  dsimp only
  split
  case h_1 => split <;> rfl
  case h_2 =>
    split
    · split <;> rfl
    · rfl
  case h_3 => split <;> rfl
  case h_4 => split <;> rfl
  all_goals rfl

theorem State.countScrub_rest (s : State) (c u : Nat) (double : Bool) : s.countScrub c u double =
    { s with cores := (s.countScrub c u double).cores, groups := (s.countScrub c u double).groups } := by
  unfold State.countScrub
  dsimp only
  split
  · rfl
  · split <;> rfl

theorem State.countScrub_group (s : State) (c : Nat) (double : Bool) :
    ((s.countScrub c 1 double).group (groupOf c)).scrub = scrubUp double (s.group (groupOf c)).scrub := by
  rw [State.countScrub, if_pos rfl, State.group_setGroup]
  rfl

theorem State.countScrub_core (s : State) {c u : Nat} (double : Bool) (other : u ≠ 1) (counted : u ≤ 5) :
    vget ((s.countScrub c u double).core c).scrub u = scrubUp double (vget (s.core c).scrub u) := by
  rw [State.countScrub, if_neg other, if_pos counted, State.core, State.setCore, vget_vset_same, vget_vset_same]
  rfl

theorem exec_scrubberRead {s : State} {c u : Nat} (double : Bool) (mark : Option (Nat × Nat × Nat)) (hc : c < 384) (hu : u ≤ 6) :
    exec (.scrubberRead c u double mark) s = match mark with
      | none => .next s
      | some m => .next (if double then (s.countScrub c u double).markWord c u m else s.countScrub c u double) := by
  refine (if_neg (by omega)).trans ?_
  cases mark <;> rfl

/-- An error found by a scrubber: counted, and an uncorrectable word marked. -/
theorem exec_scrubberRead_error {s : State} {c u : Nat} (double : Bool) (m : Nat × Nat × Nat) (hc : c < 384) (hu : u ≤ 6) :
    ∃ t : State, exec (.scrubberRead c u double (some m)) s = .next t ∧ s.SameMem t ∧
      (u = 1 → (t.group (groupOf c)).scrub = scrubUp double (s.group (groupOf c)).scrub) ∧
      (u ≠ 1 → u ≤ 5 → vget (t.core c).scrub u = scrubUp double (vget (s.core c).scrub u)) ∧
      (double = false → t.marks = s.marks ∧ t.gangs = s.gangs) ∧
      (double = true → u = 6 → t.marks = s.marks ++ [⟨6, 0, m.2.2⟩]) := by
  refine ⟨_, exec_scrubberRead double (some m) hc hu, ?_⟩
  have counted := s.countScrub_rest c u double
  cases double with
  | false =>
    refine ⟨?_, ?_, s.countScrub_core false, fun _ => ?_, nofun⟩
    · intro f a
      rw [if_neg (by decide), counted]
      rfl
    · rintro rfl
      exact s.countScrub_group c false
    · rw [if_neg (by decide), counted]
      exact ⟨rfl, rfl⟩
  | true =>
    have marked := (s.countScrub c u true).markWord_rest c u m
    refine ⟨?_, ?_, ?_, nofun, ?_⟩
    · intro f a
      rw [if_pos rfl, marked, counted]
      rfl
    · rintro rfl
      rw [if_pos rfl, marked]
      exact s.countScrub_group c true
    · intro other counted
      rw [if_pos rfl, marked]
      exact s.countScrub_core true other counted
    · rintro - rfl
      rfl

/-! ### Resets and power failure (22:R425, R426) -/

/-- Cells put together by a key of their address: those of the address's own key are read. -/
theorem Memory.read_flatMap {n k a : Nat} (F : Nat → Memory) (hk : k < n) (h : ∀ f, f ≠ k → ∀ c ∈ F f, c.1 ≠ a) :
    Memory.read ((List.range n).flatMap F) a = (F k).read a := by
  induction n with
  | zero => omega
  | succ n ih =>
    rw [List.range_succ, List.flatMap_append, List.flatMap_singleton]
    by_cases last : k = n
    · subst last
      refine Memory.read_append_right fun c hc => ?_
      obtain ⟨f, hf, hc⟩ := List.mem_flatMap.1 hc
      exact h f (by simpa using (List.mem_range.1 hf).ne) c hc
    · rw [Memory.read_append_left (h n (Ne.symm last)), ih (by omega)]

theorem State.read_homeMem (s : State) (a : Nat) :
    s.homeMem.read a = (s.mem (if a < 2 ^ 40 then a / 2 ^ 38 else 0)).read a := by
  rw [State.homeMem]
  by_cases device : a < 2 ^ 40
  · rw [if_pos device, Memory.read_append_left, Memory.read_flatMap (k := a / 2 ^ 38) _ (by omega), Memory.read_filter]
    · intro b
      simpa using device
    · rintro f hf c hc rfl
      simp only [List.mem_filter, Bool.and_eq_true, beq_iff_eq] at hc
      exact hf hc.2.2.symm
    · rintro c hc rfl
      simp only [List.mem_filter, decide_eq_true_eq] at hc
      omega
  · rw [if_neg device, Memory.read_append_right, Memory.read_filter]
    · intro b
      simpa using device
    · rintro c hc rfl
      obtain ⟨f, -, hc⟩ := List.mem_flatMap.1 hc
      simp only [List.mem_filter, Bool.and_eq_true, decide_eq_true_eq] at hc
      exact device hc.2.1

theorem State.restart_mem (s : State) (m : Memory) (f : Nat) : (s.restart m).mem f = m := by
  simp [State.mem, State.restart, vget]

theorem Sys.accepts_iff (y : Sys) (image key sig : List Byte) : y.accepts image key sig = true ↔
    sha256 key = Config.bootKey.toList ∧ lmsVerify otsW4 key image sig = true ∧ y.secver.val ≤ Config.imageVersion image := by
  simp [Sys.accepts, and_assoc]

theorem exec_deviceReset (s : State) (image key sig : List Nat) (bytes : List Nat → List Byte)
    (hb : bytes = fun l => l.map (BitVec.ofNat 8)) :
    ∃ t : State, exec (.deviceReset image (key, sig)) s = .next t ∧
      (t.sys.firmware = true ↔ sha256 (bytes key) = Config.bootKey.toList ∧
        lmsVerify otsW4 (bytes key) (bytes image) (bytes sig) = true ∧ s.sys.secver.val ≤ Config.imageVersion (bytes image)) ∧
      t.sys.attNext = s.sys.attNext ∧ t.gangs = [] ∧ t.streams = [] ∧
      ∀ f a, (t.mem f).read a = (s.mem (if a < 2 ^ 40 then a / 2 ^ 38 else 0)).read a := by
  subst hb
  refine ⟨_, rfl, Sys.accepts_iff .., rfl, rfl, rfl, fun f a => ?_⟩
  exact (congrArg (fun m => Memory.read m a) (s.restart_mem s.homeMem f)).trans (s.read_homeMem a)

theorem exec_powerFailure (s : State) : ∃ t : State, exec .powerFailure s = .next t ∧ t.sys.stopped = true ∧
    t.sys.attNext = s.sys.attNext ∧ ∀ f a, a < 2 ^ 40 → (t.mem f).read a = 0 := by
  refine ⟨_, rfl, rfl, rfl, fun f a ha => ?_⟩
  have lost : Memory.read (s.homeMem.filter fun c => decide (2 ^ 40 ≤ c.1)) a = 0 := by
    refine Memory.read_none ?_
    rintro c hc rfl
    simp only [List.mem_filter, decide_eq_true_eq] at hc
    omega
  exact (congrArg (fun m => Memory.read m a) (s.restart_mem _ f)).trans lost

end Sys2Proof.Machine

open Sys2Proof Sys2Proof.Machine

/-- Settles O57: each event by its own lemma. -/
theorem deviceEventsHappen : Obligations.DeviceEventsHappen := by
  unfold Obligations.DeviceEventsHappen
  intro s
  refine ⟨exec_attestQuote_next, exec_attestQuote_exhausted, exec_attestSignDone, fun k temp droop proc hot =>
    exec_thermalThrottle s temp droop proc hot, fun k hk => ?_, fun cool => ?_, exec_ptmExchange_early,
    fun ns due => exec_ptmExchange due ns, fun c u double m hc hu => ?_, fun image key sig => exec_deviceReset s image key sig _ rfl,
    exec_powerFailure s⟩
  · have hot : s.overheated = true := s.overheated_iff.2 ⟨k, hk⟩
    exact ⟨exec_thermalStop hot, fun runs a t done => (Action.stops_iff a).1 (State.act_overheated hot runs done)⟩
  · refine exec_thermalStop_cool (Bool.eq_false_iff.2 fun hot => ?_)
    obtain ⟨k, hk⟩ := s.overheated_iff.1 hot
    exact absurd hk (Nat.not_le.2 (cool k))
  · obtain ⟨t, ran, mem, group, core, kept, marked⟩ := exec_scrubberRead_error (s := s) double m hc hu
    exact ⟨exec_scrubberRead double none hc hu, t, ran, mem, ⟨group, core⟩, kept, marked⟩

end

section
/-! Settles O15: the instructions of class 1 that push (05:R108, R110, R112, R113, R116-R118). Their values are read off the
formats at issue, those of EX2 and LG2 by the model's series (log 12); the moves of file 05 are those of the operands' bits, a small
constant read as its integer pattern (log 57). -/

namespace Sys2Proof.Machine

open Sys2Proof

/-! ### Bits moved (05:R116) -/

/-- The low `n` bits of two registers side by side. -/
theorem ofNat_uval_pair (n : Nat) (x y : Word) :
    BitVec.ofNat 64 (uval n x + uval n y * 2 ^ n) = (y.setWidth n ++ x.setWidth n).setWidth 64 := by
  have side_by_side : uval n x + uval n y * 2 ^ n = (y.setWidth n ++ x.setWidth n).toNat := by
    rw [uval_eq_toNat, uval_eq_toNat, BitVec.toNat_append, Nat.shiftLeft_eq, Nat.mul_comm,
      ← Nat.two_pow_add_eq_or_of_lt (BitVec.isLt _), Nat.add_comm]
  rw [side_by_side, BitVec.ofNat_toNat]

theorem ofNat_bits (x : Word) (lo w : Nat) : BitVec.ofNat 64 (bits x lo w) = (x.extractLsb' lo w).setWidth 64 := by
  rw [bits, ← BitVec.extractLsb'_toNat, BitVec.ofNat_toNat]

theorem ofNat_bits_low (x : Word) (w : Nat) : BitVec.ofNat 64 (bits x 0 w) = (x.setWidth w).setWidth 64 := by
  rw [bits, Nat.shiftRight_zero, ← BitVec.toNat_setWidth, BitVec.ofNat_toNat]

/-- The bits above the lowest `lo`, moved down. -/
theorem ofNat_bits_high (x : Word) {lo w : Nat} (h : 64 ≤ lo + w) : BitVec.ofNat 64 (bits x lo w) = x >>> lo := by
  have small : x.toNat >>> lo < 2 ^ w := by
    rw [Nat.shiftRight_eq_div_pow, Nat.div_lt_iff_lt_mul (by positivity), ← pow_add, Nat.add_comm w]
    exact lt_of_lt_of_le x.isLt (Nat.pow_le_pow_right (by decide) h)
  rw [bits, Nat.mod_eq_of_lt small, ← BitVec.toNat_ushiftRight, BitVec.ofNat_toNat, BitVec.setWidth_eq]

/-! ### Instructions -/

/-- An instruction whose value at issue is that of its form. -/
theorem ValueForm.runs_of_val {s : State} {g : Gang} (f : ValueForm) {val : Gang → Nat → Word} (hv : val g = f.val s g)
    (hg : s.curGang = some g) (h : g.Ready f.gd f.os) : s.value f.gd f.d f.os val = .next (f.after s g) := by
  rw [State.value_ready f.d val false hg h, hv]
  rfl

/-- The instructions that read the bytes of every acting lane at once (05:R117, R118): `block` gives byte `n` of what they push. -/
theorem State.perLane_gathered_runs {s : State} {g : Gang} {gd : Guard} {d : Dest} {a : Opnd}
    (block : (Nat → Nat) → Nat → Nat) (hg : s.curGang = some g) (h : g.Ready gd [a]) :
    s.perLane gd [a] (fun G m => s.done (G.push m d fun l => wordOf fun i =>
        block (fun i => if m.getLsbD (i / 8) then byteOf (s.opnd G 0 a (i / 8)) (i % 8) else 0) (8 * l + i))) =
      .next ((⟨gd, d, [a], fun s G l => wordOf fun i => block (s.gathered G gd a) (8 * l + i)⟩ : ValueForm).after s g) :=
  State.perLane_ready _ false hg h

end Sys2Proof.Machine

open Sys2Proof Sys2Proof.Machine

/-- Settles O15: the moves of halves by what they are of the bits, the bit planes by the lanes gathered; elsewhere the form is the
meaning itself, and the issue rule suffices. -/
theorem floatInstructionsPush : Obligations.FloatInstructionsPush := by
  unfold Obligations.FloatInstructionsPush Pushes
  intro i f s g hw hf hg h
  unfold floatForm at hf
  split at hf
  case h_18 gd d a b imm =>
    cases hf
    exact ValueForm.runs_of_val (form2 gd d imm a b _) (funext fun _ => ofNat_uval_pair 16 _ _) hg h
  case h_19 gd d a b imm =>
    cases hf
    exact ValueForm.runs_of_val (form2 gd d imm a b _)
      (funext fun _ => (ofNat_uval_pair 32 _ _).trans (BitVec.setWidth_eq _)) hg h
  case h_20 gd d a imm =>
    cases hf
    exact ValueForm.runs_of_val (form1 gd d imm a _) (funext fun _ => ofNat_bits_low _ 16) hg h
  case h_21 gd d a imm =>
    cases hf
    exact ValueForm.runs_of_val (form1 gd d imm a _) (funext fun _ => ofNat_bits _ 16 16) hg h
  case h_22 gd d a imm =>
    cases hf
    exact ValueForm.runs_of_val (form1 gd d imm a _) (funext fun _ => ofNat_bits_high _ (by decide)) hg h
  case h_24 => cases hf; exact State.perLane_gathered_runs bpByte hg h
  case h_25 gd d a p => cases hf; exact State.perLane_gathered_runs (fun v => bpValue v p.toNat) hg h
  case h_26 => cases hf
  all_goals
    refine Eq.trans ?_ (f.runs false hg h)
    cases hf
    rfl

end

section
/-! Settles O16: ballots and masks pushed, MOVEM.SET and MOVEM.SETP (06:R130, R131). -/

namespace Sys2Proof.Machine

open Sys2Proof

/-- MOVEM.GETP sets the bit of `p7` above the seven that are kept (06:R130). -/
theorem setWidth_or_p7 (p : BitVec 7) : (p.setWidth 64 ||| 0x80 : Word) = ((1 : BitVec 1) ++ p : BitVec 8).setWidth 64 := by
  have small : p.toNat < 2 ^ 64 := by omega
  have joined : 2 ^ 7 ||| p.toNat < 2 ^ 64 := Nat.or_lt_two_pow (by decide) small
  apply BitVec.eq_of_toNat_eq
  rw [BitVec.toNat_or, BitVec.toNat_setWidth, BitVec.toNat_setWidth, BitVec.toNat_append, Nat.mod_eq_of_lt small,
    Nat.or_comm]
  exact (Nat.mod_eq_of_lt joined).symm

theorem execVoteBallot_ready {s : State} {g : Gang} {gd : Guard} (d : Dest) (pa : PRef) (hg : s.curGang = some g)
    (h : g.Ready gd []) :
    execVoteBallot gd d pa s = s.done (g.push (g.acts gd) d fun _ => (g.agree gd pa).setWidth 64) :=
  State.perLane_ready _ true hg h

theorem execMovemGetp_ready {s : State} {g : Gang} {gd : Guard} (d : Dest) (hg : s.curGang = some g) (h : g.Ready gd []) :
    execMovemGetp gd d s =
      s.done (g.push (g.acts gd) d fun l => ((1 : BitVec 1) ++ (g.lane l).p : BitVec 8).setWidth 64) := by
  simp only [← setWidth_or_p7]
  exact State.perLane_ready _ true hg h

/-- MOVEM.SET with the lanes of the level that operand A names (06:R131). -/
theorem execMovemSet_once {s : State} {g : Gang} {gd : Guard} {d : Dest} {a : Opnd} {l : Nat} (h : s.Once g gd [a] l) :
    execMovemSet gd d a s =
      if (s.opnd g 0 a l).setWidth 32 &&& g.levelLanes = 0 then s.trapEm g 0x0C (s.opnd g 0 a l)
      else s.done { g.push (g.acts gd) d (fun _ => g.em.setWidth 64) with
        em := (s.opnd g 0 a l).setWidth 32 &&& g.levelLanes } := h.runs true _

theorem execMovemSetp_ready {s : State} {g : Gang} {gd : Guard} {a : Opnd} (hg : s.curGang = some g) (h : g.Ready gd [a]) :
    execMovemSetp gd a s = s.done { g with
      lanes := g.lanes.mapIdx fun l x => if (g.acts gd).getLsbD l then { x with p := (s.opnd g 0 a l).setWidth 7 } else x } :=
  State.perLane_ready _ false hg h

end Sys2Proof.Machine

open Sys2Proof Sys2Proof.Machine

/-- Settles O16: the pushed masks by their forms, MOVEM.SET by the lanes of the level that it names. -/
theorem maskInstructionsRun : Obligations.MaskInstructionsRun := by
  unfold Obligations.MaskInstructionsRun
  refine ⟨?_, ?_, ?_⟩
  · intro i f s g hw hf hg h
    unfold maskForm at hf
    split at hf
    case h_1 gd d pa =>
      cases hf
      exact execVoteBallot_ready d pa hg h
    case h_4 gd d =>
      cases hf
      exact execMovemGetp_ready d hg h
    case h_5 => cases hf
    all_goals
      refine .trans ?_ (f.runs false hg h)
      cases hf
      rfl
  · intro gd d a s g l h level em
    have issue : exec (.movemSet gd d a) s = _ := execMovemSet_once h
    exact ⟨fun stay => issue.trans (if_neg stay), fun empty => issue.trans (if_pos empty)⟩
  · intro gd a s g hg h put
    have issue : exec (.movemSetp gd a) s = _ := execMovemSetp_ready hg h
    exact issue

end

section
/-! Settles O17: what the instructions that read a register push, and the clocks that arrive late (06:R135, 04:R81). -/

namespace Sys2Proof.Machine

open Sys2Proof

/-- MOVS of another register than the two clocks (06:R135). -/
theorem execMovs_value {s : State} {g : Gang} {gd : Guard} {d : Dest} {x : BitVec 10} (hg : s.curGang = some g)
    (h : g.Ready gd []) (now : ¬ (x.toNat = 0x10 ∨ x.toNat = 0x11)) :
    execMovs gd d x s = s.done (g.push (g.acts gd) d (s.special g x.toNat)) :=
  (State.perLane_ready _ false hg h).trans (if_neg now)

theorem State.pushLate_acting (s : State) (g : Gang) {m : Mask} (d : Dest) (f : Nat → Word) (hm : m ≠ 0) :
    s.pushLate g m d f = .next (s.pushesLate g m d f) := if_neg hm

/-- MOVS of one of the two clocks, sampled at its issue (06:R135, 04:R81). -/
theorem execMovs_clock {s : State} {g : Gang} {gd : Guard} {d : Dest} {x : BitVec 10} (hg : s.curGang = some g)
    (h : g.Ready gd []) (acts : g.acts gd ≠ 0) (clock : x.toNat = 0x10 ∨ x.toNat = 0x11) :
    execMovs gd d x s = .next (s.pushesLate g (g.acts gd) d (s.special g x.toNat)) :=
  calc execMovs gd d x s = s.pushLate g (g.acts gd) d (s.special g x.toNat) :=
        (State.perLane_ready _ false hg h).trans (if_pos clock)
    _ = .next (s.pushesLate g (g.acts gd) d (s.special g x.toNat)) := s.pushLate_acting g d _ acts

end Sys2Proof.Machine

open Sys2Proof Sys2Proof.Machine

/-- Settles O17: MOVS by the case of the two clocks; elsewhere the form is the meaning itself. -/
theorem registerReadsPush : Obligations.RegisterReadsPush := by
  unfold Obligations.RegisterReadsPush
  refine ⟨?_, ?_⟩
  · intro i f s g hw hf hg h
    unfold readForm at hf
    split at hf
    case h_1 gd d x =>
      split at hf
      · cases hf
      · rename_i now
        cases hf
        exact execMovs_value hg h now
    case h_10 => cases hf
    all_goals
      refine .trans ?_ (f.runs false hg h)
      cases hf
      rfl
  · intro gd d x s g hg h acts
    constructor
    · rintro rfl
      exact execMovs_clock hg h acts (.inl rfl)
    · rintro rfl
      exact execMovs_clock hg h acts (.inr rfl)

end

section
/-! Settles O18: MOVSP of `%spins` and of the `g` registers, and the CSRs (06:R133-R136, 13:R276, 14:R291). -/

namespace Sys2Proof.Machine

open Sys2Proof

/-! ### Writes of `g` registers (06:R133) -/

/-- A `g` register's write enters with the cycle of its effect. -/
theorem State.setG_brick {s : State} {g : Gang} {k : BKey} {b : Brick} (hb : s.brick? k = some b) (i : Nat) (v : Word) :
    s.setG g k i v =
      { s with gnext := s.gnext ++ [⟨s.cycle + (if b.core = g.core then 0 else 3), 16 * g.core + g.seat, k, i, v⟩] } := by
  by_cases near : b.core = g.core <;> simp [State.setG, hb, near]

/-- A write that is not due stays. -/
theorem State.landG_waits {s : State} {x : GWrite} {due : GWrite → Bool} (hx : s.gnext = [x]) (hd : due x = false) :
    s.landG due = { s with gnext := [x] } := by
  simp [State.landG, hx, hd]

/-- The only write under way takes effect when it is due. -/
theorem State.landG_lands {s : State} {x : GWrite} {b : Brick} {due : GWrite → Bool} (hx : s.gnext = [x])
    (hb : s.brick? x.brick = some b) (hd : due x = true) :
    s.landG due = ({ s with gnext := [] } : State).setBrick { b with g := vset b.g x.reg x.val } := by
  have same : ({ s with gnext := [] } : State).brick? x.brick = some b := hb
  simp [State.landG, hx, hd, same]

/-- A slew of the stream clock takes a free value at most (18:R349). -/
theorem State.slewBy_state (s : State) (ns : Nat) : ∃ n, (s.slewBy ns).2 = { s with free := n } := by
  unfold State.slewBy
  split
  · exact ⟨s.free, rfl⟩
  · exact ⟨s.free + 1, rfl⟩

/-- The passing of time changes bricks by the writes of `g` registers that are due alone. -/
theorem State.passTime_bricks (s : State) (cycles ns skew pskew : Nat) :
    ∃ t : State, t.gnext = s.gnext ∧ t.bricks = s.bricks ∧
    (s.passTime cycles ns skew pskew).bricks = (t.landG fun x => decide (x.due < s.cycle + cycles)).bricks := by
  obtain ⟨n, hn⟩ := s.slewBy_state ns
  refine ⟨{ s with free := n }, rfl, rfl, ?_⟩
  unfold State.passTime
  generalize s.slewBy ns = slewed at hn
  obtain ⟨d, t⟩ := slewed
  subst hn
  rfl

/-! ### MOVSP and the CSRs (06:R133-R136) -/

theorem execMovsp_spins {s : State} {g : Gang} {gd : Guard} {a : Opnd} {l : Nat} (h : s.Once g gd [a] l) :
    execMovsp gd 0x14 a s = s.done { g with spins := (s.opnd g 0 a l).setWidth 32 } := h.runs false _

theorem execMovsp_g {s : State} {g : Gang} {gd : Guard} {x : BitVec 10} {a : Opnd} {l : Nat} (h : s.Once g gd [a] l)
    (hx : x.toNat ≠ 0x14) :
    execMovsp gd x a s = (s.setG g (g.lane l).brick (x.toNat % 16) (s.opnd g 0 a l)).done g :=
  (h.runs false _).trans (if_neg hx)

/-- No wall may write another CSR than TVEC, or TEPC outside trap mode (14:R291). -/
theorem Gang.writeCsr_eq_none {g : Gang} {n : Nat} (v : Word) (tvec : n ≠ 0x010) (tepc : n ≠ 0x012 ∨ g.tmode = false) :
    g.writeCsr n v = none := by
  unfold Gang.writeCsr
  split
  · exact absurd rfl tvec
  · rcases tepc with h | h
    · exact absurd rfl h
    · simp [h]
  · rfl

theorem execCsrr_readable {s : State} {g : Gang} {gd : Guard} {n : BitVec 12} {v : Word} (d : Dest)
    (hg : s.curGang = some g) (h : g.Ready gd []) (acts : g.acts gd ≠ 0) (hv : s.csr g n.toNat = some v) :
    execCsrr gd d n s = s.done (g.push (g.acts gd) d fun _ => v) := by
  refine ((State.perLane_ready _ false hg h).trans (if_neg acts)).trans ?_
  rw [hv]

theorem execCsrr_unreadable {s : State} {g : Gang} {gd : Guard} {n : BitVec 12} (d : Dest) (hg : s.curGang = some g)
    (h : g.Ready gd []) (acts : g.acts gd ≠ 0) (hv : s.csr g n.toNat = none) :
    execCsrr gd d n s = s.trapEm g 0x13 (n.setWidth 64) := by
  refine ((State.perLane_ready _ false hg h).trans (if_neg acts)).trans ?_
  rw [hv]

theorem execCsrw_writable {s : State} {g g' : Gang} {gd : Guard} {n : BitVec 12} {a : Opnd} {l : Nat} (h : s.Once g gd [a] l)
    (hw : g.writeCsr n.toNat (s.opnd g 0 a l) = some g') : execCsrw gd n a s = s.done g' := by
  refine (h.runs false _).trans ?_
  rw [hw]

theorem execCsrw_unwritable {s : State} {g : Gang} {gd : Guard} {n : BitVec 12} {a : Opnd} {l : Nat} (h : s.Once g gd [a] l)
    (hw : g.writeCsr n.toNat (s.opnd g 0 a l) = none) : execCsrw gd n a s = s.trapEm g 0x13 (n.setWidth 64) := by
  refine (h.runs false _).trans ?_
  rw [hw]

theorem execCsrx_tvec {s : State} {g : Gang} {gd : Guard} {d : Dest} {a : Opnd} {l : Nat} (h : s.Once g gd [a] l) :
    execCsrx gd d 0x010 a s = s.done (({ g with tvec := (s.opnd g 0 a l).setWidth 56 &&& ~~~7 } : Gang).push (g.acts gd) d
      fun _ => g.tvec.setWidth 64) := h.runs true _

theorem execCsrx_other {s : State} {g : Gang} {gd : Guard} {d : Dest} {n : BitVec 12} {a : Opnd} {l : Nat}
    (h : s.Once g gd [a] l) (hn : n.toNat ≠ 0x010) : execCsrx gd d n a s = s.trapEm g 0x13 (n.setWidth 64) := by
  refine (h.runs true _).trans ?_
  rw [if_neg hn]
  cases s.csr g n.toNat <;> rfl

end Sys2Proof.Machine

open Sys2Proof Sys2Proof.Machine

/-- Settles O18: a `g` register's write by the one that lands, the CSRs by what a wall may write. -/
theorem specialRegistersWritten : Obligations.SpecialRegistersWritten := by
  unfold Obligations.SpecialRegistersWritten
  refine ⟨?_, ?_, ?_, ?_, ?_⟩
  · intro gd x a s g l b h
    refine ⟨?_, fun low high hb => ?_⟩
    · rintro rfl
      exact execMovsp_spins h
    · have issue : exec (.movsp gd x a) s = _ := execMovsp_g h (by omega)
      rw [issue, State.setG_brick hb]
      rfl
  · intro s x b n hx hb
    obtain ⟨t, writes, bricks, passed⟩ := s.passTime_bricks n 0 0 0
    have there : t.brick? x.brick = some b := by rwa [State.brick?, bricks]
    have key : b.key = x.brick := by simpa using List.find?_some hb
    rw [State.brick?, passed]
    by_cases due : x.due < s.cycle + n
    · rw [if_pos due, State.landG_lands (writes.trans hx) there (decide_eq_true due)]
      exact State.brickOpt_setBrick there key
    · rw [if_neg due, State.landG_waits (writes.trans hx) (decide_eq_false due)]
      exact there
  · intro gd d n s g hg h acts
    exact ⟨fun v hv => execCsrr_readable d hg h acts hv, fun hv => execCsrr_unreadable d hg h acts hv⟩
  · intro gd n a s g l h v
    refine ⟨?_, ?_, fun tvec tepc => ?_⟩
    · rintro rfl
      exact execCsrw_writable (n := 0x010) h rfl
    · rintro rfl mode
      exact execCsrw_writable (n := 0x012) h (if_pos mode)
    · have num (k : BitVec 12) (hk : n ≠ k) : n.toNat ≠ k.toNat := fun e => hk (BitVec.eq_of_toNat_eq e)
      exact execCsrw_unwritable h (Gang.writeCsr_eq_none _ (num 0x010 tvec) (tepc.imp_left (num 0x012)))
  · intro gd d n a s g l h v
    refine ⟨?_, fun tvec => ?_⟩
    · rintro rfl
      exact execCsrx_tvec h
    · exact execCsrx_other h fun e => tvec (BitVec.eq_of_toNat_eq e)

end

section
/-! Settles O19: binding, sending, the flight of a flit and receiving (06:R139-R141; log 24). -/

namespace Sys2Proof.Machine

open Sys2Proof

@[simp] theorem State.core_setCore (s : State) (n : Nat) (c : Core) : (s.setCore n c).core n = c := vget_vset_same ..

@[simp] theorem Core.setRx_rx (c : Core) (r : Nat) (q : List (Word × MsgInfo)) : vget (c.setRx r q).rx r = q :=
  vget_vset_same ..

theorem Tx.boundBy_owner {t : Tx} {k : BKey} (bound : t.bound.isSome = true) (owner : t.owner = some k) :
    t.boundBy k = true := by
  simp [Tx.boundBy, bound, owner]

/-! ### Binding (06:R139) -/

/-- TXBIND to a core of the gang's partition that is not fused off, of a register that no other brick has bound. -/
theorem execTxbind_binds {s : State} {g : Gang} {gd : Guard} {r : BitVec 2} {a : Opnd} {l : Nat} (h : s.Once g gd [a] l) :
    let v := s.opnd g 0 a l
    let c := s.core g.core
    let t := vget c.tx r.toNat
    let k := (g.lane l).brick
    bits v 0 9 < 384 → s.sys.fusemap.getLsbD (bits v 0 9) = false → s.partOf (footOf (bits v 0 9)) = s.gangPart g →
    (t.bound = none ∨ t.owner = some k) →
    execTxbind gd r a s = (s.setCore g.core { c with
      tx := vset c.tx r.toNat { t with bound := some (bits v 0 9, bits v 9 2), owner := some k } }).done g := by
  intro v c t k there fused part free
  have far : decide (bits v 0 9 ≥ 384) = false := decide_eq_false (Nat.not_le.2 there)
  have mine : (t.bound.isSome && t.owner != some k) = false := by
    rcases free with h | h <;> simp [h]
  have refused : (decide (bits v 0 9 ≥ 384) || s.sys.fusemap.getLsbD (bits v 0 9) ||
      s.partOf (footOf (bits v 0 9)) != s.gangPart g || (t.bound.isSome && t.owner != some k)) = false := by
    rw [far, fused, part, mine, bne_self_eq_false]
    rfl
  exact (h.runs false _).trans (if_neg (Bool.eq_false_iff.1 refused))

theorem execTxunbind_unbinds {s : State} {g : Gang} {gd : Guard} {r : BitVec 2} {l : Nat} (h : s.Once g gd [] l)
    (mine : (vget (s.core g.core).tx r.toNat).boundBy (g.lane l).brick = true)
    (sent : (vget (s.core g.core).tx r.toNat).flit = none) :
    execTxunbind gd r s =
      (s.setCore g.core { s.core g.core with tx := vset (s.core g.core).tx r.toNat ⟨none, none, none⟩ }).done g :=
  ((h.runs false _).trans (if_neg (by simp [sent]))).trans (if_pos mine)

/-! ### Sending (06:R140) -/

theorem execMovspTx_sends {s : State} {g : Gang} {gd : Guard} {r : BitVec 2} {a : Opnd} {l : Nat} (h : s.Once g gd [a] l)
    (mine : (vget (s.core g.core).tx r.toNat).boundBy (g.lane l).brick = true)
    (sent : (vget (s.core g.core).tx r.toNat).flit = none) (released : s.waitsFor g g.afterSt = []) :
    execMovspTx gd r a s = (s.setCore g.core { s.core g.core with
      tx := vset (s.core g.core).tx r.toNat { vget (s.core g.core).tx r.toNat with
        flit := some (s.opnd g 0 a l, s.msgInfo g l) } }).done g :=
  ((h.runs false _).trans (if_neg (by simp [mine]))).trans (if_neg (by simp [sent, released]))

/-! ### The flight of a flit (06:R140) -/

theorem execFlitDeparture_leaves {s : State} {c j : Nat} {d : Nat × Nat} {v : Word × MsgInfo} (hc : c < 384) (hj : j < 4)
    (bound : (vget (s.core c).tx j).bound = some d) (flit : (vget (s.core c).tx j).flit = some v)
    (go : vget (s.core d.1).stop d.2 = false) :
    execFlitDeparture c j s =
      .next (({ s with flits := s.flits ++ [⟨d.1, d.2, 4 * c + j, v.1, v.2⟩] } : State).setCore c
        { s.core c with tx := vset (s.core c).tx j { vget (s.core c).tx j with flit := none } }) := by
  have there : ¬ (c ≥ 384 ∨ j ≥ 4) := by omega
  refine (if_neg there).trans ?_
  simp only [bound, flit, go]
  rfl

theorem execFlitArrival_first {s : State} {f : Flit} {rest : List Flit} (hf : s.flits = f :: rest)
    (room : (vget (s.core f.dstCore).rx f.rx).length < 16) :
    execFlitArrival 0 s = .next (({ s with flits := rest } : State).setCore f.dstCore
      ((s.core f.dstCore).setRx f.rx (vget (s.core f.dstCore).rx f.rx ++ [(f.val, f.info)]))) := by
  simp [execFlitArrival, hf, room]

/-! ### Receiving (06:R141) -/

theorem execMovsRx_takes {s : State} {g : Gang} {gd : Guard} {d : Dest} {r : BitVec 2} {v : Word} {x : MsgInfo}
    {q : List (Word × MsgInfo)} (hg : s.curGang = some g) (h : g.Ready gd []) (acts : g.acts gd ≠ 0)
    (first : vget (s.core g.core).rx r.toNat = (v, x) :: q) :
    execMovsRx gd d r s = (s.setCore g.core ((s.core g.core).setRx r.toNat q)).done
      ((s.sawMsg g (g.acts gd) x).push (g.acts gd) d fun _ => v) := by
  refine ((State.perLane_ready _ false hg h).trans (if_neg acts)).trans ?_
  rw [first]

end Sys2Proof.Machine

open Sys2Proof Sys2Proof.Machine

/-- Settles O19: each message instruction and each move of a flit by what it does to the registers of its core. -/
theorem messagesBetweenCores : Obligations.MessagesBetweenCores := by
  unfold Obligations.MessagesBetweenCores
  refine ⟨?_, ?_, ?_, ?_, ?_, ?_⟩
  · intro gd r a s g l h v dst c t k there fused part t' free
    exact execTxbind_binds h there fused part free
  · intro gd r a s g l h c t bound owner sent released
    exact execMovspTx_sends h (Tx.boundBy_owner bound owner) sent released
  · intro gd r s g l h c t bound owner sent
    exact execTxunbind_unbinds h (Tx.boundBy_owner bound owner) sent
  · intro c j s d v hc hj bound flit go
    exact ⟨_, execFlitDeparture_leaves hc hj bound flit go, rfl, by simp⟩
  · intro s f rest hf room
    exact ⟨_, execFlitArrival_first hf room, rfl, by simp⟩
  · intro gd d r s g v x q hg h acts first
    refine ⟨s.setCore g.core ((s.core g.core).setRx r.toNat q), execMovsRx_takes hg h acts first, rfl, ?_⟩
    simp

end

section
/-! Settles O20: control transfers go to their targets (06:R126, R128), with spin detection at a backward BRA (06:R138). -/

namespace Sys2Proof.Machine

open Sys2Proof

/-- The target of a relative transfer, its clause's address and 8 times the offset (06:R126). -/
theorem Gang.target_eq (g : Gang) (off : BitVec 40) : g.target off = relative g off := by
  rw [Gang.target, relative, BitVec.shiftLeft_eq_mul_twoPow, BitVec.mul_comm]
  rfl

/-! ### The registers a transfer writes (06:R128) -/

theorem Gang.writeDest_rest (g : Gang) (m : Mask) (d : Dest) (v : Word) :
    g.writeDest m d v = { g with lanes := (g.writeDest m d v).lanes, k := (g.writeDest m d v).k } := by
  cases d with
  | none => rfl
  | n j => rfl
  | k j => by_cases empty : m = 0 <;> simp only [Gang.writeDest, empty, if_true, if_false]

/-- A transfer's link and its clearing of the queue leave the header and the count of spins. -/
theorem TransferForm.regs_kept (f : TransferForm) (g : Gang) : (f.regs g).header = g.header ∧ (f.regs g).spins = g.spins := by
  unfold TransferForm.regs
  rw [Gang.writeDest_rest]
  split <;> exact ⟨rfl, rfl⟩

/-- The hint a transfer leaves: YIELD's own, or that of the clause that ends (16:R336). -/
def Instr.hintAfter (i : Instr) (g : Gang) : Nat :=
  match i with
  | .yield _ => 1
  | _ => (g.header.map Header.yield).getD 0

/-- The gang at the transfer's target, under a hint. -/
def TransferForm.gone (f : TransferForm) (s : State) (hint : Nat) (g : Gang) (l : Nat) : Gang :=
  (f.regs g).goto (f.target s g l) hint

/-- A transfer under the hint of the clause that ends. -/
theorem TransferForm.gone_jump (f : TransferForm) (s : State) (g : Gang) (l : Nat) :
    f.gone s ((g.header.map Header.yield).getD 0) g l = (f.regs g).jump (f.target s g l) := by
  rw [Gang.jump, (f.regs_kept g).1, TransferForm.gone]

/-! ### Transfers without a condition -/

theorem State.withGang_some {s : State} {g : Gang} (k : Gang → Out) (hg : s.curGang = some g) : s.withGang k = k g := by
  rw [State.withGang, hg]

/-- Every transfer but BRA, which detects spins, puts the gang at the target of its form. -/
theorem exec_transfer {i : Instr} {f : TransferForm} (hf : transferForm i = some f) (hb : ∀ gd off, i ≠ .bra gd off)
    (s : State) :
    exec i s = s.transfer f.gd f.os fun g l => .next (s.setGang (f.gone s (Instr.hintAfter i g) g l)) := by
  unfold transferForm at hf
  split at hf
  case h_1 gd off => exact absurd rfl (hb gd off)
  case h_3 gd d off =>
    cases hf
    simp only [Instr.hintAfter, TransferForm.gone_jump, ← Gang.target_eq]
    rfl
  case h_6 gd =>
    cases hf
    rfl
  case h_7 => cases hf
  all_goals
    cases hf
    simp only [Instr.hintAfter, TransferForm.gone_jump]
    rfl

/-! ### The backward BRA (06:R138) -/

/-- Spin detection keeps its history of the gang alone. -/
theorem Gang.spinArrive_rest (g : Gang) : g.spinArrive.1 = { g with spin := g.spinArrive.1.spin } := by
  simp only [Gang.spinArrive]
  split <;> rfl

/-- A BRA goes to its target; a backward one parks when spin detection finds the line to watch. -/
theorem execBra_runs {s : State} {g : Gang} {gd : Guard} {off : BitVec 40} (hg : s.curGang = some g) (h : g.Ready gd [])
    (hu : s.Uniform g gd []) : ∃ hist,
      execBra gd off s = .next (s.setGang (({ g with spin := hist } : Gang).jump (relative g off))) ∨
      (relative g off).toNat ≤ g.pc.toNat ∧ ∃ line, execBra gd off s =
        .next (s.setGang ((({ g with spin := hist } : Gang).jump (relative g off)).spinWait line s.cycle)) := by
  obtain ⟨l, -, -, -, run⟩ := State.transfer_ready _ false hg h hu
  have issue : execBra gd off s = _ := run
  simp only [Gang.target_eq] at issue
  by_cases back : (relative g off).toNat ≤ g.pc.toNat
  · rw [if_pos back] at issue
    have kept := g.spinArrive_rest
    refine ⟨g.spinArrive.1.spin, ?_⟩
    rw [← kept]
    generalize g.spinArrive = arrived at issue
    obtain ⟨g', line⟩ := arrived
    cases line with
    | none => exact .inl issue
    | some line => exact .inr ⟨back, line, issue⟩
  · rw [if_neg back] at issue
    exact ⟨g.spin, .inl issue⟩

end Sys2Proof.Machine

open Sys2Proof Sys2Proof.Machine

/-- Settles O20: every transfer by its form, the backward BRA by whether spin detection parks. -/
theorem transfersGoToTheirTarget : Obligations.TransfersGoToTheirTarget := by
  unfold Obligations.TransfersGoToTheirTarget
  refine ⟨fun s g hg => ⟨fun gd => ?_, ?_⟩, ?_⟩
  · exact State.withGang_some _ hg
  · exact State.withGang_some _ hg
  · intro i f s g hw hf hg h hu
    by_cases bra : ∃ gd off, i = .bra gd off
    · obtain ⟨gd, off, rfl⟩ := bra
      cases hf
      obtain ⟨l, low, -⟩ := lowest_some hu.1
      obtain ⟨hist, run | ⟨back, line, run⟩⟩ := execBra_runs hg h hu
      · exact ⟨l, _, low, run, rfl, rfl, .inl ⟨rfl, rfl⟩⟩
      · exact ⟨l, _, low, run, rfl, rfl, .inr ⟨gd, off, rfl, back, rfl⟩⟩
    · obtain ⟨l, low, -, -, run⟩ := State.transfer_ready _ false hg h hu
      refine ⟨l, f.gone s (Instr.hintAfter i g) g l, low, ?_, rfl, rfl, .inl ⟨rfl, (f.regs_kept g).2⟩⟩
      exact (exec_transfer hf (fun gd off e => bra ⟨gd, off, e⟩) s).trans run

end

section
/-! Settles O21: SPLIT and JOIN on the split stack (06:R123, R124). -/

namespace Sys2Proof.Machine

open Sys2Proof

/-! ### SPLIT (06:R123) -/

/-- The lanes of `em` in which a predicate reference holds. -/
def Gang.taken (g : Gang) (p : PRef) : Mask := maskOf fun l => g.em.getLsbD l && (g.lane l).pref p

/-- A SPLIT on a stack of 64 entries (06:R123). -/
theorem execSplit_full {s : State} {g : Gang} {gd : Guard} {p : PRef} {off : BitVec 40} (hg : s.curGang = some g)
    (h : g.Ready gd []) (hu : s.Uniform g gd []) (full : g.depth = 64) : execSplit gd p off s = s.trapEm g 0x0A 0 := by
  obtain ⟨l, -, -, -, run⟩ := State.transfer_ready _ true hg h hu
  exact run.trans (if_pos full)

/-- A SPLIT that needs no spill pushes an entry and goes to its taken lanes, or on with all of them where none is taken. -/
theorem execSplit_pushes {s : State} {g : Gang} {gd : Guard} {p : PRef} {off : BitVec 40} (hg : s.curGang = some g)
    (h : g.Ready gd []) (hu : s.Uniform g gd []) (deep : g.depth ≠ 64) (room : g.stack.length < s.stackH g) :
    execSplit gd p off s = .next (s.setGang (({ g with
      stack := ⟨g.em, if g.taken p = 0 then 0 else g.em &&& ~~~g.taken p, 0, g.next, 0, false⟩ :: g.stack,
      depth := g.depth + 1,
      em := if g.taken p = 0 then g.em &&& ~~~g.taken p else g.taken p } : Gang).jump
        (if g.taken p = 0 then g.next else g.target off))) := by
  obtain ⟨l, -, -, -, run⟩ := State.transfer_ready _ true hg h hu
  refine (run.trans (if_neg deep)).trans ?_
  rw [if_neg (Nat.not_le.2 room)]
  rfl

/-! ### JOIN (06:R123) -/

theorem execJoin_empty {s : State} {g : Gang} {gd : Guard} (hg : s.curGang = some g) (h : g.Ready gd [])
    (hu : s.Uniform g gd []) (empty : g.stack = []) : execJoin gd s = s.trapEm g 0x0B 0 := by
  obtain ⟨l, -, -, -, run⟩ := State.transfer_ready _ false hg h hu
  refine run.trans ?_
  rw [empty]

/-- JOIN with lanes that are still pending. -/
theorem execJoin_pending {s : State} {g : Gang} {gd : Guard} {e : SSEntry} {r : List SSEntry} (hg : s.curGang = some g)
    (h : g.Ready gd []) (hu : s.Uniform g gd []) (top : g.stack = e :: r) (pend : e.pend ≠ 0) :
    execJoin gd s = .next (s.setGang (({ g with
      stack := { e with arr := e.arr ||| g.em, jpc := g.next, jv := true, pend := 0 } :: r, em := e.pend } : Gang).jump
        e.cont)) := by
  obtain ⟨l, -, -, -, run⟩ := State.transfer_ready _ false hg h hu
  refine run.trans ?_
  rw [top]
  exact if_pos pend

/-- JOIN of the last lanes to arrive, with no entry to be read back first. -/
theorem execJoin_rejoins {s : State} {g : Gang} {gd : Guard} {e : SSEntry} {r : List SSEntry} (hg : s.curGang = some g)
    (h : g.Ready gd []) (hu : s.Uniform g gd []) (top : g.stack = e :: r) (pend : e.pend = 0)
    (here : g.fillNeeded (s.stackH g + 1) = none) :
    execJoin gd s = .next (s.setGang (({ g with stack := r, depth := g.depth - 1, em := e.rejoin &&& g.live } : Gang).jump
      g.next)) := by
  obtain ⟨l, -, -, -, run⟩ := State.transfer_ready _ false hg h hu
  refine run.trans ?_
  rw [top, here]
  exact if_neg (not_not.2 pend)

end Sys2Proof.Machine

open Sys2Proof Sys2Proof.Machine

/-- Settles O21: SPLIT by whether some lane is taken, JOIN by whether lanes are pending in the top entry. -/
theorem splitAndJoin : Obligations.SplitAndJoin := by
  unfold Obligations.SplitAndJoin
  refine ⟨?_, ?_⟩
  · intro gd p off s g hg h hu t
    refine ⟨fun full => execSplit_full hg h hu full, fun deep room taken => ?_, fun deep room untaken => ?_⟩
    · refine (execSplit_pushes hg h hu deep room).trans ?_
      have taken : g.taken p ≠ 0 := taken
      simp only [if_neg taken, Gang.target_eq]
      rfl
    · refine (execSplit_pushes hg h hu deep room).trans ?_
      have untaken : g.taken p = 0 := untaken
      have all : g.em &&& ~~~g.taken p = g.em := by
        rw [untaken]
        exact BitVec.and_allOnes
      simp only [if_pos untaken, all]
  · intro gd s g hg h hu
    exact ⟨fun empty => execJoin_empty hg h hu empty, fun e r top pend => execJoin_pending hg h hu top pend,
      fun e r top pend here => execJoin_rejoins hg h hu top pend here⟩

end

section
/-! Settles O22: lanes that leave by EXIT and KILL, and where the split stack resumes (06:R121, R123, R124, R128). -/

namespace Sys2Proof.Machine

open Sys2Proof

/-! ### Entries within the live lanes (06:R121) -/

theorem SSEntry.within_within (e : SSEntry) (live : Mask) : (e.within live).within live = e.within live := by
  simp [SSEntry.within, BitVec.and_assoc]

/-- Entries that have been cut down to the live lanes stay as they are. -/
theorem map_within_eq {live : Mask} {l : List SSEntry} (h : ∀ e ∈ l, e.within live = e) : l.map (SSEntry.within · live) = l :=
  (List.map_congr_left h).trans (List.map_id' l)

/-- An entry within the live lanes stays so when its pending lanes are taken. -/
theorem SSEntry.within_cleared {e : SSEntry} {live : Mask} (he : e.within live = e) :
    ({ e with pend := 0 } : SSEntry).within live = { e with pend := 0 } := by
  have fields : ({ e with pend := 0 } : SSEntry).within live = { e.within live with pend := 0 } := by simp [SSEntry.within]
  rw [fields, he]

/-- What is in a mask cut down to the live lanes is live. -/
theorem live_ne_zero {m live : Mask} (within : m &&& live = m) (nonzero : m ≠ 0) : live ≠ 0 := by
  rintro rfl
  exact nonzero (within.symm.trans BitVec.and_zero)

theorem and_eq_left_of_and_not {m n : Mask} (h : m &&& ~~~n = 0) : m &&& n = m := by
  apply BitVec.eq_of_getLsbD_eq
  intro l hl
  have outside : (m &&& ~~~n).getLsbD l = false := by rw [h]; exact BitVec.getLsbD_zero
  have implies : m.getLsbD l = true → n.getLsbD l = true := by simpa [hl] using outside
  rw [BitVec.getLsbD_and, Bool.and_eq_left_iff_imp]
  exact implies

/-! ### Resumption (06:R123) -/

/-- Entries without lanes are passed over. -/
theorem settle_skips {live : Mask} {gone : List SSEntry} (h : ∀ x ∈ gone, x.rejoin = 0 ∧ x.pend = 0) (rest : List SSEntry)
    (depth : Nat) : settle live (gone ++ rest) depth = settle live rest (depth - gone.length) := by
  induction gone generalizing depth with
  | nil => rfl
  | cons x r ih =>
    obtain ⟨rejoin, pend⟩ := h x List.mem_cons_self
    have idle : (x.within live).pend = 0 := by simp [SSEntry.within, pend]
    have away : (x.within live).rejoin = 0 := by simp [SSEntry.within, rejoin]
    have same : live &&& ~~~((x.within live).rejoin &&& ~~~(x.within live).arr) = live := by
      simpa [away] using (BitVec.and_allOnes : live &&& BitVec.allOnes 32 = live)
    rw [List.cons_append, settle, if_neg (not_not.2 idle), if_neg fun joined => joined.2 away, same,
      ih fun y hy => h y (List.mem_cons_of_mem _ hy), List.length_cons, Nat.sub_sub, Nat.add_comm]

theorem settle_joined {live : Mask} {e : SSEntry} (he : e.within live = e) (pend : e.pend = 0) (jv : e.jv = true)
    (rejoin : e.rejoin ≠ 0) (r : List SSEntry) (depth : Nat) :
    settle live (e :: r) depth = ⟨e.rejoin, live, r, depth - 1, some e.jpc⟩ := by
  rw [settle, he]
  exact (if_neg (not_not.2 pend)).trans (if_pos ⟨jv, rejoin⟩)

theorem Gang.resume_em {g : Gang} (h : Nat) (active : g.em ≠ 0) : g.resume h = g := if_pos active

/-- A gang ends when its stack holds no more lanes and nothing lies in the overflow area. -/
theorem Gang.resume_ends {g : Gang} (h : Nat) (em : g.em = 0) (settled : settle g.live g.stack g.depth = ⟨0, 0, [], 0, none⟩) :
    g.resume h = { g with live := 0, em := 0, stack := [], depth := 0, xfer := none, place := .retired g.core g.seat } := by
  have short : ¬ ([] : List SSEntry).length < 0 := Nat.not_lt_zero _
  simp only [Gang.resume, if_neg (not_not.2 em), settled, Gang.fillNeeded, List.map_nil, short, and_false, if_false]
  exact if_pos rfl

/-- The gang with what the resumption leaves it: `em`, the resident stack, SSDEPTH, and the fill that these ask for (06:R124). -/
def Gang.kept (g : Gang) (h : Nat) (em : Mask) (stack : List SSEntry) (depth : Nat) : Gang :=
  { g with em := em, stack := stack, depth := depth
           xfer := if stack.length < h ∧ stack.length < depth then some (.fill (depth - stack.length - 1)) else none }

/-- A gang with live lanes goes on at an entry, or waits for the one below the resident stack. -/
theorem Gang.resume_goes {g : Gang} {em : Mask} {stack : List SSEntry} {depth : Nat} {pc : Option Addr} (h : Nat) (dead : g.em = 0)
    (settled : settle g.live g.stack g.depth = ⟨em, g.live, stack, depth, pc⟩) (live : g.live ≠ 0)
    (within : ∀ e ∈ stack, e.within g.live = e) :
    g.resume h = (pc.map (g.kept h em stack depth).jump).getD (g.kept h em stack depth) := by
  simp only [Gang.resume, if_neg (not_not.2 dead), settled, map_within_eq within]
  cases pc <;> exact if_neg live

/-! ### Departure -/

/-- What the departure of the lanes leaves of the gang before it resumes (06:R121). -/
def Gang.without (g : Gang) (lanes : Mask) : Gang :=
  { g with live := g.live &&& ~~~lanes, em := g.em &&& ~~~lanes,
           stack := g.stack.map fun e => e.within (g.live &&& ~~~lanes) }

theorem Gang.depart_eq {g : Gang} (sub : g.em &&& ~~~g.live = 0) (lanes : Mask) (h : Nat) :
    g.depart lanes h = (g.without lanes).resume h := by
  have em : g.em &&& (g.live &&& ~~~lanes) = g.em &&& ~~~lanes := by
    rw [← BitVec.and_assoc, and_eq_left_of_and_not sub]
  rw [Gang.depart, Gang.without, em]

/-- Every entry left is within the lanes that stay. -/
theorem Gang.without_within {g : Gang} {lanes : Mask} {e : SSEntry} (he : e ∈ (g.without lanes).stack) :
    e.within (g.without lanes).live = e := by
  obtain ⟨x, -, rfl⟩ := List.mem_map.1 he
  exact x.within_within _

theorem execExit_acting {s : State} {g : Gang} {gd : Guard} (hg : s.curGang = some g) (h : g.Ready gd []) (acts : g.acts gd ≠ 0) :
    execExit gd s = .next (s.leave g (g.acts gd) Gang.advance) :=
  (State.perLane_ready _ false hg h).trans (if_neg acts)

theorem execKill_acting {s : State} {g : Gang} {gd : Guard} (hg : s.curGang = some g) (h : g.Ready gd []) (acts : g.acts gd ≠ 0) :
    execKill gd s = .next ((s.markKilled (g.originsOf (g.acts gd))).leave g (g.acts gd) Gang.advance) :=
  (State.perLane_ready _ false hg h).trans (if_neg acts)

/-- The departure of lanes stores the gang as it resumes, or as it advances when some lane stays in `em`. -/
theorem State.leave_eq {g g' : Gang} {lanes : Mask} {h : Nat} (sub : g.em &&& ~~~g.live = 0)
    (left : (if g.em &&& ~~~lanes = 0 then (g.without lanes).resume h else ((g.without lanes).resume h).advance) = g')
    (s : State) (hs : s.stackH g = h) : s.leave g lanes Gang.advance = s.afterDepart g g' := by
  rw [State.leave, hs, g.depart_eq sub, left]

end Sys2Proof.Machine

open Sys2Proof Sys2Proof.Machine

/-- Settles O22: what the lanes leave behind, by where the gang that stays resumes. -/
theorem lanesLeave : Obligations.LanesLeave := by
  unfold Obligations.LanesLeave
  intro gd s g hg h acts sub live em st stays ends kept leaves
  have exits : exec (.exit gd) s = _ := execExit_acting hg h acts
  have kills : exec (.kill gd) s = _ := execKill_acting hg h acts
  have resumed {g' : Gang} (left : (if em = 0 then stays.resume (s.stackH g) else (stays.resume (s.stackH g)).advance) = g') :
      leaves g' :=
    ⟨exits.trans (congrArg _ (State.leave_eq sub left s rfl)), kills.trans (congrArg _ (State.leave_eq sub left _ rfl))⟩
  refine ⟨fun stay => ?_, fun empty dead => ?_, fun gone e r empty hst dead => ?_⟩
  · refine resumed ((if_neg stay).trans ?_)
    rw [Gang.resume_em _ stay]
  · have emptied : settle live st g.depth = settle live [] (g.depth - st.length) := by
      rw [← settle_skips dead [], List.append_nil]
    refine ⟨fun last => ?_, fun more stay => ?_⟩
    · have ended : settle live st g.depth = ⟨0, 0, [], 0, none⟩ := by
        rw [emptied, last, Nat.sub_self]
        rfl
      exact resumed ((if_pos empty).trans (Gang.resume_ends _ empty ended))
    · have below : settle live st g.depth = ⟨0, live, [], g.depth - st.length, none⟩ :=
        emptied.trans (if_neg (Nat.sub_ne_zero_of_lt more))
      exact resumed ((if_pos empty).trans (Gang.resume_goes (g := stays) _ empty below stay (List.forall_mem_nil _)))
  · have within : ∀ x ∈ st, x.within live = x := fun x hx => Gang.without_within (g := g) hx
    rw [hst] at within
    have within := fun x hx => within x (List.mem_append_right gone hx)
    obtain ⟨top, rest⟩ := List.forall_mem_cons.1 within
    have reached : settle live st g.depth = settle live (e :: r) (g.depth - gone.length) := by rw [hst, settle_skips dead]
    refine ⟨fun pend => ?_, fun pend jv rejoin => ?_⟩
    · have goes := reached.trans (settle_pending top pend r _)
      have live_pend : e.pend &&& live = e.pend := congrArg SSEntry.pend top
      exact resumed ((if_pos empty).trans (Gang.resume_goes (g := stays) _ empty goes (live_ne_zero live_pend pend)
        (List.forall_mem_cons.2 ⟨SSEntry.within_cleared top, rest⟩)))
    · have goes := reached.trans (settle_joined top pend jv rejoin r _)
      have live_rejoin : e.rejoin &&& live = e.rejoin := congrArg SSEntry.rejoin top
      exact resumed ((if_pos empty).trans (Gang.resume_goes (g := stays) _ empty goes (live_ne_zero live_rejoin rejoin) rest))

end

section
/-! Settles O45: MONITOR and JOINC, which push a word read at its home slice or wait (06:R137, 16:R333, 08:R176, 22:R410). -/

namespace Sys2Proof.Machine

open Sys2Proof

/-! ### What leaves late values and memory -/

/-- The two states hold the same late values and the same bytes. -/
structure State.SameValues (s t : State) : Prop where
  lates : t.lates = s.lates
  mem : s.SameMem t

theorem State.SameValues.refl (s : State) : s.SameValues s := ⟨rfl, fun _ _ => rfl⟩

theorem State.SameValues.trans {s t u : State} (h : s.SameValues t) (h' : t.SameValues u) : s.SameValues u :=
  ⟨h'.lates.trans h.lates, fun f a => (h'.mem f a).trans (h.mem f a)⟩

theorem State.SameValues.foldl {α : Type} {f : State → α → State} (h : ∀ (s : State) x, s.SameValues (f s x)) (l : List α)
    (s : State) : s.SameValues (l.foldl f s) := by
  induction l generalizing s with
  | nil => exact .refl s
  | cons x r ih => exact (h s x).trans (ih _)

theorem State.OnlyReads.sameValues {s t : State} (h : s.OnlyReads t) : s.SameValues t := by
  refine ⟨by rw [h], fun f a => ?_⟩
  rw [h.mem]

/-- Reads leave what an operand reads. -/
theorem State.OnlyReads.opnd {s t : State} (h : s.OnlyReads t) (g : Gang) (imm : BitVec 16) (o : Opnd) (l : Nat) :
    t.opnd g imm o l = s.opnd g imm o l := by
  rw [h]
  rfl

/-- A footing changed but for its memory. -/
theorem State.sameValues_setFoot (s : State) (f : Nat) {x : Footing} (h : x.mem = (vget s.foots f).mem) :
    s.SameValues (s.setFoot f x) := by
  refine ⟨rfl, fun i a => ?_⟩
  have same : (s.setFoot f x).mem i = s.mem i := by
    by_cases here : i % 4 = f % 4
    · have at_ (v : Vector Footing 4) : vget v i = vget v f := by simp only [vget, here]
      rw [State.mem, State.mem, at_, at_, State.setFoot, vget_vset_same, h]
    · rw [State.mem, State.setFoot, vget_vset_ne _ _ here, State.mem]
  rw [same]

theorem State.sameValues_raise (s : State) (f g n : Nat) : s.SameValues (s.raise f g n) := by
  have ended : s.SameValues (if (vget s.foots g).epoch < n then s.endEpoch g else s) := by
    split
    · exact s.sameValues_setFoot g rfl
    · exact .refl s
  simp only [State.raise]
  split
  · exact .refl s
  · exact ended.trans (State.sameValues_setFoot _ f rfl)

theorem State.sameValues_observe (s : State) (foot : Nat) (ts : List WTag) : s.SameValues (s.observe foot ts) :=
  .foldl (fun _ _ => State.sameValues_raise ..) ts s

/-! ### Acquires (08:R175, 20:R391) -/

theorem State.sameValues_acquire (s : State) (g : Gang) (ids : List Nat) (sc : Scope) : s.SameValues (s.acquire g ids sc).1 := by
  simp only [State.acquire]
  split
  · exact ⟨rfl, fun _ _ => rfl⟩
  · exact .refl s

theorem State.sameValues_acquireAt (s : State) (g : Gang) (bs : List BKey) (sc : Scope) (view pa n : Nat) :
    s.SameValues (s.acquireAt g bs sc view pa n).1 := by
  refine .trans (t := if Scope.far sc then s.observe (footOf g.core) (s.tagsAt view pa n) else s) ?_ (State.sameValues_acquire ..)
  split
  · exact s.sameValues_observe ..
  · exact .refl s

theorem State.sameValues_homeAcq (s : State) (g : Gang) (m : Mask) (pa : Nat) : s.SameValues (s.homeAcq g m pa).1 := by
  simp only [State.homeAcq]
  refine .trans ?_ (State.sameValues_acquireAt ..)
  exact ⟨rfl, fun _ _ => rfl⟩

/-! ### Reads at the home slice (06:R137) -/

/-- A read at the home slice that nothing holds back goes on with the word, once the slice has the line (08:R176). -/
theorem State.homeRead_ready {s : State} {g : Gang} {va : Nat} {e : TlbEntry} (k : State → Nat → Word → Out) :
    let pa := e.phys (footOf g.core) va
    let home := s.homeFoot (s.gangPart g) pa
    s.lookup g.core (s.asidOf g.brick.wall) va .read = some e → s.homeFree g pa = true → s.missRoom home pa = true →
    s.poisoned pa = false → s.portShut pa = false →
    s.homeRead g va k = k ((s.touchLine home pa false).readOut (s.gangPart g) pa 8) pa ((s.mem home).word pa) := by
  intro pa home page free room clean enabled
  simp only [State.homeRead, page]
  rw [if_neg (by simp [pa, home, free, room]), if_neg (by simp [pa, enabled]), if_neg (by simp [pa, clean])]

/-- A value known now, pushed in acting lanes as one that arrives late (04:R81). -/
theorem State.late_done (s : State) (g : Gang) {m : Mask} (hm : m ≠ 0) (d : Dest) (f : Nat → Word) :
    (s.late g m d f).1.done (s.late g m d f).2 = .next (s.pushesLate g m d f) := by
  simp only [State.late, if_neg hm]
  rfl

/-- The word pushed as a value that arrives late, with the acquire of its read. -/
def State.pushHome (s : State) (g : Gang) (m : Mask) (pa : Nat) (d : Dest) (w : Word) : State :=
  (s.homeAcq g m pa).1.pushesLate (s.homeAcq g m pa).2 m d fun _ => w

/-- Such a push adds a late value that holds the word in every lane, and leaves memory. -/
theorem State.pushHome_adds {s t : State} (h : s.SameValues t) (g : Gang) (m : Mask) (pa : Nat) (d : Dest) (w : Word) :
    ∃ v : LateVal, (t.pushHome g m pa d w).lates = s.lates ++ [v] ∧ v.gid = g.gid ∧ v.dest = d ∧ v.lanes = m ∧
      v.ready = true ∧ (∀ j < 32, Lanes.at v.vals j = w) ∧ s.SameMem (t.pushHome g m pa d w) := by
  have kept := h.trans (t.sameValues_homeAcq g m pa)
  refine ⟨⟨(t.homeAcq g m pa).1.nextId, g.gid, d, m, Vector.ofFn fun _ => w, true⟩, ?_, rfl, rfl, rfl, rfl, ?_, kept.mem⟩
  · rw [← kept.lates]
    rfl
  · intro j _
    simp [Lanes.at]

/-! ### MONITOR and JOINC (06:R137, 16:R333) -/

theorem State.Once.acting {s : State} {g : Gang} {gd : Guard} {os : List Opnd} {l : Nat} (h : s.Once g gd os l) :
    g.acts gd ≠ 0 := by
  intro idle
  have low := h.low
  rw [(lowest_eq_none_iff _).2 idle] at low
  cases low

/-- Bits 55:0 of a register, as an address (08:R181). -/
theorem bits_eq_uval (x : Word) : bits x 0 56 = uval 56 x := rfl

/-- MONITOR reads the word of operand A, and pushes it or waits by operand B. -/
theorem execMonitor_once {s : State} {g : Gang} {gd : Guard} {d : Dest} {a b : Opnd} {l : Nat} (h : s.Once g gd [a, b] l) :
    execMonitor gd d a b s = s.homeRead g (bits (s.opnd g 0 a l) 0 56 / 8 * 8) fun s' pa w =>
      if w ≠ s'.opnd g 0 b l ∨ g.woken = true then .next (s'.pushHome g (g.acts gd) pa d w)
      else s'.stall { g with spins := g.spins + 1 } (.monitor ⟨pa / 128, pa, s'.cycle, false, false⟩) := by
  refine (h.runs true _).trans ?_
  simp only [bits_eq_uval, State.pushHome, ← State.late_done _ _ h.acting]

/-- The cycle since which a JOINC waits (16:R333). -/
def Gang.joinsSince (g : Gang) (now : Nat) : Nat :=
  match g.wait with
  | .joinc _ _ t => t
  | _ => now

/-- JOINC reads the counter that operand A names, and pushes it or waits by operand B. -/
theorem execJoinc_once {s : State} {g : Gang} {gd : Guard} {a b : Opnd} {l : Nat} (h : s.Once g gd [a, b] l)
    (aligned : bits (s.opnd g 0 a l) 0 56 % 8 = 0) :
    execJoinc gd a b s = s.homeRead g (bits (s.opnd g 0 a l) 0 56) fun s' pa w =>
      if reaches w (s.opnd g 0 b l) = true then .next (s'.pushHome g (g.acts gd) pa .none w)
      else s'.stall g (.joinc (BitVec.ofNat 56 (bits (s.opnd g 0 a l) 0 56)) (s.opnd g 0 b l) (g.joinsSince s'.cycle)) := by
  refine ((h.runs true _).trans (if_neg (not_not.2 aligned))).trans ?_
  simp only [bits_eq_uval, State.pushHome, ← State.late_done _ _ h.acting]
  rfl

end Sys2Proof.Machine

open Sys2Proof Sys2Proof.Machine

/-- Settles O45: both read the word at its home slice; what they push leaves memory, and what waits keeps the reads' traces. -/
theorem monitorsAndJoins : Obligations.MonitorsAndJoins := by
  unfold Obligations.MonitorsAndJoins
  refine ⟨?_, ?_⟩
  · intro gd d a b s g l e h va pa home w s1 page free room clean enabled
    have reads : s.OnlyReads s1 := (s.onlyReads_touchLine ..).trans (State.onlyReads_readOut ..)
    have issue : exec (.monitor gd d a b) s = _ :=
      (execMonitor_once h).trans (State.homeRead_ready _ page free room clean enabled)
    rw [reads.opnd] at issue
    refine ⟨fun goes => ?_, fun same asleep => ?_⟩
    · obtain ⟨v, pushed⟩ := State.pushHome_adds reads.sameValues g (g.acts gd) pa d w
      exact ⟨_, v, issue.trans (if_pos goes), pushed⟩
    · have waits : ¬ (w ≠ s.opnd g 0 b l ∨ g.woken = true) := by simp [same, asleep]
      rw [← reads.cycle]
      exact issue.trans (if_neg waits)
  · intro gd a b s g l e h va pa home w s1 aligned page free room clean enabled
    have reads : s.OnlyReads s1 := (s.onlyReads_touchLine ..).trans (State.onlyReads_readOut ..)
    have issue : exec (.joinc gd a b) s = _ :=
      (execJoinc_once h aligned).trans (State.homeRead_ready _ page free room clean enabled)
    refine ⟨fun reached => ?_, fun below => ?_⟩
    · obtain ⟨v, pushed⟩ := State.pushHome_adds reads.sameValues g (g.acts gd) pa .none w
      exact ⟨_, v, issue.trans (if_pos (decide_eq_true reached)), pushed⟩
    · have waits : ¬ reaches w (s.opnd g 0 b l) = true := by simpa [reaches] using below
      rw [← reads.cycle]
      exact issue.trans (if_neg waits)

end

section
/-! Settles O41: the instructions of the matrix engine at their issue (07:R147, R150, R160, 13:R275). -/

namespace Sys2Proof.Machine

open Sys2Proof

/-- The instructions of the matrix engine but ACC.GET issue by one rule (07:R147), each with the operands of its form. -/
theorem exec_matForm {i : Instr} {f : MatForm} (h : matForm i = some f) (s : State) :
    exec i s = s.matIssue f.gd f.os f.tok i f.a f.b f.ops := by
  unfold matForm at h
  split at h <;> cases h <;> rfl

/-! ### The checks of 07:R150 -/

/-- An operand of a matrix instruction that is not at a multiple of its alignment (07:R150). -/
def MatOp.misaligned (o : MatOp) : Bool := decide (matAddr o.addr % o.align ≠ 0)

/-- An operand in the scratchpad whose rows leave the brick's allotment (07:R150). -/
def MatOp.leaves (o : MatOp) (b : Brick) : Bool := o.spad && decide (b.size < matAddr o.addr + 63 * o.stride + o.row)

theorem MatOp.misaligned_eq_false (o : MatOp) : o.misaligned = false ↔ bits o.addr 0 56 % o.align = 0 :=
  decide_eq_false_iff_not.trans not_not

theorem MatOp.leaves_iff (o : MatOp) (b : Brick) :
    o.leaves b = true ↔ o.spad = true ∧ b.size < bits o.addr 0 56 + 63 * o.stride + o.row := by
  rw [MatOp.leaves, Bool.and_eq_true, decide_eq_true_eq]
  rfl

/-- The first misaligned operand is refused, then the first that leaves the allotment (07:R150). -/
theorem matCheck_eq (b : Brick) (os : List MatOp) : matCheck b os =
    match os.find? MatOp.misaligned with
    | some o => some (0x1A, matAddr o.addr)
    | none => (os.find? fun o => o.leaves b).map fun o => (0x1B, matAddr o.addr) := rfl

theorem find_misaligned_none {os : List MatOp} (aligned : ∀ o ∈ os, bits o.addr 0 56 % o.align = 0) :
    os.find? MatOp.misaligned = none := by
  simpa [List.find?_eq_none, MatOp.misaligned_eq_false] using aligned

theorem matCheck_none {b : Brick} {os : List MatOp} (aligned : ∀ o ∈ os, bits o.addr 0 56 % o.align = 0)
    (inside : ∀ o ∈ os, o.spad = true → bits o.addr 0 56 + 63 * o.stride + o.row ≤ b.size) : matCheck b os = none := by
  have range : (os.find? fun o => o.leaves b) = none := by
    simpa [List.find?_eq_none, MatOp.leaves_iff] using inside
  rw [matCheck_eq, find_misaligned_none aligned, range]
  rfl

theorem matCheck_align {b : Brick} {pre post : List MatOp} {o : MatOp} (before : ∀ x ∈ pre, bits x.addr 0 56 % x.align = 0)
    (here : ¬ bits o.addr 0 56 % o.align = 0) : matCheck b (pre ++ o :: post) = some (0x1A, bits o.addr 0 56) := by
  have bad : o.misaligned = true := decide_eq_true here
  rw [matCheck_eq, List.find?_append, find_misaligned_none before, Option.none_or, List.find?_cons_of_pos bad]
  rfl

theorem matCheck_range {b : Brick} {pre post : List MatOp} {o : MatOp}
    (aligned : ∀ x ∈ pre ++ o :: post, bits x.addr 0 56 % x.align = 0)
    (before : ∀ x ∈ pre, ¬ (x.spad = true ∧ b.size < bits x.addr 0 56 + 63 * x.stride + x.row))
    (here : o.spad = true ∧ b.size < bits o.addr 0 56 + 63 * o.stride + o.row) :
    matCheck b (pre ++ o :: post) = some (0x1B, bits o.addr 0 56) := by
  have inside : (pre.find? fun o => o.leaves b) = none :=
    List.find?_eq_none.2 fun x hx => mt (MatOp.leaves_iff x b).1 (before x hx)
  have first : ((o :: post).find? fun o => o.leaves b) = some o := List.find?_cons_of_pos ((MatOp.leaves_iff o b).2 here)
  rw [matCheck_eq, find_misaligned_none aligned, List.find?_append, inside, Option.none_or, first]
  rfl

/-! ### The entry on its way (07:R147, 13:R275) -/

/-- A matrix instruction on its way changes the core's queue or what travels over the mortar. -/
theorem State.matSend_rest (s : State) (g : Gang) (core : Nat) (e : MatEntry) :
    s.matSend g core e = { s with cores := (s.matSend g core e).cores, matArrivals := (s.matSend g core e).matArrivals } := by
  unfold State.matSend
  split <;> rfl

/-- The entry is at the tail of the core's queue. -/
theorem State.enterMq_mq (s : State) (core : Nat) (e : MatEntry) : ((s.enterMq core e).core core).mq = (s.core core).mq ++ [e] := by
  simp only [State.enterMq, State.setMq, State.core_setCore]

/-- Where the entry stands after the issue, seen from a state with the same queues and the same mortar. -/
theorem State.matIssued_matSend {s u : State} (cores : u.cores = s.cores) (mortar : u.matArrivals = s.matArrivals)
    (cycle : u.cycle = s.cycle) (g g' : Gang) (b : Brick) (e : MatEntry) :
    s.MatIssued ((u.matSend g b.core e).setGang g') g b e := by
  unfold State.MatIssued State.matSend
  split
  · have queue : (u.core b.core).mq = (s.core b.core).mq := by simp only [State.core, cores]
    refine ⟨?_, mortar⟩
    rw [State.setGang_core, State.enterMq_mq, queue]
  · exact ⟨by simp only [State.setGang_matArrivals, mortar, cycle], cores⟩

/-- The entry that an issue makes, with the next request number, is new. -/
theorem State.matEntry_isNew {s u : State} (g : Gang) (b : Brick) (i : Instr) (tok : Tok) (a c : Nat → Word) (m : Mask) (l : Nat) :
    (u.matEntry g b s.nextId i tok a c m l).IsNew s g b i tok l :=
  ⟨rfl, rfl, rfl, rfl, rfl, rfl, rfl, rfl⟩

/-- The queue of the brick's core takes the entry now, or the entry travels (07:R147, 13:R275). -/
theorem State.sendsNow {s : State} {g : Gang} {b : Brick} (room : b.core = g.core → s.mqHolds b.core = false) :
    (b.core == g.core && s.mqHolds b.core) = false := by
  by_cases h : b.core = g.core
  · rw [room h, Bool.and_false]
  · rw [beq_false_of_ne h, Bool.false_and]

/-! ### The issue -/

/-- A form that meets the conditions of its issue sends its entry and arms its token. -/
theorem MatForm.Goes.exec_eq {i : Instr} {f : MatForm} {s : State} {g : Gang} {l : Nat} {b : Brick} (form : matForm i = some f)
    (h : f.Goes s g l b) :
    let u : State := { s with nextId := s.nextId + 1 }
    exec i s = .next ((u.matSend g b.core (u.matEntry g b s.nextId i f.tok (s.opnd g 0 f.a) (s.opnd g 0 f.b) (g.acts f.gd) l)).setGang
      (g.arm f.tok).advance) := by
  have checked := matCheck_none h.aligned h.inside
  have goes : ((b.core == g.core && s.mqHolds b.core) || g.tokFull f.tok) = false := by
    rw [State.sendsNow h.room, h.token, Bool.or_false]
  refine (exec_matForm form s).trans ((h.once.runs false _).trans ?_)
  simp only [h.brick, checked, goes, Bool.false_eq_true, if_false]
  rfl

/-- ACC.GET sends its entry, and its push waits for the engine's value (07:R160, 04:R81). -/
theorem execAccGet_once {gd : Guard} {ty : Ty} {c : BitVec 3} {a : Opnd} {s : State} {g : Gang} {l : Nat} {b : Brick}
    (h : s.Once g gd [a] l) (brick : s.brick? (g.lane l).brick = some b) (room : b.core = g.core → s.mqHolds b.core = false) :
    let u : State := { s with
      nextId := s.nextId + 1
      lates := s.lates ++ [⟨s.nextId, g.gid, .none, g.acts gd, Vector.replicate 32 0, false⟩] }
    exec (.accGet gd ty c a) s = .next ((u.matSend g b.core
      (u.matEntry g b s.nextId (.accGet gd ty c a) none (s.opnd g 0 a) (fun _ => 0) (g.acts gd) l)).setGang
        (g.pushPending (g.acts gd) .none s.nextId).advance) := by
  change execAccGet gd ty c a s = _
  refine (State.perLane_ready _ false h.cur h.ready).trans ?_
  simp only [h.low, brick, State.sendsNow room, Bool.false_eq_true, if_false]
  rfl

end Sys2Proof.Machine

open Sys2Proof Sys2Proof.Machine

/-- Settles O41: what issues leaves the entry on its way and the token armed or the value awaited; a refused operand traps. -/
theorem matrixInstructionsIssue : Obligations.MatrixInstructionsIssue := by
  unfold Obligations.MatrixInstructionsIssue
  refine ⟨?_, ?_, ?_⟩
  · intro i f s g l b _ form goes
    refine ⟨_, _, goes.exec_eq form, State.matEntry_isNew .., rfl, rfl, State.matIssued_matSend rfl rfl rfl .., ?_, ?_, fun _ _ => ?_⟩
    all_goals rw [State.matSend_rest]; rfl
  · intro i f s g l b pre post o _ form once brick split aligned leaves
    have runs (cause : Nat) (check : matCheck b (pre ++ o :: post) = some (cause, bits o.addr 0 56)) :
        exec i s = s.trapEm g cause (BitVec.ofNat 64 (bits o.addr 0 56)) := by
      refine (exec_matForm form s).trans ((once.runs false _).trans ?_)
      simp only [brick, split, check]
    exact ⟨fun before here => runs _ (matCheck_align before here), fun all before here => runs _ (matCheck_range all before here)⟩
  · intro gd ty c a s g l b once brick room
    refine ⟨_, _, execAccGet_once once brick room, State.matEntry_isNew .., fun j hj => ?_, State.matIssued_matSend rfl rfl rfl ..,
      ?_, ?_, ?_, fun _ _ => ?_⟩
    · simp only [State.matEntry, Lanes.at, Vector.getElem_ofFn, Nat.mod_eq_of_lt hj]
    all_goals rw [State.matSend_rest]; rfl

end

section
/-! The steps of the matrix engine, for O51: the cells that a write of a tile leaves, and a step of MMA whose operands lie in the
scratchpad (07:R149, R152, R153, R157, 13:R275). -/

namespace Sys2Proof.Machine

open Sys2Proof

/-! ### Cells of a tile (07:R144) -/

/-- What a search by number finds among the cells written from number `lo` on, of which the zero ones are not listed. -/
theorem find_written (lo : Nat) (vs : List (BitVec 32)) (k : Nat) :
    ((vs.mapIdx fun i v => (lo + i, v)).find? fun c => c.2 != 0 && c.1 == k) =
      if lo ≤ k ∧ vs.getD (k - lo) 0 ≠ 0 then some (k, vs.getD (k - lo) 0) else none := by
  induction vs generalizing lo with
  | nil => simp
  | cons v r ih =>
    have next : (r.mapIdx fun i w => (lo + (i + 1), w)) = r.mapIdx fun i w => (lo + 1 + i, w) := by
      simp only [Nat.add_comm 1, Nat.add_assoc]
    rw [List.mapIdx_cons, next, Nat.add_zero, List.find?_cons, ih]
    by_cases here : lo = k
    · subst here
      by_cases zero : v = 0#32
      · simp [zero]
      · simp [zero, bne_iff_ne.2 zero]
    · rw [beq_false_of_ne here, Bool.and_false]
      by_cases below : k < lo
      · simp [show ¬ lo ≤ k by omega, show ¬ lo + 1 ≤ k by omega]
      · have tail : (v :: r).getD (k - lo) 0 = r.getD (k - (lo + 1)) 0 := by
          rw [show k - lo = k - (lo + 1) + 1 by omega, List.getD_cons_succ]
        rw [tail]
        simp only [show lo ≤ k by omega, show lo + 1 ≤ k by omega]

/-- A search by number among the cells whose numbers are in a range. -/
theorem find_range (l : List (Nat × BitVec 32)) (p : Nat → Bool) (k : Nat) :
    (l.find? fun c => p c.1 && c.1 == k) = if p k then l.find? fun c => c.1 == k else none := by
  have same : (fun c : Nat × BitVec 32 => p c.1 && c.1 == k) = fun c => p k && c.1 == k := by
    funext c
    by_cases h : c.1 = k
    · rw [h]
    · rw [beq_false_of_ne h, Bool.and_false, Bool.and_false]
  rw [same]
  cases p k <;> simp

/-- A cell after a write of the cells from `lo` on. -/
theorem cellAt_cellsPut (l : List (Nat × BitVec 32)) (lo : Nat) (vs : List (BitVec 32)) (k : Nat) :
    cellAt (cellsPut l lo vs) k = if lo ≤ k ∧ k < lo + vs.length then vs.getD (k - lo) 0 else cellAt l k := by
  simp only [cellAt, cellsPut, List.find?_append, List.find?_filter, Bool.decide_and, Bool.decide_eq_true, find_written,
    find_range l fun i => decide (i < lo), find_range l fun i => decide (lo + vs.length ≤ i), decide_eq_true_eq]
  rcases Nat.lt_or_ge k lo with below | from_lo
  · simp [below, Nat.not_le.2 below, show ¬ lo + vs.length ≤ k by omega]
  · rcases Nat.lt_or_ge k (lo + vs.length) with inside | above
    · by_cases zero : vs.getD (k - lo) 0 = 0
      · simp only [zero]
        simp [from_lo, inside, Nat.not_lt.2 from_lo, Nat.not_le.2 inside]
      · simp only [ne_eq, zero]
        simp [from_lo, inside, Nat.not_lt.2 from_lo]
    · have past : vs.getD (k - lo) 0 = 0 := List.getD_eq_default _ _ (by omega)
      simp only [past]
      simp [above, Nat.not_lt.2 from_lo, Nat.not_lt.2 above]

theorem State.writeCells_brick {s : State} {k : BKey} {b : Brick} (h : s.brick? k = some b) (t lo : Nat) (vs : List (BitVec 32)) :
    (s.writeCells k t lo vs).brick? k = some { b with tiles := vset b.tiles t (cellsPut (vget b.tiles t) lo vs) } := by
  have key : b.key = k := by simpa using List.find?_some h
  simp only [State.writeCells, h]
  exact State.brickOpt_setBrick h key

theorem State.badTile_within {s : State} {b : Brick} {t : Nat} (clean : s.badTile b t 0 4096 = none) {lo n : Nat} (h : lo + n ≤ 4096) :
    s.badTile b t lo n = none := by
  simp only [State.badTile, Option.map_eq_none_iff, List.find?_eq_none] at clean ⊢
  intro m hm found
  refine clean m hm ?_
  simp only [Bool.and_eq_true, decide_eq_true_eq] at found ⊢
  obtain ⟨⟨tile, from_lo⟩, to_hi⟩ := found
  exact ⟨⟨tile, by omega⟩, by omega⟩

theorem State.readCells_clean {s : State} {k : BKey} {b : Brick} {t lo n : Nat} (h : s.brick? k = some b)
    (clean : s.badTile b t lo n = none) : s.readCells k t lo n = .ok (b.cells t lo n) s := by
  simp only [State.readCells, h, clean]

theorem Brick.cells_getD (b : Brick) (t lo : Nat) {n i : Nat} (h : i < n) : (b.cells t lo n).getD i 0 = cellAt (vget b.tiles t) (lo + i) := by
  simp [Brick.cells, h]

/-! ### A step -/

/-- The engine of core `c` has the entry `e` at the head of its queue and may work on it (07:R147, 14:R297, R299). -/
structure State.MatWorks (s : State) (c : Nat) (e : MatEntry) (rest : List MatEntry) : Prop where
  core : c < 384
  head : (s.core c).mq = e :: rest
  thawed : e.frozen = none
  working : s.working e.brick = true
  free : s.gangHeld e.gid = false

/-- The queue after a step: the entry leaves after its last one. -/
def State.stepped (u : State) (c : Nat) (e : MatEntry) (rest : List MatEntry) : State :=
  if e.step = matSteps e.instr then u.endMat c e else u.setMq c (e :: rest) 0

theorem State.MatWorks.exec_eq {s u : State} {c : Nat} {e e' : MatEntry} {rest : List MatEntry} (h : s.MatWorks c e rest)
    (step : s.matStep c e = .ok e' u) :
    exec (.matrixStepComplete c) s = .next (u.stepped c { e' with step := e'.step + 1 } rest) := by
  change execMatrixStepComplete c s = _
  simp only [execMatrixStepComplete, h.head, h.thawed, h.working, h.free, step, Nat.not_le.2 h.core, if_false]
  rfl

theorem State.complete_brickOpt (s : State) (gid : Nat) (tok : Tok) (k : BKey) : (s.complete gid tok).brick? k = s.brick? k := by
  simp only [State.brick?, (s.complete_frame gid tok).2]

/-- The step's end leaves the bricks to the step. -/
theorem State.stepped_brickOpt (u : State) (c : Nat) (e : MatEntry) (rest : List MatEntry) (k : BKey) :
    (u.stepped c e rest).brick? k = u.brick? k := by
  unfold State.stepped
  split
  · exact State.complete_brickOpt ..
  · rfl

/-- A step that writes cells of its brick's tile. -/
theorem State.MatWorks.writes {s : State} {c : Nat} {e : MatEntry} {rest : List MatEntry} {b : Brick} (h : s.MatWorks c e rest)
    (brick : s.brick? e.brick = some b) {t lo : Nat} {vs : List (BitVec 32)}
    (step : s.matStep c e = .ok e (s.writeCells e.brick t lo vs)) :
    ∃ u : State, exec (.matrixStepComplete c) s = .next u ∧
      u.brick? e.brick = some { b with tiles := vset b.tiles t (cellsPut (vget b.tiles t) lo vs) } :=
  ⟨_, h.exec_eq step, (State.stepped_brickOpt ..).trans (State.writeCells_brick brick ..)⟩

theorem cellAt_zeroed (y : Vector (List (Nat × BitVec 32)) 8) (x : BitVec 3) (lo n j k : Nat) :
    cellAt (vget (vset y x.toNat (cellsPut (vget y x.toNat) lo (List.replicate n 0))) j) k =
      if j % 8 = x.toNat ∧ lo ≤ k ∧ k < lo + n then 0 else cellAt (vget y j) k := by
  have tile : x.toNat % 8 = x.toNat := Nat.mod_eq_of_lt x.isLt
  by_cases same : j % 8 = x.toNat
  · have at_x (z : Vector (List (Nat × BitVec 32)) 8) : vget z j = vget z x.toNat := by
      simp only [vget, same, tile]
    simp only [at_x, vget_vset_same, cellAt_cellsPut, List.length_replicate, same, true_and]
    split
    · exact List.getD_replicate _ (by omega)
    · rfl
  · rw [vget_vset_ne _ _ (by omega), if_neg (fun h => same h.1)]

end Sys2Proof.Machine
end

section
/-! A step of MMA whose operands lie in the scratchpad, for O51 (07:R152, R153). -/

namespace Sys2Proof.Machine

open Sys2Proof

/-! ### Reads one after another -/

/-- Reads that change nothing, one after another. -/
theorem readAll_same {α β : Type} {rd : State → α → EngRes β} {s : State} {f : α → β} {l : List α}
    (h : ∀ x ∈ l, rd s x = .ok (f x) s) : readAll rd l s = .ok (l.map f) s := by
  induction l with
  | nil => rfl
  | cons x r ih =>
    simp only [readAll, h x List.mem_cons_self, ih fun y hy => h y (List.mem_cons_of_mem _ hy), List.map_cons]

/-- The matrix engine reads an operand in the scratchpad, which no watermark holds and no uncorrectable word touches. -/
theorem State.matRead_spad {s : State} {core : Nat} {e : MatEntry} {b : Brick} {off n : Nat} (done : ∀ i ∈ e.deps, s.isOpen i = false)
    (brick : s.brick? e.brick = some b) (free : b.heldFor e.gid e.id off n = false ∧ s.badSpad b off n = none) :
    s.matRead core e true off n = .ok (b.engReadN off n) s := by
  have closed : e.deps.any s.isOpen = false := by simpa [List.any_eq_false] using done
  simp only [State.matRead, State.engSpad, closed, brick, free, if_true, if_false, Bool.false_eq_true]

/-! ### Elements -/

/-- The elements of a read of whole elements. -/
theorem elems_engReadN (b : Brick) (off : Nat) {w : Nat} (m : Nat) (hw : 0 < w) :
    elems w (b.engReadN off (w * m)) = (List.range m).map fun n => leNat (b.engReadN (off + w * n) w) := by
  have count : (b.engReadN off (w * m)).length / w = m := by
    rw [Brick.engReadN, List.length_map, List.length_range, Nat.mul_div_cancel_left _ hw]
  rw [elems, count]
  refine List.map_congr_left fun n hn => ?_
  have inside : w * n + w ≤ w * m := by
    rw [← Nat.mul_succ]
    exact Nat.mul_le_mul_left w (List.mem_range.1 hn)
  congr 1
  refine List.ext_getElem ?_ fun i _ _ => ?_
  · simp [Brick.engReadN]
    omega
  · simp [Brick.engReadN, Nat.add_assoc]

theorem sval_byte (a : Nat) : sval 8 (BitVec.ofNat 64 a) = (BitVec.ofNat 8 a).toInt := by
  have low : a % 2 ^ 64 % 2 ^ 8 = a % 2 ^ 8 := Nat.mod_mod_of_dvd _ (by decide)
  simp only [sval, uval, BitVec.toInt_eq_toNat_cond, BitVec.toNat_ofNat, low]
  split <;> split <;> omega

/-- A cell after one chunk of MMA, over the elements by number (07:R153). -/
theorem mmaCell_range (ty : Ty) (c : BitVec 32) (n : Nat) (f g : Nat → Nat) :
    mmaCell ty false c ((List.range n).map f) ((List.range n).map g) =
      match tyFmt ty with
      | none => c + BitVec.ofInt 32 (((List.range n).map fun i => (BitVec.ofNat 8 (f i)).toInt * (BitVec.ofNat 8 (g i)).toInt).sum)
      | some x => BitVec.ofNat 32 (Fmt.f32.add .rne c.toNat (Fmt.f32.ofVal (FVal.sum ((List.range n).map fun i =>
          (x.val (f i)).mul (x.val (g i)))))) := by
  cases fmt : tyFmt ty with
  | none => simp only [mmaCell, fmt, byteSum, sval_byte, List.zipWith_map, List.zipWith_self, List.sum_eq_foldl]
  | some x =>
    simp only [mmaCell, fmt, List.zip_map', Bool.false_and, Bool.not_false, List.filter_true, List.map_map]
    rfl

/-! ### A step of a product -/

/-- The elements of a row of A in chunk `j`, as a step reads them. -/
def State.rowOf (s : State) (core : Nat) (e : MatEntry) (p : Product) (j r : Nat) : EngRes (List Nat) :=
  (readAll (fun s (x : Nat × Nat) => s.matRead core e p.m.asp (matAddr e.a + 32 * p.m.sa.toNat * r + x.1) x.2) (p.partsA j) s).then
    fun bs s => .ok (p.elemsA j bs.flatten) s

/-- The elements of a column of B in chunk `j`. -/
def State.colOf (s : State) (core : Nat) (e : MatEntry) (p : Product) (j c : Nat) : EngRes (List Nat) :=
  (s.matRead core e p.m.bsp (matAddr e.b + 32 * p.m.sb.toNat * c + p.shape.bytes * j) p.shape.bytes).then
    fun bs s => .ok (p.elemsB bs) s

/-- A step of a product (07:R152): its rows and columns read, its band read, each cell of the band written. -/
theorem State.productStep_eq (s : State) (core : Nat) (e : MatEntry) (p : Product) :
    let j := e.step / p.shape.bands
    let r0 := p.shape.band * (e.step % p.shape.bands)
    s.productStep core e p =
      (readAll (fun s i => s.rowOf core e p j (r0 + i)) (List.range p.shape.band) s).then fun rows s =>
      (readAll (fun s c => s.colOf core e p j c) (List.range 64) s).then fun cols s =>
      (s.readCells e.brick (matTile e.instr) (64 * r0) (64 * p.shape.band)).then fun old s =>
        .ok e (s.writeCells e.brick (matTile e.instr) (64 * r0)
          ((List.zip rows (List.range p.shape.band)).flatMap fun x =>
            (List.zip cols (List.range 64)).map fun y => p.cell (old.getD (64 * x.2 + y.2) 0) x.1 y.1)) := rfl

theorem zip_map_range {α : Type} (f : Nat → α) (n : Nat) :
    List.zip ((List.range n).map f) (List.range n) = (List.range n).map fun i => (f i, i) := by
  simpa using List.zip_map' (f := f) (g := id) (l := List.range n)

/-- A step whose reads change nothing writes the cells of its band (07:R152). -/
theorem State.productStep_ok {s : State} {core : Nat} {e : MatEntry} {p : Product} {rows cols : Nat → List Nat}
    {old : List (BitVec 32)}
    (hr : ∀ i < p.shape.band, s.rowOf core e p (e.step / p.shape.bands) (p.shape.band * (e.step % p.shape.bands) + i) = .ok (rows i) s)
    (hc : ∀ k < 64, s.colOf core e p (e.step / p.shape.bands) k = .ok (cols k) s)
    (ho : s.readCells e.brick (matTile e.instr) (64 * (p.shape.band * (e.step % p.shape.bands))) (64 * p.shape.band) = .ok old s) :
    s.productStep core e p = .ok e (s.writeCells e.brick (matTile e.instr) (64 * (p.shape.band * (e.step % p.shape.bands)))
      ((List.range p.shape.band).flatMap fun i => (List.range 64).map fun k => p.cell (old.getD (64 * i + k) 0) (rows i) (cols k))) := by
  have allCols : readAll (fun s k => s.colOf core e p (e.step / p.shape.bands) k) (List.range 64) s = .ok ((List.range 64).map cols) s :=
    readAll_same fun k hk => hc k (List.mem_range.1 hk)
  rw [State.productStep_eq, readAll_same fun i hi => hr i (List.mem_range.1 hi)]
  simp only [EngRes.then, allCols, ho, zip_map_range, List.flatMap_map, List.map_map]
  rfl

/-- A cell of a grid written row by row. -/
theorem getD_grid {α : Type} (m n : Nat) (f : Nat → Nat → α) (d : α) {i k : Nat} (hi : i < m) (hk : k < n) :
    ((List.range m).flatMap fun i => (List.range n).map (f i)).getD (n * i + k) d = f i k := by
  induction m with
  | zero => omega
  | succ m ih =>
    have size : ((List.range m).flatMap fun i => (List.range n).map (f i)).length = n * m := by
      simp [List.length_flatMap, Nat.mul_comm]
    rw [List.range_succ, List.flatMap_append, List.flatMap_singleton]
    by_cases h : i < m
    · have inside : n * i + k < n * m := calc
        n * i + k < n * (i + 1) := Nat.add_lt_add_left hk _
        _ ≤ n * m := Nat.mul_le_mul_left n h
      rw [List.getD_append _ _ _ _ (by rwa [size]), ih h]
    · obtain rfl : i = m := by omega
      rw [List.getD_append_right _ _ _ _ (by rw [size]; omega), size, Nat.add_sub_cancel_left]
      simp [hk]

/-! ### MMA (07:R153) -/

/-- MMA as its steps see it. -/
def mmaProduct (ty : Ty) (m : MmaMod) : Product :=
  ⟨tyShape ty, m, fun j => [((tyShape ty).bytes * j, (tyShape ty).bytes)], fun _ => elems ty.bytes, elems ty.bytes, mmaCell ty false⟩

/-- A chunk of 16 elements of `w` bytes, at an offset of the allotment. -/
def Brick.chunk (b : Brick) (w off : Nat) : List Nat := (List.range 16).map fun n => leNat (b.engReadN (off + w * n) w)

/-- The element types of MMA have 16 elements in a chunk (07:R152). -/
theorem tyShape_bytes {gd : Guard} {ty : Ty} {tok : Tok} {x : BitVec 3} {p q : Opnd} {m : MmaMod}
    (wf : (Instr.mma gd ty tok x p q m).wf = true) : (tyShape ty).bytes = 16 * ty.bytes ∧ 0 < ty.bytes := by
  have listed : ty ∈ [Ty.s8, .f32, .f16, .bf16, .e4m3, .e5m2] := by
    simp only [Instr.wf, Bool.and_eq_true] at wf
    exact List.contains_iff_mem.1 wf.1
  have all : ∀ t ∈ [Ty.s8, .f32, .f16, .bf16, .e4m3, .e5m2], (tyShape t).bytes = 16 * t.bytes ∧ 0 < t.bytes := by decide
  exact all ty listed

theorem tyShape_rows (ty : Ty) (step : Nat) : (tyShape ty).band * (step % (tyShape ty).bands) + (tyShape ty).band ≤ 64 := by
  cases ty <;> simp only [tyShape, Shape.bands] <;> omega

section
variable {s : State} {c : Nat} {e : MatEntry} {b : Brick} {ty : Ty} {m : MmaMod}

theorem elems_chunk (bytes : (tyShape ty).bytes = 16 * ty.bytes ∧ 0 < ty.bytes) (off : Nat) :
    elems ty.bytes (b.engReadN off (tyShape ty).bytes) = b.chunk ty.bytes off := by
  rw [bytes.1, Nat.mul_comm, elems_engReadN b off 16 bytes.2]
  rfl

theorem State.rowOf_mma (bytes : (tyShape ty).bytes = 16 * ty.bytes ∧ 0 < ty.bytes) (asp : m.asp = true)
    (done : ∀ i ∈ e.deps, s.isOpen i = false) (brick : s.brick? e.brick = some b) {j r : Nat}
    (free : b.heldFor e.gid e.id (bits e.a 0 56 + 32 * m.sa.toNat * r + 16 * ty.bytes * j) (16 * ty.bytes) = false ∧
      s.badSpad b (bits e.a 0 56 + 32 * m.sa.toNat * r + 16 * ty.bytes * j) (16 * ty.bytes) = none) :
    s.rowOf c e (mmaProduct ty m) j r =
      .ok (b.chunk ty.bytes (bits e.a 0 56 + 32 * m.sa.toNat * r + 16 * ty.bytes * j)) s := by
  rw [← bytes.1] at free ⊢
  simp only [State.rowOf, mmaProduct, readAll, asp, matAddr, State.matRead_spad done brick free, EngRes.then, List.flatten_singleton,
    elems_chunk bytes]

theorem State.colOf_mma (bytes : (tyShape ty).bytes = 16 * ty.bytes ∧ 0 < ty.bytes) (bsp : m.bsp = true)
    (done : ∀ i ∈ e.deps, s.isOpen i = false) (brick : s.brick? e.brick = some b) {j k : Nat}
    (free : b.heldFor e.gid e.id (bits e.b 0 56 + 32 * m.sb.toNat * k + 16 * ty.bytes * j) (16 * ty.bytes) = false ∧
      s.badSpad b (bits e.b 0 56 + 32 * m.sb.toNat * k + 16 * ty.bytes * j) (16 * ty.bytes) = none) :
    s.colOf c e (mmaProduct ty m) j k =
      .ok (b.chunk ty.bytes (bits e.b 0 56 + 32 * m.sb.toNat * k + 16 * ty.bytes * j)) s := by
  rw [← bytes.1] at free ⊢
  simp only [State.colOf, mmaProduct, bsp, matAddr, State.matRead_spad done brick free, EngRes.then, elems_chunk bytes]

/-- The new cells of a band: row `i` of the band against column `k`. -/
def Brick.mmaBand (b : Brick) (ty : Ty) (x : Nat) (r0 : Nat) (rowAt colAt : Nat → Nat) : List (BitVec 32) :=
  (List.range (tyShape ty).band).flatMap fun i => (List.range 64).map fun k =>
    mmaCell ty false (cellAt (vget b.tiles x) (64 * (r0 + i) + k)) (b.chunk ty.bytes (rowAt i)) (b.chunk ty.bytes (colAt k))

/-- A step of MMA on operands in the scratchpad. -/
theorem State.matStep_mma {gd : Guard} {tok : Tok} {x : BitVec 3} {p q : Opnd} (instr : e.instr = .mma gd ty tok x p q m)
    (wf : e.instr.wf = true) (asp : m.asp = true) (bsp : m.bsp = true) (done : ∀ i ∈ e.deps, s.isOpen i = false)
    (brick : s.brick? e.brick = some b) (clean : s.badTile b x.toNat 0 4096 = none) :
    let j := e.step / (tyShape ty).bands
    let r0 := (tyShape ty).band * (e.step % (tyShape ty).bands)
    let a' := fun i => bits e.a 0 56 + 32 * m.sa.toNat * (r0 + i) + 16 * ty.bytes * j
    let b' := fun k => bits e.b 0 56 + 32 * m.sb.toNat * k + 16 * ty.bytes * j
    let free := fun off => b.heldFor e.gid e.id off (16 * ty.bytes) = false ∧ s.badSpad b off (16 * ty.bytes) = none
    (∀ i < (tyShape ty).band, free (a' i)) → (∀ k < 64, free (b' k)) →
    s.matStep c e = .ok e (s.writeCells e.brick x.toNat (64 * r0) (b.mmaBand ty x.toNat r0 a' b')) := by
  intro j r0 a' b' free freeA freeB
  have bytes := tyShape_bytes (instr ▸ wf)
  have rows := tyShape_rows ty e.step
  have tile : matTile e.instr = x.toNat := by rw [instr]; rfl
  have product : productOf e.instr = some (mmaProduct ty m) := by rw [instr]; rfl
  have old : s.readCells e.brick x.toNat (64 * r0) (64 * (tyShape ty).band) = .ok (b.cells x.toNat (64 * r0) (64 * (tyShape ty).band)) s :=
    State.readCells_clean brick (State.badTile_within clean (by omega))
  have step := State.productStep_ok (core := c) (p := mmaProduct ty m) (fun i hi => State.rowOf_mma bytes asp done brick (freeA i hi))
    (fun k hk => State.colOf_mma bytes bsp done brick (freeB k hk)) (tile ▸ old)
  simp only [State.matStep, product]
  rw [step, tile]
  congr 2
  refine List.flatMap_congr fun i hi => List.map_congr_left fun k hk => ?_
  have inside : 64 * i + k < 64 * (tyShape ty).band := by
    have row : i < (tyShape ty).band := List.mem_range.1 hi
    have column := List.mem_range.1 hk
    omega
  have place : 64 * r0 + (64 * i + k) = 64 * (r0 + i) + k := by omega
  rw [b.cells_getD _ _ inside, place]
  rfl

end

/-- The cells of the tile after a step: those of the band are new (07:R152). -/
theorem Brick.cellAt_mmaBand (b : Brick) (ty : Ty) (x r0 : Nat) (rowAt colAt : Nat → Nat) {i k : Nat} (hk : k < 64) :
    cellAt (cellsPut (vget b.tiles x) (64 * r0) (b.mmaBand ty x r0 rowAt colAt)) (64 * i + k) =
      if i < r0 ∨ r0 + (tyShape ty).band ≤ i then cellAt (vget b.tiles x) (64 * i + k)
      else mmaCell ty false (cellAt (vget b.tiles x) (64 * i + k)) (b.chunk ty.bytes (rowAt (i - r0))) (b.chunk ty.bytes (colAt k)) := by
  have size : (b.mmaBand ty x r0 rowAt colAt).length = 64 * (tyShape ty).band := by
    simp [Brick.mmaBand, List.length_flatMap, Nat.mul_comm]
  rw [cellAt_cellsPut, size]
  by_cases out : i < r0 ∨ r0 + (tyShape ty).band ≤ i
  · rw [if_pos out, if_neg (by omega)]
  · rw [if_neg out, if_pos (by omega), show 64 * i + k - 64 * r0 = 64 * (i - r0) + k by omega, Brick.mmaBand,
      getD_grid _ _ _ _ (by omega) hk, show r0 + (i - r0) = i by omega]

end Sys2Proof.Machine
end

section
/-! What arrives at a matrix engine, a block of a quantisation and a sampling request, for O51 (12:R257, 13:R275, 18:R364-R367). -/

namespace Sys2Proof.Machine

open Sys2Proof

/-! ### Entries that come over the mortar (13:R275) -/

/-- The one entry on its way that has reached its core enters the queue, or waits while the queue takes none. -/
theorem execMatrixRemoteArrival_one {s : State} {a : MatArrival} (one : s.matArrivals = [a]) (due : a.cycle ≤ s.cycle) :
    exec (.matrixRemoteArrival a.core) s =
      if s.mqFull a.core then .refused .cannotOccur else .next (({ s with matArrivals := [] } : State).enterMq a.core a.entry) := by
  have here : s.mortarAt a.core = [a] := by simp [State.mortarAt, one, due]
  change execMatrixRemoteArrival a.core s = _
  simp only [execMatrixRemoteArrival, here, List.insertionSort_cons, List.insertionSort_nil, List.orderedInsert_nil, List.head?_cons,
    one, List.erase_cons_head]

/-! ### What a token's completion and a scratchpad write leave -/

theorem State.complete_rest (s : State) (gid : Nat) (tok : Tok) : s.complete gid tok = { s with gangs := (s.complete gid tok).gangs } := by
  unfold State.complete
  split
  · split <;> rfl
  · rfl

theorem State.spadWrite_group (s : State) (k : BKey) (off : Nat) (bs : List Byte) (i : Nat) :
    (s.spadWrite k off bs).group i = s.group i := by
  unfold State.spadWrite
  split <;> rfl

theorem State.spadWrite_brick {s : State} {k : BKey} {b : Brick} (h : s.brick? k = some b) (off : Nat) (bs : List Byte) :
    (s.spadWrite k off bs).brick? k = some (b.write off bs) := by
  have key : b.key = k := by simpa using List.find?_some h
  have kept : (b.write off bs).key = k := by
    unfold Brick.write
    split <;> exact key
  simp only [State.spadWrite, h]
  exact State.brickOpt_setBrick h kept

/-! ### A block of a quantisation (12:R257) -/

/-- An engine reads its brick's scratchpad, once the gang's writes are at their home. -/
theorem State.spaceRead_spad {s : State} {gid id core asid off n : Nat} {k : BKey} {b : Brick} {deps : List Nat}
    (home : s.atHome gid = true) (done : ∀ i ∈ deps, s.isOpen i = false) (brick : s.brick? k = some b)
    (unheld : b.heldFor gid id off n = false) (clean : s.badSpad b off n = none) :
    s.spaceRead gid id core asid k (true, off) n deps = .ok (b.engReadN off n) s := by
  have closed : deps.any s.isOpen = false := by simpa [List.any_eq_false] using done
  simp [State.spaceRead, State.engSpad, closed, home, brick, unheld, clean]

/-- The queue of a group's quantisation engine after a block of the request at its head. -/
def State.quantDone (s : State) (grp : Nat) (q : QuantReq) (d : QuantDesc) : State :=
  if q.block = d.rows * d.nblk then s.endQuant grp q else s.setQuant grp q

theorem State.quantDone_bricks (s : State) (grp : Nat) (q : QuantReq) (d : QuantDesc) : (s.quantDone grp q d).bricks = s.bricks := by
  unfold State.quantDone
  split
  · rw [State.endQuant, State.complete_rest]
    rfl
  · rfl

/-- The head's block is counted, and a request whose blocks are all done leaves. -/
theorem State.quantDone_quants {s : State} {grp : Nat} {q q' : QuantReq} {rest : List QuantReq} (d : QuantDesc)
    (head : (s.group grp).quants = q :: rest) (same : q'.id = q.id) (others : ∀ x ∈ rest, x.id ≠ q.id) :
    ((s.quantDone grp q' d).group grp).quants = if q'.block = d.rows * d.nblk then rest else q' :: rest := by
  unfold State.quantDone
  split
  · have left : (rest.filter fun x => x.id != q.id) = rest := List.filter_eq_self.2 fun x hx => bne_iff_ne.2 (others x hx)
    rw [State.endQuant, State.complete_rest]
    change (((s.setGroup grp _).group grp).quants) = rest
    simp [State.group_setGroup, head, same, left]
  · have kept : (rest.map fun x => if x.id = q.id then q' else x) = rest := by
      conv_rhs => rw [← List.map_id rest]
      exact List.map_congr_left fun x hx => if_neg (others x hx)
    simp [State.setQuant, State.group_setGroup, head, same, kept]

/-- The head request of a group computes a block whose source and results lie in the scratchpad. -/
theorem execQuantBlockDone_spad {s : State} {k : Nat} {q : QuantReq} {rest : List QuantReq} {d : QuantDesc} {b : Brick} (hk : k < 96)
    (head : (s.group k).quants = q :: rest) (desc : quantDesc q.words = some d) (thawed : q.frozen = none)
    (works : s.working q.brick = true) (free : s.gangHeld q.gid = false) (home : s.atHome q.gid = true)
    (done : ∀ i ∈ q.deps, s.isOpen i = false) (brick : s.brick? q.brick = some b) (src : d.src.1 = true) (dst : d.dst.1 = true)
    (scl : d.scl.1 = true) :
    let w := FTy.bytes q.src
    let off := d.src.2 + d.stride * (q.block % d.rows) + 256 * (q.block / d.rows) * w
    b.heldFor q.gid q.id off (256 * w) = false → s.badSpad b off (256 * w) = none →
    let r := quantBlock q.fmt q.src (b.engReadN off (256 * w))
    exec (.quantBlockDone k) s =
      .next (((s.spadWrite q.brick (d.dst.2 + 256 * q.block) r.1).spadWrite q.brick (d.scl.2 + 4 * q.block) r.2).quantDone k
        { q with block := q.block + 1 } d) := by
  intro w off unheld clean r
  have read := State.spaceRead_spad (core := q.core) (asid := q.asid) home done brick unheld clean
  change execQuantBlockDone k s = _
  simp only [execQuantBlockDone, head, desc, thawed, works, free, Nat.not_le.2 hk, State.quantStep, src, dst, scl, State.spaceCheck,
    State.spaceWrite, if_true, if_false]
  rw [read]
  rfl

/-! ### Samples (18:R364-R367) -/

/-- A request that nothing stops, the oldest of its gang. -/
structure State.Samples (s : State) (r : SampReq) (id : Nat) : Prop where
  found : s.samples.find? (fun x => x.id == id) = some r
  thawed : r.frozen = none
  works : s.working r.brick = true
  free : s.gangHeld r.gid = false
  oldest : ∀ x ∈ s.samples, x.gid = r.gid → r.id ≤ x.id

theorem State.Samples.first {s : State} {r : SampReq} {id : Nat} (h : s.Samples r id) :
    (s.samples.any fun x => x.gid == r.gid && decide (x.id < r.id)) = false := by
  simpa [List.any_eq_false] using h.oldest

/-- TOPK and RHIST are done whole. -/
theorem State.Samples.whole {s : State} {r : SampReq} {id : Nat} (h : s.Samples r id) (other : r.op ≠ .biasadd) :
    exec (.sampleComplete id) s = s.sampleAll r (sampFields r.words) := by
  change execSampleComplete id s = _
  simp only [execSampleComplete, h.found, h.thawed, h.works, h.free, h.first]
  cases op : r.op with
  | biasadd => exact absurd op other
  | topk => rfl
  | rhist => rfl

/-- BIASADD ends where no pair is left: its status counts the pairs skipped and the NaN sums (18:R365). -/
theorem State.Samples.biased {s : State} {r : SampReq} {id : Nat} (h : s.Samples r id) (op : r.op = .biasadd)
    (last : (sampFields r.words).nb ≤ r.next) : exec (.sampleComplete id) s =
      .next (s.endSample r (BitVec.ofNat 64 (r.skipped % 2 ^ 24 + 2 ^ 24 * (r.nans % 2 ^ 24)))) := by
  have status : field 24 (r.nans % 2 ^ 24) = 2 ^ 24 * (r.nans % 2 ^ 24) := by rw [field, Nat.shiftLeft_eq, Nat.mul_comm]
  rw [← status]
  change execSampleComplete id s = _
  simp only [execSampleComplete, h.found, h.thawed, h.works, h.free, h.first, op, Nat.sub_eq_zero_of_le last]
  rfl

/-- TOPK or RHIST, of logits that can be read and a place that takes its result. -/
theorem State.sampleAll_ok {s u v : State} {r : SampReq} {d : SampDesc} {xs : List (Nat × Nat)} {nans : Nat}
    (logits : s.permitted r d = .ok (xs, nans) u)
    (place : u.spaceCheck r.gid r.core r.asid d.aux (sampResult r d xs nans).1.length = .ok () v) :
    s.sampleAll r d = .next ((v.spaceWrite ⟨r.id, r.gid, r.core⟩ r.asid r.brick d.aux (sampResult r d xs nans).1).endSample r
      (sampResult r d xs nans).2) := by
  simp only [State.sampleAll, logits, place]

end Sys2Proof.Machine
end

section
/-! The commit of a REORDER and its end as the course's record shows them, for O51 (13:R274, R277, R278, R281, R282). -/

namespace Sys2Proof.Machine

open Sys2Proof

/-! ### Records found by a key -/

section
variable {α κ : Type} [DecidableEq κ] {key : α → κ}

/-- The record of a key after it has been replaced. -/
theorem find_replaced {l : List α} {x x' : α} {k : κ} (h : l.find? (fun a => key a == k) = some x) (hk : key x' = k) :
    (l.map fun a => if key a = key x' then x' else a).find? (fun a => key a == k) = some x' := by
  subst hk
  induction l with
  | nil => cases h
  | cons a r ih =>
    by_cases ha : key a = key x'
    · simp [ha]
    · rw [List.find?_cons_of_neg (by simpa using ha)] at h
      rw [List.map_cons, if_neg ha, List.find?_cons_of_neg (by simpa using ha), ih h]

/-- The record of a key after that of another has been replaced. -/
theorem find_replaced_ne {l : List α} {x' : α} {k : κ} (hk : key x' ≠ k) :
    (l.map fun a => if key a = key x' then x' else a).find? (fun a => key a == k) = l.find? fun a => key a == k := by
  induction l with
  | nil => rfl
  | cons a r ih =>
    by_cases ha : key a = key x'
    · rw [List.map_cons, if_pos ha, List.find?_cons_of_neg (by simpa using hk), List.find?_cons_of_neg (by simpa [ha] using hk), ih]
    · rw [List.map_cons, if_neg ha, List.find?_cons, List.find?_cons, ih]

end

theorem State.courseOpt_setCourse {s : State} {c c' : Course} {k : CKey} (h : s.course? k = some c) (hk : c'.key = k) :
    (s.setCourse c').course? k = some c' := find_replaced (key := Course.key) h hk

/-! ### The record cleared (13:R274, R281) -/

/-- A course's record once its episode is over. -/
def Course.cleared (c : Course) : Course :=
  { c with state := .idle, word := none, clause := 0, posn := 0, expected := [], arrived := [], tags := [], fault := none, merged := 0,
           undo := [] }

theorem foldl_courses {α : Type} {f : State → α → State} (h : ∀ s x, (f s x).courses = s.courses) (l : List α) (s : State) :
    (l.foldl f s).courses = s.courses := by
  induction l generalizing s with
  | nil => rfl
  | cons x r ih => exact (ih _).trans (h s x)

theorem State.freeSpill_courses (s : State) (c : Course) : (s.freeSpill c).courses = s.courses := by
  refine foldl_courses (fun s i => ?_) _ s
  dsimp only
  split
  · split <;> rfl
  · rfl

/-- Handing the sorter on leaves the record of a course none of whose records is queued. -/
theorem State.nextSort_courseOpt {s : State} {k : CKey} (idle : ∀ d ∈ s.courses, d.key = k → d.state ≠ .queued) (group : Nat) :
    (s.nextSort group).course? k = s.course? k := by
  simp only [State.nextSort]
  split
  · rfl
  · rename_i d head
    have queued := (List.mem_insertionSort _).1 (List.mem_of_head? head)
    simp only [List.mem_filter, Bool.and_eq_true, beq_iff_eq] at queued
    exact find_replaced_ne (key := Course.key) fun same => idle d queued.1 same queued.2.2

/-- The sorter handed on by a course that holds it. -/
def State.sorterPassed (s : State) (c : Course) : State :=
  if (s.group c.group).sorter = some c.key then s.nextSort c.group else s

/-- An episode's end: the spill area undefined unless it was a COUNT, its marks and its record cleared, the sorter handed on. -/
theorem State.clearEpisode_eq (s : State) (c : Course) :
    let u := if c.counting then s else s.freeSpill c
    s.clearEpisode c = (({ u with marks := u.marks.filter fun m => !(m.unit == 1 && m.owner == c.key.code) } : State).setCourse
      c.cleared).sorterPassed c := rfl

theorem State.sorterPassed_courseOpt {s : State} {c d : Course} {k : CKey} (h : s.course? k = some d) (hk : c.key = k) :
    ((s.setCourse c.cleared).sorterPassed c).course? k = some c.cleared := by
  have set := State.courseOpt_setCourse (c' := c.cleared) h hk
  unfold State.sorterPassed
  split
  · refine (State.nextSort_courseOpt (fun x hx same => ?_) _).trans set
    obtain ⟨y, _, rfl⟩ := List.mem_map.1 hx
    by_cases here : y.key = c.cleared.key
    · rw [if_pos here]
      exact (by decide : RState.idle ≠ RState.queued)
    · rw [if_neg here] at same
      exact absurd (same.trans hk.symm) here
  · exact set

theorem State.clearEpisode_courseOpt {s : State} {c d : Course} (h : s.course? c.key = some d) :
    (s.clearEpisode c).course? c.key = some c.cleared := by
  have spill : (if c.counting then s else s.freeSpill c).course? c.key = some d := by
    split
    · exact h
    · simpa only [State.course?, State.freeSpill_courses] using h
  rw [State.clearEpisode_eq]
  exact State.sorterPassed_courseOpt spill rfl

/-! ### The commit point (13:R278, R282) -/

theorem State.badRiddle_none {s : State} {c : Course} (clean : ∀ m ∈ s.marks, m.unit ≠ 1) : s.badRiddle c = none := by
  simp only [State.badRiddle, Option.map_eq_none_iff, List.find?_eq_none]
  intro m hm
  simp [clean m hm]

/-- A course whose sorted entries nothing keeps from the commit: no bad word, none spilled. -/
structure State.Commits (s : State) (c : Course) : Prop where
  course : s.course? c.key = some c
  binning : c.state = .binning
  works : s.courseWorks c.key = true
  clean : ∀ m ∈ s.marks, m.unit ≠ 1
  spilled : c.spilled = 0

theorem State.spillPages_none {s : State} {c : Course} (h : c.spilled = 0) : s.spillPages c = .ok [] s := by
  simp only [State.spillPages, h]
  rfl

theorem State.spillWrites_none {c : Course} (h : c.spilled = 0) (s : State) : s.spillWrites c [] = (s, c) := by
  have kept : (c.tags.mapIdx fun i t => if i < c.tags.length then t else { t with spill := none, payload := [] }) = c.tags := by
    refine List.ext_getElem (by simp) fun i hi hi' => ?_
    rw [List.getElem_mapIdx, if_pos hi']
  simp only [State.spillWrites, h, Nat.sub_zero, List.drop_length, List.drop_nil, List.head?_nil, Option.map_none, kept]
  rfl

/-- An episode of REORDER.ALIGN. -/
def Course.aligns (c : Course) : Bool :=
  match c.word with
  | some (.reorderAlign ..) => true
  | _ => false

/-- The commit: a COUNT delivers its values, another episode moves its lanes. -/
theorem State.Commits.exec_eq {s : State} {c : Course} (h : s.Commits c) :
    exec (.reorderCommit c.key.wall c.key.course) s =
      .next (if c.counting then s.commitCount c else s.commitSeats c c.aligns) := by
  change execReorderCommit c.key.wall c.key.course s = _
  simp only [execReorderCommit, h.course, h.binning, h.works, State.badRiddle_none h.clean, State.spillPages_none h.spilled,
    State.spillWrites_none h.spilled]
  split
  · rename_i refused
    simp at refused
  · split
    · rename_i word
      simp only [Course.counting, word, if_true]
    · rename_i word
      simp only [Course.counting, Course.aligns, word, Bool.false_eq_true, if_false]
    · rename_i notCount notAlign
      have counts : c.counting = false := by
        unfold Course.counting
        split
        · rename_i word
          exact absurd word (notCount _ _ _)
        · rfl
      have aligns : c.aligns = false := by
        unfold Course.aligns
        split
        · rename_i word
          exact absurd word (notAlign _ _ _ _)
        · rfl
      simp only [counts, aligns, Bool.false_eq_true, if_false]

theorem State.commitCount_courseOpt {s : State} {c : Course} (h : s.course? c.key = some c) :
    (s.commitCount c).course? c.key = some ({ c with stat := c.statOf 0, regrouped := true } : Course).cleared :=
  State.clearEpisode_courseOpt (c := { c with stat := c.statOf 0, regrouped := true }) (d := c) h

/-! ### The end of a rebuild (13:R277, R281, R283) -/

theorem State.unspill_courses (s : State) (c : Course) : (s.unspill c).courses = s.courses := by
  refine foldl_courses (fun s t => ?_) _ s
  dsimp only
  split
  · have reads (part home pa : Nat) : s.OnlyReads ((s.touch home pa 128 false).readOut part pa 128) :=
      (s.onlyReads_touch ..).trans (State.onlyReads_readOut ..)
    rw [State.setGang_courses, reads]
  · rfl

/-- A rebuild that nothing holds ends its episode. -/
theorem execReorderRebuildDone_ends {s : State} {c : Course} (course : s.course? c.key = some c) (rebuilding : c.state = .rebuilding)
    (clean : ∀ m ∈ s.marks, m.unit ≠ 1) (unheld : s.spillHeld c = false) (landed : s.gPending c.key = false)
    (readable : s.badSpill c = none) :
    exec (.reorderRebuildDone c.key.wall c.key.course) s = .next (s.finishRebuild c) := by
  change execReorderRebuildDone c.key.wall c.key.course s = _
  simp only [execReorderRebuildDone, course, rebuilding, unheld, landed, State.endRebuild, State.badRiddle_none clean, readable]
  rfl

theorem State.finishRebuild_courseOpt {s : State} {c : Course} (h : s.course? c.key = some c) :
    (s.finishRebuild c).course? c.key = some ({ c with stat := c.statOf c.merged, regrouped := true } : Course).cleared := by
  have found : (s.unspill c).course? c.key = some c := by simpa only [State.course?, State.unspill_courses] using h
  exact State.clearEpisode_courseOpt (c := { c with stat := c.statOf c.merged, regrouped := true }) (d := c) found

end Sys2Proof.Machine
end

section
/-! Where the entries of a REORDER go, for O51: the sorted entries, and the model's placing run by run against the pseudocode of
13:R271 entry by entry. -/

namespace Sys2Proof.Machine

open Sys2Proof

/-! ### Sorted by a number -/

/-- Insertion by a number gives the list that is in strict order of it. -/
theorem insertionSort_of_strict {α : Type} (code : α → Nat) {l ts : List α} (perm : ts.Perm l)
    (sorted : ts.Pairwise fun x y => code x < code y) : (l.insertionSort fun x y => code x ≤ code y) = ts := by
  have : Std.Total fun x y => code x ≤ code y := ⟨fun x y => Nat.le_total (code x) (code y)⟩
  have : IsTrans α fun x y => code x ≤ code y := ⟨fun _ _ _ => Nat.le_trans⟩
  have same := (List.perm_insertionSort (fun x y => code x ≤ code y) l).trans perm.symm
  have injective := List.inj_on_of_nodup_map (List.pairwise_map.2 (sorted.imp Nat.ne_of_lt))
  exact List.Perm.eq_of_pairwise
    (fun x y hx hy le ge => injective (same.mem_iff.1 hx) hy (Nat.le_antisymm le ge))
    (List.pairwise_insertionSort (fun x y => code x ≤ code y) l) (sorted.imp Nat.le_of_lt) same

/-- The order of 13:R271 as a number: the key, then `%obrick`, then `%oid`. -/
def Tag.code (t : Tag) : Nat := t.key.toNat * 4096 + t.obrick.toNat * 512 + t.oid.toNat

theorem Tag.code_lt {x y : Tag} (h : x.key < y.key ∨ x.key = y.key ∧ (x.obrick < y.obrick ∨ x.obrick = y.obrick ∧ x.oid < y.oid)) :
    x.code < y.code := by
  have := x.obrick.isLt
  have := x.oid.isLt
  have := y.obrick.isLt
  have := y.oid.isLt
  simp only [Tag.code]
  rcases h with key | ⟨key, brick | ⟨brick, oid⟩⟩
  · have := BitVec.lt_def.1 key
    omega
  · have := BitVec.lt_def.1 brick
    rw [key]
    omega
  · have := BitVec.lt_def.1 oid
    rw [key, brick]
    omega

/-- The sorted entries, each with its place in the order. -/
def numberedTags (ts : List Tag) : List Tag := ts.mapIdx fun i t => { t with pos := BitVec.ofNat 12 i }

theorem sortTags_eq {ts l : List Tag} (perm : ts.Perm l) (sorted : ts.Pairwise fun x y => x.code < y.code) :
    sortTags l = numberedTags ts := by
  have sort : (l.insertionSort fun x y => x.code ≤ y.code) = ts := insertionSort_of_strict Tag.code perm sorted
  exact congrArg numberedTags sort

/-- The order of the seats: the core, then the seat (13:R274). -/
def Gang.before (x y : Gang) : Prop := x.core < y.core ∨ x.core = y.core ∧ x.seat < y.seat

theorem nodup_of_before {seats : List Gang} (sorted : seats.Pairwise Gang.before) : seats.Nodup :=
  sorted.imp fun {x y} h (e : x = y) => by
    subst e
    rcases h with h | ⟨_, h⟩ <;> exact Nat.lt_irrefl _ h

/-- The participating seats in order (13:R274). -/
theorem State.seatsOf_eq {s : State} {c : Course} {seats : List Gang} (distinct : (s.gangs.map Gang.gid).Nodup)
    (members : ∀ g, g ∈ seats ↔ g ∈ s.gangs ∧ g.gid ∈ c.arrived) (sorted : seats.Pairwise Gang.before)
    (bound : ∀ g ∈ seats, g.seat < 16) : s.seatsOf c = seats := by
  have strict : seats.Pairwise fun x y => 16 * x.core + x.seat < 16 * y.core + y.seat := by
    refine List.Pairwise.imp_of_mem (fun {x y} hx _ h => ?_) sorted
    have := bound x hx
    rcases h with h | ⟨h, h'⟩ <;> omega
  refine insertionSort_of_strict (fun g : Gang => 16 * g.core + g.seat) ?_ strict
  refine (List.perm_ext_iff_of_nodup (nodup_of_before sorted) ((List.Nodup.of_map _ distinct).filter _)).2 fun g => ?_
  rw [members, List.mem_filter, List.contains_iff_mem]

/-! ### Runs of a key -/

/-- How many entries each key has, in the order of their first ones. -/
def keyRuns (ks : List (BitVec 16)) : List Nat := ks.eraseDups.map fun k => ks.count k

theorem keysOf_keyRuns (ts : List Tag) :
    ((keysOf ts).map fun k => (ts.filter fun t => t.key == k).length) = keyRuns (ts.map Tag.key) := by
  refine List.map_congr_left fun k _ => ?_
  rw [← List.countP_eq_length_filter, List.count, List.countP_map]
  rfl

/-- A first entry of its key begins a run. -/
theorem keyRuns_cons_new {k : BitVec 16} {ks : List (BitVec 16)} (h : k ∉ ks) : keyRuns (k :: ks) = 1 :: keyRuns ks := by
  have others : (ks.filter fun x => !x == k) = ks := List.filter_eq_self.2 fun x hx => by
    simpa using fun e : x = k => h (e ▸ hx)
  rw [keyRuns, List.eraseDups_cons, others, List.map_cons, List.count_cons_self, List.count_eq_zero_of_not_mem h]
  refine congrArg _ (List.map_congr_left fun x hx => List.count_cons_of_ne fun e : k = x => h ?_)
  exact e ▸ List.mem_eraseDups.1 hx

/-- An entry of the same key as the next one lengthens its run. -/
theorem keyRuns_cons_same {k : BitVec 16} {ks : List (BitVec 16)} {n : Nat} {rest : List Nat} (h : keyRuns (k :: ks) = n :: rest) :
    keyRuns (k :: k :: ks) = (n + 1) :: rest := by
  have skip : ((k :: ks).filter fun x => !x == k) = ks.filter fun x => !x == k := List.filter_cons_of_neg (by simp)
  rw [keyRuns, List.eraseDups_cons, List.map_cons, List.cons.injEq] at h
  obtain ⟨rfl, rfl⟩ := h
  rw [keyRuns, List.eraseDups_cons, skip, List.map_cons, List.count_cons_self]
  refine congrArg _ (List.map_congr_left fun x hx => List.count_cons_of_ne fun e : k = x => ?_)
  have other := (List.mem_filter.1 (List.mem_eraseDups.1 hx)).2
  simp [e] at other

/-! ### Placing (13:R271) -/

/-- Entries of one key placed one after another. -/
def Placing.puts (p : Placing) (n : Nat) : Placing := (List.range n).foldl (fun p _ => p.put) p

theorem Placing.puts_succ (p : Placing) (n : Nat) : p.puts (n + 1) = p.put.puts n := by
  rw [Placing.puts, List.range_succ_eq_map, List.foldl_cons, List.foldl_map]
  rfl

/-- Where the first entry of a key goes: REORDER.ALIGN begins a gang anew where enough are left. -/
def Placing.enter (p : Placing) (align : Bool) (seats total : Nat) : Placing :=
  if align && p.l != 0 then
    if p.g + 1 + (total - p.n + 31) / 32 ≤ seats then { p with g := p.g + 1, l := 0 } else { p with merged := p.merged + 1 }
  else p

theorem Placing.key_eq (align : Bool) (seats total : Nat) (p : Placing) (n : Nat) :
    Placing.key align seats total p n = (p.enter align seats total).puts n := rfl

theorem Placing.put_places (p : Placing) : p.put.places = p.places ++ [(p.g, p.l)] := by
  simp only [Placing.put]
  split <;> rfl

theorem Placing.put_n (p : Placing) : p.put.n = p.n + 1 := by
  simp only [Placing.put]
  split <;> rfl

/-- The entries after one placed at `(g, l)`. -/
theorem placesFrom_put (align : Bool) (seats : Nat) (p : Placing) (prev : Option (BitVec 16)) (ks : List (BitVec 16)) :
    (if p.l = 31 then placesFrom align seats (p.g + 1) 0 prev ks else placesFrom align seats p.g (p.l + 1) prev ks) =
      placesFrom align seats p.put.g p.put.l prev ks := by
  unfold Placing.put
  by_cases h : p.l = 31 <;> simp [h]

theorem Placing.enter_n (p : Placing) (align : Bool) (seats total : Nat) : (p.enter align seats total).n = p.n := by
  unfold Placing.enter
  split
  · split <;> rfl
  · rfl

theorem Placing.enter_places (p : Placing) (align : Bool) (seats total : Nat) : (p.enter align seats total).places = p.places := by
  unfold Placing.enter
  split
  · split <;> rfl
  · rfl

/-- An entry of the key of the one before it is placed next to it. -/
theorem placesFrom_same (align : Bool) (seats : Nat) (p : Placing) (k : BitVec 16) (ks : List (BitVec 16)) :
    placesFrom align seats p.g p.l (some k) (k :: ks) = (p.g, p.l) :: placesFrom align seats p.put.g p.put.l (some k) ks := by
  rw [← placesFrom_put]
  simp [placesFrom]

/-- The first entry of a key is placed where its key begins. -/
theorem placesFrom_new {align : Bool} {seats total : Nat} {p : Placing} {prev : Option (BitVec 16)} {k : BitVec 16}
    {ks : List (BitVec 16)} (new : prev ≠ some k) (left : p.n + (ks.length + 1) = total) :
    placesFrom align seats p.g p.l prev (k :: ks) =
      let q := p.enter align seats total
      (q.g, q.l) :: placesFrom align seats q.put.g q.put.l (some k) ks := by
  have count : total - p.n + 31 = ks.length + 32 := by omega
  have other : (prev != some k) = true := bne_iff_ne.2 new
  dsimp only
  rw [← placesFrom_put]
  cases inside : align && p.l != 0 with
  | false =>
    have stays : (align && true && p.l != 0) = false := by rw [Bool.and_true, inside]
    simp only [placesFrom, Placing.enter, other, stays, inside, Bool.false_and, Bool.false_eq_true, if_false]
  | true =>
    have enters : (align && true && p.l != 0) = true := by rw [Bool.and_true, inside]
    have room : (ks.length + 32) / 32 ≤ seats - p.g - 1 ↔ p.g + 1 + (ks.length + 32) / 32 ≤ seats := by omega
    simp only [placesFrom, Placing.enter, count, other, enters, inside, Bool.true_and, decide_eq_true_eq, room, if_true]
    split <;> rfl

/-- The runs of sorted entries placed one after another give each entry its place: the first run is under way at `q`. -/
theorem Placing.runs_places {align : Bool} {seats total : Nat} {k : BitVec 16} {ks : List (BitVec 16)} {n : Nat} {rest : List Nat}
    {q : Placing} (hr : keyRuns (k :: ks) = n :: rest) (sorted : (k :: ks).Pairwise (· ≤ ·)) (left : q.n + (ks.length + 1) = total) :
    (rest.foldl (Placing.key align seats total) (q.puts n)).places =
      q.places ++ (q.g, q.l) :: placesFrom align seats q.put.g q.put.l (some k) ks := by
  induction ks generalizing k n rest q with
  | nil =>
    obtain ⟨rfl, rfl⟩ := List.cons.inj ((keyRuns_cons_new List.not_mem_nil).symm.trans hr)
    exact q.put_places
  | cons k' ks ih =>
    obtain ⟨above, sorted'⟩ := List.pairwise_cons.1 sorted
    obtain ⟨n', rest', hr'⟩ : ∃ n' rest', keyRuns (k' :: ks) = n' :: rest' := by
      rw [keyRuns, List.eraseDups_cons]
      exact ⟨_, _, rfl⟩
    have left' : q.put.n + (ks.length + 1) = total := by
      rw [q.put_n, ← left, List.length_cons]
      omega
    by_cases same : k' = k
    · subst same
      obtain ⟨rfl, rfl⟩ := List.cons.inj ((keyRuns_cons_same hr').symm.trans hr)
      rw [q.puts_succ, ih hr' sorted' left', q.put_places, placesFrom_same, List.append_assoc]
      rfl
    · have new : k ∉ k' :: ks := by
        intro h
        rcases List.mem_cons.1 h with h | h
        · exact same h.symm
        · exact same (BitVec.le_antisymm ((List.pairwise_cons.1 sorted').1 k h) (above k' List.mem_cons_self))
      obtain ⟨rfl, rfl⟩ := List.cons.inj ((keyRuns_cons_new new).symm.trans hr)
      have left'' : (q.put.enter align seats total).n + (ks.length + 1) = total := by rw [Placing.enter_n, left']
      rw [hr', List.foldl_cons, Placing.key_eq]
      change ((rest'.foldl _ ((q.put.enter align seats total).puts n')).places) = _
      rw [ih hr' sorted' left'', Placing.enter_places, q.put_places, placesFrom_new (fun e => same (Option.some.inj e).symm) left',
        List.append_assoc]
      rfl

/-- The model's placing of sorted entries is the pseudocode's (13:R271). -/
theorem placeAll_places (align : Bool) (seats : Nat) {ts : List Tag} (sorted : (ts.map Tag.key).Pairwise (· ≤ ·)) :
    (placeAll align seats ts).places = placesFrom align seats 0 0 none (ts.map Tag.key) := by
  unfold placeAll
  rw [keysOf_keyRuns]
  cases ts with
  | nil => rfl
  | cons t r =>
    rw [List.map_cons] at sorted ⊢
    obtain ⟨n, rest, hr⟩ : ∃ n rest, keyRuns (t.key :: r.map Tag.key) = n :: rest := by
      rw [keyRuns, List.eraseDups_cons]
      exact ⟨_, _, rfl⟩
    have start : Placing.enter ⟨0, 0, 0, 0, []⟩ align seats (t :: r).length = ⟨0, 0, 0, 0, []⟩ := by simp [Placing.enter]
    rw [hr, List.foldl_cons, Placing.key_eq, start, Placing.runs_places hr sorted (by simp)]
    have first := placesFrom_new (align := align) (seats := seats) (total := (t :: r).length) (p := ⟨0, 0, 0, 0, []⟩) (prev := none)
      (k := t.key) (ks := r.map Tag.key) (fun e => nomatch e) (by simp)
    rw [start] at first
    exact first.symm

/-! ### Places are lanes, each taken once -/

/-- A place as a number. -/
def placeRank (x : Nat × Nat) : Nat := 32 * x.1 + x.2

/-- An entry goes to a lane not before the next free one, and the next entry is placed from the lane after it. -/
theorem placesFrom_cons (align : Bool) (seats : Nat) {g l : Nat} (prev : Option (BitVec 16)) (k : BitVec 16) (ks : List (BitVec 16))
    (hl : l < 32) : ∃ x y : Nat × Nat, placesFrom align seats g l prev (k :: ks) = x :: placesFrom align seats y.1 y.2 (some k) ks ∧
      x.2 < 32 ∧ y.2 < 32 ∧ placeRank (g, l) ≤ placeRank x ∧ placeRank y = placeRank x + 1 := by
  simp only [placesFrom]
  split
  · exact ⟨(g + 1, 0), (g + 1, 1), rfl, (by decide : 0 < 32), (by decide : 1 < 32), by simp only [placeRank]; omega, rfl⟩
  · by_cases last : l = 31
    · exact ⟨(g, l), (g + 1, 0), by rw [if_pos last], hl, (by decide : 0 < 32), Nat.le_refl _, by simp only [placeRank]; omega⟩
    · exact ⟨(g, l), (g, l + 1), by rw [if_neg last], hl, by simp only; omega, Nat.le_refl _, rfl⟩

section
variable {align : Bool} {seats g l : Nat} {prev : Option (BitVec 16)} {ks : List (BitVec 16)}

theorem length_placesFrom (hl : l < 32) : (placesFrom align seats g l prev ks).length = ks.length := by
  induction ks generalizing g l prev with
  | nil => rfl
  | cons k ks ih =>
    obtain ⟨x, y, eq, _, hy, _⟩ := placesFrom_cons align seats (g := g) prev k ks hl
    rw [eq, List.length_cons, List.length_cons, ih hy]

theorem placesFrom_above (hl : l < 32) : ∀ x ∈ placesFrom align seats g l prev ks, x.2 < 32 ∧ placeRank (g, l) ≤ placeRank x := by
  induction ks generalizing g l prev with
  | nil => exact fun x hx => absurd hx List.not_mem_nil
  | cons k ks ih =>
    obtain ⟨x, y, eq, hx, hy, le, next⟩ := placesFrom_cons align seats (g := g) prev k ks hl
    rw [eq, List.forall_mem_cons]
    exact ⟨⟨hx, le⟩, fun z hz => ⟨(ih hy z hz).1, by have := (ih hy z hz).2; change placeRank y ≤ placeRank z at this; omega⟩⟩

theorem placesFrom_increasing (hl : l < 32) : (placesFrom align seats g l prev ks).Pairwise fun x y => placeRank x < placeRank y := by
  induction ks generalizing g l prev with
  | nil => exact List.Pairwise.nil
  | cons k ks ih =>
    obtain ⟨x, y, eq, _, hy, _, next⟩ := placesFrom_cons align seats (g := g) prev k ks hl
    rw [eq, List.pairwise_cons]
    refine ⟨fun z hz => ?_, ih hy⟩
    have : placeRank y ≤ placeRank z := (placesFrom_above hy z hz).2
    omega

/-- No place is taken twice. -/
theorem placesFrom_nodup (hl : l < 32) : (placesFrom align seats g l prev ks).Nodup :=
  (placesFrom_increasing hl).imp fun {x y} h (e : x = y) => by
    subst e
    exact Nat.lt_irrefl _ h

end

end Sys2Proof.Machine
end

section
/-! The seats of a REORDER after its commit, for O51 (13:R272, 04:R97). -/

namespace Sys2Proof.Machine

open Sys2Proof

/-! ### The sorted entries and their places in the order -/

theorem numberedTags_getElem? (ts : List Tag) (n : Nat) :
    (numberedTags ts)[n]? = ts[n]?.map fun t => { t with pos := BitVec.ofNat 12 n } := by
  rw [numberedTags, List.getElem?_mapIdx]

theorem numberedTags_keys (ts : List Tag) : (numberedTags ts).map Tag.key = ts.map Tag.key := by
  refine List.ext_getElem? fun n => ?_
  rw [List.getElem?_map, numberedTags_getElem?, List.getElem?_map, Option.map_map]
  rfl

theorem numberedTags_length (ts : List Tag) : (numberedTags ts).length = ts.length := List.length_mapIdx

/-- The first entry of a key among sorted ones stands after those of the lower keys. -/
theorem find_key_pos {ts : List Tag} {k : BitVec 16} (o : Nat) (sorted : ts.Pairwise fun x y => x.key ≤ y.key)
    (held : ∃ t ∈ ts, t.key = k) :
    (((ts.mapIdx fun i t => ({ t with pos := BitVec.ofNat 12 (o + i) } : Tag)).find? fun t => t.key == k).map Tag.pos) =
      some (BitVec.ofNat 12 (o + (ts.filter fun t => t.key < k).length)) := by
  induction ts generalizing o with
  | nil =>
    obtain ⟨t, ht, _⟩ := held
    cases ht
  | cons t r ih =>
    obtain ⟨above, sorted'⟩ := List.pairwise_cons.1 sorted
    by_cases here : t.key = k
    · have none : (r.filter fun t => t.key < k) = [] := List.filter_eq_nil_iff.2 fun x hx => by
        simpa using here ▸ above x hx
      rw [List.mapIdx_cons, List.find?_cons_of_pos (by simpa using here), List.filter_cons_of_neg (by simp [here]), none]
      rfl
    · have later : ∃ t ∈ r, t.key = k := by
        obtain ⟨x, hx, e⟩ := held
        exact ⟨x, (List.mem_cons.1 hx).resolve_left fun h => here (h ▸ e), e⟩
      have below : t.key < k := by
        obtain ⟨x, hx, e⟩ := later
        exact BitVec.lt_of_le_ne (e ▸ above x hx) here
      have next : (r.mapIdx fun i t => ({ t with pos := BitVec.ofNat 12 (o + (i + 1)) } : Tag)) =
          r.mapIdx fun i t => { t with pos := BitVec.ofNat 12 (o + 1 + i) } := by
        simp only [Nat.add_comm 1, Nat.add_assoc]
      rw [List.mapIdx_cons, List.find?_cons_of_neg (by simpa using here), next, ih (o + 1) sorted' later,
        List.filter_cons_of_pos (by simpa using below), List.length_cons, Nat.add_assoc, Nat.add_comm 1]

/-- `%binbase` is the number of entries of lower keys (13:R271). -/
theorem binbase_numberedTags {ts : List Tag} {t : Tag} (sorted : ts.Pairwise fun x y => x.key ≤ y.key) (ht : t ∈ ts)
    (small : ts.length ≤ 4096) : binbase (numberedTags ts) t.key = (ts.filter fun u => u.key < t.key).length := by
  have fewer : (ts.filter fun u => u.key < t.key).length < ts.length :=
    List.length_filter_lt_length_iff_exists.2 ⟨t, ht, by simp⟩
  have first := find_key_pos 0 sorted ⟨t, ht, rfl⟩
  simp only [Nat.zero_add] at first
  have pos := congrArg (Option.map BitVec.toNat) first
  rw [Option.map_map] at pos
  unfold binbase numberedTags
  change (Option.map (BitVec.toNat ∘ Tag.pos) _).getD 0 = _
  rw [pos, Option.map_some, Option.getD_some, BitVec.toNat_ofNat, Nat.mod_eq_of_lt (by omega)]

/-! ### Lists with an entry for each place -/

theorem getElem?_filterMap_isSome {α β : Type} {f : α → Option β} {l : List α} (h : ∀ x ∈ l, (f x).isSome) (n : Nat) :
    (l.filterMap f)[n]? = l[n]?.bind f := by
  induction l generalizing n with
  | nil => rfl
  | cons a r ih =>
    obtain ⟨y, hy⟩ := Option.isSome_iff_exists.1 (h a List.mem_cons_self)
    rw [List.filterMap_cons_some hy]
    cases n with
    | zero => simp [hy]
    | succ n => simpa using ih (fun x hx => h x (List.mem_cons_of_mem _ hx)) n

/-- An entry is found by its key where no key stands twice. -/
theorem find_of_getElem? {α β : Type} [BEq α] [LawfulBEq α] {l : List (α × β)} (distinct : (l.map Prod.fst).Nodup) {n : Nat} {x : α × β}
    (h : l[n]? = some x) : (l.find? fun y => y.1 == x.1) = some x := by
  induction l generalizing n with
  | nil => simp at h
  | cons a r ih =>
    rw [List.map_cons, List.nodup_cons] at distinct
    cases n with
    | zero =>
      obtain rfl : a = x := by simpa using h
      simp
    | succ n =>
      have later : r[n]? = some x := by simpa using h
      have other : a.1 ≠ x.1 := fun e => distinct.1 (e ▸ List.mem_map_of_mem (List.mem_of_getElem? later))
      rw [List.find?_cons_of_neg (by simpa using other)]
      exact ih distinct.2 later

/-! ### The seats written (13:R272) -/

/-- The lane that an entry was gathered from. -/
def State.oldLane (s : State) (t : Tag) : Option Lane := (s.gang? t.gid).map fun g => g.lane t.lane

/-- The lanes of the entries at their new places. -/
def State.movedLanes (s : State) (regs : List Nat) (ts : List Tag) (places : List (Nat × Nat)) : List ((Nat × Nat) × Lane) :=
  (List.zip ts places).zipIdx.filterMap fun x =>
    (s.oldLane x.1.1).map fun ln => (x.1.2, movedLane ln x.1.1 ts regs (s.free + 80 * x.2))

/-- The lane that stands at a place, if an entry went there. -/
def laneAt (lanes : List ((Nat × Nat) × Lane)) (x : Nat × Nat) : Option Lane := (lanes.find? fun y => y.1 == x).map Prod.snd

/-- A participating seat after the commit: `gi` is its number among them, `free` the first free value for lanes without an entry. -/
def Gang.reseated (g : Gang) (lanes : List ((Nat × Nat) × Lane)) (free gi : Nat) (after : List Nat) : Gang :=
  let live := maskOf fun l => (laneAt lanes (gi, l)).isSome
  { g with live := live, em := live, fm := 0
           lanes := g.lanes.mapIdx fun l ln => (laneAt lanes (gi, l)).getD (emptyLane ln (free + 2560 * gi + 80 * l)), after := after }

/-- Seats written one after another, each gang as `f` says; their plain L1 lines are dropped (13:R272, 20:R393). -/
def State.writeSeats (s : State) (f : Gang × Nat → Gang) (l : List (Gang × Nat)) : State :=
  l.foldl (fun u x => (u.setGang (f x)).dropPlain x.1.core) s

theorem State.commitSeats_eq (s : State) (c : Course) (align : Bool) :
    let seats := s.seatsOf c
    let ts := sortTags c.tags
    let p := placeAll align seats.length ts
    let lanes := s.movedLanes (episodeRegs c.word) ts p.places
    let free := s.free + 80 * ts.length
    let before := (seats.flatMap s.covered).eraseDups
    let u := s.writeSeats (fun x => x.1.reseated lanes free x.2 (s.openOf x.1.after ++ before).eraseDups) seats.zipIdx
    s.commitSeats c align = ({ u with free := free + 2560 * seats.length } : State).setCourse
      { c with
        tags := (List.zip ts p.places).map fun x =>
          { x.1 with gid := ((seats.drop x.2.1).head?.map Gang.gid).getD 0, lane := x.2.2 }
        state := .rebuilding, merged := p.merged, undo := seats.map fun g => ⟨g.gid, g.lanes, g.em, g.live, g.fm⟩ } := rfl

/-! ### The lanes of the entries -/

section
variable {s : State} {regs : List Nat} {ts : List Tag} {places : List (Nat × Nat)} (gathered : ∀ t ∈ ts, (s.oldLane t).isSome)
include gathered

theorem State.movedLanes_getElem? (n : Nat) : (s.movedLanes regs ts places)[n]? =
    (List.zip ts places)[n]?.bind fun x => (s.oldLane x.1).map fun ln => (x.2, movedLane ln x.1 ts regs (s.free + 80 * n)) := by
  have all : ∀ x ∈ (List.zip ts places).zipIdx,
      ((s.oldLane x.1.1).map fun ln => (x.1.2, movedLane ln x.1.1 ts regs (s.free + 80 * x.2))).isSome := by
    intro x hx
    rw [Option.isSome_map]
    exact gathered _ (List.of_mem_zip (List.fst_mem_of_mem_zipIdx hx)).1
  rw [State.movedLanes, getElem?_filterMap_isSome all, List.getElem?_zipIdx]
  cases (List.zip ts places)[n]? <;> simp

/-- Each entry's lane at its place. -/
theorem State.movedLanes_of_place {n : Nat} {t : Tag} {x : Nat × Nat} {ln : Lane} (ht : ts[n]? = some t) (hx : places[n]? = some x)
    (old : s.oldLane t = some ln) :
    (s.movedLanes regs ts places)[n]? = some (x, movedLane ln t ts regs (s.free + 80 * n)) := by
  have both : (List.zip ts places)[n]? = some (t, x) := List.getElem?_zip_eq_some.2 ⟨ht, hx⟩
  rw [State.movedLanes_getElem? gathered, both, Option.bind_some, old]
  rfl

theorem State.movedLanes_places (size : places.length = ts.length) : (s.movedLanes regs ts places).map Prod.fst = places := by
  refine List.ext_getElem? fun n => ?_
  rw [List.getElem?_map]
  by_cases h : n < ts.length
  · obtain ⟨ln, old⟩ := Option.isSome_iff_exists.1 (gathered _ (List.getElem_mem h))
    have hx : places[n]? = some places[n] := List.getElem?_eq_getElem (by omega)
    rw [State.movedLanes_of_place gathered (List.getElem?_eq_getElem h) hx old, hx]
    rfl
  · rw [State.movedLanes_getElem? gathered, List.getElem?_eq_none (by rw [List.length_zip]; omega),
      List.getElem?_eq_none (by omega)]
    rfl

/-- A lane is live where an entry went (13:R272). -/
theorem State.laneAt_movedLanes (size : places.length = ts.length) (x : Nat × Nat) :
    (laneAt (s.movedLanes regs ts places) x).isSome = true ↔ x ∈ places := by
  rw [laneAt, Option.isSome_map, List.find?_isSome]
  conv_rhs => rw [← State.movedLanes_places (regs := regs) gathered size, List.mem_map]
  simp

theorem State.laneAt_of_place (size : places.length = ts.length) (distinct : places.Nodup) {n : Nat} {t : Tag} {x : Nat × Nat} {ln : Lane}
    (ht : ts[n]? = some t) (hx : places[n]? = some x) (old : s.oldLane t = some ln) :
    laneAt (s.movedLanes regs ts places) x = some (movedLane ln t ts regs (s.free + 80 * n)) := by
  have found := find_of_getElem? ((State.movedLanes_places (regs := regs) gathered size).symm ▸ distinct)
    (State.movedLanes_of_place (regs := regs) gathered ht hx old)
  exact congrArg (Option.map Prod.snd) found

end

/-- Every lane that stands at a place has an invalid queue (13:R272). -/
theorem State.laneAt_queue {s : State} {regs : List Nat} {ts : List Tag} {places : List (Nat × Nat)} {x : Nat × Nat} {ln : Lane}
    (h : laneAt (s.movedLanes regs ts places) x = some ln) : ∃ free, ln.q = freeQueue free := by
  obtain ⟨y, found, rfl⟩ := Option.map_eq_some_iff.1 h
  obtain ⟨z, _, hz⟩ := List.mem_filterMap.1 (List.mem_of_find?_eq_some found)
  obtain ⟨old, _, rfl⟩ := Option.map_eq_some_iff.1 hz
  exact ⟨_, rfl⟩

end Sys2Proof.Machine
end

section
/-! The gangs of a REORDER after its commit and their lanes, for O51 (13:R272, R278). -/

namespace Sys2Proof.Machine

open Sys2Proof

/-! ### The payload (13:R266, R272) -/

theorem payloadRegs_nodup (base : BitVec 6) (mask : BitVec 16) : (payloadRegs base mask).Nodup :=
  (List.nodup_range.filter _).map fun _ _ h => Nat.add_left_cancel h

/-- A payload register of an entry at its new place. -/
theorem movedLane_payload {old : Lane} {t : Tag} {ts : List Tag} {regs : List Nat} {free k r : Nat} {v : Word} (distinct : regs.Nodup)
    (hr : regs[k]? = some r) (hv : t.payload[k]? = some v) (named : r < 64) : (vget (movedLane old t ts regs free).n r).val = v := by
  have both : (List.zip regs t.payload)[k]? = some (r, v) := List.getElem?_zip_eq_some.2 ⟨hr, hv⟩
  have firsts : ((List.zip regs t.payload).map Prod.fst).Nodup := by
    rw [List.zip_eq_zip_take_min, List.map_fst_zip (by simp)]
    exact distinct.sublist (List.take_sublist ..)
  have found := find_of_getElem? firsts both
  simp only [movedLane, vget, Vector.getElem_ofFn, Nat.mod_eq_of_lt named, found]
  rfl

/-! ### A seat written -/

theorem Gang.reseated_rest (g : Gang) (lanes : List ((Nat × Nat) × Lane)) (free gi : Nat) (after : List Nat) :
    let g' := g.reseated lanes free gi after
    g' = { g with live := g'.live, em := g'.live, fm := 0, lanes := g'.lanes, after := g'.after } := rfl

theorem Gang.reseated_live (g : Gang) (lanes : List ((Nat × Nat) × Lane)) (free gi : Nat) (after : List Nat) {l : Nat} (hl : l < 32) :
    (g.reseated lanes free gi after).live.getLsbD l = (laneAt lanes (gi, l)).isSome := by
  simp only [Gang.reseated, getLsbD_maskOf, hl, decide_true, Bool.true_and]

theorem Gang.reseated_lane (g : Gang) (lanes : List ((Nat × Nat) × Lane)) (free gi : Nat) (after : List Nat) {l : Nat} (hl : l < 32) :
    (g.reseated lanes free gi after).lane l =
      (laneAt lanes (gi, l)).getD (emptyLane (g.lane l) (free + 2560 * gi + 80 * l)) := by
  simp only [Gang.lane, Lanes.at, Gang.reseated, Vector.getElem_mapIdx, Nat.mod_eq_of_lt hl]

theorem freeQueue_invalid (free : Nat) (a : Fin 16) : (freeQueue free)[a].valid = false := by
  simp [freeQueue]

/-! ### The seats one after another -/

theorem State.gangOpt_setGang_other {s : State} {g : Gang} {i : Nat} (h : g.gid ≠ i) : (s.setGang g).gang? i = s.gang? i :=
  find_replaced_ne (key := Gang.gid) h

section
variable {f : Gang × Nat → Gang} (same : ∀ x, (f x).gid = x.1.gid)
include same

theorem State.gangOpt_writeSeats_other {l : List (Gang × Nat)} {i : Nat} (other : ∀ x ∈ l, x.1.gid ≠ i) (u : State) :
    (u.writeSeats f l).gang? i = u.gang? i := by
  induction l generalizing u with
  | nil => rfl
  | cons x r ih =>
    refine (ih (fun y hy => other y (List.mem_cons_of_mem _ hy)) _).trans ?_
    exact State.gangOpt_setGang_other (same x ▸ other x List.mem_cons_self)

/-- Each of the seats, of distinct gangs, is written as `f` says. -/
theorem State.gangOpt_writeSeats {l : List (Gang × Nat)} (distinct : (l.map fun x => x.1.gid).Nodup) {u : State}
    (present : ∀ x ∈ l, (u.gang? x.1.gid).isSome) {x : Gang × Nat} (hx : x ∈ l) :
    (u.writeSeats f l).gang? x.1.gid = some (f x) := by
  induction l generalizing u with
  | nil => cases hx
  | cons y r ih =>
    rw [List.map_cons, List.nodup_cons] at distinct
    have others : ∀ z ∈ r, y.1.gid ≠ z.1.gid := fun z hz e => distinct.1 (e ▸ List.mem_map_of_mem hz)
    rcases List.mem_cons.1 hx with rfl | hx
    · obtain ⟨g, hg⟩ := Option.isSome_iff_exists.1 (present x List.mem_cons_self)
      have gid : g.gid = x.1.gid := by simpa using List.find?_some hg
      exact (State.gangOpt_writeSeats_other same (fun z hz e => others z hz e.symm) _).trans
        (State.gangOpt_setGang hg ((same x).trans gid.symm))
    · refine ih distinct.2 (fun z hz => ?_) hx
      have kept : (u.setGang (f y)).gang? z.1.gid = u.gang? z.1.gid := State.gangOpt_setGang_other (same y ▸ others z hz)
      exact (congrArg Option.isSome kept).trans (present z (List.mem_cons_of_mem _ hz))

end

/-! ### The commit -/

theorem State.commitSeats_courseOpt {s : State} {c : Course} (h : s.course? c.key = some c) (align : Bool) :
    ∃ c', (s.commitSeats c align).course? c.key = some c' ∧ c'.state = .rebuilding ∧ c'.regrouped = c.regrouped := by
  rw [State.commitSeats_eq]
  have courses (f : Gang × Nat → Gang) (l : List (Gang × Nat)) : (s.writeSeats f l).courses = s.courses :=
    foldl_courses (f := fun u x => (u.setGang (f x)).dropPlain x.1.core) (fun _ _ => rfl) l s
  refine ⟨_, State.courseOpt_setCourse (c := c) ?_ rfl, rfl, rfl⟩
  simpa only [State.course?, courses] using h

/-- A participating gang after the commit: the lanes of the entries placed in its seat. -/
theorem State.commitSeats_gangOpt {s : State} {c : Course} {seats : List Gang} (align : Bool) (hs : s.seatsOf c = seats)
    (distinct : (seats.map Gang.gid).Nodup) (present : ∀ g ∈ seats, (s.gang? g.gid).isSome) {i : Nat} {g : Gang}
    (hi : seats[i]? = some g) :
    let ts := sortTags c.tags
    ∃ after, (s.commitSeats c align).gang? g.gid = some (g.reseated
      (s.movedLanes (episodeRegs c.word) ts (placeAll align seats.length ts).places) (s.free + 80 * ts.length) i after) := by
  intro ts
  have firsts : (seats.zipIdx.map fun x => x.1.gid) = seats.map Gang.gid := by
    conv_rhs => rw [← List.zipIdx_map_fst 0 seats, List.map_map]
    rfl
  rw [State.commitSeats_eq, hs]
  exact ⟨_, State.gangOpt_writeSeats (f := fun x => x.1.reseated _ _ x.2 _) (fun _ => rfl) (firsts ▸ distinct)
    (fun x hx => present _ (List.fst_mem_of_mem_zipIdx hx)) (x := (g, i)) (List.mem_zipIdx_iff_getElem?.2 hi)⟩

end Sys2Proof.Machine
end

section
/-! Settles O51: the steps of the engines (07:R149, R152, R153, R157, 12:R257, 13:R271, R272, R275, R277, R278, R281, R282, 18:R364-R367). -/

namespace Sys2Proof.Machine

open Sys2Proof

/-! ### The entries and the seats of a REORDER that commits -/

/-- The entries `ts` of an episode in the order of 13:R271, from gangs of the device, and its participating seats in theirs. -/
structure State.Sorts (s : State) (c : Course) (seats : List Gang) (ts : List Tag) : Prop where
  tags : sortTags c.tags = numberedTags ts
  keys : ts.Pairwise fun x y => x.key ≤ y.key
  small : ts.length ≤ 4096
  gathered : ∀ t ∈ numberedTags ts, (s.oldLane t).isSome
  order : s.seatsOf c = seats
  distinct : (seats.map Gang.gid).Nodup
  present : ∀ g ∈ seats, (s.gang? g.gid).isSome

theorem Tag.key_le {x y : Tag} (h : x.key < y.key ∨ x.key = y.key ∧ (x.obrick < y.obrick ∨ x.obrick = y.obrick ∧ x.oid < y.oid)) :
    x.key ≤ y.key := by
  rcases h with lt | ⟨eq, _⟩
  · exact BitVec.le_of_lt lt
  · exact eq ▸ BitVec.le_refl _

theorem State.gangOpt_of_mem {s : State} {g : Gang} (h : g ∈ s.gangs) : (s.gang? g.gid).isSome :=
  List.find?_isSome.2 ⟨g, h, beq_self_eq_true _⟩

theorem State.Sorts.of_order {s : State} {c : Course} {seats : List Gang} {ts : List Tag} (perm : ts.Perm c.tags)
    (sorted : ts.Pairwise fun x y => x.key < y.key ∨ x.key = y.key ∧ (x.obrick < y.obrick ∨ x.obrick = y.obrick ∧ x.oid < y.oid))
    (small : ts.length ≤ 4096) (origin : ∀ e ∈ ts, ∃ g ∈ s.gangs, g.gid = e.gid) (distinct : (s.gangs.map Gang.gid).Nodup)
    (members : ∀ g, g ∈ seats ↔ g ∈ s.gangs ∧ g.gid ∈ c.arrived) (ordered : seats.Pairwise Gang.before)
    (bound : ∀ g ∈ seats, g.seat < 16) : s.Sorts c seats ts where
  tags := sortTags_eq perm (sorted.imp Tag.code_lt)
  keys := sorted.imp Tag.key_le
  small := small
  gathered := by
    intro t ht
    obtain ⟨n, hn, rfl⟩ := List.mem_mapIdx.1 ht
    obtain ⟨g, hg, gid⟩ := origin _ (List.getElem_mem hn)
    rw [State.oldLane, Option.isSome_map, ← gid]
    exact State.gangOpt_of_mem hg
  order := State.seatsOf_eq distinct members ordered bound
  distinct := (nodup_of_before ordered).map_on fun x hx y hy =>
    List.inj_on_of_nodup_map distinct ((members x).1 hx).1 ((members y).1 hy).1
  present := fun g hg => State.gangOpt_of_mem ((members g).1 hg).1

/-- The lane of the `n`-th entry at its new place (13:R271, R272). -/
theorem movedLane_numberedTags {ts : List Tag} (keys : ts.Pairwise fun x y => x.key ≤ y.key) (small : ts.length ≤ 4096) {n : Nat} {e : Tag}
    (he : ts[n]? = some e) (x : Lane) (regs : List Nat) (free : Nat) :
    let y := movedLane x { e with pos := BitVec.ofNat 12 n } (numberedTags ts) regs free
    let first := (ts.filter fun u => u.key < e.key).length
    y = { x with q := y.q, n := y.n, p := e.pred, pbad := false, key := e.key, rank := BitVec.ofNat 12 (n - first)
                 binbase := BitVec.ofNat 12 first } := by
  intro y first
  obtain ⟨hn, _⟩ := List.getElem?_eq_some_iff.1 he
  have start : binbase (numberedTags ts) e.key = first := binbase_numberedTags keys (List.mem_of_getElem? he) small
  have pos : (BitVec.ofNat 12 n).toNat = n := by
    rw [BitVec.toNat_ofNat, Nat.mod_eq_of_lt (by omega)]
  simp only [y, movedLane, start, pos]

/-- A participating gang after the commit: its live lanes are those that an entry goes to, each with the entry's lane (13:R272). -/
theorem State.Sorts.seat {s : State} {c : Course} {seats : List Gang} {ts : List Tag} (h : s.Sorts c seats ts) (align : Bool)
    (regs : (episodeRegs c.word).Nodup) {i : Nat} {g : Gang} (hi : seats[i]? = some g) :
    let places := placesFrom align seats.length 0 0 none (ts.map Tag.key)
    ∃ g', (s.commitSeats c align).gang? g.gid = some g' ∧
      g' = { g with live := g'.live, em := g'.live, fm := 0, lanes := g'.lanes, after := g'.after } ∧
      (∀ l < 32, (g'.live.getLsbD l = true ↔ (i, l) ∈ places) ∧ ∀ a : Fin 16, (g'.lane l).q[a].valid = false) ∧
      ∀ (n l : Nat) (e : Tag) (o : Gang), ts[n]? = some e → places[n]? = some (i, l) → s.gang? e.gid = some o →
        let x := o.lane e.lane
        let y := g'.lane l
        let first := (ts.filter fun u => u.key < e.key).length
        y = { x with q := y.q, n := y.n, p := e.pred, pbad := false, key := e.key, rank := BitVec.ofNat 12 (n - first)
                     binbase := BitVec.ofNat 12 first } ∧
        ∀ (k r : Nat) (v : Word), (episodeRegs c.word)[k]? = some r → e.payload[k]? = some v → r < 64 → (vget y.n r).val = v := by
  intro places
  have start : 0 < 32 := by decide
  have size : places.length = (numberedTags ts).length := by
    rw [length_placesFrom start, numberedTags_length, List.length_map]
  have placed : (placeAll align seats.length (numberedTags ts)).places = places := by
    rw [placeAll_places align _ (by rw [numberedTags_keys]; exact List.pairwise_map.2 h.keys), numberedTags_keys]
  obtain ⟨after, written⟩ := State.commitSeats_gangOpt align h.order h.distinct h.present hi
  rw [h.tags, placed] at written
  refine ⟨_, written, Gang.reseated_rest .., fun l hl => ⟨?_, fun a => ?_⟩, ?_⟩
  · rw [Gang.reseated_live _ _ _ _ _ hl, State.laneAt_movedLanes h.gathered size]
  · rw [Gang.reseated_lane _ _ _ _ _ hl]
    cases stands : laneAt (s.movedLanes (episodeRegs c.word) (numberedTags ts) places) (i, l) with
    | none => exact freeQueue_invalid _ a
    | some ln =>
      obtain ⟨free, queue⟩ := State.laneAt_queue stands
      rw [Option.getD_some, queue]
      exact freeQueue_invalid _ a
  · intro n l e o he hp ho
    have hl : l < 32 := (placesFrom_above start _ (List.mem_of_getElem? hp)).1
    have entry : (numberedTags ts)[n]? = some { e with pos := BitVec.ofNat 12 n } := by rw [numberedTags_getElem?, he]; rfl
    have old : s.oldLane { e with pos := BitVec.ofNat 12 n } = some (o.lane e.lane) := by
      simp only [State.oldLane, ho, Option.map_some]
    have stands := State.laneAt_of_place (regs := episodeRegs c.word) h.gathered size (placesFrom_nodup start) entry hp old
    rw [Gang.reseated_lane _ _ _ _ _ hl, stands, Option.getD_some]
    exact ⟨movedLane_numberedTags h.keys h.small he .., fun k r v hr hv named => movedLane_payload regs hr hv named⟩

end Sys2Proof.Machine

open Sys2Proof Sys2Proof.Machine

/-- Settles O51, engine by engine: each step goes on under its premises, and what it leaves is read off the state that it gives. -/
theorem enginesDoTheirWork : Obligations.EnginesDoTheirWork := by
  unfold Obligations.EnginesDoTheirWork
  refine ⟨?_, ?_, ?_, ?_, ?_, ?_, ?_, ?_⟩
  · intro s c e rest hc head thawed working free
    have works : s.MatWorks c e rest := ⟨hc, head, thawed, working, free⟩
    refine ⟨fun e' u step => works.exec_eq step, fun gd tok x b instr brick => ?_⟩
    have step : s.matStep c e = .ok e (s.writeCells e.brick x.toNat (512 * e.step) (List.replicate 512 0)) := by
      simp only [State.matStep, instr]
      rfl
    obtain ⟨u, ran, left⟩ := works.writes brick step
    exact ⟨u, _, ran, left, fun j k => cellAt_zeroed ..⟩
  · intro s c e rest gd ty tok x p q m b hc head thawed working free instr wf asp bsp done brick clean w band j r0 a' b' unheld elem
      rowsFree colsFree
    have works : s.MatWorks c e rest := ⟨hc, head, thawed, working, free⟩
    have shape : (tyShape ty).band = band := by cases ty <;> rfl
    clear_value band
    subst shape
    have step := State.matStep_mma (c := c) instr wf asp bsp done brick clean rowsFree colsFree
    obtain ⟨u, ran, left⟩ := works.writes brick step
    refine ⟨u, _, ran, left, fun n hn other => vget_vset_ne _ _ ?_, fun i _ k hk => ?_⟩
    · have := x.isLt
      omega
    · rw [vget_vset_same, Brick.cellAt_mmaBand _ _ _ _ _ _ hk]
      refine if_congr Iff.rfl rfl ?_
      exact mmaCell_range ..
  · intro s c a one core due
    subst core
    rw [execMatrixRemoteArrival_one one due]
    refine ⟨fun room => ⟨_, if_neg (by rw [room]; exact Bool.false_ne_true), rfl, State.enterMq_mq ..⟩, fun full => if_pos full⟩
  · intro s k q rest d b hk head others desc thawed working free home done brick src dst scl w off unheld clean r
    refine ⟨_, execQuantBlockDone_spad hk head desc thawed working free home done brick src dst scl unheld clean, ?_, ?_⟩
    · rw [State.brick?, State.quantDone_bricks]
      exact State.spadWrite_brick (State.spadWrite_brick brick ..) ..
    · refine State.quantDone_quants (q := q) d ?_ rfl others
      rw [State.spadWrite_group, State.spadWrite_group, head]
  · intro s u v r xs nans id found thawed working free oldest d y
    have samples : s.Samples r id := ⟨found, thawed, working, free, oldest⟩
    exact ⟨fun other logits place => (samples.whole other).trans (State.sampleAll_ok logits place), samples.biased⟩
  · intro s c course binning works clean spilled
    have commits : s.Commits c := ⟨course, binning, works, clean, spilled⟩
    have ran := commits.exec_eq
    cases counting : c.counting with
    | true =>
      rw [counting] at ran
      exact ⟨_, _, ran, State.commitCount_courseOpt course, fun _ => ⟨rfl, rfl, rfl⟩, nofun⟩
    | false =>
      rw [counting] at ran
      obtain ⟨c', found, state, regrouped⟩ := State.commitSeats_courseOpt course c.aligns
      exact ⟨_, c', ran, found, nofun, fun _ => ⟨state, regrouped⟩⟩
  · intro s c align gd key base mask ts seats course binning works clean spilled word perm sorted small _ origin distinct members
      ordered bound places
    have commits : s.Commits c := ⟨course, binning, works, clean, spilled⟩
    have sorts : s.Sorts c seats ts := .of_order perm sorted small origin distinct members ordered bound
    have ran : exec (.reorderCommit c.key.wall c.key.course) s = .next (s.commitSeats c align) := by
      rw [commits.exec_eq]
      cases align <;> simp [Course.counting, Course.aligns, word]
    have regs : episodeRegs c.word = payloadRegs base mask := by
      rw [word]
      cases align <;> rfl
    obtain ⟨c', found, state, _⟩ := State.commitSeats_courseOpt course align
    refine ⟨_, c', ran, found, state, fun i g hi => ?_⟩
    have seat := sorts.seat align (regs ▸ payloadRegs_nodup base mask) hi
    rwa [regs] at seat
  · intro s c course rebuilding clean unheld landed readable
    exact ⟨_, _, execReorderRebuildDone_ends course rebuilding clean unheld landed readable, State.finishRebuild_courseOpt course, rfl,
      rfl, rfl, rfl⟩

end

section
/-! Settles O5 and O6: the canonical form of every footing's memory (08:R172, 22:R409; log 4) is an invariant.

Memory changes through few functions: bytes written in the view of a footing (`State.memOk_writeAll`, `State.memOk_putWrite_msg`),
writes all footings see (`State.memOk_putAll`), a memory set as a whole (`State.memOk_setMem`) and what a reset leaves of the home
slices' memories (`State.wf_homeMem`). All else keeps each footing's memory: a function whose result has the very footings of its
argument by `State.MemOk.of_foots`, a fold by `foldl_memOk`. The lemmas below say so for each function of the model that makes a
state, in the model's order and under its headings; each is proved from those of the functions it calls, down to `memOk_exec` and
`memOk_step`. -/

namespace Sys2Proof.Machine

open Sys2Proof

-- One proof after another: many at once need a thread each.
set_option Elab.async false

/-- The state that an outcome goes on with, where it does, has canonical memory; so below for the other results of the model. -/
def Out.MemOk : Out → Prop
  | .next t => t.MemOk
  | _ => True

def Prep.MemOk : Prep → Prop
  | .stop o => o.MemOk
  | .run _ t => t.MemOk

def EngRes.MemOk {α : Type} : EngRes α → Prop
  | .ok _ t => t.MemOk
  | _ => True

def Fetched.MemOk {α : Type} : Fetched (State × α) → Prop
  | .got x => x.1.MemOk
  | .stop o => o.MemOk

def Fetched.StopOk {α : Type} : Fetched α → Prop
  | .got _ => True
  | .stop o => o.MemOk

theorem State.MemOk.of_foots {s t : State} (h : s.MemOk) (e : t.foots = s.foots) : t.MemOk := by
  unfold State.MemOk at *
  rwa [e]

/-- `State.MemOk` as a property of the footings alone. -/
def FootsOk (v : Vector Footing 4) : Prop := ∀ f : Fin 4, v[f].mem.wf = true

theorem State.memOk_foots (s : State) : s.MemOk ↔ FootsOk s.foots := Iff.rfl

theorem foldl_memOk {α : Type} {f : State → α → State} (hf : ∀ s x, s.MemOk → (f s x).MemOk) (l : List α) {s : State}
    (h : s.MemOk) : (l.foldl f s).MemOk := by
  induction l generalizing s with
  | nil => exact h
  | cons x r ih => exact ih (hf s x h)
variable {s : State}

/-- Every footing's own memory. -/
theorem State.MemOk.foot (h : s.MemOk) (n : Nat) : (vget s.foots n).mem.wf = true := (State.memOk_iff s).1 h n

theorem State.memOk_setFoot (h : s.MemOk) (n : Nat) {f : Footing} (hf : f.mem.wf = true) : (s.setFoot n f).MemOk := by
  rw [State.memOk_iff] at h ⊢
  intro g
  by_cases hg : g % 4 = n % 4
  · have at_n : (s.setFoot n f).mem g = f.mem := by
      simp only [State.mem, State.setFoot, vget, vset]
      simp [hg]
    rw [at_n]; exact hf
  · have other : (s.setFoot n f).mem g = s.mem g := by
      simp only [State.mem, State.setFoot, vget_vset_ne _ _ hg]
    rw [other]; exact h g

/-- An update of every footing that leaves its memory. -/
theorem FootsOk.mapIdx {v : Vector Footing 4} (h : FootsOk v) {f : Nat → Footing → Footing} (hf : ∀ i x, (f i x).mem = x.mem) :
    FootsOk (v.mapIdx f) := fun i => by simpa [hf] using h i

theorem FootsOk.map {v : Vector Footing 4} (h : FootsOk v) {f : Footing → Footing} (hf : ∀ x, (f x).mem = x.mem) :
    FootsOk (v.map f) := fun i => by simpa [hf] using h i

theorem State.memOk_reset : State.reset.MemOk := fun f => by
  simp [State.reset, Footing.reset, Memory.wf]

theorem State.memOk_restart (s : State) {m : Memory} (hm : m.wf = true) : (s.restart m).MemOk :=
  (State.memOk_iff _).2 fun f => by rw [State.restart_mem]; exact hm

theorem Memory.wf_iff (m : Memory) : m.wf = true ↔ (m.Pairwise fun x y => x.1 < y.1) ∧ ∀ c ∈ m, c.2 ≠ Memory.default := by
  simp [Memory.wf]

/-- The home slices' memories one after another: each footing holds the addresses of its own range. -/
theorem State.wf_homeMem (h : s.MemOk) : s.homeMem.wf = true := by
  have part (f : Nat) (p : Host.Cell → Bool) := (Memory.wf_iff _).1 ((State.memOk_iff s).1 h f)
  rw [Memory.wf_iff, State.homeMem, List.pairwise_append, List.pairwise_flatMap]
  refine ⟨⟨⟨fun f _ => ((part f fun _ => true).1.filter _), ?_⟩, (part 0 fun _ => true).1.filter _, ?_⟩, ?_⟩
  · refine List.pairwise_lt_range.imp fun {a b} hab x hx y hy => ?_
    simp only [List.mem_filter, Bool.and_eq_true, decide_eq_true_eq, beq_iff_eq] at hx hy
    omega
  · intro x hx y hy
    simp only [List.mem_flatMap, List.mem_filter, Bool.and_eq_true, decide_eq_true_eq, beq_iff_eq] at hx hy
    obtain ⟨f, -, -, hx, -⟩ := hx
    omega
  · intro c hc
    simp only [List.mem_append, List.mem_flatMap, List.mem_filter] at hc
    rcases hc with ⟨f, -, hc, -⟩ | ⟨hc, -⟩
    · exact (part f fun _ => true).2 c hc
    · exact (part 0 fun _ => true).2 c hc

theorem getD_memOk {o : Option State} (h : s.MemOk) (ho : ∀ t, o = some t → t.MemOk) : (o.getD s).MemOk := by
  cases o with
  | none => exact h
  | some t => exact ho t rfl

theorem ite_memOk {c : Prop} [Decidable c] {a b : State} (ha : a.MemOk) (hb : b.MemOk) : (if c then a else b).MemOk := by
  split
  · exact ha
  · exact hb

theorem EngRes.MemOk.of_ok {α : Type} {r : EngRes α} {x : α} {t : State} (h : r.MemOk) (e : r = .ok x t) : t.MemOk := by
  subst e; exact h

theorem Memory.wf_filter {m : Memory} (h : m.wf = true) (p) : Memory.wf (m.filter p) = true := by
  rw [Memory.wf_iff] at h ⊢
  exact ⟨h.1.filter _, fun c hc => h.2 c (List.mem_filter.1 hc).1⟩

/-! ### Ops -/

theorem memOk_orKeep (h : s.MemOk) {a : Out} (ha : a.MemOk) : (orKeep s a).MemOk := by
  unfold orKeep
  grind -ring [Out.MemOk]

theorem State.memOk_slicePut (h : s.MemOk) (slice line) : (s.slicePut slice line).MemOk := by
  unfold State.slicePut
  grind -ring [State.memOk_foots]

theorem State.memOk_dirty (h : s.MemOk) (slice line) : (s.dirty slice line).MemOk := h.of_foots rfl

theorem State.memOk_miss (h : s.MemOk) (slice line) : (s.miss slice line).MemOk := h.of_foots rfl

theorem State.memOk_makeRoom (h : s.MemOk) (slice) : (s.makeRoom slice).MemOk := by
  unfold State.makeRoom
  grind -ring [State.memOk_slicePut]

theorem State.memOk_touchLine (h : s.MemOk) (foot pa write) : (s.touchLine foot pa write).MemOk := by
  unfold State.touchLine
  grind -ring [State.memOk_dirty, State.memOk_slicePut, State.memOk_makeRoom, State.memOk_miss]

theorem State.memOk_touch (h : s.MemOk) (foot pa n write) : (s.touch foot pa n write).MemOk := by
  unfold State.touch
  grind -ring [foldl_memOk, State.memOk_touchLine]

theorem State.memOk_wakeLines (h : s.MemOk) (foot pa len) : (s.wakeLines foot pa len).MemOk := h.of_foots rfl

theorem State.memOk_clean (h : s.MemOk) (pa n) : (s.clean pa n).MemOk := h.of_foots rfl

theorem State.memOk_setPeer (h : s.MemOk) (port p) : (s.setPeer port p).MemOk := h.of_foots rfl

theorem State.memOk_send (h : s.MemOk) (n xs) : (s.send n xs).MemOk := h.of_foots rfl

theorem State.memOk_flitWrites (h : s.MemOk) (port a) : (s.flitWrites port a).MemOk := by
  unfold State.flitWrites
  grind -ring [State.memOk_putAll]

theorem State.memOk_putFlit (h : s.MemOk) (port payload) : (s.putFlit port payload).MemOk := by
  unfold State.putFlit
  grind -ring [State.memOk_setPeer, State.memOk_send, State.memOk_flitWrites]

theorem State.memOk_discard (h : s.MemOk) (port) : (s.discard port).MemOk := h.of_foots rfl

theorem State.memOk_sendFlit (h : s.MemOk) (port payload) : (s.sendFlit port payload).MemOk := by
  unfold State.sendFlit
  grind -ring [State.memOk_putFlit, State.memOk_setPeer]

theorem State.memOk_flushPort (h : s.MemOk) (port n) : (s.flushPort port n).MemOk := by
  induction n generalizing s with
  | zero => exact h
  | succ n ih =>
    unfold State.flushPort
    grind -ring [State.memOk_setPeer, State.memOk_putFlit]

theorem State.memOk_flush (h : s.MemOk) (port) : (s.flush port).MemOk := by
  unfold State.flush
  grind -ring [State.memOk_flushPort]

theorem State.memOk_goOut (h : s.MemOk) (link pa msg) : (s.goOut link pa msg).MemOk := by
  unfold State.goOut
  grind -ring [State.memOk_foots, State.memOk_sendFlit]

theorem State.memOk_writeOut (h : s.MemOk) (part pa bs) : (s.writeOut part pa bs).MemOk := by
  unfold State.writeOut
  grind -ring [foldl_memOk, State.memOk_goOut]

theorem State.memOk_readOut (h : s.MemOk) (part pa n) : (s.readOut part pa n).MemOk := by
  unfold State.readOut
  grind -ring [foldl_memOk, State.memOk_goOut]

theorem State.memOk_writeBeyond (h : s.MemOk) (part pa bs) : (s.writeBeyond part pa bs).MemOk := by
  unfold State.writeBeyond
  grind -ring [State.memOk_writeOut, State.memOk_putAll]

theorem State.memOk_readBy (h : s.MemOk) (part foot pa n) : (s.readBy part foot pa n).MemOk := by
  unfold State.readBy
  grind -ring [State.memOk_touch, State.memOk_readOut]

theorem State.memOk_setCore (h : s.MemOk) (c x) : (s.setCore c x).MemOk := h.of_foots rfl

theorem State.memOk_setGroup (h : s.MemOk) (g x) : (s.setGroup g x).MemOk := h.of_foots rfl

theorem State.memOk_setGang (h : s.MemOk) (g) : (s.setGang g).MemOk := h.of_foots rfl

theorem State.memOk_setBrick (h : s.MemOk) (b) : (s.setBrick b).MemOk := h.of_foots rfl

theorem State.memOk_setCourse (h : s.MemOk) (c) : (s.setCourse c).MemOk := h.of_foots rfl

theorem State.memOk_setWall (h : s.MemOk) (w) : (s.setWall w).MemOk := h.of_foots rfl

theorem State.memOk_setPSet (h : s.MemOk) (p) : (s.setPSet p).MemOk := h.of_foots rfl

theorem State.memOk_setStream (h : s.MemOk) (x) : (s.setStream x).MemOk := h.of_foots rfl

theorem State.memOk_fresh (h : s.MemOk) : s.fresh.2.MemOk := h

theorem State.memOk_newId (h : s.MemOk) : s.newId.2.MemOk := h

theorem State.memOk_stall (h : s.MemOk) (g w) : (s.stall g w).MemOk := h

theorem State.memOk_done (h : s.MemOk) (g) : (s.done g).MemOk := h

theorem State.memOk_msix (h : s.MemOk) (part v) : (s.msix part v).MemOk := h.of_foots rfl

theorem State.memOk_append (h : s.MemOk) (part now src bytes) : (s.append part now src bytes).MemOk := by
  unfold State.append
  grind -ring [State.memOk_foots, foldl_memOk, State.memOk_writeAll]

theorem State.memOk_report (h : s.MemOk) (part foot r) : (s.report part foot r).MemOk := by
  unfold State.report
  grind -ring [State.memOk_foots, State.memOk_msix, State.memOk_append]

theorem State.memOk_reportGang (h : s.MemOk) (g cause tval tepc replay nohandler lost) :
    (s.reportGang g cause tval tepc replay nohandler lost).MemOk := by
  unfold State.reportGang
  grind -ring [State.memOk_report]

theorem State.memOk_holdGang (h : s.MemOk) (g cause tval replay) : (s.holdGang g cause tval replay).MemOk := by
  unfold State.holdGang
  grind -ring [State.memOk_reportGang, State.memOk_setGang]

theorem State.memOk_walkOut (h : s.MemOk) (part asid va) : (s.walkOut part asid va).MemOk := by
  unfold State.walkOut
  grind -ring [foldl_memOk, memOk_touchLine, State.memOk_readOut]

theorem State.memOk_fetchOut (h : s.MemOk) (g va n) : (s.fetchOut g va n).MemOk := by
  unfold State.fetchOut
  grind -ring [foldl_memOk, State.memOk_readBy]

theorem State.memOk_fillTlb (h : s.MemOk) (core group e) : (s.fillTlb core group e).MemOk := by
  unfold State.fillTlb
  grind -ring [State.memOk_foots]

theorem State.memOk_translate {y : TlbEntry × State} (h : s.MemOk) (group part asid va n) (hy : s.translate group part asid va n =
    some y) :
    y.2.MemOk := by
  unfold State.translate at hy
  grind -ring [State.memOk_walkOut, State.memOk_fillTlb]

theorem State.memOk_askWalk (h : s.MemOk) (g va n) : (s.askWalk g va n).MemOk := by
  unfold State.askWalk
  grind -ring [State.memOk_foots, Out.MemOk, State.memOk_setGang, State.memOk_stall, State.memOk_newId]

theorem State.memOk_deliverTrap (h : s.MemOk) (g t) : (s.deliverTrap g t).MemOk := by
  unfold State.deliverTrap
  grind -ring [State.memOk_reportGang, State.memOk_setGang]

theorem State.memOk_enterHandler (h : s.MemOk) (g pa t) : (s.enterHandler g pa t).MemOk := by
  unfold State.enterHandler
  grind -ring [State.memOk_setGang, State.memOk_writeAll]

theorem State.memOk_takeTrap (h : s.MemOk) (g t fault) : (s.takeTrap g t fault).MemOk := by
  unfold State.takeTrap
  grind -ring [State.memOk_stall, State.memOk_askWalk, Out.MemOk, State.memOk_deliverTrap, State.memOk_setGang,
    State.memOk_holdGang, State.memOk_enterHandler]

theorem State.memOk_trap (h : s.MemOk) (g cause tval lanes) : (s.trap g cause tval lanes).MemOk := State.memOk_takeTrap h ..

theorem State.memOk_trapEm (h : s.MemOk) (g cause tval) : (s.trapEm g cause tval).MemOk := State.memOk_trap h ..

theorem State.memOk_trapQueue (h : s.MemOk) (g field lanes) : (s.trapQueue g field lanes).MemOk := State.memOk_takeTrap h ..

theorem State.memOk_trapUser (h : s.MemOk) (g cause num) : (s.trapUser g cause num).MemOk := State.memOk_takeTrap h ..

theorem State.memOk_withGang (_ : s.MemOk) {k : Gang → Out} (hk : ∀ g, (k g).MemOk) : (s.withGang k).MemOk := by
  unfold State.withGang
  grind -ring [Out.MemOk]

theorem State.memOk_complete (h : s.MemOk) (gid a) : (s.complete gid a).MemOk := by
  unfold State.complete
  grind -ring [State.memOk_setGang]

/-! ### Mortar -/

theorem State.memOk_setG (h : s.MemOk) (g k i v) : (s.setG g k i v).MemOk := h.of_foots rfl

theorem State.memOk_landG (h : s.MemOk) (which) : (s.landG which).MemOk := by
  unfold State.landG
  grind -ring [State.memOk_foots, foldl_memOk, State.memOk_setBrick]

theorem State.memOk_goFar (h : s.MemOk) (g load got) : (s.goFar g load got).MemOk := h

/-! ### Operands -/

theorem State.memOk_gate (h : s.MemOk) (g gd acts os preds) {k : Out} (hk : k.MemOk) : (s.gate g gd acts os preds k).MemOk := by
  unfold State.gate
  grind -ring [State.memOk_stall, Out.MemOk, State.memOk_holdGang, State.memOk_trapQueue]

theorem State.memOk_perLane (h : s.MemOk) (gd os) {k : Gang → Mask → Out} (preds) (hk : ∀ g y, (k g y).MemOk) :
    (s.perLane gd os k preds).MemOk := by
  unfold State.perLane
  grind -ring [State.memOk_withGang, State.memOk_gate]

theorem State.memOk_once (h : s.MemOk) (gd os produces) {k : Gang → Mask → ℕ → Out} (hk : ∀ g y z, (k g y z).MemOk) :
    (s.once gd os produces k).MemOk := by
  unfold State.once
  grind -ring [State.memOk_withGang, State.memOk_done, memOk_gate]

theorem State.memOk_transfer (h : s.MemOk) (gd os) {k : Gang → ℕ → Out} (preds) (hk : ∀ g y, (k g y).MemOk) :
    (s.transfer gd os k preds).MemOk := by
  unfold State.transfer
  grind -ring [memOk_withGang, State.memOk_done, State.memOk_gate, State.memOk_trapEm]

theorem State.memOk_value (h : s.MemOk) (gd d os f preds) : (s.value gd d os f preds).MemOk := by
  unfold State.value
  grind -ring [memOk_perLane, State.memOk_done]

/-! ### Lanes -/

theorem State.memOk_checkBars (h : s.MemOk) (k) : (s.checkBars k).MemOk := by
  unfold State.checkBars
  grind -ring [State.memOk_setBrick, State.memOk_setCourse]

theorem State.memOk_nextSort (h : s.MemOk) (group) : (s.nextSort group).MemOk := by
  unfold State.nextSort
  grind -ring [State.memOk_setGroup, State.memOk_setCourse]

theorem State.memOk_freeSpill (h : s.MemOk) (c) : (s.freeSpill c).MemOk := by
  unfold State.freeSpill
  grind -ring [foldl_memOk, State.memOk_foots, State.memOk_putAll]

theorem State.memOk_clearEpisode (h : s.MemOk) (c) : (s.clearEpisode c).MemOk := by
  unfold State.clearEpisode
  grind -ring [State.memOk_foots, State.memOk_setCourse, State.memOk_nextSort, State.memOk_freeSpill]

theorem State.memOk_rollback (h : s.MemOk) (c cause) : (s.rollback c cause).MemOk := by
  unfold State.rollback
  grind -ring [State.memOk_foots, State.memOk_clearEpisode]

theorem State.memOk_toSorter (h : s.MemOk) (c) : (s.toSorter c).MemOk := by
  unfold State.toSorter
  grind -ring [State.memOk_setGroup, State.memOk_setCourse]

theorem State.memOk_gatherCheck (h : s.MemOk) (ck) : (s.gatherCheck ck).MemOk := by
  unfold State.gatherCheck
  grind -ring [State.memOk_rollback, State.memOk_toSorter]

theorem State.memOk_leaveExpected (h : s.MemOk) (g) : (s.leaveExpected g).MemOk := by
  unfold State.leaveExpected
  grind -ring [State.memOk_setCourse, State.memOk_clearEpisode, State.memOk_gatherCheck]

theorem State.memOk_afterDepart (h : s.MemOk) (g g') : (s.afterDepart g g').MemOk := by
  unfold State.afterDepart
  grind -ring [foldl_memOk, State.memOk_leaveExpected, State.memOk_setGang, State.memOk_checkBars]

theorem State.memOk_leave (h : s.MemOk) (g lanes adv) : (s.leave g lanes adv).MemOk := by
  unfold State.leave
  grind -ring [State.memOk_afterDepart]

theorem State.memOk_markKilled (h : s.MemOk) (ks) : (s.markKilled ks).MemOk := h.of_foots rfl

theorem State.memOk_quarantine (h : s.MemOk) (g bad) : (s.quarantine g bad).1.MemOk := by
  unfold State.quarantine
  grind -ring [foldl_memOk, State.memOk_setBrick]

/-! ### Requests -/

theorem State.memOk_dropPlain (h : s.MemOk) (core) : (s.dropPlain core).MemOk := h.of_foots rfl

theorem State.memOk_acquire (h : s.MemOk) (g ids sc) : (s.acquire g ids sc).1.MemOk := by
  unfold State.acquire
  grind -ring [State.memOk_dropPlain]

/-! ### Counters -/

theorem State.memOk_arrive (h : s.MemOk) (ln x ids) : (s.arrive ln x ids).MemOk := by
  unfold State.arrive
  grind -ring [State.memOk_setBrick, State.memOk_setCourse]

theorem State.memOk_arriveAll (h : s.MemOk) (g x ids l) : (s.arriveAll g x ids l).1.MemOk := by
  induction l generalizing s with
  | nil => exact h
  | cons l r ih => exact ih (State.memOk_arrive h _ _ _)

theorem State.memOk_wakeBar (h : s.MemOk) (g x lanes) : (s.wakeBar g x lanes).1.MemOk := by
  unfold State.wakeBar
  grind -ring [State.memOk_acquire]

theorem State.memOk_setExpect (h : s.MemOk) (ln x e) : (s.setExpect ln x e).MemOk := by
  unfold State.setExpect
  grind -ring [State.memOk_setBrick, State.memOk_setCourse]

theorem memOk_execBarInit (h : s.MemOk) (g x a) : (execBarInit g x a s).MemOk := by
  unfold execBarInit
  grind -ring [State.memOk_once, State.memOk_trapEm, State.memOk_setExpect, State.memOk_done]

theorem State.memOk_arrives (h : s.MemOk) (g m x) {k : State → Gang → List (ℕ × ℕ × Word) → Out} (hk : ∀ t g z, t.MemOk → (k t g
    z).MemOk) :
    (s.arrives g m x k).MemOk := by
  unfold State.arrives
  grind -ring [State.memOk_stall, State.memOk_arriveAll, State.memOk_goFar]

theorem memOk_execBarArrive (h : s.MemOk) (g x d) : (execBarArrive g x d s).MemOk := by
  unfold execBarArrive
  grind -ring [State.memOk_perLane, State.memOk_arrives, State.memOk_done]

theorem memOk_execBarWait (h : s.MemOk) (g x a) : (execBarWait g x a s).MemOk := by
  unfold execBarWait
  grind -ring [State.memOk_perLane, State.memOk_done, State.memOk_wakeBar, State.memOk_stall]

theorem State.memOk_syncWait (h : s.MemOk) (g x phc m) : (s.syncWait g x phc m).MemOk := by
  unfold State.syncWait
  grind -ring [State.memOk_done, State.memOk_wakeBar, State.memOk_stall]

theorem memOk_execBarSync (h : s.MemOk) (g x) : (execBarSync g x s).MemOk := by
  unfold execBarSync
  grind -ring [State.memOk_perLane, State.memOk_done, State.memOk_arrives, State.memOk_syncWait]

theorem memOk_execBarPeek (h : s.MemOk) (g x d) : (execBarPeek g x d s).MemOk := by
  unfold execBarPeek
  grind -ring [State.memOk_perLane, State.memOk_done]

theorem State.memOk_sendPhase (h : s.MemOk) (k n) : (s.sendPhase k n).MemOk := h.of_foots rfl

theorem memOk_execPhase (h : s.MemOk) (g) : (execPhase g s).MemOk := by
  unfold execPhase
  grind -ring [State.memOk_once, State.memOk_done, State.memOk_setBrick, State.memOk_sendPhase, State.memOk_stall]

theorem memOk_execLeadRd (h : s.MemOk) (g d) : (execLeadRd g d s).MemOk := by
  unfold execLeadRd
  grind -ring [State.memOk_perLane, State.memOk_done]

theorem memOk_execLeadUpdate (h : s.MemOk) (i) : (execLeadUpdate i s).MemOk := by
  unfold execLeadUpdate
  grind -ring [State.memOk_foots, Out.MemOk, State.memOk_setBrick]

theorem memOk_execWaitt (h : s.MemOk) (g j) : (execWaitt g j s).MemOk := by
  unfold execWaitt
  grind -ring [State.memOk_once, State.memOk_done, State.memOk_stall]

/-! ### Float -/

theorem memOk_unaryF (h : s.MemOk) (f g t' d a imm) : (unaryF f g t' d a imm s).MemOk := State.memOk_value h ..

theorem memOk_binaryF (h : s.MemOk) (f g t' d a b imm) : (binaryF f g t' d a b imm s).MemOk := State.memOk_value h ..

theorem memOk_execCmpF (h : s.MemOk) (g t cc pd a b imm) : (execCmpF g t cc pd a b imm s).MemOk := by
  unfold execCmpF
  grind -ring [State.memOk_perLane, State.memOk_done]

theorem memOk_execBpack (h : s.MemOk) (g d a) : (execBpack g d a s).MemOk := by
  unfold execBpack
  grind -ring [State.memOk_perLane, State.memOk_done]

theorem memOk_execBpext (h : s.MemOk) (g d a p) : (execBpext g d a p s).MemOk := by
  unfold execBpext
  grind -ring [State.memOk_perLane, State.memOk_done]

/-! ### Scratch -/

theorem State.memOk_spadWrite (h : s.MemOk) (k off bs) : (s.spadWrite k off bs).MemOk := by
  unfold State.spadWrite
  grind -ring [State.memOk_foots, State.memOk_setBrick]

theorem State.memOk_doneStruck (h : s.MemOk) (g bad) : (s.doneStruck g bad).MemOk := by
  unfold State.doneStruck
  grind -ring [State.memOk_done, Out.MemOk, memOk_leave, State.memOk_quarantine]

theorem State.memOk_late (h : s.MemOk) (g m d f) : (s.late g m d f).1.MemOk := by
  unfold State.late
  grind -ring [State.memOk_foots, State.memOk_newId]

theorem State.memOk_spadPut (h : s.MemOk) (k off bs infos) : (s.spadPut k off bs infos).MemOk := by
  unfold State.spadPut
  grind -ring [memOk_spadWrite, State.memOk_setBrick]

theorem State.memOk_spadLoad (h : s.MemOk) (course gd t d a imm) : (s.spadLoad course gd t d a imm).MemOk := by
  unfold State.spadLoad
  grind -ring [State.memOk_perLane, State.memOk_stall, Out.MemOk, State.memOk_holdGang, State.memOk_goFar, State.memOk_doneStruck,
    State.memOk_late]

theorem State.memOk_spadStore (h : s.MemOk) (course gd t a b imm) : (s.spadStore course gd t a b imm).MemOk := by
  unfold State.spadStore
  grind -ring [State.memOk_perLane, State.memOk_stall, foldl_memOk, State.memOk_goFar, State.memOk_spadPut,
    State.memOk_doneStruck]

/-! ### Cache -/

theorem memOk_execSliceMissFill (h : s.MemOk) (slice line) : (execSliceMissFill slice line s).MemOk := by
  unfold execSliceMissFill
  grind -ring [Out.MemOk, State.memOk_slicePut]

/-! ### Order -/

theorem State.memOk_endEpoch (h : s.MemOk) (f) : (s.endEpoch f).MemOk := State.memOk_setFoot h _ (h.foot _)

theorem State.memOk_raise (h : s.MemOk) (f g n) : (s.raise f g n).MemOk := by
  unfold State.raise
  grind -ring [State.memOk_setFoot, State.MemOk.foot, State.memOk_endEpoch]

theorem State.memOk_tagBytes (h : s.MemOk) (t) : (s.tagBytes t).MemOk := h.of_foots rfl

theorem State.memOk_putWrite_msg (h : s.MemOk) (a part pa bs msg) : (s.putWrite a part pa bs msg).MemOk := by
  by_cases hc : s.cachable pa = true
  · exact (State.memOk_setMem h _ (Memory.wf_write (h.foot _) pa bs)).of_foots (State.putWrite_foots hc)
  · have tagged (t : WTag) := State.memOk_tagBytes h t
    simp only [State.putWrite, hc, Bool.not_false, if_true]
    cases msg with
    | none => exact State.memOk_writeBeyond (tagged _) _ _ _
    | some m => exact foldl_memOk (fun _ _ h => State.memOk_goOut h _ _ _) _ (State.memOk_putAll (tagged _) _ _)

theorem State.memOk_applyWrite (h : s.MemOk) (w dst) : (s.applyWrite w dst).MemOk := by
  have put (t : State) (b : Nat × Byte) (h : t.MemOk) : (t.setMem dst ((t.mem dst).write b.1 [b.2])).MemOk :=
    State.memOk_setMem h _ (Memory.wf_write (h.foot dst) _ _)
  have puts (bs : List (Nat × Byte)) := foldl_memOk put bs h
  unfold State.applyWrite
  grind -ring [foldl_memOk, State.memOk_tagBytes, State.memOk_dropPlain, State.memOk_touch, State.memOk_wakeLines,
    State.memOk_foots]

theorem memOk_execRemoteWriteApply (h : s.MemOk) (write dst) : (execRemoteWriteApply write dst s).MemOk := by
  unfold execRemoteWriteApply
  grind -ring [Out.MemOk, State.memOk_applyWrite]

theorem memOk_execEpochEnd (h : s.MemOk) (footing) : (execEpochEnd footing s).MemOk := by
  unfold execEpochEnd
  grind -ring [Out.MemOk, State.memOk_endEpoch]

theorem State.memOk_observe (h : s.MemOk) (foot ts) : (s.observe foot ts).MemOk := by
  unfold State.observe
  grind -ring [foldl_memOk, State.memOk_raise]

theorem State.memOk_acquireTags (h : s.MemOk) (g bs sc ts) : (s.acquireTags g bs sc ts).1.MemOk := by
  unfold State.acquireTags
  grind -ring [State.memOk_acquire, State.memOk_observe]

theorem State.memOk_acquireAt (h : s.MemOk) (g bs sc view pa n) : (s.acquireAt g bs sc view pa n).1.MemOk := by
  unfold State.acquireAt
  grind -ring [State.memOk_acquireTags]

/-! ### Memory -/

theorem State.memOk_l1Store (h : s.MemOk) (core pa bs t) : (s.l1Store core pa bs t).MemOk := h.of_foots rfl

theorem State.memOk_l1Pass (h : s.MemOk) (on pa n) : (s.l1Pass on pa n).MemOk := h.of_foots rfl

theorem State.memOk_l1Drop (h : s.MemOk) (core line ro) : (s.l1Drop core line ro).MemOk := h.of_foots rfl

theorem State.memOk_l1Fill (h : s.MemOk) (x) : (s.l1Fill x).MemOk := h.of_foots rfl

theorem State.memOk_withPages (h : s.MemOk) (g m n w va) {k : List (ℕ × TlbEntry) → Out} (hk : ∀ x, (k x).MemOk) :
    (s.withPages g m n w va k).MemOk := by
  unfold State.withPages
  grind -ring [State.memOk_trap, State.memOk_askWalk]

theorem State.memOk_enter (h : s.MemOk) (g k d push accs extra) : (s.enter g k d push accs extra).1.MemOk := by
  unfold State.enter
  grind -ring [State.memOk_foots, State.memOk_newId, foldl_memOk, State.memOk_l1Store]

theorem State.memOk_showHits (h : s.MemOk) (g k accs) : (s.showHits g k accs).1.MemOk := by
  refine List.foldlRecOn _ _ (motive := fun x : State × Gang => x.1.MemOk) h fun x h _ _ => ?_
  dsimp only
  split
  · exact State.memOk_acquireTags h _ _ _ _
  · exact h

theorem State.memOk_request (h : s.MemOk) (g m k d push accs) : (s.request g m k d push accs).MemOk := by
  unfold State.request
  grind -ring [State.memOk_done, State.memOk_showHits, State.memOk_enter]

theorem State.memOk_gload (h : s.MemOk) (gd t' d a off acq ro) : (s.gload gd t' d a off acq ro).MemOk := by
  unfold State.gload
  grind -ring [State.memOk_perLane, State.memOk_done, State.memOk_withPages, State.memOk_request]

theorem State.memOk_gstore (h : s.MemOk) (gd t d a b off k push) : (s.gstore gd t d a b off k push).MemOk := by
  unfold State.gstore
  grind -ring [memOk_perLane, State.memOk_done, memOk_withPages, State.memOk_request]

theorem memOk_execStMc (h : s.MemOk) (g t a b off) : (execStMc g t a b off s).MemOk := by
  unfold execStMc
  grind -ring [State.memOk_perLane, State.memOk_done, State.memOk_withPages, State.memOk_request]

theorem memOk_execMirrorSync (h : s.MemOk) (g a) : (execMirrorSync g a s).MemOk := by
  unfold execMirrorSync
  grind -ring [State.memOk_perLane, State.memOk_done, State.memOk_withPages, State.memOk_request]

theorem State.memOk_gatom (h : s.MemOk) (gd t d a b c off k push) : (s.gatom gd t d a b c off k push).MemOk := by
  unfold State.gatom
  grind -ring [State.memOk_perLane, State.memOk_done, State.memOk_withPages, State.memOk_request]

theorem State.memOk_deque (h : s.MemOk) (gd d a b k) : (s.deque gd d a b k).MemOk := by
  unfold State.deque
  grind -ring [State.memOk_perLane, State.memOk_done, State.memOk_withPages, Out.MemOk, State.memOk_setGang, memOk_enter]

theorem State.memOk_fence (h : s.MemOk) (g rel acq sc deps) : (s.fence g rel acq sc deps).1.MemOk := by
  unfold State.fence
  grind -ring [memOk_enter]

theorem memOk_execFenceAcq (h : s.MemOk) (g sc) : (execFenceAcq g sc s).MemOk := by
  unfold execFenceAcq
  grind -ring [State.memOk_once, State.memOk_done, State.memOk_fence]

theorem memOk_execFenceRel (h : s.MemOk) (g sc) : (execFenceRel g sc s).MemOk := by
  unfold execFenceRel
  grind -ring [State.memOk_once, State.memOk_done, State.memOk_fence]

theorem memOk_execFenceFull (h : s.MemOk) (g sc) : (execFenceFull g sc s).MemOk := by
  unfold execFenceFull
  grind -ring [State.memOk_once, State.memOk_done, State.memOk_fence]

theorem memOk_execFenceAck (h : s.MemOk) (g) : (execFenceAck g s).MemOk := by
  unfold execFenceAck
  grind -ring [State.memOk_once, State.memOk_done, State.memOk_stall]

theorem State.memOk_softPages (h : s.MemOk) (g m va) : (s.softPages g m va).2.MemOk := by
  refine List.foldlRecOn _ _ (motive := fun x : List (Nat × TlbEntry) × State => x.2.MemOk) h fun x h _ _ => ?_
  split
  · exact h
  · split
    next hx => exact State.memOk_translate h _ _ _ _ _ hx
    · exact h

theorem memOk_execPref (h : s.MemOk) (g a l2) : (execPref g a l2 s).MemOk := by
  unfold execPref
  grind -ring [State.memOk_perLane, State.memOk_stall, State.memOk_softPages, State.memOk_done, State.memOk_request]

theorem memOk_execCctlInv (h : s.MemOk) (g) : (execCctlInv g s).MemOk := by
  unfold execCctlInv
  grind -ring [State.memOk_once, State.memOk_dropPlain, State.memOk_done]

theorem memOk_execCctlInvro (h : s.MemOk) (g) : (execCctlInvro g s).MemOk := by
  unfold execCctlInvro
  grind -ring [State.memOk_foots, State.memOk_once, State.memOk_done]

theorem memOk_execCctlLine (h : s.MemOk) (g a) : (execCctlLine g a s).MemOk := by
  unfold execCctlLine
  grind -ring [State.memOk_perLane, State.memOk_stall, foldl_memOk, State.memOk_done, State.memOk_softPages, State.memOk_l1Drop]

/-! ### Slices -/

theorem State.memOk_setReq (h : s.MemOk) (r) : (s.setReq r).MemOk := h.of_foots rfl

theorem State.memOk_tidy (h : s.MemOk) : s.tidy.MemOk := h.of_foots rfl

theorem State.memOk_perform (h : s.MemOk) (r i a v) : (s.perform r i a v).MemOk := h.of_foots rfl

theorem State.memOk_forGang (h : s.MemOk) (gid) {f : State → Gang → State × Gang} (hf : ∀ t g, t.MemOk → (f t g).1.MemOk) :
    (s.forGang gid f).MemOk := by
  unfold State.forGang
  grind -ring [State.memOk_setGang]

theorem State.memOk_fillLine (h : s.MemOk) (core asid view pa ro prio) : (s.fillLine core asid view pa ro prio).MemOk :=
  h.of_foots rfl

theorem State.memOk_follow (h : s.MemOk) (r new) : (s.follow r new).MemOk := h.of_foots rfl

theorem State.memOk_taking (h : s.MemOk) (r) {f : State → Gang → State × Gang} (hf : ∀ t g, t.MemOk → (f t g).1.MemOk) :
    (s.taking r f).MemOk := by
  unfold State.taking
  grind -ring [State.memOk_setGang, State.memOk_follow]

theorem State.memOk_doLoad (h : s.MemOk) (r i a t' acq ro view) : (s.doLoad r i a t' acq ro view).MemOk := by
  unfold State.doLoad
  grind -ring [memOk_taking, State.memOk_perform, State.memOk_readOut, State.memOk_acquireTags, State.memOk_fillLine]

theorem State.memOk_doWrite (h : s.MemOk) (r l foot pa bs msg) : (s.doWrite r l foot pa bs msg).MemOk := by
  unfold State.doWrite
  grind -ring [State.memOk_raise, State.memOk_dirty, State.memOk_l1Pass, State.memOk_putWrite_msg]

theorem State.memOk_lateL1 (h : s.MemOk) (r l pa bs) : (s.lateL1 r l pa bs).MemOk := by
  unfold State.lateL1
  grind -ring [State.memOk_l1Store]

theorem State.memOk_homeSaw (h : s.MemOk) (r l home pa n) : (s.homeSaw r l home pa n).MemOk := by
  unfold State.homeSaw
  grind -ring [memOk_taking, State.memOk_setReq, State.memOk_acquireAt]

theorem State.memOk_doPoison (h : s.MemOk) (r i a va) : (s.doPoison r i a va).MemOk := by
  unfold State.doPoison
  grind -ring [State.memOk_setReq, memOk_reportGang]

theorem State.memOk_ringTake (h : s.MemOk) (foot asid va pa) : (s.ringTake foot asid va pa).2.MemOk := by
  unfold State.ringTake
  grind -ring [State.memOk_walkOut, State.memOk_touchLine, State.memOk_readOut]

theorem State.memOk_ringPut (h : s.MemOk) (foot asid va pa b) : (s.ringPut foot asid va pa b).MemOk := by
  unfold State.ringPut
  grind -ring [State.memOk_walkOut, State.memOk_writeAll]

theorem State.memOk_doDeque (h : s.MemOk) (r i a op home) : (s.doDeque r i a op home).MemOk := by
  unfold State.doDeque
  grind -ring [State.memOk_homeSaw, State.memOk_l1Drop, State.memOk_perform, State.memOk_goOut, State.memOk_readOut,
    State.memOk_doPoison, State.memOk_setReq, State.memOk_reportGang, State.memOk_ringPut, State.memOk_doWrite,
    State.memOk_ringTake]

theorem State.memOk_doFence (h : s.MemOk) (r i a rel acq sc) : (s.doFence r i a rel acq sc).MemOk := by
  unfold State.doFence
  grind -ring [State.memOk_perform, State.memOk_endEpoch, State.memOk_taking, State.memOk_setReq, foldl_memOk,
    State.memOk_acquire, State.memOk_raise]

theorem State.memOk_reach (h : s.MemOk) (r k) : (s.reach r k).MemOk := h.of_foots rfl

theorem State.memOk_doDown (h : s.MemOk) (r i a port) : (s.doDown r i a port).MemOk := by
  unfold State.doDown
  grind -ring [State.memOk_perform, State.memOk_discard, State.memOk_foots, State.memOk_setReq, State.memOk_reportGang]

theorem State.memOk_doAccess (h : s.MemOk) (r i a) : (s.doAccess r i a).MemOk := by
  unfold State.doAccess
  grind -ring [State.memOk_foots, State.memOk_doPoison, State.memOk_doLoad, memOk_doWrite, State.memOk_lateL1,
    State.memOk_perform, State.memOk_setReq, State.memOk_l1Drop, State.memOk_homeSaw, State.memOk_doDeque, memOk_doFence,
    State.memOk_readOut, State.memOk_fillLine]

theorem State.memOk_endFor (h : s.MemOk) (r) : (s.endFor r).MemOk := by
  unfold State.endFor
  grind -ring [memOk_endEpoch, State.memOk_setReq]

theorem State.memOk_atSlice (h : s.MemOk) (r i a new) : (s.atSlice r i a new).MemOk := by
  unfold State.atSlice
  grind -ring [Out.MemOk, memOk_doDown, State.memOk_tidy, State.memOk_doAccess, State.memOk_doPoison, State.memOk_miss]

theorem State.memOk_sliceStep (h : s.MemOk) (r i a) : (s.sliceStep r i a).MemOk := by
  unfold State.sliceStep
  grind -ring [Out.MemOk, State.memOk_doAccess, State.memOk_tidy, State.memOk_endFor, State.memOk_reach, State.memOk_atSlice]

theorem memOk_execSliceAccess (h : s.MemOk) (req entry) : (execSliceAccess req entry s).MemOk := by
  unfold execSliceAccess
  grind -ring [Out.MemOk, State.memOk_sliceStep]

theorem memOk_execLateValueArrival (h : s.MemOk) (req) : (execLateValueArrival req s).MemOk := by
  unfold execLateValueArrival
  grind -ring [Out.MemOk, State.memOk_setReq, State.memOk_tidy, State.memOk_forGang, State.memOk_foots]

/-! ### Engines -/

theorem State.memOk_engPages (h : s.MemOk) (core asid va n need) : (s.engPages core asid va n need).MemOk := by
  have translated {t : State} (h : t.MemOk) {p a v : Nat} {y} := State.memOk_translate (y := y) h (groupOf core) p a v need
  unfold State.engPages
  grind -ring [EngRes.MemOk]

theorem State.memOk_engPass (h : s.MemOk) (gid core pa n) : (s.engPass gid core pa n).MemOk := h.of_foots rfl

theorem State.memOk_engRead (h : s.MemOk) (gid core asid va n deps) : (s.engRead gid core asid va n deps).MemOk := by
  unfold State.engRead
  grind -ring [EngRes.MemOk, memOk_engPages, foldl_memOk, State.memOk_engPass, State.memOk_touchLine, memOk_readOut]

theorem State.memOk_homeWrite (h : s.MemOk) (o pa bs msg) : (s.homeWrite o pa bs msg).MemOk := by
  unfold State.homeWrite
  grind -ring [State.memOk_raise, State.memOk_engPass, State.memOk_putWrite_msg, State.memOk_touchLine]

theorem State.memOk_putLines (h : s.MemOk) (o va f bs) : (s.putLines o va f bs).MemOk := by
  unfold State.putLines
  grind -ring [foldl_memOk, State.memOk_homeWrite]

theorem State.memOk_engWrite (h : s.MemOk) (o asid va bs deps) : (s.engWrite o asid va bs deps).MemOk := by
  unfold State.engWrite
  grind -ring [EngRes.MemOk, memOk_engPages, State.memOk_putLines]

theorem State.memOk_holdEngine (h : s.MemOk) (eng gid core asid cause va) : (s.holdEngine eng gid core asid cause va).MemOk := by
  unfold State.holdEngine
  grind -ring [State.memOk_foots, State.memOk_report, State.memOk_fresh]

theorem State.memOk_dropEngine (h : s.MemOk) (e) : (s.dropEngine e).MemOk := h.of_foots rfl

theorem State.memOk_engineFault (h : s.MemOk) (gid core asid cause tval) : (s.engineFault gid core asid cause tval).MemOk := by
  unfold State.engineFault
  grind -ring [State.memOk_report, State.memOk_setGang]

theorem State.memOk_engineError (h : s.MemOk) (gid cause word) : (s.engineError gid cause word).MemOk := by
  unfold State.engineError
  grind -ring [Out.MemOk, memOk_holdGang]

/-! ### Copies -/

theorem State.memOk_setWmark (h : s.MemOk) (k i f) : (s.setWmark k i f).MemOk := by
  unfold State.setWmark
  grind -ring [State.memOk_setBrick]

theorem memOk_execWmarkRel (h : s.MemOk) (g w) : (execWmarkRel g w s).MemOk := by
  unfold execWmarkRel
  grind -ring [State.memOk_once, State.memOk_trapEm, State.memOk_stall, State.memOk_setWmark, State.memOk_done]

theorem memOk_execWmarkWaitg (h : s.MemOk) (g w a) : (execWmarkWaitg g w a s).MemOk := by
  unfold execWmarkWaitg
  grind -ring [State.memOk_once, State.memOk_done, State.memOk_stall]

theorem memOk_execWmarkGet (h : s.MemOk) (g w) : (execWmarkGet g w s).MemOk := by
  unfold execWmarkGet
  grind -ring [State.memOk_perLane, State.memOk_done]

theorem memOk_execWmarkGen (h : s.MemOk) (g w) : (execWmarkGen g w s).MemOk := by
  unfold execWmarkGen
  grind -ring [State.memOk_perLane, State.memOk_done]

theorem State.memOk_tidyCopies (h : s.MemOk) : s.tidyCopies.MemOk := h.of_foots rfl

theorem State.memOk_endCopy (h : s.MemOk) (c) : (s.endCopy c).MemOk := by
  unfold State.endCopy
  grind -ring [State.memOk_foots, State.memOk_tidyCopies, State.memOk_complete]

theorem State.memOk_completeCopy (h : s.MemOk) (c) : (s.completeCopy c).MemOk := by
  unfold State.completeCopy
  grind -ring [State.memOk_setWmark, State.memOk_endCopy]

theorem State.memOk_landEmpty (h : s.MemOk) (c n) : (s.landEmpty c n).1.MemOk := by
  induction n generalizing s c with
  | zero => exact h
  | succ n ih =>
    unfold State.landEmpty
    grind -ring [State.memOk_setWmark, State.memOk_endCopy]

theorem State.memOk_startCopy (h : s.MemOk) (g b tok w sp av base x loop grp) :
    (s.startCopy g b tok w sp av base x loop grp).MemOk := by
  unfold State.startCopy
  grind -ring [State.memOk_foots, State.memOk_completeCopy, State.memOk_setWmark, State.memOk_newId, State.memOk_landEmpty]

theorem State.memOk_copyOp (h : s.MemOk) (gd tok w sp dims a b base loop grp) :
    (s.copyOp gd tok w sp dims a b base loop grp).MemOk := by
  unfold State.copyOp
  grind -ring [memOk_once, State.memOk_done, Out.MemOk, State.memOk_holdGang, State.memOk_trapEm, State.memOk_stall,
    State.memOk_setGang, State.memOk_startCopy]

theorem State.memOk_landBytes (h : s.MemOk) (k id off bs) : (s.landBytes k id off bs).MemOk := by
  unfold State.landBytes
  grind -ring [foldl_memOk, State.memOk_spadWrite]

theorem State.memOk_copySource (h : s.MemOk) (c o n) : (s.copySource c o n).MemOk := by
  unfold State.copySource
  split
  · exact State.memOk_engRead h ..
  · grind -ring [EngRes.MemOk]
  · refine List.foldlRecOn _ _ (motive := EngRes.MemOk) h fun acc h i _ => ?_
    grind -ring [EngRes.MemOk, State.memOk_engRead]

theorem State.memOk_setCopy (h : s.MemOk) (c) : (s.setCopy c).MemOk := h.of_foots rfl

theorem State.memOk_afterPiece (h : s.MemOk) (c n) : (s.afterPiece c n).MemOk := by
  unfold State.afterPiece
  grind -ring [State.memOk_setCopy, memOk_setWmark, State.memOk_completeCopy, State.memOk_endCopy]

theorem State.memOk_freezeCopy (h : s.MemOk) (c cause va) : (s.freezeCopy c cause va).MemOk := by
  unfold State.freezeCopy
  grind -ring [State.memOk_setCopy, memOk_setWmark, State.memOk_holdEngine]

theorem State.memOk_pieceBytes (h : s.MemOk) (c o n) : (s.pieceBytes c o n).MemOk := by
  unfold State.pieceBytes
  grind -ring [EngRes.MemOk, State.memOk_copySource, State.memOk_foots]

theorem State.memOk_settleW (h : s.MemOk) (c failed) : (s.settleW c failed).MemOk := by
  unfold State.settleW
  grind -ring [State.memOk_setWmark, State.memOk_setBrick]

theorem State.memOk_resumeCopy (h : s.MemOk) (e) : (s.resumeCopy e).MemOk := by
  unfold State.resumeCopy
  grind -ring [foldl_memOk, State.memOk_setCopy, State.memOk_settleW]

theorem State.memOk_failCopy (h : s.MemOk) (e) : (s.failCopy e).MemOk := by
  unfold State.failCopy
  grind -ring [foldl_memOk, State.memOk_engineFault, State.memOk_endCopy, State.memOk_settleW, State.memOk_foots]

theorem State.memOk_setMcGroup (h : s.MemOk) (foot grp x) : (s.setMcGroup foot grp x).MemOk := State.memOk_setFoot h _ (h.foot _)

theorem State.memOk_grant (h : s.MemOk) (copies late) : (s.grant copies late).MemOk := by
  unfold State.grant
  grind -ring [foldl_memOk, State.memOk_newId, State.memOk_foots, State.memOk_setWmark, State.memOk_setCopy]

theorem State.memOk_tested (h : s.MemOk) (h') : (s.tested h').MemOk := h.of_foots rfl

theorem State.memOk_checkHolds (h : s.MemOk) (foot grp) : (s.checkHolds foot grp).MemOk := by
  unfold State.checkHolds
  grind -ring [State.memOk_foots, foldl_memOk, State.memOk_grant, State.memOk_tested]

theorem State.memOk_mcJoin {t : State} (h : s.MemOk) (k foot grp t' asid) (ht : s.mcJoin k foot grp t' asid = some t) :
    t.MemOk := by
  unfold State.mcJoin at ht
  grind -ring [State.memOk_setMcGroup]

theorem State.memOk_mcLeave (h : s.MemOk) (k foot grp) : (s.mcLeave k foot grp).MemOk := by
  unfold State.mcLeave
  grind -ring [memOk_setMcGroup, State.memOk_checkHolds]

theorem State.memOk_setEnrolled (h : s.MemOk) (k f) : (s.setEnrolled k f).MemOk := by
  unfold State.setEnrolled
  grind -ring [State.memOk_setBrick]

theorem memOk_execMcJoin (h : s.MemOk) (g tok a b) : (execMcJoin g tok a b s).MemOk := by
  unfold execMcJoin
  grind -ring [State.memOk_once, State.memOk_done, State.memOk_trapEm, State.memOk_stall, State.memOk_setEnrolled,
    State.memOk_mcJoin]

theorem memOk_execMcLeave (h : s.MemOk) (g tok a) : (execMcLeave g tok a s).MemOk := by
  unfold execMcLeave
  grind -ring [State.memOk_once, State.memOk_done, State.memOk_trapEm, State.memOk_stall, State.memOk_mcLeave,
    State.memOk_setEnrolled]

theorem State.memOk_holdFree (h : s.MemOk) (r foot slice) : (s.holdFree r foot slice).MemOk := by
  unfold State.holdFree
  grind -ring [State.memOk_foots, State.memOk_checkHolds]

theorem State.memOk_atHold {t : State} (h : s.MemOk) (r foot slice) (ht : s.atHold r foot slice = some t) : t.MemOk := by
  unfold State.atHold at ht
  grind -ring [State.memOk_foots, State.memOk_holdFree, State.memOk_grant, State.memOk_checkHolds]

theorem memOk_execMcRequest (h : s.MemOk) (req) : (execMcRequest req s).MemOk := by
  unfold execMcRequest
  grind -ring [Out.MemOk, State.memOk_engPages, EngRes.MemOk, State.memOk_foots, State.memOk_atHold, State.memOk_freezeCopy]

theorem memOk_execMcHoldExpiry (h : s.MemOk) (footing slice grp) : (execMcHoldExpiry footing slice grp s).MemOk := by
  unfold execMcHoldExpiry
  grind -ring [Out.MemOk, State.memOk_grant, State.memOk_tested, State.memOk_foots]

/-! ### Index -/

theorem State.memOk_setIdx (h : s.MemOk) (c) : (s.setIdx c).MemOk := h.of_foots rfl

theorem State.memOk_endIdx (h : s.MemOk) (c) : (s.endIdx c).MemOk := by
  unfold State.endIdx
  grind -ring [State.memOk_setIdx, State.memOk_tidyCopies, State.memOk_complete, State.memOk_setWmark, State.memOk_spadWrite]

theorem State.memOk_idxOp (h : s.MemOk) (gd gather add t tok w a b base sh m) :
    (s.idxOp gd gather add t tok w a b base sh m).MemOk := by
  unfold State.idxOp
  grind -ring [State.memOk_once, State.memOk_done, State.memOk_trapEm, State.memOk_stall, State.memOk_foots, State.memOk_endIdx,
    State.memOk_newId, State.memOk_setGang, State.memOk_setWmark]

theorem State.memOk_engSpad (h : s.MemOk) (gid id k off n) : (s.engSpad gid id k off n).MemOk := by
  unfold State.engSpad
  grind -ring [EngRes.MemOk]

theorem State.memOk_readList (h : s.MemOk) (c) : (s.readList c).MemOk := by
  unfold State.readList
  grind -ring [EngRes.MemOk, memOk_engSpad]

theorem State.memOk_reportElement (h : s.MemOk) (c cause va) : (s.reportElement c cause va).MemOk := by
  unfold State.reportElement
  grind -ring [State.memOk_report, State.memOk_fresh]

theorem State.memOk_landGather (h : s.MemOk) (c fuel) : (s.landGather c fuel).MemOk := by
  induction fuel generalizing s c with
  | zero => exact State.memOk_setIdx h _
  | succ fuel ih =>
    unfold State.landGather
    grind -ring [foldl_memOk, State.memOk_setIdx, State.memOk_endIdx, State.memOk_landBytes, State.memOk_setWmark]

theorem State.memOk_endScatter (h : s.MemOk) (c) : (s.endScatter c).MemOk := by
  unfold State.endScatter
  grind -ring [State.memOk_setIdx, State.memOk_endIdx]

theorem State.memOk_idxGo (h : s.MemOk) (c) : (s.idxGo c).MemOk := by
  unfold State.idxGo
  grind -ring [State.memOk_setIdx, State.memOk_landGather, State.memOk_endScatter]

theorem State.memOk_idxStart (h : s.MemOk) (c) : (s.idxStart c).MemOk := by
  unfold State.idxStart
  grind -ring [Out.MemOk, State.memOk_readList, EngRes.MemOk, State.memOk_idxGo, State.memOk_engineError]

theorem memOk_execGatherElementReturn (h : s.MemOk) (op elem) : (execGatherElementReturn op elem s).MemOk := by
  unfold execGatherElementReturn
  grind -ring [Out.MemOk, State.memOk_idxStart, State.memOk_engRead, State.memOk_engineError, State.memOk_reportElement,
    State.memOk_idxGo, EngRes.MemOk]

theorem State.memOk_addElem (h : s.MemOk) (c e v) : (s.addElem c e v).MemOk := by
  unfold State.addElem
  grind -ring [EngRes.MemOk, memOk_engPages, State.memOk_homeWrite]

theorem State.memOk_dropElem (h : s.MemOk) (c e) : (s.dropElem c e).MemOk := by
  unfold State.dropElem
  grind -ring [State.memOk_engPages, EngRes.MemOk, State.memOk_l1Drop]

theorem memOk_execScatterElementAck (h : s.MemOk) (op elem) : (execScatterElementAck op elem s).MemOk := by
  unfold execScatterElementAck
  split
  · trivial
  next c _ =>
    have v := State.memOk_engSpad h c.gid c.id c.brick (c.base + elem * c.t.bytes) c.t.bytes
    grind -ring [Out.MemOk, EngRes.MemOk, State.memOk_idxStart, State.memOk_engineError, State.memOk_addElem,
      State.memOk_engWrite, State.memOk_reportElement, State.memOk_idxGo, State.memOk_dropElem]

/-! ### Quant -/

theorem memOk_execQuant (h : s.MemOk) (g f tok a src) : (execQuant g f tok a src s).MemOk := by
  unfold execQuant
  grind -ring [State.memOk_once, State.memOk_done, State.memOk_trapEm, Out.MemOk, State.memOk_holdGang, State.memOk_stall,
    State.memOk_setGroup, State.memOk_newId]

theorem State.memOk_spaceRead (h : s.MemOk) (gid id core asid k a n deps) : (s.spaceRead gid id core asid k a n deps).MemOk := by
  unfold State.spaceRead
  grind -ring [EngRes.MemOk, State.memOk_engSpad, State.memOk_engRead]

theorem State.memOk_spaceCheck (h : s.MemOk) (gid core asid a n) : (s.spaceCheck gid core asid a n).MemOk := by
  unfold State.spaceCheck
  grind -ring [EngRes.MemOk, State.memOk_engPages]

theorem State.memOk_spaceWrite (h : s.MemOk) (o asid k a bs) : (s.spaceWrite o asid k a bs).MemOk := by
  unfold State.spaceWrite
  grind -ring [State.memOk_spadWrite, State.memOk_engPages, EngRes.MemOk, State.memOk_putLines]

theorem State.memOk_setQuant (h : s.MemOk) (grp q) : (s.setQuant grp q).MemOk := h.of_foots rfl

theorem State.memOk_endQuant (h : s.MemOk) (grp q) : (s.endQuant grp q).MemOk := by
  unfold State.endQuant
  grind -ring [State.memOk_setGroup, State.memOk_complete]

theorem State.memOk_freezeQuant (h : s.MemOk) (grp q cause va) : (s.freezeQuant grp q cause va).MemOk := by
  unfold State.freezeQuant
  grind -ring [State.memOk_setQuant, State.memOk_holdEngine]

theorem State.memOk_quantStep (h : s.MemOk) (grp q d) : (s.quantStep grp q d).MemOk := by
  unfold State.quantStep
  grind -ring [Out.MemOk, State.memOk_spaceRead, State.memOk_freezeQuant, State.memOk_engineError, EngRes.MemOk, memOk_endQuant,
    State.memOk_spaceWrite, State.memOk_setQuant]

theorem memOk_execQuantBlockDone (h : s.MemOk) (group) : (execQuantBlockDone group s).MemOk := by
  unfold execQuantBlockDone
  grind -ring [Out.MemOk, State.memOk_quantStep]

theorem State.memOk_resumeQuant (h : s.MemOk) (grp) : (s.resumeQuant grp).MemOk := h.of_foots rfl

theorem State.memOk_failQuant (h : s.MemOk) (grp) : (s.failQuant grp).MemOk := by
  unfold State.failQuant
  grind -ring [State.memOk_endQuant, State.memOk_engineFault]

/-! ### Matrix -/

theorem State.memOk_readCells (h : s.MemOk) (k t lo n) : (s.readCells k t lo n).MemOk := by
  unfold State.readCells
  grind -ring [EngRes.MemOk]

theorem State.memOk_writeCells (h : s.MemOk) (k t lo vs) : (s.writeCells k t lo vs).MemOk := by
  unfold State.writeCells
  grind -ring [State.memOk_foots, State.memOk_setBrick]

theorem State.memOk_setMq (h : s.MemOk) (core q last) : (s.setMq core q last).MemOk := h.of_foots rfl

theorem State.memOk_enterMq (h : s.MemOk) (core e) : (s.enterMq core e).MemOk := h.of_foots rfl

theorem State.memOk_matSend (h : s.MemOk) (g core e) : (s.matSend g core e).MemOk := by
  unfold State.matSend
  grind -ring [State.memOk_foots, State.memOk_enterMq]

theorem State.memOk_matIssue (h : s.MemOk) (gd os tok i a c ops) : (s.matIssue gd os tok i a c ops).MemOk := by
  unfold State.matIssue
  grind -ring [State.memOk_once, State.memOk_done, State.memOk_trapEm, State.memOk_stall, State.memOk_matSend, State.memOk_newId]

theorem State.memOk_matPlain (h : s.MemOk) (gd tok i) : (s.matPlain gd tok i).MemOk := State.memOk_matIssue h ..

theorem memOk_execAccGet (h : s.MemOk) (g t c a) : (execAccGet g t c a s).MemOk := by
  unfold execAccGet
  grind -ring [State.memOk_perLane, State.memOk_done, State.memOk_stall, State.memOk_matSend, State.memOk_newId,
    State.memOk_foots]

theorem State.memOk_accPut (h : s.MemOk) (gd i a b) : (s.accPut gd i a b).MemOk := State.memOk_matIssue h ..

theorem memOk_execMatrixRemoteArrival (h : s.MemOk) (core) : (execMatrixRemoteArrival core s).MemOk := by
  unfold execMatrixRemoteArrival
  grind -ring [State.memOk_foots, Out.MemOk, State.memOk_enterMq]

theorem State.memOk_lineRead (h : s.MemOk) (gid core asid pa n) : (s.lineRead gid core asid pa n).2.MemOk := by
  unfold State.lineRead
  grind -ring [State.memOk_fillLine]

theorem State.memOk_matGlobal (h : s.MemOk) (gid core asid va n deps) : (s.matGlobal gid core asid va n deps).MemOk := by
  unfold State.matGlobal
  split
  · exact h
  · split
    · trivial
    · split
      · trivial
      · trivial
      · trivial
      next f t hp =>
        have ht := (State.memOk_engPages h _ _ _ _ _).of_ok hp
        split
        · trivial
        · split
          · trivial
          · split
            · trivial
            · exact List.foldlRecOn _ _ (motive := fun x : List Byte × State => x.2.MemOk) ht fun x h _ _ =>
                State.memOk_lineRead h _ _ _ _ _

theorem State.memOk_matRead (h : s.MemOk) (core e spad va n) : (s.matRead core e spad va n).MemOk := by
  unfold State.matRead
  grind -ring [EngRes.MemOk, State.memOk_engSpad, State.memOk_matGlobal]

theorem memOk_readAll {α β : Type} (h : s.MemOk) {rd : State → α → EngRes β} (hrd : ∀ t y, t.MemOk → (rd t y).MemOk) (l) :
    (readAll rd l s).MemOk := by
  induction l generalizing s with
  | nil => exact h
  | cons x r ih =>
    unfold readAll
    grind -ring [EngRes.MemOk]

theorem EngRes.memOk_then {α : Type} {β : Type} {r : EngRes α} {k : α → State → EngRes β} (hr : r.MemOk) (hk : ∀ x t, t.MemOk → (k
    x t).MemOk) :
    (EngRes.then r k).MemOk := by
  unfold EngRes.then
  grind -ring [EngRes.MemOk]

theorem State.memOk_matWrite (h : s.MemOk) (core e spad va bs) : (s.matWrite core e spad va bs).MemOk := by
  unfold State.matWrite
  grind -ring [State.memOk_spadWrite, State.memOk_spaceWrite]

theorem State.memOk_productStep (h : s.MemOk) (core e p) : (s.productStep core e p).MemOk := by
  unfold State.productStep
  grind -ring [memOk_readAll, EngRes.memOk_then, memOk_matRead, EngRes.MemOk, State.memOk_readCells, memOk_writeCells]

theorem State.memOk_tileStep (h : s.MemOk) (e src f useOld) : (s.tileStep e src f useOld).MemOk := by
  unfold State.tileStep
  grind -ring [State.memOk_readCells, EngRes.memOk_then, EngRes.MemOk, State.memOk_writeCells]

theorem State.memOk_withScales (h : s.MemOk) (core e asp bsp) : (s.withScales core e asp bsp).MemOk := by
  unfold State.withScales
  grind -ring [EngRes.MemOk, State.memOk_matRead, EngRes.memOk_then]

theorem State.memOk_putStep (h : s.MemOk) (e f reads) : (s.putStep e f reads).MemOk := by
  unfold State.putStep
  grind -ring [memOk_readAll, EngRes.memOk_then, State.memOk_readCells, EngRes.MemOk, foldl_memOk, State.memOk_writeCells]

theorem State.memOk_getStep (h : s.MemOk) (e) : (s.getStep e).MemOk := by
  unfold State.getStep
  grind -ring [memOk_readAll, EngRes.memOk_then, State.memOk_readCells, State.memOk_foots, EngRes.MemOk]

theorem State.memOk_ldStep (h : s.MemOk) (core e t stride asp) : (s.ldStep core e t stride asp).MemOk := by
  unfold State.ldStep
  grind -ring [memOk_readAll, EngRes.memOk_then, State.memOk_matRead, EngRes.MemOk, State.memOk_writeCells]

theorem State.memOk_stStep (h : s.MemOk) (core e t stride asp) : (s.stStep core e t stride asp).MemOk := by
  unfold State.stStep
  grind -ring [EngRes.MemOk, memOk_readAll, EngRes.memOk_then, State.memOk_spaceCheck, memOk_readCells, foldl_memOk,
    State.memOk_matWrite]

theorem State.memOk_matStep (h : s.MemOk) (core e) : (s.matStep core e).MemOk := by
  unfold State.matStep
  grind -ring [State.memOk_productStep, EngRes.MemOk, State.memOk_writeCells, State.memOk_tileStep, State.memOk_withScales,
    EngRes.memOk_then, memOk_ldStep, memOk_stStep, State.memOk_getStep, State.memOk_putStep]

theorem State.memOk_endMat (h : s.MemOk) (core e) : (s.endMat core e).MemOk := by
  unfold State.endMat
  grind -ring [State.memOk_setMq, State.memOk_complete]

theorem memOk_execMatrixStepComplete (h : s.MemOk) (core) : (execMatrixStepComplete core s).MemOk := by
  unfold execMatrixStepComplete
  grind -ring [Out.MemOk, State.memOk_matStep, State.memOk_holdEngine, State.memOk_setMq, State.memOk_engineError, EngRes.MemOk,
    State.memOk_endMat]

theorem State.memOk_resumeMatrix (h : s.MemOk) (core) : (s.resumeMatrix core).MemOk := by
  unfold State.resumeMatrix
  grind -ring [State.memOk_setMq]

theorem State.memOk_failMatrix (h : s.MemOk) (core) : (s.failMatrix core).MemOk := by
  unfold State.failMatrix
  grind -ring [State.memOk_endMat, memOk_engineFault]

/-! ### Units -/

theorem State.memOk_unitPage (h : s.MemOk) (foot asid va need) : (s.unitPage foot asid va need).MemOk := by
  unfold State.unitPage
  grind -ring [EngRes.MemOk, State.memOk_walkOut]

theorem State.memOk_unitRead (h : s.MemOk) (foot asid va n) : (s.unitRead foot asid va n).MemOk := by
  unfold State.unitRead
  grind -ring [EngRes.MemOk, State.memOk_unitPage, State.memOk_touch, State.memOk_readOut]

theorem State.memOk_unitWrite (h : s.MemOk) (foot pa bs) : (s.unitWrite foot pa bs).MemOk := by
  unfold State.unitWrite
  grind -ring [State.memOk_putWrite_msg, State.memOk_touch]

theorem State.memOk_raiseAll (h : s.MemOk) (foot seen) : (s.raiseAll foot seen).MemOk := by
  unfold State.raiseAll
  grind -ring [foldl_memOk, State.memOk_raise]

theorem State.memOk_holdUnit (h : s.MemOk) (foot asid seat work cause va) : (s.holdUnit foot asid seat work cause va).MemOk := by
  unfold State.holdUnit
  grind -ring [Out.MemOk, State.memOk_report, State.memOk_foots]

theorem State.memOk_unhold (h : s.MemOk) (work) : (s.unhold work).MemOk := h.of_foots rfl

/-! ### Launch -/

theorem memOk_execLrecNew (h : s.MemOk) (g a b) : (execLrecNew g a b s).MemOk := by
  unfold execLrecNew
  grind -ring [State.memOk_once, State.memOk_done]

theorem State.memOk_lrec (h : s.MemOk) (gd os f) : (s.lrec gd os f).MemOk := by
  unfold State.lrec
  grind -ring [State.memOk_once, State.memOk_trapEm, State.memOk_done]

theorem memOk_execLaunch (h : s.MemOk) (g tok) : (execLaunch g tok s).MemOk := by
  unfold execLaunch
  grind -ring [State.memOk_once, State.memOk_trapEm, State.memOk_done, State.memOk_stall, State.memOk_setBrick, State.memOk_late,
    State.memOk_newId, State.memOk_foots]

theorem State.memOk_serveRing (h : s.MemOk) (w a) : (s.serveRing w a).MemOk := by
  unfold State.serveRing
  grind -ring [State.memOk_foots]

theorem State.memOk_ringAtTaking (h : s.MemOk) (w) : (s.ringAtTaking w).MemOk := by
  unfold State.ringAtTaking
  grind -ring [memOk_unitRead, EngRes.MemOk, memOk_serveRing]

theorem State.memOk_addWall (h : s.MemOk) (asid foot slot src p seen args) :
    (s.addWall asid foot slot src p seen args).MemOk := by
  unfold State.addWall
  grind -ring [State.memOk_ringAtTaking, State.memOk_newId, State.memOk_foots]

theorem State.memOk_tryMark {t : State} (h : s.MemOk) (foot m) (ht : s.tryMark foot m = some t) : t.MemOk := by
  unfold State.tryMark at ht
  grind -ring [State.memOk_unitRead, EngRes.MemOk, State.memOk_unitPage, State.memOk_unitWrite]

theorem State.memOk_oweMark (h : s.MemOk) (foot m) : (s.oweMark foot m).MemOk := State.memOk_setFoot h _ (h.foot _)

theorem State.memOk_markDesc (h : s.MemOk) (foot m) : (s.markDesc foot m).MemOk := by
  unfold State.markDesc
  grind -ring [State.memOk_oweMark, State.memOk_tryMark, Option.getD_eq_iff]

theorem State.memOk_serveMarks (h : s.MemOk) (foot) : (s.serveMarks foot).MemOk :=
  foldl_memOk (fun _ _ h => State.memOk_markDesc h _ _) _ (State.memOk_setFoot h _ (h.foot _))

theorem State.memOk_reject (h : s.MemOk) (asid foot slot seq src cause) : (s.reject asid foot slot seq src cause).MemOk := by
  unfold State.reject
  grind -ring [State.memOk_markDesc, State.memOk_report]

theorem State.memOk_rejectWall (h : s.MemOk) (w cause) : (s.rejectWall w cause).MemOk := by
  unfold State.rejectWall
  grind -ring [State.memOk_foots, State.memOk_reject]

theorem State.memOk_dropRing (h : s.MemOk) (q empty) : (s.dropRing q empty).MemOk := by
  unfold State.dropRing
  grind -ring [State.memOk_foots]

theorem State.memOk_dropRings (h : s.MemOk) (wall) : (s.dropRings wall).MemOk := h.of_foots rfl

theorem State.memOk_takeSlot (h : s.MemOk) (q d slot x rdPa) : (s.takeSlot q d slot x rdPa).MemOk := by
  unfold State.takeSlot
  grind -ring [State.memOk_dropRing, State.memOk_reject, State.memOk_unitWrite, State.memOk_addWall]

theorem State.memOk_serve (h : s.MemOk) (q reread) : (s.serve q reread).MemOk := by
  unfold State.serve
  grind -ring [Out.MemOk, State.memOk_unitRead, State.memOk_holdUnit, EngRes.MemOk, memOk_dropRing, State.memOk_unhold,
    State.memOk_unitPage, State.memOk_takeSlot]

theorem memOk_execPacketTake (h : s.MemOk) (queue) : (execPacketTake queue s).MemOk := by
  unfold execPacketTake
  grind -ring [Out.MemOk, State.memOk_serve]

theorem memOk_execQueueReread (h : s.MemOk) (queue) : (execQueueReread queue s).MemOk := by
  unfold execQueueReread
  grind -ring [Out.MemOk, State.memOk_serve]

theorem State.memOk_readWaits (h : s.MemOk) (w l) : (s.readWaits w l).MemOk := by
  induction l generalizing s with
  | nil => exact h
  | cons x r ih =>
    unfold State.readWaits
    grind -ring [EngRes.MemOk, State.memOk_unitRead]

theorem memOk_execWallReady (h : s.MemOk) (wall) : (execWallReady wall s).MemOk := by
  unfold execWallReady
  grind -ring [Out.MemOk, State.memOk_readWaits, EngRes.MemOk, State.memOk_unhold, State.memOk_setWall, State.memOk_holdUnit]

theorem memOk_execPendingLaunchTake (h : s.MemOk) (wall brick) : (execPendingLaunchTake wall brick s).MemOk := by
  unfold execPendingLaunchTake
  grind -ring [Out.MemOk, State.memOk_addWall, State.memOk_complete, State.memOk_endEpoch, State.memOk_setFoot, State.MemOk.foot,
    State.memOk_setBrick]

theorem State.memOk_route (h : s.MemOk) (r n) : (s.route r n).MemOk := by
  unfold State.route
  grind -ring [State.memOk_foots, memOk_complete]

theorem State.memOk_claimFault (h : s.MemOk) (r cause va) : (s.claimFault r cause va).MemOk := by
  unfold State.claimFault
  grind -ring [State.memOk_report, State.memOk_route]

theorem State.memOk_writeClaim (h : s.MemOk) (r d foot home wrPa slotPa) : (s.writeClaim r d foot home wrPa slotPa).MemOk := by
  unfold State.writeClaim
  grind -ring [State.memOk_raise, memOk_putWrite_msg, State.memOk_endEpoch]

theorem memOk_execOverflowClaim (h : s.MemOk) (req) : (execOverflowClaim req s).MemOk := by
  unfold execOverflowClaim
  split
  · trivial
  next r _ =>
    have page {t : State} (h : t.MemOk) (va : Nat) := State.memOk_unitPage h (footOf r.core) (s.asidOf r.wall) va .write
    extract_lets foot asid desc
    split
    · trivial
    · split
      · exact State.memOk_claimFault h _ _ _
      next pa t hp =>
        have ht := (page h _).of_ok hp
        clear hp
        extract_lets home u d
        clear_value d
        split
        · exact State.memOk_engineError ht _ _ _
        · split
          · exact State.memOk_route ht _ _
          · split
            · exact State.memOk_claimFault ht _ _ _
            next u hu =>
              have hu := (page ht _).of_ok hu
              split
              · exact True.intro
              · split
                · exact State.memOk_route hu _ _
                · exact State.memOk_route (State.memOk_writeClaim hu _ _ _ _ _ _) _ _
            · trivial
      · trivial

/-! ### Pool -/

theorem State.memOk_freePage (h : s.MemOk) (p) : (s.freePage p).MemOk := h.of_foots rfl

theorem State.memOk_freePages (h : s.MemOk) (ps) : (s.freePages ps).MemOk := by
  unfold State.freePages
  grind -ring [foldl_memOk, State.memOk_freePage]

theorem State.memOk_takePage {y : ℕ × State} (h : s.MemOk) (n) (hy : s.takePage n = some y) : y.2.MemOk := by
  unfold State.takePage at hy
  grind -ring [State.memOk_foots]

theorem State.memOk_vaWrite (h : s.MemOk) (foot asid va bs) : (s.vaWrite foot asid va bs).MemOk := by
  unfold State.vaWrite
  grind -ring [EngRes.MemOk, State.memOk_unitPage, State.memOk_writeAll]

theorem State.memOk_vaTry {t : State} (h : s.MemOk) (foot asid va bs) (ht : s.vaTry foot asid va bs = some t) : t.MemOk := by
  unfold State.vaTry at ht
  grind -ring [State.memOk_vaWrite, EngRes.MemOk]

theorem State.memOk_zeroPage {t : State} (h : s.MemOk) (x p) (ht : s.zeroPage x p = some t) : t.MemOk := by
  unfold State.zeroPage at ht
  grind -ring [State.memOk_vaTry]

theorem State.memOk_assignPage {y : State × Stream × Option ℕ} (h : s.MemOk) (x) (hy : s.assignPage x = some y) : y.1.MemOk := by
  unfold State.assignPage at hy
  split at hy
  · cases hy; exact h
  · split at hy
    · cases hy; exact h
    · next hp =>
      obtain ⟨t, ht, rfl⟩ := Option.map_eq_some_iff.1 hy
      exact State.memOk_zeroPage (State.memOk_takePage h _ hp) _ _ ht
  · cases hy; exact h
  · cases hy; exact h

theorem State.memOk_writeToken (h : s.MemOk) (x bs dead) : (s.writeToken x bs dead).MemOk := by
  unfold State.writeToken
  cases hp : s.assignPage x with
  | none => trivial
  | some y =>
    obtain ⟨t, x, p⟩ := y
    have ht : t.MemOk := State.memOk_assignPage h _ hp
    grind -ring [EngRes.MemOk, State.memOk_setStream, State.memOk_vaWrite]

theorem State.memOk_retireStream {t : State} (h : s.MemOk) (x) (ht : s.retireStream x = some t) : t.MemOk := by
  unfold State.retireStream at ht
  obtain ⟨u, hu, rfl⟩ := Option.map_eq_some_iff.1 ht
  have written : ∀ t, some u = some t → t.MemOk := by
    rw [← hu]
    refine List.foldlRecOn _ _ (motive := fun o : Option State => ∀ t, o = some t → t.MemOk) ?_ fun o ho p _ t e => ?_
    · rintro t ⟨⟩; exact State.memOk_freePages h _
    · obtain ⟨v, hv, e⟩ := Option.bind_eq_some_iff.1 e
      exact State.memOk_vaTry (ho v hv) _ _ _ _ e
  exact (written u rfl).of_foots rfl

theorem State.memOk_tickDone (h : s.MemOk) (v) : (s.tickDone v).MemOk := h.of_foots rfl

theorem State.memOk_admission {t : State} (h : s.MemOk) (num) (ht : s.admission num = some t) : t.MemOk := by
  unfold State.admission at ht
  grind -ring [State.memOk_tickDone, State.memOk_unitRead, EngRes.MemOk, State.memOk_foots]

theorem State.memOk_retiring (h : s.MemOk) (x) : (s.retiring x).MemOk := h.of_foots rfl

theorem State.memOk_retire (h : s.MemOk) (num) : (s.retire num).MemOk := by
  unfold State.retire
  grind -ring [State.memOk_tickDone, State.memOk_retiring, getD_memOk, State.memOk_retireStream]

theorem State.memOk_tickRun {t : State} (h : s.MemOk) (v) (ht : s.tickRun v = some t) : t.MemOk := by
  unfold State.tickRun at ht
  grind -ring [State.memOk_admission, State.memOk_retire]

theorem State.memOk_tickDrain (h : s.MemOk) (l) : (s.tickDrain l).MemOk := by
  induction l generalizing s with
  | nil => exact h.of_foots rfl
  | cons v r ih =>
    unfold State.tickDrain
    grind -ring [State.memOk_foots, State.memOk_tickRun]

theorem State.memOk_tickWrite (h : s.MemOk) (v) : (s.tickWrite v).MemOk := by
  unfold State.tickWrite
  grind -ring [State.memOk_foots, State.memOk_tickDrain]

theorem State.memOk_endRetire {t : State} (h : s.MemOk) (x) (ht : s.endRetire x = some t) : t.MemOk := by
  obtain ⟨u, hu, rfl⟩ := Option.map_eq_some_iff.1 ht
  exact State.memOk_tickDrain (State.memOk_retireStream h x hu) _

theorem State.memOk_serveTick (h : s.MemOk) : s.serveTick.MemOk := by
  unfold State.serveTick
  grind -ring [State.memOk_endRetire, State.memOk_tickDrain, Option.getD_eq_iff]

theorem State.memOk_stepOver (h : s.MemOk) (x) : (s.stepOver x).MemOk := by
  unfold State.stepOver
  grind -ring [State.memOk_setStream, State.memOk_endRetire, Option.getD_eq_iff]

theorem State.memOk_dropSpec (h : s.MemOk) (x) : (s.dropSpec x).1.MemOk := by
  unfold State.dropSpec
  grind -ring [State.memOk_freePages]

theorem State.memOk_stepRetired (h : s.MemOk) (n) : (s.stepRetired n).MemOk := by
  unfold State.stepRetired
  grind -ring [State.memOk_stepOver, State.memOk_dropSpec]

theorem State.memOk_stepRejected (h : s.MemOk) (n) : (s.stepRejected n).MemOk := by
  unfold State.stepRejected
  grind -ring [State.memOk_stepOver]

/-! ### Place -/

theorem State.memOk_readHeader (h : s.MemOk) (w) : (s.readHeader w).MemOk := by
  unfold State.readHeader
  dsimp only
  split
  next d t hd =>
    have ht := (State.memOk_unitRead h _ _ _ _).of_ok hd
    split
    next l u hl =>
      have hu : u.MemOk := by
        refine EngRes.MemOk.of_ok ?_ hl
        split
        · exact ht
        · refine List.foldlRecOn _ _ (motive := EngRes.MemOk) ht fun acc h i _ => ?_
          grind -ring [EngRes.MemOk, State.memOk_unitRead]
      grind -ring [EngRes.MemOk, State.memOk_unitRead]
    all_goals trivial
  all_goals trivial

theorem State.memOk_without (h : s.MemOk) (ps) : (s.without ps).MemOk := h.of_foots rfl

theorem State.memOk_noteAct (h : s.MemOk) (groups rank) : (s.noteAct groups rank).MemOk := h.of_foots rfl

theorem State.memOk_noteNoFit (h : s.MemOk) (wall num cls) : (s.noteNoFit wall num cls).MemOk := by
  unfold State.noteNoFit
  grind -ring [State.memOk_foots, Out.MemOk]

theorem State.memOk_startQueues (h : s.MemOk) (g) : (s.startQueues g).1.MemOk := h

theorem State.memOk_startBrick (h : s.MemOk) (w h' c core) : (s.startBrick w h' c core).MemOk := by
  unfold State.startBrick
  grind -ring [foldl_memOk, State.memOk_dropPlain, State.memOk_newId, State.memOk_foots, State.memOk_startQueues]

theorem State.memOk_startCourse (h : s.MemOk) (w h' num stage place) : (s.startCourse w h' num stage place).MemOk := by
  unfold State.startCourse
  grind -ring [State.memOk_foots, foldl_memOk, State.memOk_startBrick]

theorem State.memOk_afterWalk (h : s.MemOk) (x) : (s.afterWalk x).MemOk := State.memOk_setFoot h _ (h.foot _)

theorem State.memOk_startStep (h : s.MemOk) (w n) : (s.startStep w n).MemOk := by
  unfold State.startStep
  grind -ring [State.memOk_startCopy, State.memOk_setStream]

theorem State.memOk_placeAt (h : s.MemOk) (w h' num x) : (s.placeAt w h' num x).MemOk := by
  unfold State.placeAt
  grind -ring [foldl_memOk, State.memOk_setWall, State.memOk_raiseAll, memOk_afterWalk, State.memOk_foots, State.memOk_startStep,
    State.memOk_startCourse]

theorem State.memOk_rejectStep (h : s.MemOk) (w cause) : (s.rejectStep w cause).MemOk := by
  unfold State.rejectStep
  grind -ring [State.memOk_rejectWall, State.memOk_dropRings, State.memOk_stepRejected]

theorem State.memOk_setHeader (h : s.MemOk) (w h' args) : (s.setHeader w h' args).MemOk := by
  unfold State.setHeader
  grind -ring [State.memOk_setWall, State.memOk_serveRing]

theorem State.memOk_placeNext (h : s.MemOk) (w h') : (s.placeNext w h').MemOk := by
  unfold State.placeNext
  grind -ring [Out.MemOk, State.memOk_noteNoFit, State.memOk_placeAt, State.memOk_noteAct]

theorem State.memOk_firstAttempt (h : s.MemOk) (w) : (s.firstAttempt w).MemOk := by
  unfold State.firstAttempt
  grind -ring [Out.MemOk, memOk_readHeader, memOk_holdUnit, EngRes.MemOk, State.memOk_rejectStep, State.memOk_unhold,
    State.memOk_setHeader]

theorem memOk_execPlaceSet (h : s.MemOk) (wall set) : (execPlaceSet wall set s).MemOk := by
  unfold execPlaceSet
  grind -ring [Out.MemOk, State.memOk_firstAttempt, State.memOk_placeNext]

/-! ### Retire -/

theorem State.memOk_recordPage (h : s.MemOk) (b) : (s.recordPage b).MemOk := by
  unfold State.recordPage
  grind -ring [EngRes.MemOk, State.memOk_unitPage]

theorem State.memOk_tellNeighbours (h : s.MemOk) (k) : (s.tellNeighbours k).MemOk := by
  unfold State.tellNeighbours
  grind -ring [foldl_memOk, State.memOk_foots, State.memOk_setBrick]

theorem State.memOk_releaseTx (h : s.MemOk) (k) : (s.releaseTx k).MemOk := h.of_foots rfl

theorem State.memOk_dropSpaceLines (h : s.MemOk) (core asid) : (s.dropSpaceLines core asid).MemOk := by
  unfold State.dropSpaceLines
  grind -ring [State.memOk_foots]

theorem State.memOk_retireOne (h : s.MemOk) (b pa) : (s.retireOne b pa).MemOk := by
  unfold State.retireOne
  grind -ring [State.memOk_dropSpaceLines, State.memOk_unhold, State.memOk_setBrick, State.memOk_tellNeighbours,
    State.memOk_releaseTx, memOk_endEpoch, State.memOk_foots, State.memOk_putWrite_msg, State.memOk_setWall]

theorem State.memOk_endCourse (h : s.MemOk) (k) : (s.endCourse k).MemOk := by
  unfold State.endCourse
  grind -ring [State.memOk_foots, foldl_memOk, memOk_mcLeave]

theorem State.memOk_endSet (h : s.MemOk) (wall num) : (s.endSet wall num).MemOk := by
  unfold State.endSet
  grind -ring [State.memOk_foots, State.memOk_unhold]

theorem State.memOk_dropWall (h : s.MemOk) (id) : (s.dropWall id).MemOk := h.of_foots rfl

theorem State.memOk_increment (h : s.MemOk) (w) : (s.increment w).MemOk := by
  unfold State.increment
  grind -ring [EngRes.MemOk, memOk_unitPage, State.memOk_raiseAll, State.memOk_putWrite_msg]

theorem State.memOk_queueWork (h : s.MemOk) (asid work va) : (s.queueWork asid work va).MemOk := by
  unfold State.queueWork
  grind -ring [State.memOk_foots]

theorem State.memOk_endWall (h : s.MemOk) (w) : (s.endWall w).MemOk := by
  unfold State.endWall
  grind -ring [State.memOk_increment, State.memOk_queueWork, EngRes.MemOk, Out.MemOk, State.memOk_dropWall, State.memOk_holdUnit]

theorem State.memOk_afterRetire (h : s.MemOk) (b) : (s.afterRetire b).MemOk := by
  unfold State.afterRetire
  grind -ring [State.memOk_endCourse, Out.MemOk, State.memOk_endSet, State.memOk_endWall, State.memOk_stepRetired]

theorem State.memOk_retireAll (h : s.MemOk) (b bs) : (s.retireAll b bs).MemOk := by
  unfold State.retireAll
  grind -ring [Out.MemOk, memOk_holdUnit, memOk_readAll, EngRes.MemOk, foldl_memOk, State.memOk_afterRetire,
    State.memOk_recordPage, memOk_retireOne]

theorem memOk_execBrickRetire (h : s.MemOk) (wall brick) : (execBrickRetire wall brick s).MemOk := by
  unfold execBrickRetire
  grind -ring [Out.MemOk, State.memOk_noteAct, State.memOk_retireAll]

/-! ### Riddle -/

theorem State.memOk_tagsOf (h : s.MemOk) (g key regs) : (s.tagsOf g key regs).2.MemOk := by
  refine List.foldlRecOn _ _ (motive := fun x : List Tag × State => x.2.MemOk) h fun x h _ _ => ?_
  grind -ring [State.memOk_fresh]

theorem State.memOk_arriveReorder (h : s.MemOk) (g key regs i) : (s.arriveReorder g key regs i).MemOk := by
  unfold State.arriveReorder
  grind -ring [State.memOk_done, State.memOk_stall, Out.MemOk, State.memOk_setGang, State.memOk_gatherCheck,
    State.memOk_setCourse, State.memOk_tagsOf]

theorem State.memOk_reorder (h : s.MemOk) (gd key regs i count) : (s.reorder gd key regs i count).MemOk := by
  unfold State.reorder
  grind -ring [State.memOk_once, State.memOk_trapEm, State.memOk_stall, Out.MemOk, memOk_holdGang, State.memOk_arriveReorder]

theorem memOk_execRiddleStat (h : s.MemOk) (g d) : (execRiddleStat g d s).MemOk := by
  unfold execRiddleStat
  grind -ring [State.memOk_perLane, State.memOk_done]

theorem memOk_execSeatmap (h : s.MemOk) (g d) : (execSeatmap g d s).MemOk := by
  unfold execSeatmap
  grind -ring [State.memOk_perLane, State.memOk_done]

theorem State.memOk_spillPages (h : s.MemOk) (c) : (s.spillPages c).MemOk := by
  unfold State.spillPages
  grind -ring [memOk_readAll, EngRes.MemOk, State.memOk_engPages]

theorem State.memOk_spillWrites (h : s.MemOk) (c pages) : (s.spillWrites c pages).1.MemOk := by
  unfold State.spillWrites
  grind -ring [foldl_memOk, State.memOk_writeAll]

theorem State.memOk_commitCount (h : s.MemOk) (c) : (s.commitCount c).MemOk := by
  unfold State.commitCount
  grind -ring [State.memOk_foots, State.memOk_clearEpisode]

theorem State.memOk_commitSeats (h : s.MemOk) (c align) : (s.commitSeats c align).MemOk := by
  unfold State.commitSeats
  grind -ring [foldl_memOk, State.memOk_setCourse, State.memOk_foots, State.memOk_setGang, State.memOk_dropPlain]

theorem State.memOk_undoCommit (h : s.MemOk) (c) : (s.undoCommit c).MemOk := h.of_foots rfl

theorem State.memOk_riddleError (h : s.MemOk) (c cause word) : (s.riddleError c cause word).MemOk := by
  unfold State.riddleError
  grind -ring [foldl_memOk, State.memOk_undoCommit, State.memOk_rollback, State.memOk_holdGang]

theorem memOk_execReorderCommit (h : s.MemOk) (wall course) : (execReorderCommit wall course s).MemOk := by
  unfold execReorderCommit
  grind -ring [Out.MemOk, State.memOk_riddleError, State.memOk_spillPages, State.memOk_setCourse, State.memOk_holdEngine,
    EngRes.MemOk, State.memOk_commitSeats, State.memOk_spillWrites, State.memOk_commitCount]

theorem State.memOk_unspill (h : s.MemOk) (c) : (s.unspill c).MemOk := by
  unfold State.unspill
  grind -ring [foldl_memOk, State.memOk_setGang, State.memOk_touch, State.memOk_readOut]

theorem State.memOk_finishRebuild (h : s.MemOk) (c) : (s.finishRebuild c).MemOk := by
  unfold State.finishRebuild
  grind -ring [State.memOk_clearEpisode, State.memOk_unspill, State.memOk_foots]

theorem State.memOk_endRebuild (h : s.MemOk) (c) : (s.endRebuild c).MemOk := by
  unfold State.endRebuild
  grind -ring [State.memOk_riddleError, State.memOk_finishRebuild]

theorem memOk_execReorderRebuildDone (h : s.MemOk) (wall course) : (execReorderRebuildDone wall course s).MemOk := by
  unfold execReorderRebuildDone
  grind -ring [Out.MemOk, State.memOk_endRebuild]

theorem State.memOk_resumeRiddle (h : s.MemOk) (k) : (s.resumeRiddle k).MemOk := by
  unfold State.resumeRiddle
  grind -ring [State.memOk_setCourse]

theorem State.memOk_failRiddle (h : s.MemOk) (k) : (s.failRiddle k).MemOk := by
  unfold State.failRiddle
  grind -ring [foldl_memOk, State.memOk_rollback, State.memOk_engineFault]

/-! ### Halt -/

theorem State.memOk_finishEntry (h : s.MemOk) (g) : (s.finishEntry g).MemOk := by
  unfold State.finishEntry
  grind -ring [memOk_takeTrap, Out.MemOk]

theorem State.memOk_haltRiddle (h : s.MemOk) (k) : (s.haltRiddle k).MemOk := by
  unfold State.haltRiddle
  grind -ring [State.memOk_rollback, State.memOk_dropEngine, State.memOk_endRebuild]

theorem State.memOk_saveMatrix (h : s.MemOk) (mine core) : (s.saveMatrix mine core).MemOk := by
  unfold State.saveMatrix
  grind -ring [State.memOk_foots, State.memOk_setMq, State.memOk_dropEngine, State.memOk_setBrick]

theorem State.memOk_saveQuants (h : s.MemOk) (mine grp) : (s.saveQuants mine grp).MemOk := by
  unfold State.saveQuants
  grind -ring [State.memOk_foots, State.memOk_setGroup, State.memOk_dropEngine]

theorem State.memOk_saveTx (h : s.MemOk) (b) : (s.saveTx b).MemOk := h.of_foots rfl

theorem State.memOk_haltSet (h : s.MemOk) (p swap) : (s.haltSet p swap).MemOk := by
  unfold State.haltSet
  extract_lets s1 joins bs mine cs s2 cores s3 noMp s4
  have h1 : s1.MemOk := foldl_memOk (fun t g h => by
    cases t.gang? g.gid with
    | none => exact h
    | some g => exact State.memOk_finishEntry h g) _ h
  clear_value s1
  have h2 : s2.MemOk := foldl_memOk (fun _ _ h => State.memOk_haltRiddle h _) _ h1
  clear_value s2
  have h3 : s3.MemOk := State.memOk_landG h2 _
  clear_value s3
  have h4 : s4.MemOk := foldl_memOk (fun _ _ h => State.memOk_saveMatrix h _ _) _ (h3.of_foots rfl)
  clear_value s4
  split
  extract_lets s5 s6 s7 gids stop seats cut walks s8 
  have h5 : s5.MemOk := h4.of_foots rfl
  have h6 : s6.MemOk := foldl_memOk (fun _ _ h => State.memOk_saveQuants h _ _) _ h5
  clear_value s6
  have h7 : s7.MemOk := foldl_memOk (fun t b h => by
    split
    · exact State.memOk_saveTx h _
    · exact h) _ h6
  clear_value s7
  exact State.memOk_setPSet (State.memOk_endEpoch (h7.of_foots (t := s8) rfl) _) _

theorem memOk_execPreemptRequest (h : s.MemOk) (wall set) : (execPreemptRequest wall set s).MemOk := by
  unfold execPreemptRequest
  grind -ring [Out.MemOk, foldl_memOk, State.memOk_noteAct, State.memOk_haltSet]

theorem memOk_execHighDelayExpiry (h : s.MemOk) (wall set) : (execHighDelayExpiry wall set s).MemOk := by
  unfold execHighDelayExpiry
  grind -ring [State.memOk_foots, Out.MemOk]

theorem memOk_execSwapOut (h : s.MemOk) (wall set) : (execSwapOut wall set s).MemOk := by
  unfold execSwapOut
  grind -ring [Out.MemOk, State.memOk_haltSet]

theorem memOk_execSwapConditionEnd (h : s.MemOk) (wall set) : (execSwapConditionEnd wall set s).MemOk := by
  unfold execSwapConditionEnd
  grind -ring [Out.MemOk, State.memOk_setPSet]

/-! ### Waits -/

theorem State.memOk_homeAcq (h : s.MemOk) (g m pa) : (s.homeAcq g m pa).1.MemOk := by
  unfold State.homeAcq
  grind -ring [memOk_acquireAt, State.memOk_newId, State.memOk_foots]

theorem State.memOk_homeRead (h : s.MemOk) (g va) {k : State → ℕ → Word → Out} (hk : ∀ t y z, t.MemOk → (k t y z).MemOk) :
    (s.homeRead g va k).MemOk := by
  unfold State.homeRead
  grind -ring [State.memOk_askWalk, State.memOk_stall, Out.MemOk, memOk_holdGang, State.memOk_touchLine, State.memOk_readOut]

theorem memOk_execMonitor (h : s.MemOk) (g d a b) : (execMonitor g d a b s).MemOk := by
  unfold execMonitor
  grind -ring [State.memOk_once, State.memOk_homeRead, State.memOk_done, State.memOk_late, State.memOk_homeAcq, State.memOk_stall]

theorem memOk_execJoinc (h : s.MemOk) (g a b) : (execJoinc g a b s).MemOk := by
  unfold execJoinc
  grind -ring [State.memOk_once, State.memOk_trapEm, State.memOk_homeRead, State.memOk_done, State.memOk_late,
    State.memOk_homeAcq, State.memOk_stall]

theorem State.memOk_wake (h : s.MemOk) (core seat ok) : (s.wake core seat ok).MemOk := by
  unfold State.wake
  grind -ring [Out.MemOk, State.memOk_setGang]

theorem State.memOk_walkFault (h : s.MemOk) (g cause va) : (s.walkFault g cause va).MemOk := by
  unfold State.walkFault
  grind -ring [memOk_holdGang, State.memOk_reportGang, State.memOk_setGang]

theorem memOk_execTranslationWalkDone (h : s.MemOk) (walk) : (execTranslationWalkDone walk s).MemOk := by
  unfold execTranslationWalkDone
  split
  · trivial
  · dsimp only
    split
    · trivial
    · refine foldl_memOk (fun t x h => ?_) _ ?_
      · grind -ring [State.memOk_fillTlb, State.memOk_setGang, State.memOk_walkFault]
      · have rest (l : List Walk) : ({ s with walks := l } : State).MemOk := h.of_foots rfl
        split
        · exact rest _
        · exact State.memOk_walkOut (rest _) _ _ _

theorem memOk_execSplitStackTransfer (h : s.MemOk) (core seat) : (execSplitStackTransfer core seat s).MemOk := by
  unfold execSplitStackTransfer
  grind -ring [Out.MemOk, State.memOk_askWalk, State.memOk_setGang, State.memOk_writeAll, State.memOk_holdGang,
    State.memOk_afterDepart, State.memOk_touchLine, State.memOk_readOut]

theorem State.memOk_moved (_ : s.MemOk) (g) {o : Out} (ho : o.MemOk) : (s.moved g o).MemOk := by
  unfold State.moved
  grind -ring [Out.MemOk]

theorem memOk_execTrapEntry (h : s.MemOk) (core seat) : (execTrapEntry core seat s).MemOk := by
  unfold execTrapEntry
  grind -ring [Out.MemOk, State.memOk_takeTrap, State.memOk_moved]

/-! ### Context -/

theorem State.memOk_writeParts (h : s.MemOk) (foot asid l) : (s.writeParts foot asid l).MemOk := by
  induction l generalizing s with
  | nil => exact h
  | cons x r ih =>
    unfold State.writeParts
    grind -ring [EngRes.MemOk, State.memOk_unitPage, State.memOk_writeAll]

theorem State.memOk_settlePhase (h : s.MemOk) (p) : (s.settlePhase p).MemOk := by
  unfold State.settlePhase
  grind -ring [State.memOk_setPSet]

theorem memOk_execParkMoveDone (h : s.MemOk) (gang) : (execParkMoveDone gang s).MemOk := by
  unfold execParkMoveDone
  grind -ring [Out.MemOk, State.memOk_settlePhase, State.memOk_setGang, State.memOk_setBrick]

theorem State.memOk_writeContext (h : s.MemOk) (p gs) : (s.writeContext p gs).MemOk := by
  unfold State.writeContext
  grind -ring [State.memOk_writeParts, State.memOk_fresh]

theorem memOk_execContextToMemory (h : s.MemOk) (wall set) : (execContextToMemory wall set s).MemOk := by
  unfold execContextToMemory
  grind -ring [Out.MemOk, State.memOk_writeContext, State.memOk_holdUnit, EngRes.MemOk, State.memOk_foots, State.memOk_unhold,
    State.memOk_settlePhase]

theorem State.memOk_ctxRead (h : s.MemOk) (foot asid va n) : (s.ctxRead foot asid va n).MemOk := by
  unfold State.ctxRead
  grind -ring [memOk_readAll, EngRes.memOk_then, EngRes.MemOk, State.memOk_unitRead]

theorem State.memOk_strayWork (h : s.MemOk) (k) : (s.strayWork k).MemOk := h.of_foots rfl

theorem State.memOk_loadBrick (h : s.MemOk) (foot b core acct) : (s.loadBrick foot b core acct).MemOk := by
  unfold State.loadBrick
  grind -ring [State.memOk_ctxRead, EngRes.memOk_then, memOk_readAll, EngRes.MemOk, State.memOk_strayWork]

theorem State.memOk_loadGang (h : s.MemOk) (foot g brickRec) : (s.loadGang foot g brickRec).MemOk := by
  unfold State.loadGang
  refine EngRes.memOk_then (State.memOk_ctxRead h _ _ _ _) fun _ _ h =>
    EngRes.memOk_then (memOk_readAll h (fun _ _ h => ?_) _) fun _ _ h => h
  exact EngRes.memOk_then (State.memOk_ctxRead h _ _ _ _) fun _ _ h => h

theorem State.memOk_parkErrors (h : s.MemOk) (gid) : (s.parkErrors gid).MemOk := by
  unfold State.parkErrors
  grind -ring [State.memOk_foots, State.memOk_setGang, State.memOk_holdGang]

theorem State.memOk_seatGang (h : s.MemOk) (g core) : (s.seatGang g core).MemOk := by
  unfold State.seatGang
  grind -ring [State.memOk_setGang, State.memOk_parkErrors, State.memOk_setBrick]

theorem State.memOk_reenter (h : s.MemOk) (mine) : (s.reenter mine).MemOk := by
  unfold State.reenter
  grind -ring [State.memOk_foots, foldl_memOk, State.memOk_setGroup, State.memOk_enterMq]

theorem State.memOk_ownHolds (h : s.MemOk) (mine) : (s.ownHolds mine).MemOk := h.of_foots rfl

theorem State.memOk_moveOps (h : s.MemOk) (mine) : (s.moveOps mine).MemOk := h.of_foots rfl

theorem State.memOk_rebind (h : s.MemOk) (b) : (s.rebind b).MemOk := by
  unfold State.rebind
  grind -ring [foldl_memOk, State.memOk_foots, State.memOk_setBrick, State.memOk_setCore]

theorem State.memOk_rejoin (h : s.MemOk) (b old new) : (s.rejoin b old new).MemOk := by
  unfold State.rejoin
  grind -ring [foldl_memOk, State.memOk_mcLeave, memOk_mcJoin, State.memOk_setEnrolled]

theorem State.memOk_reloadLead (h : s.MemOk) (k) : (s.reloadLead k).MemOk := by
  unfold State.reloadLead
  grind -ring [foldl_memOk, State.memOk_setBrick]

theorem State.memOk_finishRestore (h : s.MemOk) (p foot gangs) : (s.finishRestore p foot gangs).MemOk := by
  unfold State.finishRestore
  grind -ring [foldl_memOk, State.memOk_setPSet, memOk_reenter, State.memOk_moveOps, State.memOk_raiseAll, State.memOk_foots,
    State.memOk_rejoin, State.memOk_rebind, State.memOk_reloadLead, State.memOk_dropPlain, State.memOk_seatGang]

theorem State.memOk_loadCourses (h : s.MemOk) (p x) : (s.loadCourses p x).MemOk := by
  unfold State.loadCourses
  grind -ring [memOk_readAll, EngRes.memOk_then, State.memOk_ctxRead, EngRes.MemOk, State.memOk_setCourse]

theorem State.memOk_loadBricks (h : s.MemOk) (p x acct) : (s.loadBricks p x acct).MemOk := by
  unfold State.loadBricks
  grind -ring [memOk_readAll, EngRes.memOk_then, State.memOk_loadBrick, EngRes.MemOk, State.memOk_setBrick]

theorem State.memOk_loadGangs (h : s.MemOk) (p foot) : (s.loadGangs p foot).MemOk := by
  unfold State.loadGangs
  grind -ring [memOk_readAll, State.memOk_ctxRead, EngRes.memOk_then, State.memOk_loadGang, EngRes.MemOk]

theorem State.memOk_restoreStored (h : s.MemOk) (p h' x) : (s.restoreStored p h' x).MemOk := by
  unfold State.restoreStored
  grind -ring [Out.MemOk, State.memOk_loadCourses, EngRes.memOk_then, State.memOk_holdUnit, EngRes.MemOk, State.memOk_afterWalk,
    State.memOk_unhold, State.memOk_finishRestore, State.memOk_loadBricks, memOk_loadGangs]

theorem memOk_execRestore (h : s.MemOk) (wall set) : (execRestore wall set s).MemOk := by
  unfold execRestore
  grind -ring [Out.MemOk, State.memOk_finishRestore, State.memOk_noteAct, State.memOk_noteNoFit, State.memOk_restoreStored]

theorem State.memOk_dropOps (h : s.MemOk) (k) : (s.dropOps k).MemOk := by
  unfold State.dropOps
  grind -ring [State.memOk_foots, foldl_memOk, State.memOk_fresh, State.memOk_setMq, State.memOk_dropEngine, State.memOk_setGroup]

theorem State.memOk_dropHeld (h : s.MemOk) (gid) : (s.dropHeld gid).MemOk := h.of_foots rfl

theorem State.memOk_killLanes (h : s.MemOk) (gid k) : (s.killLanes gid k).MemOk := by
  unfold State.killLanes
  grind -ring [State.memOk_dropHeld, State.memOk_setGang, State.memOk_markKilled, State.memOk_leave]

theorem State.memOk_terminate (h : s.MemOk) (k) : (s.terminate k).MemOk := by
  unfold State.terminate
  grind -ring [foldl_memOk, State.memOk_dropOps, State.memOk_markKilled, State.memOk_killLanes, State.memOk_haltRiddle]

theorem State.memOk_terminateSet (h : s.MemOk) (p) : (s.terminateSet p).MemOk := by
  unfold State.terminateSet
  grind -ring [foldl_memOk, State.memOk_terminate]

/-! ### Control -/

theorem memOk_execNop (h : s.MemOk) (x) : (execNop x s).MemOk := by
  unfold execNop
  grind -ring [State.memOk_withGang, State.memOk_done]

theorem memOk_execNopCode (h : s.MemOk) : (execNopCode s).MemOk := by
  unfold execNopCode
  grind -ring [State.memOk_withGang, State.memOk_done]

theorem memOk_execBra (h : s.MemOk) (g off) : (execBra g off s).MemOk := by
  unfold execBra
  grind -ring [State.memOk_transfer, Out.MemOk, State.memOk_setGang]

theorem memOk_execBrx (h : s.MemOk) (g a) : (execBrx g a s).MemOk := by
  unfold execBrx
  grind -ring [State.memOk_transfer, Out.MemOk, State.memOk_setGang]

theorem memOk_execCall (h : s.MemOk) (g d off) : (execCall g d off s).MemOk := by
  unfold execCall
  grind -ring [State.memOk_transfer, Out.MemOk, State.memOk_setGang]

theorem memOk_execCallx (h : s.MemOk) (g d a) : (execCallx g d a s).MemOk := by
  unfold execCallx
  grind -ring [State.memOk_transfer, Out.MemOk, State.memOk_setGang]

theorem memOk_execRet (h : s.MemOk) (g a) : (execRet g a s).MemOk := by
  unfold execRet
  grind -ring [State.memOk_transfer, Out.MemOk, State.memOk_setGang]

theorem memOk_execSplit (h : s.MemOk) (g p off) : (execSplit g p off s).MemOk := by
  unfold execSplit
  grind -ring [State.memOk_transfer, State.memOk_trapEm, State.memOk_stall, Out.MemOk, State.memOk_setGang]

theorem memOk_execJoin (h : s.MemOk) (g) : (execJoin g s).MemOk := by
  unfold execJoin
  grind -ring [State.memOk_transfer, State.memOk_trapEm, Out.MemOk, State.memOk_setGang, State.memOk_stall]

theorem memOk_execExit (h : s.MemOk) (g) : (execExit g s).MemOk := by
  unfold execExit
  grind -ring [State.memOk_perLane, State.memOk_done, Out.MemOk, State.memOk_leave]

theorem memOk_execKill (h : s.MemOk) (g) : (execKill g s).MemOk := by
  unfold execKill
  grind -ring [State.memOk_perLane, State.memOk_done, Out.MemOk, State.memOk_markKilled, State.memOk_leave]

theorem memOk_execYield (h : s.MemOk) (g) : (execYield g s).MemOk := by
  unfold execYield
  grind -ring [State.memOk_transfer, Out.MemOk, State.memOk_setGang]

theorem memOk_execTrap (h : s.MemOk) (g n) : (execTrap g n s).MemOk := by
  unfold execTrap
  grind -ring [State.memOk_transfer, State.memOk_trapUser]

theorem memOk_execSysc (h : s.MemOk) (g n) : (execSysc g n s).MemOk := by
  unfold execSysc
  grind -ring [State.memOk_transfer, State.memOk_trapUser]

theorem memOk_execBrk (h : s.MemOk) (g n) : (execBrk g n s).MemOk := by
  unfold execBrk
  grind -ring [State.memOk_transfer, State.memOk_trapUser]

theorem State.memOk_leaveHandler (h : s.MemOk) (g pa pc pos) : (s.leaveHandler g pa pc pos).MemOk := by
  unfold State.leaveHandler
  grind -ring [memOk_readBy, State.memOk_afterDepart]

theorem State.memOk_withFrame (h : s.MemOk) (g) {k : ℕ → Out} (hk : ∀ x, (k x).MemOk) : (s.withFrame g k).MemOk := by
  unfold State.withFrame
  grind -ring [State.memOk_askWalk, State.memOk_stall, Out.MemOk, State.memOk_holdGang]

theorem memOk_execEret (h : s.MemOk) (g) : (execEret g s).MemOk := by
  unfold execEret
  grind -ring [State.memOk_transfer, State.memOk_trapEm, State.memOk_withFrame, Out.MemOk, State.memOk_leaveHandler]

theorem memOk_execEretSkip (h : s.MemOk) (g) : (execEretSkip g s).MemOk := by
  unfold execEretSkip
  grind -ring [State.memOk_transfer, State.memOk_trapEm, State.memOk_withFrame, Out.MemOk, State.memOk_leaveHandler,
    State.memOk_askWalk, State.memOk_stall, State.memOk_holdGang, State.memOk_fetchOut]

/-! ### Issue -/

theorem State.memOk_fetchWord (h : s.MemOk) (g va) : (s.fetchWord g va).StopOk := by
  unfold State.fetchWord
  grind -ring [Fetched.StopOk, memOk_askWalk, State.memOk_holdGang, Out.MemOk, State.memOk_stall]

theorem State.memOk_fetchWords (h : s.MemOk) (g va n) : (s.fetchWords g va n).StopOk := by
  induction n generalizing va with
  | zero => trivial
  | succ n ih =>
    unfold State.fetchWords
    grind -ring [Fetched.StopOk, State.memOk_fetchWord]

theorem State.memOk_keepImage (h : s.MemOk) (i) : (s.keepImage i).MemOk := h.of_foots rfl

theorem State.memOk_dictionary (h : s.MemOk) (g) : (s.dictionary g).MemOk := by
  unfold State.dictionary
  grind -ring [Fetched.MemOk, State.memOk_keepImage, State.memOk_fetchWord, Fetched.StopOk, State.memOk_fetchWords,
    State.memOk_fetchOut]

theorem State.memOk_decodeTrap (h : s.MemOk) (g e pos) : (s.decodeTrap g e pos).MemOk := State.memOk_takeTrap h ..

theorem State.memOk_decodeGang (h : s.MemOk) (g) : (s.decodeGang g).MemOk := by
  have fetched (n : Nat) := State.memOk_fetchOut h g g.pc.toNat n
  have dict (n : Nat) := State.memOk_dictionary (fetched n) g
  have words := State.memOk_fetchWords h g
  unfold State.decodeGang
  split
  · exact State.memOk_decodeTrap h _ _ _
  · split
    · grind -ring [Fetched.MemOk, Fetched.StopOk, State.memOk_fetchWord]
    · split
      · exact State.memOk_decodeTrap (fetched _) _ _ _
      · split
        · grind -ring [Fetched.MemOk, Fetched.StopOk]
        · grind -ring [Fetched.MemOk, Out.MemOk, State.memOk_decodeTrap, State.memOk_setGang]

theorem memOk_execEngineFaultTaken (h : s.MemOk) (core seat) : (execEngineFaultTaken core seat s).MemOk := by
  unfold execEngineFaultTaken
  grind -ring [Out.MemOk, State.memOk_takeTrap]

theorem State.memOk_owe (h : s.MemOk) (g x) : (s.owe g x).MemOk := by
  unfold State.owe
  grind -ring [State.memOk_setGang, State.memOk_takeTrap, memOk_orKeep]

theorem memOk_execClauseDecode (h : s.MemOk) (core seat) : (execClauseDecode core seat s).MemOk := by
  unfold execClauseDecode
  grind -ring [Out.MemOk, State.memOk_decodeGang, State.memOk_moved, Fetched.MemOk]

theorem State.memOk_issuePos (h : s.MemOk) (g) : (s.issuePos g).MemOk := by
  unfold State.issuePos
  grind -ring [Prep.MemOk, Out.MemOk, State.memOk_stall, State.memOk_setGang]

theorem State.memOk_withCode (h : s.MemOk) (g) {k : State → Gang → Prep} (hk : ∀ t g, t.MemOk → (k t g).MemOk) :
    (s.withCode g k).MemOk := by
  unfold State.withCode
  grind -ring [State.memOk_setGang, State.memOk_decodeGang, Fetched.MemOk, Prep.MemOk]

theorem State.memOk_issueGang (h : s.MemOk) (g) : (s.issueGang g).MemOk := by
  unfold State.issueGang
  grind -ring [Prep.MemOk, State.memOk_setGang, memOk_takeTrap, State.memOk_withCode, State.memOk_issuePos]

theorem State.memOk_prepare (h : s.MemOk) (core seat) : (s.prepare core seat).MemOk := by
  unfold State.prepare
  grind -ring [State.memOk_foots, Prep.MemOk, Out.MemOk, State.memOk_issueGang, State.memOk_withCode, State.memOk_syncWait,
    State.memOk_takeTrap, State.memOk_issuePos]

/-! ### Sampling -/

theorem State.memOk_sample (h : s.MemOk) (g op t tok a) : (s.sample g op t tok a).MemOk := by
  unfold State.sample
  grind -ring [State.memOk_once, State.memOk_done, State.memOk_trapEm, State.memOk_stall, Out.MemOk, memOk_holdGang,
    State.memOk_newId, State.memOk_foots]

theorem State.memOk_setSample (h : s.MemOk) (r) : (s.setSample r).MemOk := h.of_foots rfl

theorem State.memOk_endSample (h : s.MemOk) (r status) : (s.endSample r status).MemOk := by
  unfold State.endSample
  grind -ring [State.memOk_foots, State.memOk_complete]

theorem State.memOk_freezeSample (h : s.MemOk) (r cause va) : (s.freezeSample r cause va).MemOk := by
  unfold State.freezeSample
  grind -ring [State.memOk_setSample, State.memOk_holdEngine]

theorem State.memOk_longRead (h : s.MemOk) (r va n fuel) : (s.longRead r va n fuel).MemOk := by
  induction fuel generalizing s va n with
  | zero => exact h
  | succ fuel ih =>
    unfold State.longRead
    grind -ring [EngRes.MemOk, State.memOk_engRead]

theorem State.memOk_permitted (h : s.MemOk) (r d) : (s.permitted r d).MemOk := by
  unfold State.permitted
  grind -ring [EngRes.MemOk, State.memOk_longRead]

theorem State.memOk_sampleAll (h : s.MemOk) (r d) : (s.sampleAll r d).MemOk := by
  unfold State.sampleAll
  grind -ring [Out.MemOk, State.memOk_permitted, memOk_freezeSample, State.memOk_engineError, EngRes.MemOk,
    State.memOk_spaceCheck, State.memOk_spaceWrite, State.memOk_endSample]

theorem State.memOk_biasPair (h : s.MemOk) (r d) : (s.biasPair r d).MemOk := by
  unfold State.biasPair
  grind -ring [EngRes.MemOk, State.memOk_spaceRead, State.memOk_engRead, State.memOk_engWrite]

theorem State.memOk_biasAll (h : s.MemOk) (r d moved n) : (s.biasAll r d moved n).MemOk := by
  induction n generalizing s r moved with
  | zero => exact State.memOk_endSample h _ _
  | succ n ih =>
    unfold State.biasAll
    grind -ring [Out.MemOk, EngRes.MemOk, State.memOk_biasPair, State.memOk_freezeSample, State.memOk_setSample,
      State.memOk_engineError]

theorem memOk_execSampleComplete (h : s.MemOk) (req) : (execSampleComplete req s).MemOk := by
  unfold execSampleComplete
  grind -ring [Out.MemOk, State.memOk_sampleAll, State.memOk_biasAll]

theorem State.memOk_resumeSample (h : s.MemOk) (id) : (s.resumeSample id).MemOk := h.of_foots rfl

theorem State.memOk_failSample (h : s.MemOk) (id) : (s.failSample id).MemOk := by
  unfold State.failSample
  grind -ring [State.memOk_endSample, memOk_engineFault]

/-! ### Streams -/

theorem State.memOk_onStream (h : s.MemOk) (gd os a produces) {k : Gang → Mask → ℕ → Stream → Out} (hk : ∀ g y z w, (k g y z
    w).MemOk) :
    (s.onStream gd os a produces k).MemOk := by
  unfold State.onStream
  grind -ring [memOk_once, State.memOk_trapEm]

theorem State.memOk_inStep (h : s.MemOk) (gd os a) {k : Gang → Mask → ℕ → Stream → Out} (hk : ∀ g y z w, (k g y z w).MemOk) :
    (s.inStep gd os a k).MemOk := by
  unfold State.inStep
  grind -ring [memOk_onStream, State.memOk_trapEm]

theorem State.memOk_doneLate (h : s.MemOk) (g m d v) : (s.doneLate g m d v).MemOk := by
  unfold State.doneLate
  grind -ring [State.memOk_done, State.memOk_late]

theorem memOk_execStrmStat (h : s.MemOk) (g d a) : (execStrmStat g d a s).MemOk := by
  unfold execStrmStat
  grind -ring [State.memOk_onStream, State.memOk_doneLate]

theorem memOk_execStrmPage (h : s.MemOk) (g d a b) : (execStrmPage g d a b s).MemOk := by
  unfold execStrmPage
  grind -ring [State.memOk_onStream, State.memOk_doneLate, State.memOk_trapEm]

theorem memOk_execStrmPageW (h : s.MemOk) (g d a b c) : (execStrmPageW g d a b c s).MemOk := by
  unfold execStrmPageW
  grind -ring [State.memOk_inStep, State.memOk_trapEm, State.memOk_setStream, State.memOk_doneLate]

theorem memOk_execStrmPageC (h : s.MemOk) (g d a b c) : (execStrmPageC g d a b c s).MemOk := by
  unfold execStrmPageC
  grind -ring [State.memOk_inStep, State.memOk_trapEm, State.memOk_setStream, State.memOk_doneLate]

theorem State.memOk_reservePages {y : State × Stream} (h : s.MemOk) (x want fuel) (hy : s.reservePages x want fuel = some y) :
    y.1.MemOk := by
  induction fuel generalizing s x with
  | zero => cases hy; exact h
  | succ fuel ih =>
    unfold State.reservePages at hy
    split at hy
    · split at hy
      · cases hy; exact h
      next p t hp =>
        obtain ⟨u, hu, hy⟩ := Option.bind_eq_some_iff.1 hy
        exact ih (State.memOk_zeroPage (State.memOk_takePage h _ hp) _ _ hu) _ hy
    · cases hy; exact h

theorem memOk_execStrmReserve (h : s.MemOk) (g d a b) : (execStrmReserve g d a b s).MemOk := by
  refine State.memOk_inStep h _ _ _ fun _ _ _ _ => ?_
  dsimp only
  split
  · exact State.memOk_stall h _ _
  next t st hp => exact State.memOk_doneLate (State.memOk_setStream (State.memOk_reservePages h _ _ _ hp) _) _ _ _ _

theorem State.memOk_commitRows (h : s.MemOk) (g n r m) : (s.commitRows g n r m).MemOk := by
  induction m generalizing s r with
  | zero => exact h
  | succ m ih =>
    unfold State.commitRows
    grind -ring [EngRes.MemOk, State.memOk_engRead, State.memOk_writeToken]

theorem memOk_execStrmCommit (h : s.MemOk) (g d a b) : (execStrmCommit g d a b s).MemOk := by
  unfold execStrmCommit
  grind -ring [State.memOk_inStep, State.memOk_trapEm, State.memOk_commitRows, State.memOk_stall, Out.MemOk, State.memOk_holdGang,
    EngRes.MemOk, State.memOk_done, State.memOk_setStream, State.memOk_doneLate, State.memOk_dropSpec]

theorem memOk_execPgalloc (h : s.MemOk) (g a) : (execPgalloc g a s).MemOk := by
  refine State.memOk_onStream h _ _ _ _ fun _ _ _ _ => ?_
  split
  · exact State.memOk_doneLate h _ _ _ _
  next p t hp =>
    have ht : t.MemOk := by
      split at hp
      · exact State.memOk_takePage h _ hp
      · cases hp
    grind -ring [State.memOk_doneLate, State.memOk_stall, State.memOk_zeroPage, State.memOk_setStream]

theorem memOk_execPgfree (h : s.MemOk) (g tok a b) : (execPgfree g tok a b s).MemOk := by
  unfold execPgfree
  grind -ring [State.memOk_onStream, State.memOk_trapEm, State.memOk_stall, State.memOk_freePage, State.memOk_setStream,
    State.memOk_done]

theorem State.memOk_closeRead (h : s.MemOk) (x seen fuel va n) : (s.closeRead x seen fuel va n).MemOk := by
  induction fuel generalizing s va n with
  | zero => exact h
  | succ fuel ih =>
    unfold State.closeRead
    grind -ring [EngRes.MemOk, State.memOk_unitRead]

theorem State.memOk_endClose (h : s.MemOk) (x p) : (s.endClose x p).MemOk := by
  unfold State.endClose
  grind -ring [State.memOk_setStream, State.memOk_raiseAll, State.memOk_unhold, State.memOk_endRetire, Option.getD_eq_iff]

theorem State.memOk_closeItem (h : s.MemOk) (x p i rest) : (s.closeItem x p i rest).MemOk := by
  unfold State.closeItem
  cases i <;> grind -ring [EngRes.MemOk, State.memOk_setStream, State.memOk_closeRead, State.memOk_vaWrite,
    State.memOk_writeToken]

theorem State.memOk_closeOne (h : s.MemOk) (x p) : (s.closeOne x p).MemOk := by
  unfold State.closeOne
  grind -ring [EngRes.MemOk, State.memOk_endClose, State.memOk_closeItem, State.memOk_closeRead, State.memOk_setStream]

theorem State.memOk_closeRun (h : s.MemOk) (n fuel moved) : (State.closeRun n fuel s moved).MemOk := by
  induction fuel generalizing s moved with
  | zero => exact h
  | succ fuel ih =>
    unfold State.closeRun
    grind -ring [Out.MemOk, EngRes.MemOk, State.memOk_closeOne, State.memOk_holdUnit]

theorem State.memOk_closeStream (h : s.MemOk) (n) : (s.closeStream n).MemOk := by
  unfold State.closeStream
  grind -ring [Out.MemOk, State.memOk_setStream, State.memOk_closeRun]

theorem memOk_execStreamStepLaunch (h : s.MemOk) (stream) : (execStreamStepLaunch stream s).MemOk := by
  unfold execStreamStepLaunch
  grind -ring [Out.MemOk, State.memOk_setStream, State.memOk_addWall]

/-! ### Commands -/

theorem State.memOk_replay (h : s.MemOk) (g) : (s.replay g).MemOk := h.of_foots rfl

theorem State.memOk_resumeGang (h : s.MemOk) (g) : (s.resumeGang g).MemOk := by
  unfold State.resumeGang
  grind -ring [State.memOk_replay, State.memOk_setGang]

theorem State.memOk_endAccess (h : s.MemOk) (r i a) : (s.endAccess r i a).MemOk := h.of_foots rfl

theorem State.memOk_endHeld (h : s.MemOk) (g p) {f : State → MemReq → ℕ → Access → State} (hf : ∀ t y z w, t.MemOk → (f t y z
    w).MemOk) :
    (s.endHeld g p f).MemOk := by
  unfold State.endHeld
  grind -ring [foldl_memOk]

theorem State.memOk_headerOut (h : s.MemOk) (g pc) : (s.headerOut g pc).MemOk := by
  unfold State.headerOut
  grind -ring [State.memOk_walkOut, memOk_readBy]

theorem State.memOk_skipGang (h : s.MemOk) (g) : (s.skipGang g).MemOk := by
  unfold State.skipGang
  grind -ring [State.memOk_setGang, State.memOk_tidy, memOk_endHeld, State.memOk_endAccess, State.memOk_headerOut]

theorem State.memOk_memFault (h : s.MemOk) (g tval lanes) : (s.memFault g tval lanes).MemOk := by
  unfold State.memFault
  grind -ring [memOk_orKeep, State.memOk_takeTrap]

theorem State.memOk_failHold {t : State} (h : s.MemOk) (g) (ht : s.failHold g = some t) : t.MemOk := by
  unfold State.failHold at ht
  grind -ring [State.memOk_memFault, State.memOk_reportGang, State.memOk_setGang]

theorem State.memOk_failAccesses {t : State} (h : s.MemOk) (g) (ht : s.failAccesses g = some t) : t.MemOk := by
  have ended {s : State} (p : MemReq → Access → Bool) (h : s.MemOk) : (s.endHeld g p State.endAccess).tidy.MemOk :=
    State.memOk_tidy (State.memOk_endHeld h _ _ fun _ _ _ _ h => State.memOk_endAccess h _ _ _)
  have emptied (p : MemReq → Access → Bool) :
      (s.endHeld g p fun s r i a => s.perform r i { a with fault := none } dequeE).MemOk :=
    State.memOk_endHeld h _ _ fun _ _ _ _ h => State.memOk_perform h _ _ _ _
  unfold State.failAccesses at ht
  dsimp only at ht
  split at ht
  · cases ht
  · split at ht
    · cases ht; exact State.memOk_tidy (emptied _)
    · split at ht
      · cases ht; exact State.memOk_owe (ended _ (emptied _)) _ _
      · cases ht; exact ended _ (emptied _)

theorem State.memOk_deliverAccesses {t : State} (h : s.MemOk) (g) (ht : s.deliverAccesses g = some t) : t.MemOk := by
  unfold State.deliverAccesses at ht
  split at ht
  · cases ht
  · obtain ⟨g, -, rfl⟩ := Option.map_eq_some_iff.1 ht
    exact State.memOk_owe (State.memOk_tidy (State.memOk_endHeld h _ _ fun _ _ _ _ h => State.memOk_endAccess h _ _ _)) _ _

theorem State.memOk_deliverGang {t : State} (h : s.MemOk) (g) (ht : s.deliverGang g = some t) : t.MemOk := by
  unfold State.deliverGang at ht
  grind -ring [State.memOk_deliverAccesses, memOk_orKeep, State.memOk_takeTrap, Option.map_eq_some_iff]

theorem State.memOk_resumeEngine (h : s.MemOk) (h') : (s.resumeEngine h').MemOk := by
  unfold State.resumeEngine
  grind -ring [State.memOk_dropEngine, State.memOk_resumeMatrix, State.memOk_resumeCopy, State.memOk_resumeQuant,
    State.memOk_resumeSample, State.memOk_resumeRiddle]

theorem State.memOk_failEngine (h : s.MemOk) (h') : (s.failEngine h').MemOk := by
  unfold State.failEngine
  grind -ring [State.memOk_dropEngine, State.memOk_failMatrix, State.memOk_failCopy, State.memOk_failQuant,
    State.memOk_failSample, memOk_failRiddle]

theorem State.memOk_reaccess (h : s.MemOk) (foot asid w need) : (s.reaccess foot asid w need).MemOk := by
  unfold State.reaccess
  grind -ring [Out.MemOk, State.memOk_unhold, memOk_holdUnit]

theorem memOk_orElse {o : Out} {p : Unit → Out} (ho : o.MemOk) (hp : ∀ x, (p x).MemOk) : (orElse o p).MemOk := by
  unfold orElse
  grind -ring

theorem State.memOk_unitWork (h : s.MemOk) (w) : (s.unitWork w).MemOk := by
  unfold State.unitWork
  grind -ring [Out.MemOk, State.memOk_serve, memOk_orElse, State.memOk_reaccess, memOk_execWallReady, memOk_execPlaceSet,
    memOk_execBrickRetire, State.memOk_endWall, memOk_execRestore, memOk_execContextToMemory, State.memOk_closeStream]

theorem memOk_execUnitAccessRetry (h : s.MemOk) (hold) : (execUnitAccessRetry hold s).MemOk := by
  unfold execUnitAccessRetry
  grind -ring [Out.MemOk, State.memOk_unitWork]

theorem State.memOk_resumeUnit (h : s.MemOk) (h') : (s.resumeUnit h').MemOk := by
  unfold State.resumeUnit
  grind -ring [State.memOk_unitWork, memOk_orKeep]

theorem State.memOk_killHold (h : s.MemOk) (h') : (s.killHold h').MemOk := h.of_foots rfl

theorem State.memOk_failUnit (h : s.MemOk) (h') : (s.failUnit h').MemOk := by
  unfold State.failUnit
  grind -ring [State.memOk_foots, State.memOk_unhold, State.memOk_rejectStep, memOk_execBrickRetire, memOk_orKeep,
    State.memOk_killHold, State.memOk_unitWork, State.memOk_terminateSet, State.memOk_closeStream, State.memOk_setStream]

theorem State.memOk_faultcmd (h : s.MemOk) (v action) {acted : Option State} (hacted : ∀ t, acted = some t → t.MemOk) :
    (s.faultcmd v action acted).MemOk := by
  unfold State.faultcmd
  grind -ring [State.memOk_foots, Out.MemOk]

theorem memOk_execFaultcmdResume (h : s.MemOk) (v) : (execFaultcmdResume v s).MemOk := by
  unfold execFaultcmdResume
  grind -ring [State.memOk_faultcmd, foldl_memOk, State.memOk_resumeEngine, State.memOk_resumeGang, State.memOk_resumeUnit]

theorem memOk_execFaultcmdResumeSkip (h : s.MemOk) (v) : (execFaultcmdResumeSkip v s).MemOk :=
  State.memOk_faultcmd h _ _ fun _ ht => by
    obtain ⟨g, -, rfl⟩ := Option.map_eq_some_iff.1 ht
    exact State.memOk_skipGang h g

theorem memOk_execFaultcmdUnresolvable (h : s.MemOk) (v) : (execFaultcmdUnresolvable v s).MemOk := by
  unfold execFaultcmdUnresolvable
  dsimp only
  generalize hgang : ((s.heldGang? v).bind fun g => _) = gang
  have failed : ∀ t, gang = some t → t.MemOk := fun t e => by
    obtain ⟨g, -, e⟩ := Option.bind_eq_some_iff.1 (hgang.trans e)
    split at e
    next u hu =>
      cases e
      have held := State.memOk_failHold h g hu
      refine getD_memOk held fun t e => ?_
      obtain ⟨g, -, e⟩ := Option.bind_eq_some_iff.1 e
      exact State.memOk_failAccesses held g e
    · exact State.memOk_failAccesses h g e
  refine State.memOk_faultcmd h _ _ fun t ht => ?_
  split at ht
  · cases ht
  · cases ht
    exact foldl_memOk (fun _ _ h => State.memOk_failUnit h _) _
      (foldl_memOk (fun _ _ h => State.memOk_failEngine h _) _ (getD_memOk h failed))

theorem memOk_execFaultcmdDeliver (h : s.MemOk) (v) : (execFaultcmdDeliver v s).MemOk :=
  State.memOk_faultcmd h _ _ fun _ ht => by
    obtain ⟨g, -, hg⟩ := Option.bind_eq_some_iff.1 ht
    exact State.memOk_deliverGang h g hg

theorem memOk_execFaultcmdTerminate (h : s.MemOk) (v) : (execFaultcmdTerminate v s).MemOk := by
  unfold execFaultcmdTerminate
  grind -ring [State.memOk_faultcmd, foldl_memOk, State.memOk_terminate]

theorem memOk_execFaultcmdReserved (h : s.MemOk) (v) : (execFaultcmdReserved v s).MemOk := by
  unfold execFaultcmdReserved
  grind -ring [Out.MemOk, State.memOk_faultcmd]

theorem State.memOk_tlbinv (h : s.MemOk) (v) : (s.tlbinv v).MemOk := h

theorem memOk_execInvalidationComplete (h : s.MemOk) : (execInvalidationComplete s).MemOk := by
  unfold execInvalidationComplete
  grind -ring [State.memOk_foots, Out.MemOk, State.memOk_msix]

/-! ### Host -/

theorem State.memOk_agentWrite {t : State} (h : s.MemOk) (foot pa bs release) (ht : s.agentWrite foot pa bs release = some t) :
    t.MemOk := by
  unfold State.agentWrite at ht
  grind -ring [State.memOk_touch, State.memOk_endEpoch, State.memOk_putWrite_msg]

theorem State.memOk_openBytes (h : s.MemOk) (n) : (s.openBytes n).2.MemOk :=
  List.foldlRecOn _ _ (motive := fun x : List Byte × State => x.2.MemOk) h fun _ h _ _ => State.memOk_fresh h

theorem State.memOk_agentRead (h : s.MemOk) (foot pa n acquire) : (s.agentRead foot pa n acquire).2.MemOk := by
  unfold State.agentRead
  grind -ring [State.memOk_observe, State.memOk_openBytes, State.memOk_touch]

theorem State.memOk_agentPut (h : s.MemOk) (foot pa bs) : (s.agentPut foot pa bs).MemOk := by
  unfold State.agentPut
  grind -ring [memOk_raise, State.memOk_putWrite_msg, State.memOk_touch]

theorem State.memOk_agentAtomic {y : ℕ × State} (h : s.MemOk) (foot pa op t' b c) (hy : s.agentAtomic foot pa op t' b c = some y)
    :
    y.2.MemOk := by
  unfold State.agentAtomic at hy
  grind -ring [State.memOk_fresh, State.memOk_agentPut]

theorem State.memOk_agentDeque {y : ℕ × State} (h : s.MemOk) (foot pa op b asid) (hy : s.agentDeque foot pa op b asid = some y) :
    y.2.MemOk := by
  unfold State.agentDeque at hy
  grind -ring [State.memOk_foots, State.memOk_fresh, State.memOk_touch, State.memOk_ringPut, State.memOk_agentPut,
    State.memOk_ringTake]

theorem memOk_execHostWrite (h : s.MemOk) (link addr data relaxed) : (execHostWrite link addr data relaxed s).MemOk := by
  unfold execHostWrite
  grind -ring [Out.MemOk, State.memOk_agentWrite]

theorem memOk_execHostRead (h : s.MemOk) (link addr len) : (execHostRead link addr len s).MemOk := by
  unfold execHostRead
  grind -ring [Out.MemOk, State.memOk_send, State.memOk_agentRead]

theorem memOk_execHostAtomic (h : s.MemOk) (link addr op width b c) : (execHostAtomic link addr op width b c s).MemOk := by
  unfold execHostAtomic
  split
  · trivial
  · split
    · trivial
    · split
      · trivial
      · next hx => exact State.memOk_send (State.memOk_agentAtomic h _ _ _ _ _ _ hx) _ _

theorem State.memOk_deliverFlit {t : State} (h : s.MemOk) (port l) (ht : s.deliverFlit port l = some t) : t.MemOk := by
  unfold State.deliverFlit at ht
  split at ht
  · exact State.memOk_agentWrite h _ _ _ _ ht
  · dsimp only at ht
    split at ht
    next v u hr =>
      have done : u.MemOk := by
        split at hr
        · exact State.memOk_agentAtomic h _ _ _ _ _ _ hr
        · exact State.memOk_agentDeque h _ _ _ _ _ hr
        · cases hr
      cases ht; exact State.memOk_sendFlit done _ _
    · split at ht <;> cases ht
      exact h
  · split at ht
    · cases ht
    · cases ht
      exact foldl_memOk (fun _ _ h => State.memOk_sendFlit h _ _) _ (State.memOk_agentRead h _ _ _ _)
  · cases ht; exact h

theorem State.memOk_queueFlit (h : s.MemOk) (port payload) : (s.queueFlit port payload).MemOk := h.of_foots rfl

theorem State.memOk_queueHeld (h : s.MemOk) (port n) : (s.queueHeld port n).MemOk := by
  induction n generalizing s with
  | zero => exact h
  | succ n ih =>
    unfold State.queueHeld
    dsimp only
    split
    · exact h
    · split
      · exact h
      · exact ih (State.memOk_queueFlit (State.memOk_setPeer h _ _) _ _)

theorem State.memOk_drainQueue (h : s.MemOk) (port n) : (s.drainQueue port n).MemOk := by
  induction n generalizing s with
  | zero => exact h
  | succ n ih =>
    unfold State.drainQueue
    grind -ring [State.memOk_setPeer, State.memOk_deliverFlit]

theorem State.memOk_stopGo (h : s.MemOk) (port) : (s.stopGo port).MemOk := by
  unfold State.stopGo
  grind -ring [State.memOk_setPeer, State.memOk_send]

theorem State.memOk_servePort (h : s.MemOk) (port) : (s.servePort port).MemOk := by
  unfold State.servePort
  grind -ring [memOk_flush, State.memOk_stopGo, State.memOk_drainQueue, State.memOk_queueHeld]

theorem State.memOk_servePorts (h : s.MemOk) : s.servePorts.MemOk := by
  unfold State.servePorts
  grind -ring [foldl_memOk, State.memOk_servePort]

theorem State.memOk_gapFlit (h : s.MemOk) (port seq payload) : (s.gapFlit port seq payload).MemOk := by
  unfold State.gapFlit
  grind -ring [State.memOk_setPeer, State.memOk_send]

theorem memOk_execPeerFlitReceive (h : s.MemOk) (port flit) : (execPeerFlitReceive port flit s).MemOk := by
  unfold execPeerFlitReceive
  grind -ring [Out.MemOk, State.memOk_queueFlit, State.memOk_servePort, State.memOk_setPeer, State.memOk_gapFlit]

theorem memOk_execPeerNak (h : s.MemOk) (port seq) : (execPeerNak port seq s).MemOk := by
  unfold execPeerNak
  grind -ring [Out.MemOk, State.memOk_setPeer, State.memOk_send]

theorem memOk_execPeerRetrain (h : s.MemOk) (port) : (execPeerRetrain port s).MemOk := by
  unfold execPeerRetrain
  grind -ring [Out.MemOk, State.memOk_setPeer, State.memOk_msix]

theorem memOk_execPeerTrained (h : s.MemOk) (port) : (execPeerTrained port s).MemOk := by
  unfold execPeerTrained
  grind -ring [Out.MemOk, foldl_memOk, State.memOk_msix, State.memOk_servePort, State.memOk_setPeer, State.memOk_send]

theorem State.memOk_portEnds (h : s.MemOk) (port) : (s.portEnds port).MemOk := by
  unfold State.portEnds
  grind -ring [foldl_memOk, State.memOk_doDown]

theorem State.memOk_dropOut (h : s.MemOk) (port) : (s.dropOut port).MemOk := by
  unfold State.dropOut
  grind -ring [foldl_memOk, State.memOk_setPeer, State.memOk_discard]

theorem memOk_execPeerWrite (h : s.MemOk) (port v) : (execPeerWrite port v s).MemOk := by
  unfold execPeerWrite
  grind -ring [Out.MemOk, State.memOk_setPeer, State.memOk_dropOut, State.memOk_portEnds, State.memOk_tidy]

theorem memOk_execPtmExchange (h : s.MemOk) (ns) : (execPtmExchange ns s).MemOk := by
  unfold execPtmExchange
  split
  · trivial
  · dsimp only
    split
    · exact FootsOk.map h fun _ => rfl
    · exact h.of_foots rfl

theorem memOk_execPartcfgWrite (h : s.MemOk) (v) : (execPartcfgWrite v s).MemOk := by
  unfold execPartcfgWrite
  grind -ring [State.memOk_foots, Out.MemOk]

theorem State.memOk_queueDone (h : s.MemOk) (v remove q) : (s.queueDone v remove q).MemOk := h

theorem memOk_execQregRegister (h : s.MemOk) (v) : (execQregRegister v s).MemOk := by
  unfold execQregRegister
  grind -ring [State.memOk_foots, State.memOk_queueDone]

theorem memOk_execQregRemove (h : s.MemOk) (v) : (execQregRemove v s).MemOk := by
  unfold execQregRemove
  grind -ring [State.memOk_foots, State.memOk_unhold, State.memOk_queueDone]

theorem memOk_execTickcmdAdmit (h : s.MemOk) (v) : (execTickcmdAdmit v s).MemOk := by
  unfold execTickcmdAdmit
  grind -ring [Out.MemOk, State.memOk_tickWrite]

theorem memOk_execTickcmdRetire (h : s.MemOk) (v) : (execTickcmdRetire v s).MemOk := by
  unfold execTickcmdRetire
  grind -ring [Out.MemOk, State.memOk_tickWrite]

theorem State.memOk_setFq (h : s.MemOk) (part q) : (s.setFq part q).MemOk := h.of_foots rfl

theorem memOk_execFqheadWrite (h : s.MemOk) (part v) : (execFqheadWrite part v s).MemOk := by
  unfold execFqheadWrite
  grind -ring [Out.MemOk, State.memOk_setFq]

theorem memOk_execFqReconfigure (h : s.MemOk) (part size base) : (execFqReconfigure part size base s).MemOk := by
  unfold execFqReconfigure
  grind -ring [Out.MemOk, State.memOk_setFq, State.memOk_fresh]

theorem memOk_execSlicectlWrite (h : s.MemOk) (slice v) : (execSlicectlWrite slice v s).MemOk := by
  unfold execSlicectlWrite
  grind -ring [State.memOk_foots, Out.MemOk]

theorem memOk_execSlicectlRead (h : s.MemOk) (slice) : (execSlicectlRead slice s).MemOk := by
  unfold execSlicectlRead
  grind -ring [State.memOk_foots, Out.MemOk]

theorem State.memOk_footReg (h : s.MemOk) (foot off v) : (s.footReg foot off v).MemOk := by
  unfold State.footReg
  grind -ring [State.memOk_setFoot, State.MemOk.foot]

theorem State.memOk_setNonce (h : s.MemOk) (i v) : (s.setNonce i v).MemOk := h.of_foots rfl

theorem State.memOk_regWrite (h : s.MemOk) (off v) : (s.regWrite off v).MemOk := by
  have sys (y : Sys) : ({ s with sys := y } : State).MemOk := h.of_foots rfl
  have pool (y : Sys) (p : Pool) : ({ s with sys := y, pool := p } : State).MemOk := h.of_foots rfl
  exact ite_memOk (sys _) <| ite_memOk (sys _) <| ite_memOk (State.memOk_setFq h _ _) <| ite_memOk (sys _) <| ite_memOk (sys _) <|
    ite_memOk (sys _) <| ite_memOk (ite_memOk h (sys _)) <| ite_memOk (ite_memOk h (pool _ _)) <|
    ite_memOk (State.memOk_setNonce h _ _) <| ite_memOk (State.memOk_footReg h _ _ _) h

theorem memOk_execRegisterWrite (h : s.MemOk) (off v) : (execRegisterWrite off v s).MemOk := by
  unfold execRegisterWrite
  grind -ring [Out.MemOk, State.memOk_regWrite]

theorem memOk_execAttestQuote (h : s.MemOk) : (execAttestQuote s).MemOk := by
  unfold execAttestQuote
  grind -ring [State.memOk_foots, Out.MemOk, State.memOk_msix]

theorem memOk_execAttestSignDone (h : s.MemOk) : (execAttestSignDone s).MemOk := by
  unfold execAttestSignDone
  grind -ring [State.memOk_foots, Out.MemOk, State.memOk_msix]

theorem State.memOk_readings (h : s.MemOk) (group temp droop proc) : (s.readings group temp droop proc).MemOk := h.of_foots rfl

theorem memOk_execThermalThrottle (h : s.MemOk) (group temp droop proc overPower) :
    (execThermalThrottle group temp droop proc overPower s).MemOk := by
  unfold execThermalThrottle
  grind -ring [Out.MemOk, State.memOk_foots, State.memOk_readings]

theorem memOk_execThermalStop (h : s.MemOk) : (execThermalStop s).MemOk := by
  unfold execThermalStop
  grind -ring [State.memOk_foots, Out.MemOk, State.memOk_msix]

theorem memOk_execDeviceReset (h : s.MemOk) (image signed) : (execDeviceReset image signed s).MemOk :=
  (State.memOk_restart s (State.wf_homeMem h)).of_foots rfl

theorem memOk_execPowerFailure (h : s.MemOk) : (execPowerFailure s).MemOk :=
  (State.memOk_restart s (Memory.wf_filter (State.wf_homeMem h) _)).of_foots rfl

theorem State.memOk_countScrub (h : s.MemOk) (core unit double) : (s.countScrub core unit double).MemOk := by
  unfold State.countScrub
  grind -ring [State.memOk_setGroup, State.memOk_setCore]

theorem State.memOk_markWord (h : s.MemOk) (core unit m) : (s.markWord core unit m).MemOk := by
  unfold State.markWord
  grind -ring [State.memOk_foots, State.memOk_setGang]

theorem memOk_execScrubberRead (h : s.MemOk) (core unit double mark) : (execScrubberRead core unit double mark s).MemOk := by
  unfold execScrubberRead
  grind -ring [Out.MemOk, State.memOk_markWord, State.memOk_countScrub]

/-! ### Integer -/

theorem memOk_unary (h : s.MemOk) (f g t' d a imm) : (unary f g t' d a imm s).MemOk := State.memOk_value h ..

theorem memOk_binary (h : s.MemOk) (f g t' d a b imm) : (binary f g t' d a b imm s).MemOk := State.memOk_value h ..

theorem memOk_ternary (h : s.MemOk) (f g t' d a b c imm) : (ternary f g t' d a b c imm s).MemOk := State.memOk_value h ..

theorem memOk_execCmp (h : s.MemOk) (g t cc pd a b imm) : (execCmp g t cc pd a b imm s).MemOk := by
  unfold execCmp
  grind -ring [State.memOk_perLane, State.memOk_done]

/-! ### Masks -/

theorem memOk_execVoteBallot (h : s.MemOk) (g d pa) : (execVoteBallot g d pa s).MemOk := by
  unfold execVoteBallot
  grind -ring [State.memOk_perLane, State.memOk_done]

theorem memOk_execVoteAny (h : s.MemOk) (g pd pa) : (execVoteAny g pd pa s).MemOk := by
  unfold execVoteAny
  grind -ring [State.memOk_perLane, State.memOk_done]

theorem memOk_execVoteAll (h : s.MemOk) (g pd pa) : (execVoteAll g pd pa s).MemOk := by
  unfold execVoteAll
  grind -ring [State.memOk_perLane, State.memOk_done]

theorem memOk_execVoteLeadeq (h : s.MemOk) (g pd a) : (execVoteLeadeq g pd a s).MemOk := by
  unfold execVoteLeadeq
  grind -ring [State.memOk_perLane, State.memOk_done]

theorem memOk_plop (h : s.MemOk) (f g pd pa pb) : (plop f g pd pa pb s).MemOk := by
  unfold plop
  grind -ring [State.memOk_perLane, State.memOk_done]

theorem memOk_execMovemGet (h : s.MemOk) (g d) : (execMovemGet g d s).MemOk := by
  unfold execMovemGet
  grind -ring [State.memOk_perLane, State.memOk_done]

theorem memOk_execMovemSet (h : s.MemOk) (g d a) : (execMovemSet g d a s).MemOk := by
  unfold execMovemSet
  grind -ring [State.memOk_once, State.memOk_trapEm, State.memOk_done]

theorem memOk_execMovemGetfm (h : s.MemOk) (g d) : (execMovemGetfm g d s).MemOk := by
  unfold execMovemGetfm
  grind -ring [State.memOk_perLane, State.memOk_done]

theorem memOk_execMovemGetp (h : s.MemOk) (g d) : (execMovemGetp g d s).MemOk := by
  unfold execMovemGetp
  grind -ring [State.memOk_perLane, State.memOk_done]

theorem memOk_execMovemSetp (h : s.MemOk) (g a) : (execMovemSetp g a s).MemOk := by
  unfold execMovemSetp
  grind -ring [State.memOk_perLane, State.memOk_done]

/-! ### Refill -/

theorem memOk_execCopyPieceLand (h : s.MemOk) (copy) : (execCopyPieceLand copy s).MemOk := by
  unfold execCopyPieceLand
  grind -ring [Out.MemOk, State.memOk_landEmpty, State.memOk_setCopy, State.memOk_pieceBytes, State.memOk_freezeCopy,
    State.memOk_engineError, EngRes.MemOk, State.memOk_landBytes, State.memOk_afterPiece]

/-! ### System -/

theorem State.memOk_pushLate (h : s.MemOk) (g m d f) : (s.pushLate g m d f).MemOk := by
  unfold State.pushLate
  grind -ring [State.memOk_done, State.memOk_newId, State.memOk_foots]

theorem memOk_execMovs (h : s.MemOk) (g d x) : (execMovs g d x s).MemOk := by
  unfold execMovs
  grind -ring [State.memOk_perLane, State.memOk_pushLate, State.memOk_done]

theorem memOk_execMovsRx (h : s.MemOk) (g d r) : (execMovsRx g d r s).MemOk := by
  unfold execMovsRx
  grind -ring [State.memOk_perLane, State.memOk_done, State.memOk_stall, State.memOk_setCore]

theorem memOk_execMovsp (h : s.MemOk) (g x a) : (execMovsp g x a s).MemOk := by
  unfold execMovsp
  grind -ring [State.memOk_once, State.memOk_done, State.memOk_setG]

theorem memOk_execMovspTx (h : s.MemOk) (g r a) : (execMovspTx g r a s).MemOk := by
  unfold execMovspTx
  grind -ring [State.memOk_once, State.memOk_trapEm, State.memOk_stall, State.memOk_setCore, State.memOk_done]

theorem memOk_execCsrr (h : s.MemOk) (g d n) : (execCsrr g d n s).MemOk := by
  unfold execCsrr
  grind -ring [State.memOk_perLane, State.memOk_done, State.memOk_trapEm]

theorem memOk_execCsrw (h : s.MemOk) (g n a) : (execCsrw g n a s).MemOk := by
  unfold execCsrw
  grind -ring [State.memOk_once, State.memOk_done, State.memOk_trapEm]

theorem memOk_execCsrx (h : s.MemOk) (g d n a) : (execCsrx g d n a s).MemOk := by
  unfold execCsrx
  grind -ring [State.memOk_once, State.memOk_trapEm, State.memOk_done]

theorem memOk_execScrubSt (h : s.MemOk) (g d u) : (execScrubSt g d u s).MemOk := by
  unfold execScrubSt
  grind -ring [State.memOk_perLane, State.memOk_done]

theorem memOk_execTxbind (h : s.MemOk) (g r a) : (execTxbind g r a s).MemOk := by
  unfold execTxbind
  grind -ring [State.memOk_once, State.memOk_trapEm, State.memOk_setCore, State.memOk_done]

theorem memOk_execTxunbind (h : s.MemOk) (g r) : (execTxunbind g r s).MemOk := by
  unfold execTxunbind
  grind -ring [State.memOk_once, State.memOk_stall, State.memOk_setCore, State.memOk_done]

theorem memOk_execRxpoll (h : s.MemOk) (g d r) : (execRxpoll g d r s).MemOk := by
  unfold execRxpoll
  grind -ring [State.memOk_perLane, State.memOk_done]

theorem memOk_execFlitDeparture (h : s.MemOk) (core tx) : (execFlitDeparture core tx s).MemOk := by
  unfold execFlitDeparture
  grind -ring [Out.MemOk, State.memOk_setCore, State.memOk_foots]

theorem memOk_execFlitArrival (h : s.MemOk) (i) : (execFlitArrival i s).MemOk := by
  unfold execFlitArrival
  grind -ring [State.memOk_foots, Out.MemOk, State.memOk_setCore]

/-! ### Dispatch -/

/-- Every instruction and event of the model. -/
theorem memOk_exec (h : s.MemOk) (i : Instr) : Out.MemOk (exec i s) := by
  cases i with dsimp only [exec]
  | add | sub | mul | mulhi | mulw | addSat | subSat | min | max | and | or | xor | shl | shr | sar | rotl | bfx =>
    exact memOk_binary h _ _ _ _ _ _ _
  | mad | bfi => exact memOk_ternary h _ _ _ _ _ _ _ _
  | abs | not | popc | clz | brev | mov => exact memOk_unary h _ _ _ _ _ _
  | sel | movi | addsc | addscW | fma | cvt | cvtX2 | packB16X2 | packB32X2 | unpkLo16 | unpkHi16 | unpkHi32 | swzb =>
    exact State.memOk_value h _ _ _ _ _
  | cmp => exact memOk_execCmp h _ _ _ _ _ _ _
  | voteBallot => exact memOk_execVoteBallot h _ _ _
  | voteAny => exact memOk_execVoteAny h _ _ _
  | voteAll => exact memOk_execVoteAll h _ _ _
  | voteLeadeq => exact memOk_execVoteLeadeq h _ _ _
  | plopAnd | plopOr | plopXor | plopAndn => exact memOk_plop h _ _ _ _ _
  | movemGet => exact memOk_execMovemGet h _ _
  | movemSet => exact memOk_execMovemSet h _ _ _
  | movemGetfm => exact memOk_execMovemGetfm h _ _
  | movemGetp => exact memOk_execMovemGetp h _ _
  | movemSetp => exact memOk_execMovemSetp h _ _
  | addF | subF | mulF | minF | maxF => exact memOk_binaryF h _ _ _ _ _ _ _
  | absF | neg | rcp | rsq | sqrt | ex2 | lg2 | rint | frc => exact memOk_unaryF h _ _ _ _ _ _
  | cmpF => exact memOk_execCmpF h _ _ _ _ _ _ _
  | bpack => exact memOk_execBpack h _ _ _
  | bpext => exact memOk_execBpext h _ _ _ _
  | ld | ldRo | ldAcq => exact State.memOk_gload h _ _ _ _ _ _ _
  | st | stRel | stP => exact State.memOk_gstore h _ _ _ _ _ _ _ _
  | stMc => exact memOk_execStMc h _ _ _ _ _
  | lds | ldc => exact State.memOk_spadLoad h _ _ _ _ _ _
  | sts | stc => exact State.memOk_spadStore h _ _ _ _ _ _
  | fenceAcq => exact memOk_execFenceAcq h _ _
  | fenceRel => exact memOk_execFenceRel h _ _
  | fenceFull => exact memOk_execFenceFull h _ _
  | fenceAck => exact memOk_execFenceAck h _
  | pref => exact memOk_execPref h _ _ _
  | cctlInv => exact memOk_execCctlInv h _
  | cctlInvro => exact memOk_execCctlInvro h _
  | cctlLine => exact memOk_execCctlLine h _ _
  | mirrorSync => exact memOk_execMirrorSync h _ _
  | atomAdd | atomMin | atomMax | atomAnd | atomOr | atomXor | atomXchg | atomCas | atomInc | redAdd | redMin | redMax =>
    exact State.memOk_gatom h _ _ _ _ _ _ _ _ _
  | atomPush | atomPop | atomSteal => exact State.memOk_deque h _ _ _ _ _
  | copy | copyl | mcLd => exact State.memOk_copyOp h _ _ _ _ _ _ _ _ _ _
  | wmarkRel => exact memOk_execWmarkRel h _ _
  | wmarkWaitg => exact memOk_execWmarkWaitg h _ _ _
  | wmarkGet => exact memOk_execWmarkGet h _ _
  | wmarkGen => exact memOk_execWmarkGen h _ _
  | mcJoin => exact memOk_execMcJoin h _ _ _ _
  | mcLeave => exact memOk_execMcLeave h _ _ _
  | gather | scatter | scatterAdd => exact State.memOk_idxOp h _ _ _ _ _ _ _ _ _ _ _
  | quant => exact memOk_execQuant h _ _ _ _ _
  | waitt => exact memOk_execWaitt h _ _
  | lrecNew => exact memOk_execLrecNew h _ _ _
  | lrecSetGrid | lrecSetCourse | lrecSetClass | lrecSetCounter | lrecWait => exact State.memOk_lrec h _ _ _
  | launch => exact memOk_execLaunch h _ _
  | joinc => exact memOk_execJoinc h _ _ _
  | strmStat => exact memOk_execStrmStat h _ _ _
  | strmCommit => exact memOk_execStrmCommit h _ _ _ _
  | strmReserve => exact memOk_execStrmReserve h _ _ _ _
  | strmPage => exact memOk_execStrmPage h _ _ _ _
  | strmPageW => exact memOk_execStrmPageW h _ _ _ _ _
  | strmPageC => exact memOk_execStrmPageC h _ _ _ _ _
  | pgalloc => exact memOk_execPgalloc h _ _
  | pgfree => exact memOk_execPgfree h _ _ _ _
  | topk | rhist | biasadd => exact State.memOk_sample h _ _ _ _ _
  | mma | mmaSr | mmaSp | mmaBp | accScale | accLd | accSt => exact State.memOk_matIssue h _ _ _ _ _ _ _
  | accZero | accMov | accCvtS32F32 | accCvtF32S32 => exact State.memOk_matPlain h _ _ _
  | accGet => exact memOk_execAccGet h _ _ _ _
  | accPut | accPutAdd => exact State.memOk_accPut h _ _ _ _
  | reorderPack | reorderAlign | reorderCount => exact State.memOk_reorder h _ _ _ _ _
  | riddleStat => exact memOk_execRiddleStat h _ _
  | seatmap => exact memOk_execSeatmap h _ _
  | nop => exact memOk_execNop h _
  | nopCode => exact memOk_execNopCode h
  | bra => exact memOk_execBra h _ _
  | brx => exact memOk_execBrx h _ _
  | call => exact memOk_execCall h _ _ _
  | callx => exact memOk_execCallx h _ _ _
  | ret => exact memOk_execRet h _ _
  | split => exact memOk_execSplit h _ _ _
  | join => exact memOk_execJoin h _
  | exit => exact memOk_execExit h _
  | kill => exact memOk_execKill h _
  | yield => exact memOk_execYield h _
  | trap => exact memOk_execTrap h _ _
  | sysc => exact memOk_execSysc h _ _
  | brk => exact memOk_execBrk h _ _
  | eret => exact memOk_execEret h _
  | eretSkip => exact memOk_execEretSkip h _
  | barInit => exact memOk_execBarInit h _ _ _
  | barArrive => exact memOk_execBarArrive h _ _ _
  | barWait => exact memOk_execBarWait h _ _ _
  | barSync => exact memOk_execBarSync h _ _
  | barPeek => exact memOk_execBarPeek h _ _ _
  | phase => exact memOk_execPhase h _
  | monitor => exact memOk_execMonitor h _ _ _ _
  | leadRd => exact memOk_execLeadRd h _ _
  | movs => exact memOk_execMovs h _ _ _
  | movsRx => exact memOk_execMovsRx h _ _ _
  | movsp => exact memOk_execMovsp h _ _ _
  | movspTx => exact memOk_execMovspTx h _ _ _
  | csrr => exact memOk_execCsrr h _ _ _
  | csrw => exact memOk_execCsrw h _ _ _
  | csrx => exact memOk_execCsrx h _ _ _ _
  | scrubSt => exact memOk_execScrubSt h _ _ _
  | txbind => exact memOk_execTxbind h _ _ _
  | txunbind => exact memOk_execTxunbind h _ _
  | rxpoll => exact memOk_execRxpoll h _ _ _
  | clauseDecode => exact memOk_execClauseDecode h _ _
  | lateValueArrival => exact memOk_execLateValueArrival h _
  | splitStackTransfer => exact memOk_execSplitStackTransfer h _ _
  | monitorTimeout | monitorEarlyWake => exact State.memOk_wake h _ _ _
  | trapEntry => exact memOk_execTrapEntry h _ _
  | engineFaultTaken => exact memOk_execEngineFaultTaken h _ _
  | sliceAccess => exact memOk_execSliceAccess h _ _
  | sliceMissFill => exact memOk_execSliceMissFill h _ _
  | translationWalkDone => exact memOk_execTranslationWalkDone h _
  | scrubberRead => exact memOk_execScrubberRead h _ _ _ _
  | matrixStepComplete => exact memOk_execMatrixStepComplete h _
  | matrixRemoteArrival => exact memOk_execMatrixRemoteArrival h _
  | copyPieceLand => exact memOk_execCopyPieceLand h _
  | mcRequest => exact memOk_execMcRequest h _
  | mcHoldExpiry => exact memOk_execMcHoldExpiry h _ _ _
  | gatherElementReturn => exact memOk_execGatherElementReturn h _ _
  | scatterElementAck => exact memOk_execScatterElementAck h _ _
  | quantBlockDone => exact memOk_execQuantBlockDone h _
  | sampleComplete => exact memOk_execSampleComplete h _
  | leadUpdate => exact memOk_execLeadUpdate h _
  | flitDeparture => exact memOk_execFlitDeparture h _ _
  | flitArrival => exact memOk_execFlitArrival h _
  | reorderCommit => exact memOk_execReorderCommit h _ _
  | reorderRebuildDone => exact memOk_execReorderRebuildDone h _ _
  | preemptRequest => exact memOk_execPreemptRequest h _ _
  | parkMoveDone => exact memOk_execParkMoveDone h _
  | contextToMemory => exact memOk_execContextToMemory h _ _
  | restore => exact memOk_execRestore h _ _
  | swapOut => exact memOk_execSwapOut h _ _
  | swapConditionEnd => exact memOk_execSwapConditionEnd h _ _
  | highDelayExpiry => exact memOk_execHighDelayExpiry h _ _
  | placeSet => exact memOk_execPlaceSet h _ _
  | brickRetire => exact memOk_execBrickRetire h _ _
  | packetTake => exact memOk_execPacketTake h _
  | queueReread => exact memOk_execQueueReread h _
  | wallReady => exact memOk_execWallReady h _
  | pendingLaunchTake => exact memOk_execPendingLaunchTake h _ _
  | overflowClaim => exact memOk_execOverflowClaim h _
  | unitAccessRetry => exact memOk_execUnitAccessRetry h _
  | streamClose => exact State.memOk_closeStream h _
  | streamStepLaunch => exact memOk_execStreamStepLaunch h _
  | ptmExchange => exact memOk_execPtmExchange h _
  | epochEnd => exact memOk_execEpochEnd h _
  | remoteWriteApply => exact memOk_execRemoteWriteApply h _ _
  | peerFlitReceive => exact memOk_execPeerFlitReceive h _ _
  | peerNak => exact memOk_execPeerNak h _ _
  | peerRetrain => exact memOk_execPeerRetrain h _
  | peerTrained => exact memOk_execPeerTrained h _
  | hostWrite => exact memOk_execHostWrite h _ _ _ _
  | hostRead => exact memOk_execHostRead h _ _ _
  | hostAtomic => exact memOk_execHostAtomic h _ _ _ _ _ _
  | partcfgWrite => exact memOk_execPartcfgWrite h _
  | tlbinvPage | tlbinvAsid | tlbinvAll | tlbinvReserved | tickcmdNone | tickcmdReserved => exact h
  | invalidationComplete => exact memOk_execInvalidationComplete h
  | faultcmdResume => exact memOk_execFaultcmdResume h _
  | faultcmdResumeSkip => exact memOk_execFaultcmdResumeSkip h _
  | faultcmdUnresolvable => exact memOk_execFaultcmdUnresolvable h _
  | faultcmdDeliver => exact memOk_execFaultcmdDeliver h _
  | faultcmdTerminate => exact memOk_execFaultcmdTerminate h _
  | faultcmdReserved => exact memOk_execFaultcmdReserved h _
  | qregRegister => exact memOk_execQregRegister h _
  | qregRemove => exact memOk_execQregRemove h _
  | tickcmdAdmit => exact memOk_execTickcmdAdmit h _
  | tickcmdRetire => exact memOk_execTickcmdRetire h _
  | fqheadWrite => exact memOk_execFqheadWrite h _ _
  | fqReconfigure => exact memOk_execFqReconfigure h _ _ _
  | slicectlWrite => exact memOk_execSlicectlWrite h _ _
  | slicectlRead => exact memOk_execSlicectlRead h _
  | attestQuote => exact memOk_execAttestQuote h
  | attestSignDone => exact memOk_execAttestSignDone h
  | registerWrite => exact memOk_execRegisterWrite h _ _
  | deviceReset => exact memOk_execDeviceReset h _ _
  | thermalThrottle => exact memOk_execThermalThrottle h _ _ _ _ _
  | thermalStop => exact memOk_execThermalStop h
  | peerWrite => exact memOk_execPeerWrite h _ _
  | powerFailure => exact memOk_execPowerFailure h

/-! ### Schedule -/

theorem State.memOk_slewBy (h : s.MemOk) (ns) : (s.slewBy ns).2.MemOk := by
  unfold State.slewBy
  grind -ring [State.memOk_fresh]

theorem State.memOk_passTime (h : s.MemOk) (cycles ns skew pskew) : (s.passTime cycles ns skew pskew).MemOk :=
  FootsOk.mapIdx (State.memOk_landG (State.memOk_slewBy h ns) _) fun _ _ => rfl

theorem State.memOk_happen (h : s.MemOk) (i) : (s.happen i).MemOk := by
  unfold State.happen
  grind -ring [Out.MemOk, memOk_exec]

theorem State.memOk_issue (h : s.MemOk) (core seat) : (s.issue core seat).MemOk := by
  unfold State.issue
  grind -ring [State.memOk_prepare, Prep.MemOk, memOk_exec]

theorem State.memOk_firstOfEvents {t : State} (h : s.MemOk) (l) (ht : s.firstOfEvents l = some t) : t.MemOk := by
  induction l with
  | nil => cases ht
  | cons i r ih =>
    unfold State.firstOfEvents at ht
    grind -ring [Out.MemOk, State.memOk_happen]

theorem State.memOk_decodeAll (h : s.MemOk) : s.decodeAll.MemOk := by
  unfold State.decodeAll
  grind -ring [foldl_memOk, memOk_execClauseDecode, memOk_orKeep]

theorem State.memOk_passMasks (h : s.MemOk) : s.passMasks.MemOk := h.of_foots rfl

theorem State.memOk_openCycle (h : s.MemOk) : s.openCycle.MemOk := by
  unfold State.openCycle
  grind -ring [State.memOk_foots, State.memOk_decodeAll, State.memOk_passMasks]

theorem State.memOk_chosen (h : s.MemOk) : s.chosen.MemOk := by
  unfold State.chosen
  grind -ring [State.memOk_openCycle]

theorem State.memOk_issueNext (h : s.MemOk) (core seat) : (s.issueNext core seat).MemOk := by
  unfold State.issueNext
  grind -ring [Out.MemOk, memOk_chosen, State.memOk_foots, State.memOk_issue]

theorem State.memOk_serveWaiting (h : s.MemOk) : s.serveWaiting.MemOk := by
  unfold State.serveWaiting
  grind -ring [foldl_memOk, State.memOk_servePorts, State.memOk_serveTick, State.memOk_serveMarks]

theorem State.memOk_pass (h : s.MemOk) (cycles ns skew pskew) : (s.pass cycles ns skew pskew).MemOk := by
  unfold State.pass
  grind -ring [Out.MemOk, State.memOk_chosen, State.memOk_passTime, memOk_serveWaiting, memOk_openCycle]

theorem State.memOk_outsideActs (h : s.MemOk) (x) : (s.outsideActs x).MemOk := by
  unfold State.outsideActs
  grind -ring [State.memOk_foots, Out.MemOk, State.memOk_putAll]

theorem State.memOk_act (h : s.MemOk) (a) : (s.act a).MemOk := by
  unfold State.act
  grind -ring [Out.MemOk, State.memOk_issueNext, State.memOk_happen, State.memOk_outsideActs, memOk_pass]

theorem State.memOk_idle (h : s.MemOk) : (s.idle).MemOk := by
  unfold State.idle
  grind -ring [Out.MemOk, memOk_happen, State.memOk_firstOfEvents, State.memOk_chosen, State.memOk_foots]

/-! ### Step -/

theorem memOk_step (h : s.MemOk) : Out.MemOk (step s) := by
  unfold step
  grind -ring [State.memOk_foots, State.memOk_idle, State.memOk_act]

end Sys2Proof.Machine

open Sys2Proof Sys2Proof.Machine

/-- Settles O5: reset leaves every footing's memory empty. -/
theorem resetMemoryIsCanonical : Obligations.ResetMemoryIsCanonical := by
  unfold Obligations.ResetMemoryIsCanonical
  exact State.memOk_reset

/-- Settles O6, function by function of the model: `memOk_step`. -/
theorem stepKeepsMemoryCanonical : Obligations.StepKeepsMemoryCanonical := by
  unfold Obligations.StepKeepsMemoryCanonical
  intro s t canonical stepped
  have kept : Out.MemOk (step s) := memOk_step canonical
  rwa [stepped] at kept

end

section
/-! Settles O30: misaligned accesses to global memory (08:R172). -/

namespace Sys2Proof.Machine

open Sys2Proof

variable {s : State} {g : Gang} {gd : Guard}

/-! ### Accesses at their issue: alignment, then translation -/

theorem State.gload_withPages {t : Ty} {d : Dest} {a : Opnd} {off : BitVec 11} {acq : Option Scope} {ro : Bool}
    (hg : s.curGang = some g) (hr : g.Ready gd [a]) (hm : g.acts gd ≠ 0) :
    ∃ k, s.gload gd t d a off acq ro = s.withPages g (g.acts gd) .read t.bytes (s.vaOf g a off t.bytes) k :=
  ⟨_, (State.perLane_ready _ _ hg hr).trans (if_neg hm)⟩

theorem State.gstore_withPages {t : Ty} {d : Dest} {a b : Opnd} {off : BitVec 11} {k : AccKind} {push : Bool}
    (hg : s.curGang = some g) (hr : g.Ready gd [a, b]) (hm : g.acts gd ≠ 0) :
    ∃ c, s.gstore gd t d a b off k push = s.withPages g (g.acts gd) .write t.bytes (s.vaOf g a off t.bytes) c :=
  ⟨_, (State.perLane_ready _ _ hg hr).trans (if_neg hm)⟩

theorem execStMc_withPages {t : Ty} {a b : Opnd} {off : BitVec 11}
    (hg : s.curGang = some g) (hr : g.Ready gd [a, b]) (hm : g.acts gd ≠ 0) :
    ∃ c, execStMc gd t a b off s = s.withPages g (g.acts gd) .write t.bytes (s.vaOf g a off t.bytes) c :=
  ⟨_, (State.perLane_ready _ _ hg hr).trans (if_neg hm)⟩

theorem State.gatom_withPages {t : Ty} {d : Dest} {a b c : Opnd} {off : BitVec 11} {k : AccKind} {push : Bool}
    (hg : s.curGang = some g) (hr : g.Ready gd [a, b, c]) (hm : g.acts gd ≠ 0) :
    ∃ e, s.gatom gd t d a b c off k push = s.withPages g (g.acts gd) .write t.bytes (s.vaOf g a off t.bytes) e :=
  ⟨_, (State.perLane_ready _ _ hg hr).trans (if_neg hm)⟩

/-- An instruction that makes a request of its acting lanes goes through alignment and translation first. -/
theorem memForm_withPages {i : Instr} {f : MemForm} (hi : memForm i = some f) (hg : s.curGang = some g) (hr : g.Ready f.gd f.os)
    (hm : g.acts f.gd ≠ 0) : ∃ k, exec i s = s.withPages g (g.acts f.gd) f.need f.width (f.va s g) k := by
  unfold memForm at hi
  split at hi <;> cases hi
  case h_1.refl | h_2.refl | h_3.refl => exact State.gload_withPages hg hr hm
  case h_4.refl | h_5.refl | h_6.refl => exact State.gstore_withPages hg hr hm
  case h_7.refl => exact execStMc_withPages hg hr hm
  all_goals exact State.gatom_withPages hg hr hm

theorem State.withPages_misaligned {m : Mask} {n : Need} {w : Nat} {va : Nat → Nat} {k : List (Nat × TlbEntry) → Out} {l : Nat}
    (h : lowest (maskOf fun l => m.getLsbD l && va l % w != 0) = some l) :
    s.withPages g m n w va k = s.trap g 0x18 (BitVec.ofNat 64 (va l)) (maskOf fun l => m.getLsbD l && va l % w != 0) := by
  simp only [State.withPages, h]

/-- Where some lane of a part of a mask is the lowest, the mask is not empty. -/
theorem ne_zero_of_lowest_part {m : Mask} {p : Nat → Bool} {l : Nat} (h : lowest (maskOf fun l => m.getLsbD l && p l) = some l) :
    m ≠ 0 := by
  rintro rfl
  have empty : (maskOf fun l => (0 : Mask).getLsbD l && p l) = 0 := (maskOf_eq_zero _).2 fun l _ => by simp
  rw [empty, show lowest 0 = none by decide] at h
  cases h

end Sys2Proof.Machine

open Sys2Proof Sys2Proof.Machine

/-- Settles O30: alignment is the first thing such an instruction checks. -/
theorem misalignedAccessTraps : Obligations.MisalignedAccessTraps := by
  unfold Obligations.MisalignedAccessTraps
  intro i f s g l _ form current ready bad low
  obtain ⟨k, issued⟩ := memForm_withPages form current ready (ne_zero_of_lowest_part low)
  rw [issued, State.withPages_misaligned low]

end

section
/-! Refutes O29. `State.request` finds what the new request has got of the L1 by its number (`find?` of `s.nextId`), so that in a
state where an open request already bears the next number, an acquire at its issue takes over the tags of that one's accesses: a
footing's observed epochs change (20:R389), which `State.IssueOnly` forbids. The premises of O29 do not say that the next number is
free. -/

namespace Sys2Proof.Machine

open Sys2Proof

/-- A gang with one lane, whose `k0` is 0. -/
def staleGang : Gang :=
  { Gang.start 1 ⟨0, 0⟩ 0 0 0 ⟨0x10000, 64, 1, false, 0, 0⟩ 1 0 0 (Vector.replicate 8 0) 0 with em := 1, live := 1 }

/-- Every address mapped to itself. -/
def stalePage : TlbEntry := { asid := 0, va := 0, size := 2 ^ 56, pa := 0, w := true, x := true, mirror := false }

/-- A load that is done, and bears number 10. -/
def staleReq : MemReq :=
  { id := 10, gid := 1, core := 0, brick := ⟨0, 0⟩, bricks := [], asid := 0, kind := .load .z32 none false, dest := .none, push := true,
    accs := [{ mkAcc 0 0 0 4 0 0 false (2 ^ 56) with done := true }], deps := [], needs := [], rels := [], ended := false,
    arrived := false }

/-- A write of footing 1 in the core's L1, at the address of that load. -/
def staleLine : L1Line := ⟨0, 0, 0, false, List.replicate 128 0, false, [], false, [⟨0, 0, 4, 1, 0, []⟩]⟩

/-- The next request gets number 10 too. -/
def staleState : State :=
  { State.reset with nextId := 10, gangs := [staleGang], tlb := [(0, stalePage)], reqs := [staleReq], l1 := [staleLine] }

/-- LD.ACQ of a word at device scope. -/
def staleLoad : Instr := .ldAcq ⟨false, 7⟩ .z32 .none (.k 0) .device 0

/-- The epochs of footing 1 that footing 0 has observed after an instruction. -/
def observedAfter : Out → Nat
  | .next t => vget (vget t.foots 0).observed 1
  | _ => 0

theorem staleGang_acts : staleGang.acts ⟨false, 7⟩ = 1 := by decide +kernel

theorem staleLoad_goes : (loadForm ⟨false, 7⟩ .z32 .none (.k 0) 0 (some .device) false).Goes staleState staleGang [(0, stalePage)] where
  cur := by decide +kernel
  ready := by
    have lanes : ∀ l < 32, (staleGang.lane l).pbad = false := by decide +kernel
    refine ⟨fun l hl _ => lanes l hl, fun l hl _ o ho => ?_⟩
    obtain rfl : o = .k 0 := by simpa [loadForm] using ho
    exact ⟨rfl, rfl, rfl⟩
  acts := by
    show staleGang.acts ⟨false, 7⟩ ≠ 0
    rw [staleGang_acts]
    decide
  aligned := by
    intro l hl _
    revert l
    decide +kernel
  lanes := by
    show [0] = lanesOf (staleGang.acts ⟨false, 7⟩)
    rw [staleGang_acts]
    decide
  pages := by
    intro p hp
    obtain rfl : p = (0, stalePage) := by simpa using hp
    decide +kernel

theorem observedAfter_staleLoad : observedAfter (exec staleLoad staleState) = 1 := by decide +kernel

end Sys2Proof.Machine

open Sys2Proof Sys2Proof.Machine

/-- Refutes O29: an LD.ACQ of device scope that enters in `staleState` raises what footing 0 has observed of footing 1. -/
theorem not_memoryRequestsEnter : ¬ Obligations.MemoryRequestsEnter := by
  unfold Obligations.MemoryRequestsEnter
  intro holds
  obtain ⟨enters, -, -⟩ := holds staleLoad _ staleState staleGang [(0, stalePage)] rfl staleLoad_goes
  obtain ⟨t, -, -, ran, only, -⟩ := enters rfl
  have same : t.foots = staleState.foots := by rw [only]
  have raised := observedAfter_staleLoad
  rw [ran, observedAfter, same] at raised
  exact absurd raised (by decide +kernel)

end

section
/-! Settles O33: loads from scratchpad and course memory (08:R168-R171, R183). -/

namespace Sys2Proof.Machine

open Sys2Proof

variable {s : State} {g : Gang} {gd : Guard} {t : Ty} {d : Dest} {a : Opnd} {imm : BitVec 24} {course : Bool} {ls : List Nat}

/-! ### The lanes that act now -/

theorem State.lanesNow_congr {m : Mask} {p q : Nat → Bool} (h : ∀ l ∈ lanesOf m, p l = q l) :
    s.lanesNow g m p = s.lanesNow g m q := by
  have same : (lanesOf m).filter (fun l => !p l) = (lanesOf m).filter fun l => !q l :=
    List.filter_congr fun l hl => by rw [h l hl]
  unfold State.lanesNow
  rw [same]

theorem Gang.goesFar_congr {m : Mask} {p q : Nat → Bool} (h : ∀ l ∈ lanesOf m, p l = q l) : g.goesFar m p = g.goesFar m q := by
  have same : (lanesOf m).any p = (lanesOf m).any q := by
    rw [Bool.eq_iff_iff, List.any_eq_true, List.any_eq_true]
    exact exists_congr fun l => and_congr_right fun hl => by rw [h l hl]
  unfold Gang.goesFar
  rw [same]

theorem State.mem_lanesNow {m : Mask} {far : Nat → Bool} (h : s.lanesNow g m far = some ls) {l : Nat} (hl : l ∈ ls) : l ∈ lanesOf m := by
  unfold State.lanesNow at h
  split at h
  · split at h
    · cases h
    · cases h
      exact (List.mem_filter.1 hl).1
  · cases h
    exact (List.mem_filter.1 hl).1

/-! ### A load that no watermark holds and that meets no uncorrectable word -/

/-- What the lanes `ls` of a load get at the places `place`. -/
def State.spadGot (s : State) (course : Bool) (t : Ty) (place : Nat → Except Nat (Brick × Nat)) (ls : List Nat) :
    List (Nat × Nat × Word) :=
  ls.filterMap fun l => (s.spadRead course t (place l)).got l

theorem State.spadLoad_runs (hg : s.curGang = some g) (hr : g.Ready gd [a]) :
    let m := g.acts gd
    let place := fun l => s.spadPlace g course t.bytes (s.spadX g a imm l) l
    let far := fun l => g.farAt (place l)
    s.lanesNow g m far = some ls → (g.reaching = false → s.waitsFor g g.after = []) →
    (∀ l ∈ if g.reaching then ls else lanesOf m, heldAt t.bytes (place l) = false) →
    (∀ l ∈ ls, ∀ w, s.spadRead course t (place l) ≠ .bad w) →
    ∃ y : List (RelInfo × List BKey),
      let G := { g with seenRel := y }
      let got := g.got ++ s.spadGot course t place ls
      s.spadLoad course gd t d a imm = if g.goesFar m far then s.goFar G true got else
        let bad := struckOf got
        let p := s.late G (m &&& ~~~(maskOf fun l => bad.any fun x => x.1 == l)) d (valueOf got)
        p.1.doneStruck p.2 bad := by
  intro m place far now ordered unheld sound
  have goes : (!g.reaching && m != 0 && !(s.waitsFor g g.after).isEmpty ||
      (if g.reaching then ls else lanesOf m).any fun l => heldAt t.bytes (place l)) = false := by
    rw [Bool.or_eq_false_iff]
    refine ⟨?_, List.any_eq_false.2 fun l hl => by rw [unheld l hl]; exact Bool.false_ne_true⟩
    cases reach : g.reaching with
    | true => rfl
    | false => simp [ordered reach]
  refine ⟨(s.sawSpad g t.bytes (ls.map fun l => (l, place l))).seenRel, ?_⟩
  unfold State.spadLoad
  rw [State.perLane_ready _ _ hg hr]
  simp only [show s.lanesNow g (g.acts gd) (fun l => g.farAt (s.spadPlace g course t.bytes (s.spadX g a imm l) l)) = some ls from now]
  rw [if_neg (by simpa using goes)]
  simp only [List.filterMap_map]
  split
  next w met =>
    obtain ⟨x, hx, e⟩ := List.exists_of_findSome?_eq_some met
    obtain ⟨l, hl, rfl⟩ := List.mem_map.1 hx
    split at e
    next read => exact absurd read (sound l hl _)
    next => cases e
  next => rfl

/-- A load that strikes no lane pushes what its lanes have got. -/
theorem State.late_doneStruck {m : Mask} (hm : m ≠ 0) {bad : List (Nat × Nat)} (unstruck : bad = []) (f : Nat → Word) :
    ((s.late g (m &&& ~~~(maskOf fun l => bad.any fun x => x.1 == l)) d f).1.doneStruck
      (s.late g (m &&& ~~~(maskOf fun l => bad.any fun x => x.1 == l)) d f).2 bad) = .next (s.pushesLate g m d f) := by
  subst unstruck
  have all : m &&& ~~~(maskOf fun l => ([] : List (Nat × Nat)).any fun x => x.1 == l) = m := by
    have empty : (maskOf fun l => ([] : List (Nat × Nat)).any fun x => x.1 == l) = 0 := (maskOf_eq_zero _).2 fun _ _ => rfl
    rw [empty]
    exact BitVec.and_allOnes
  rw [all]
  exact State.late_done s g hm d f

theorem struckOf_append (x y : List (Nat × Nat × Word)) : struckOf (x ++ y) = struckOf x ++ struckOf y := by
  simp [struckOf]

/-- Lanes that have a value strike nothing. -/
theorem struckOf_map_zero (ls : List Nat) (v : Nat → Word) : struckOf (ls.map fun l => (l, 0, v l)) = [] := by
  simp [struckOf, List.filter_eq_nil_iff]

theorem State.spadRead_value {b : Brick} {off : Nat} (written : b.allWritten off t.bytes = true)
    (clean : s.badSpad b off t.bytes = none) :
    s.spadRead course t (.ok (b, off)) = .value (tyReg t (leNat (b.readN off t.bytes))) := by
  simp [State.spadRead, written, clean]

end Sys2Proof.Machine

open Sys2Proof Sys2Proof.Machine

/-- Settles O33: every lane's place gives a value, so that no lane is struck. -/
theorem scratchLoadsReturnBytes : Obligations.ScratchLoadsReturnBytes := by
  unfold Obligations.ScratchLoadsReturnBytes
  intro i course gd t d a imm s g at' ls _ instr current ready acts places far ordered now clean unheld readable got
  have issued : exec i s = s.spadLoad course gd t d a imm := by
    subst instr
    cases course <;> rfl
  have lane {l : Nat} (hl : l ∈ lanesOf (g.acts gd)) : s.spadPlace g course t.bytes (s.spadX g a imm l) l = .ok (at' l) := places l hl
  have away : ∀ l ∈ lanesOf (g.acts gd), g.farAt (s.spadPlace g course t.bytes (s.spadX g a imm l) l) = far l :=
    fun l hl => by rw [lane hl]; rfl
  have value {l : Nat} (hl : l ∈ ls) : s.spadRead course t (s.spadPlace g course t.bytes (s.spadX g a imm l) l) =
      .value (tyReg t (leNat ((at' l).1.readN (at' l).2 t.bytes))) := by
    rw [lane (State.mem_lanesNow now hl)]
    exact State.spadRead_value (readable l hl).1 (readable l hl).2
  have compared : ∀ l ∈ if g.reaching then ls else lanesOf (g.acts gd),
      heldAt t.bytes (s.spadPlace g course t.bytes (s.spadX g a imm l) l) = false := fun l hl => by
    have acting : l ∈ lanesOf (g.acts gd) := by
      split at hl
      · exact State.mem_lanesNow now hl
      · exact hl
    rw [lane acting]
    exact unheld l hl
  obtain ⟨y, runs⟩ := State.spadLoad_runs (t := t) (d := d) (imm := imm) (course := course) current ready
    ((State.lanesNow_congr away).trans now) ordered compared fun l hl w => by rw [value hl]; exact nofun
  have read : g.got ++ s.spadGot course t (fun l => s.spadPlace g course t.bytes (s.spadX g a imm l) l) ls = got := by
    have each : s.spadGot course t (fun l => s.spadPlace g course t.bytes (s.spadX g a imm l) l) ls =
        ls.filterMap fun l => some (l, 0, tyReg t (leNat ((at' l).1.readN (at' l).2 t.bytes))) :=
      List.filterMap_congr fun l hl => by rw [value hl]; rfl
    rw [each, List.filterMap_eq_map']
    rfl
  have unstruck : struckOf got = [] := by
    rw [struckOf_append, clean, struckOf_map_zero]
    rfl
  simp only [read, Gang.goesFar_congr away] at runs
  refine ⟨y, fun goes => ?_, fun stays => ?_⟩
  · rw [issued, runs, if_pos goes]
    rfl
  · rw [issued, runs, if_neg (by rw [stays]; exact Bool.false_ne_true)]
    exact State.late_doneStruck acts unstruck _

end

section
/-! Settles O34 and O35: stores to scratchpad and course memory, and lanes struck there (08:R168-R171, R183, 06:R122). -/

namespace Sys2Proof.Machine

open Sys2Proof

variable {s : State} {g : Gang} {gd : Guard} {t : Ty} {a b : Opnd} {imm : BitVec 24} {course : Bool} {ls : List Nat}

/-! ### The bytes of an allotment -/

theorem natLe_getElem {n v k : Nat} (h : k < (natLe n v).length) : (natLe n v)[k] = BitVec.ofNat 8 (v / 256 ^ k) := by
  induction n generalizing v k with
  | zero => cases h
  | succ n ih =>
    cases k with
    | zero => simp [natLe]
    | succ k =>
      simp only [natLe, List.getElem_cons_succ]
      rw [ih, Nat.div_div_eq_div_mul, pow_succ']

/-- A byte of a word. -/
theorem ofNat_div_pow (w : Word) (k : Nat) : BitVec.ofNat 8 (w.toNat / 256 ^ k) = w.extractLsb' (8 * k) 8 := by
  apply BitVec.eq_of_toNat_eq
  simp [Nat.shiftRight_eq_div_pow, pow_mul]

/-- The first cell for an address among those that meet a condition on addresses. -/
theorem find_filter_addr {l : List (Nat × Byte)} {p : Nat → Bool} {i : Nat} :
    (l.filter fun c => p c.1).find? (fun c => c.1 == i) = if p i then l.find? (fun c => c.1 == i) else none := by
  rw [List.find?_filter]
  split
  next h =>
    congr 1
    funext c
    by_cases e : c.1 = i
    · simp [e, h]
    · simp [e]
  next h =>
    rw [List.find?_eq_none]
    rintro c -
    by_cases e : c.1 = i
    · simp [e, h]
    · simp [e]

theorem find_mapIdx_addr {off i : Nat} {bs : List Byte} :
    (bs.mapIdx fun j x => (off + j, x)).find? (fun c => c.1 == i) =
      if h : off ≤ i ∧ i < off + bs.length then some (i, bs[i - off]) else none := by
  induction bs generalizing off with
  | nil => simp
  | cons x r ih =>
    rw [List.mapIdx_cons, List.find?_cons]
    by_cases e : off = i
    · subst e
      simp
    · have shift : (fun j (y : Byte) => (off + (j + 1), y)) = fun j y => (off + 1 + j, y) := by
        funext j y
        rw [Nat.add_assoc, Nat.add_comm 1 j]
      simp only [Nat.add_zero, beq_eq_false_iff_ne.2 e, shift, ih, List.length_cons]
      by_cases h : off + 1 ≤ i ∧ i < off + 1 + r.length
      · have h' : off ≤ i ∧ i < off + (r.length + 1) := by omega
        have at_tail : i - off = i - (off + 1) + 1 := by omega
        simp [h, h', at_tail]
      · have h' : ¬ (off ≤ i ∧ i < off + (r.length + 1)) := by omega
        rw [dif_neg h, dif_neg h']

theorem Brick.byte_write (b : Brick) (off : Nat) (bs : List Byte) (i : Nat) :
    (b.write off bs).byte i = if h : off ≤ i ∧ i < off + bs.length then bs[i - off] else b.byte i := by
  unfold Brick.write
  split
  next e =>
    have short : bs.length = 0 := by simpa using e
    rw [dif_neg (by omega)]
  next =>
    simp only [Brick.byte, List.find?_append, find_mapIdx_addr,
      find_filter_addr (p := fun c => decide (c < off)), find_filter_addr (p := fun c => decide (off + bs.length ≤ c))]
    by_cases low : i < off
    · have out : ¬ (off ≤ i ∧ i < off + bs.length) := by omega
      have high : ¬ off + bs.length ≤ i := by omega
      simp [low, out, high]
    · by_cases h : off ≤ i ∧ i < off + bs.length
      · simp [low, h]
      · have high : off + bs.length ≤ i := by omega
        simp [low, h, high]

@[simp] theorem Brick.write_key (b : Brick) (off : Nat) (bs : List Byte) : (b.write off bs).key = b.key := by
  unfold Brick.write
  split <;> rfl

/-! ### A store of one lane -/

/-- A brick after a lane's bytes are written and tagged at its place, when that is in this brick. -/
def Brick.storeLane (b : Brick) (n : Nat) (place : Nat → Except Nat (Brick × Nat)) (v : Nat → Word) (infos : Nat → List RelInfo)
    (l : Nat) : Brick :=
  match place l with
  | .ok (c, off) => if b.key = c.key then (b.write off (natLe n (v l).toNat)).tag off n (infos l) else b
  | .error _ => b

/-- A lane's part of a store (08:R168-R171). -/
def State.storeLane (s : State) (n : Nat) (place : Nat → Except Nat (Brick × Nat)) (v : Nat → Word) (infos : Nat → List RelInfo)
    (l : Nat) : State :=
  match place l with
  | .ok (c, off) => s.spadPut c.key off (natLe n (v l).toNat) (infos l)
  | .error _ => s

section
variable {n : Nat} {place : Nat → Except Nat (Brick × Nat)} {v : Nat → Word} {infos : Nat → List RelInfo}

theorem Brick.storeLane_rest (b : Brick) (l : Nat) :
    b.storeLane n place v infos l =
      { b with spad := (b.storeLane n place v infos l).spad, written := (b.storeLane n place v infos l).written,
               stags := (b.storeLane n place v infos l).stags } := by
  unfold Brick.storeLane
  split
  · split
    · unfold Brick.tag Brick.write
      split <;> rfl
    · rfl
  · rfl

@[simp] theorem Brick.storeLane_key (b : Brick) (l : Nat) : (b.storeLane n place v infos l).key = b.key := by
  rw [Brick.storeLane_rest]

theorem Brick.byte_tag (b : Brick) (off k : Nat) (x : List RelInfo) (i : Nat) : (b.tag off k x).byte i = b.byte i := rfl

/-- Bytes that the lane does not store. -/
theorem Brick.byte_storeLane_other {b : Brick} {l i : Nat}
    (h : ∀ c off, place l = .ok (c, off) → c.key = b.key → i < off ∨ off + n ≤ i) :
    (b.storeLane n place v infos l).byte i = b.byte i := by
  unfold Brick.storeLane
  split
  next c off at_l =>
    split
    next same =>
      have out := h c off at_l same.symm
      rw [Brick.byte_tag, Brick.byte_write, dif_neg (by rw [length_natLe]; omega)]
    next => rfl
  next => rfl

/-- The bytes that the lane stores. -/
theorem Brick.byte_storeLane {b c : Brick} {l off k : Nat} (at_l : place l = .ok (c, off)) (same : c.key = b.key) (hk : k < n) :
    (b.storeLane n place v infos l).byte (off + k) = (v l).extractLsb' (8 * k) 8 := by
  have inside : off ≤ off + k ∧ off + k < off + (natLe n (v l).toNat).length := by
    rw [length_natLe]
    omega
  unfold Brick.storeLane
  rw [at_l]
  simp only [if_pos same.symm]
  rw [Brick.byte_tag, Brick.byte_write, dif_pos inside, natLe_getElem, Nat.add_sub_cancel_left, ofNat_div_pow]

/-! ### A store of lanes, one after another -/

theorem Brick.storeLanes_rest (b : Brick) (ls : List Nat) :
    ls.foldl (Brick.storeLane · n place v infos) b =
      { b with spad := (ls.foldl (Brick.storeLane · n place v infos) b).spad,
               written := (ls.foldl (Brick.storeLane · n place v infos) b).written,
               stags := (ls.foldl (Brick.storeLane · n place v infos) b).stags } := by
  induction ls generalizing b with
  | nil => rfl
  | cons l r ih =>
    rw [List.foldl_cons, ih, Brick.storeLane_rest]

@[simp] theorem Brick.storeLanes_key (b : Brick) (ls : List Nat) : (ls.foldl (Brick.storeLane · n place v infos) b).key = b.key := by
  rw [Brick.storeLanes_rest]

theorem Brick.byte_storeLanes_other {b : Brick} {i : Nat}
    (h : ∀ l ∈ ls, ∀ c off, place l = .ok (c, off) → c.key = b.key → i < off ∨ off + n ≤ i) :
    (ls.foldl (Brick.storeLane · n place v infos) b).byte i = b.byte i := by
  induction ls generalizing b with
  | nil => rfl
  | cons l r ih =>
    rw [List.foldl_cons, ih fun m hm c off at_m same => h m (List.mem_cons_of_mem _ hm) c off at_m (by simpa using same)]
    exact Brick.byte_storeLane_other (h l List.mem_cons_self)

/-- The bytes of a lane that no later one overlaps. -/
theorem Brick.byte_storeLanes {b c : Brick} {l off k : Nat} (sorted : ls.Pairwise (· < ·)) (hl : l ∈ ls)
    (at_l : place l = .ok (c, off)) (same : c.key = b.key)
    (last : ∀ m ∈ ls, l < m → ∀ e p, place m = .ok (e, p) → e.key = b.key → p + n ≤ off ∨ off + n ≤ p) (hk : k < n) :
    (ls.foldl (Brick.storeLane · n place v infos) b).byte (off + k) = (v l).extractLsb' (8 * k) 8 := by
  induction ls generalizing b with
  | nil => cases hl
  | cons x r ih =>
    obtain ⟨first, sorted⟩ := List.pairwise_cons.1 sorted
    rw [List.foldl_cons]
    rcases List.mem_cons.1 hl with rfl | hl
    · rw [Brick.byte_storeLanes_other, Brick.byte_storeLane at_l same hk]
      intro m hm e p at_m same'
      have := last m (List.mem_cons_of_mem _ hm) (first m hm) e p at_m (by simpa using same')
      omega
    · exact ih sorted hl (by simpa using same) fun m hm lt e p at_m same' =>
        last m (List.mem_cons_of_mem _ hm) lt e p at_m (by simpa using same')

end

/-! ### The same of the state's bricks -/

theorem State.spadPut_rest (s : State) (k : BKey) (off : Nat) (bs : List Byte) (x : List RelInfo) :
    s.spadPut k off bs x = { s with bricks := (s.spadPut k off bs x).bricks, marks := (s.spadPut k off bs x).marks } := by
  unfold State.spadPut State.spadWrite
  dsimp only
  split <;> split <;> rfl

/-- The brick that a key names, where keys are unique. -/
theorem State.eq_of_brick {b x : Brick} (unique : (s.bricks.map Brick.key).Nodup) {k : BKey} (found : s.brick? k = some b)
    (hx : x ∈ s.bricks) (key : x.key = k) : x = b := by
  have hb : b.key = k := by simpa using List.find?_some found
  exact List.inj_on_of_nodup_map unique hx (List.mem_of_find?_eq_some found) (key.trans hb.symm)

theorem State.map_key_of_brick_none {k : BKey} (h : s.brick? k = none) (f : Brick → Brick) :
    (s.bricks.map fun x => if x.key = k then f x else x) = s.bricks := by
  have absent : ∀ x ∈ s.bricks, (if x.key = k then f x else x) = x := fun x hx =>
    if_neg (by simpa using List.find?_eq_none.1 h x hx)
  rw [List.map_congr_left absent, List.map_id']

theorem State.spadPut_bricks (unique : (s.bricks.map Brick.key).Nodup) (k : BKey) (off : Nat) (bs : List Byte) (x : List RelInfo) :
    (s.spadPut k off bs x).bricks = s.bricks.map fun b => if b.key = k then (b.write off bs).tag off bs.length x else b := by
  cases found : s.brick? k with
  | none =>
    rw [State.map_key_of_brick_none found]
    simp only [State.spadPut, State.spadWrite, found]
  | some b =>
    have key : (b.write off bs).key = k := by simpa using List.find?_some found
    have written : (s.spadWrite k off bs).bricks = s.bricks.map fun b' => if b'.key = k then b.write off bs else b' := by
      simp only [State.spadWrite, found, State.setBrick, key]
    have put : (s.spadPut k off bs x).bricks =
        (s.spadWrite k off bs).bricks.map fun b' => if b'.key = k then (b.write off bs).tag off bs.length x else b' := by
      simp only [State.spadPut, State.spadWrite_brick found off bs, State.setBrick]
      rw [show ((b.write off bs).tag off bs.length x).key = k from key]
    rw [put, written, List.map_map]
    refine List.map_congr_left fun b' hb' => ?_
    by_cases e : b'.key = k
    · obtain rfl := State.eq_of_brick unique found hb' e
      simp [e]
    · simp [e]

/-! ### A store's lanes in the state -/

section
variable {n : Nat} {place : Nat → Except Nat (Brick × Nat)} {v : Nat → Word} {infos : Nat → List RelInfo}

theorem State.storeLane_rest (s : State) (l : Nat) :
    s.storeLane n place v infos l = { s with bricks := (s.storeLane n place v infos l).bricks,
                                             marks := (s.storeLane n place v infos l).marks } := by
  unfold State.storeLane
  split
  · exact State.spadPut_rest ..
  · rfl

theorem State.storeLane_bricks (unique : (s.bricks.map Brick.key).Nodup) (l : Nat) :
    (s.storeLane n place v infos l).bricks = s.bricks.map (Brick.storeLane · n place v infos l) := by
  unfold State.storeLane Brick.storeLane
  cases place l with
  | ok x => simp [State.spadPut_bricks unique, length_natLe]
  | error c => simp

theorem State.storeLanes_rest (s : State) (ls : List Nat) :
    ls.foldl (State.storeLane · n place v infos) s =
      { s with bricks := (ls.foldl (State.storeLane · n place v infos) s).bricks,
               marks := (ls.foldl (State.storeLane · n place v infos) s).marks } := by
  induction ls generalizing s with
  | nil => rfl
  | cons l r ih => rw [List.foldl_cons, ih, State.storeLane_rest]

theorem State.storeLanes_bricks (unique : (s.bricks.map Brick.key).Nodup) (ls : List Nat) :
    (ls.foldl (State.storeLane · n place v infos) s).bricks =
      s.bricks.map fun b => ls.foldl (Brick.storeLane · n place v infos) b := by
  induction ls generalizing s with
  | nil => simp
  | cons l r ih =>
    have bricks := State.storeLane_bricks (n := n) (place := place) (v := v) (infos := infos) unique l
    have keys : (s.storeLane n place v infos l).bricks.map Brick.key = s.bricks.map Brick.key := by
      rw [bricks, List.map_map]
      exact List.map_congr_left fun b _ => Brick.storeLane_key b l
    rw [List.foldl_cons, ih (by rw [keys]; exact unique), bricks, List.map_map]
    rfl

/-- What a store's lanes leave is what the statements say of it. -/
theorem State.stored_storeLanes (unique : (s.bricks.map Brick.key).Nodup) (sorted : ls.Pairwise (· < ·)) :
    s.Stored (ls.foldl (State.storeLane · n place v infos) s) ls n place v := by
  refine ⟨State.storeLanes_rest s ls, ?_, fun x hx => ?_⟩
  · rw [State.storeLanes_bricks unique, List.map_map]
    exact List.map_congr_left fun b _ => Brick.storeLanes_key b ls
  · refine ⟨ls.foldl (Brick.storeLane · n place v infos) x, ?_, Brick.storeLanes_rest x ls, ?_, ?_⟩
    · rw [State.storeLanes_bricks unique]
      exact List.mem_map_of_mem hx
    · exact fun off out => Brick.byte_storeLanes_other fun l hl c o at_l same => out l hl c o at_l same
    · exact fun l hl b o at_l same last k hk => Brick.byte_storeLanes sorted hl at_l same last hk

end

/-- The places of other lanes do not matter. -/
theorem State.Stored.congr {u : State} {n : Nat} {p q : Nat → Except Nat (Brick × Nat)} {v : Nat → Word} (h : s.Stored u ls n p v)
    (same : ∀ l ∈ ls, p l = q l) : s.Stored u ls n q v := by
  obtain ⟨rest, keys, bytes⟩ := h
  refine ⟨rest, keys, fun x hx => ?_⟩
  obtain ⟨y, hy, kept, other, own⟩ := bytes x hx
  refine ⟨y, hy, kept, fun off out => other off fun l hl b o at_l => out l hl b o (same l hl ▸ at_l), ?_⟩
  exact fun l hl b o at_l key last => own l hl b o ((same l hl).trans at_l) key fun m hm lt c r at_m =>
    last m hm lt c r (same m hm ▸ at_m)

/-! ### STS and STC -/

theorem lanesOf_sorted (m : Mask) : (lanesOf m).Pairwise (· < ·) := List.pairwise_lt_range.filter _

theorem State.lanesNow_sorted {m : Mask} {far : Nat → Bool} (h : s.lanesNow g m far = some ls) : ls.Pairwise (· < ·) := by
  unfold State.lanesNow at h
  split at h
  · split at h
    · cases h
    · cases h
      exact (lanesOf_sorted m).filter _
  · cases h
    exact (lanesOf_sorted m).filter _

/-- The cause that strikes a store's lane, 0 for none. -/
def placeCause : Except Nat (Brick × Nat) → Nat
  | .error c => c
  | .ok _ => 0

theorem State.spadStore_runs (hg : s.curGang = some g) (hr : g.Ready gd [a, b]) :
    let m := g.acts gd
    let place := fun l => s.spadPlace g course t.bytes (s.spadX g a imm l) l
    let far := fun l => g.farAt (place l)
    let u := ls.foldl (State.storeLane · t.bytes place (s.opnd g 0 b) (s.storeInfo g)) s
    let got := g.got ++ ls.map fun l => (l, placeCause (place l), 0)
    s.lanesNow g m far = some ls → (g.reaching = false → s.waitsFor g (g.after ++ g.afterSt ++ g.hb) = []) →
    s.spadStore course gd t a b imm = if g.goesFar m far then u.goFar g false got else u.doneStruck g (struckOf got) := by
  intro m place far u got now ordered
  have goes : (!g.reaching && m != 0 && !(s.waitsFor g (g.after ++ g.afterSt ++ g.hb)).isEmpty) = false := by
    cases reach : g.reaching with
    | true => rfl
    | false => rw [ordered reach]; simp
  unfold State.spadStore
  rw [State.perLane_ready _ _ hg hr]
  simp only [show s.lanesNow g (g.acts gd) (fun l => g.farAt (s.spadPlace g course t.bytes (s.spadX g a imm l) l)) = some ls from now]
  rw [if_neg (by rw [goes]; exact Bool.false_ne_true)]
  simp only [List.map_map, List.foldl_map]
  rfl

end Sys2Proof.Machine

open Sys2Proof Sys2Proof.Machine

/-- Settles O34: every lane has a place, so that none is struck. -/
theorem scratchStoresWriteBytes : Obligations.ScratchStoresWriteBytes := by
  unfold Obligations.ScratchStoresWriteBytes
  intro i course gd t a b imm s g at' ls _ instr current ready unique places far ordered now clean
  have issued : exec i s = s.spadStore course gd t a b imm := by
    subst instr
    cases course <;> rfl
  have lane {l : Nat} (hl : l ∈ lanesOf (g.acts gd)) : s.spadPlace g course t.bytes (s.spadX g a imm l) l = .ok (at' l) := places l hl
  have away : ∀ l ∈ lanesOf (g.acts gd), g.farAt (s.spadPlace g course t.bytes (s.spadX g a imm l) l) = far l :=
    fun l hl => by rw [lane hl]; rfl
  have stored := State.stored_storeLanes (n := t.bytes) (v := s.opnd g 0 b) (infos := s.storeInfo g) unique
    (place := fun l => s.spadPlace g course t.bytes (s.spadX g a imm l) l) (State.lanesNow_sorted now)
  have gets : (ls.map fun l => (l, placeCause (s.spadPlace g course t.bytes (s.spadX g a imm l) l), (0 : Word))) =
      ls.map fun l => (l, 0, 0) :=
    List.map_congr_left fun l hl => by rw [lane (State.mem_lanesNow now hl)]; rfl
  have unstruck : struckOf (g.got ++ ls.map fun l => (l, 0, 0)) = [] := by
    rw [struckOf_append, clean, struckOf_map_zero _ fun _ => 0]
    rfl
  have runs := State.spadStore_runs (t := t) (imm := imm) (course := course) current ready ((State.lanesNow_congr away).trans now) ordered
  simp only [gets, Gang.goesFar_congr away, unstruck] at runs
  refine ⟨_, stored.congr fun l hl => lane (State.mem_lanesNow now hl), fun goes => ?_, fun stays => ?_⟩
  · rw [issued, runs, if_pos goes, State.storeLanes_rest]
    rfl
  · rw [issued, runs, if_neg (by rw [stays]; exact Bool.false_ne_true)]
    rfl

end

section
/-! Settles O35: lanes of scratchpad accesses that are struck (08:R170, R171, 06:R122). -/

namespace Sys2Proof.Machine

open Sys2Proof

variable {s : State} {g : Gang}

/-- The causes of 08:R171 are not 0. -/
theorem State.spadPlace_cause {course : Bool} {w x l c : Nat} (h : s.spadPlace g course w x l = .error c) : c ≠ 0 := by
  unfold State.spadPlace at h
  grind

theorem mem_struckOf {got : List (Nat × Nat × Word)} {l c : Nat} {v : Word} (h : (l, c, v) ∈ got) (hc : c ≠ 0) :
    (l, c) ∈ struckOf got :=
  List.mem_map.2 ⟨_, List.mem_filter.2 ⟨h, by simpa using hc⟩, rfl⟩

/-- Struck lanes leave, and the others go on. -/
theorem State.doneStruck_leaves {bad : List (Nat × Nat)} (struck : bad ≠ []) :
    s.doneStruck g bad = .next ((s.quarantine g bad).1.leave (s.quarantine g bad).2 (maskOf fun l => bad.any fun x => x.1 == l)
      Gang.advance) :=
  if_neg (by simpa using struck)

theorem State.late_fm (m : Mask) (d : Dest) (f : Nat → Word) : (s.late g m d f).2.fm = g.fm := by
  unfold State.late
  split
  · exact Gang.push_fm ..
  · exact Gang.pushPending_fm ..

theorem State.quarantine_gang (bad : List (Nat × Nat)) :
    (s.quarantine g bad).2 = { g with fm := g.fm ||| maskOf fun l => bad.any fun x => x.1 == l } := rfl

end Sys2Proof.Machine

open Sys2Proof Sys2Proof.Machine

/-- Settles O35: a load's lane gets a cause or its value, and a store's lanes write where they have a place. -/
theorem struckLanesLeave : Obligations.StruckLanesLeave := by
  unfold Obligations.StruckLanesLeave
  intro course gd t d a b imm s g ls current m place far out acts now stays
  have near : g.goesFar m far ≠ true := by rw [stays]; exact Bool.false_ne_true
  refine ⟨?_, ?_⟩
  · intro i _ instr ready ordered unheld sound got bad struck
    have issued : exec i s = s.spadLoad course gd t d a imm := by
      subst instr
      cases course <;> rfl
    have gets {l : Nat} (hl : l ∈ ls) {y : Nat × Nat × Word} (h : (s.spadRead course t (place l)).got l = some y) : y ∈ got :=
      List.mem_append_right _ (List.mem_filterMap.2 ⟨l, hl, h⟩)
    refine ⟨fun l hl => ⟨fun c fails => ?_, fun x off at_l => ⟨fun unwritten => ?_, fun written => ?_⟩⟩, ?_⟩
    · exact mem_struckOf (gets hl (by rw [fails]; rfl)) (State.spadPlace_cause fails)
    · refine mem_struckOf (v := 0) (gets hl ?_) (by split <;> decide)
      rw [at_l]
      simp only [State.spadRead, unwritten]
      rfl
    · refine gets hl ?_
      have clean : s.badSpad x off t.bytes = none := by
        cases marked : s.badSpad x off t.bytes with
        | none => rfl
        | some w => exact absurd (by rw [at_l]; simp [State.spadRead, written, marked]) (sound l hl w)
      rw [at_l, State.spadRead_value written clean]
      rfl
    · obtain ⟨y, runs⟩ := State.spadLoad_runs (t := t) (d := d) (imm := imm) (course := course) current ready now ordered unheld sound
      refine ⟨y, ?_, ?_⟩
      · exact (issued.trans runs).trans ((if_neg near).trans (State.doneStruck_leaves struck))
      · rw [State.quarantine_gang, State.late_fm]
  · intro i _ instr ready unique ordered bad struck
    have issued : exec i s = s.spadStore course gd t a b imm := by
      subst instr
      cases course <;> rfl
    have runs := State.spadStore_runs (t := t) (imm := imm) (course := course) current ready now ordered
    refine ⟨fun l hl c fails => ?_, _, State.stored_storeLanes (infos := s.storeInfo g) unique (State.lanesNow_sorted now), ?_, rfl⟩
    · refine mem_struckOf (v := 0) (List.mem_append_right _ (List.mem_map.2 ⟨l, hl, ?_⟩)) (State.spadPlace_cause fails)
      rw [fails]
    · exact (issued.trans runs).trans ((if_neg near).trans (State.doneStruck_leaves struck))

end

section
/-! Settles O31: fences (08:R187). -/

namespace Sys2Proof.Machine

open Sys2Proof

variable {s : State} {g : Gang}

/-! ### A request that updates no L1 enters -/

theorem State.hit_eq (s : State) (core : Nat) (k : AccKind) (a : Access) :
    s.hit core k a = { a with done := (s.hit core k a).done, val := (s.hit core k a).val } := by
  unfold State.hit
  split
  · split
    · rfl
    · split
      · split <;> rfl
      · rfl
  · rfl

/-- The request that enters (08:R181): its number is the next one. -/
def State.entering (s : State) (g : Gang) (k : AccKind) (d : Dest) (push : Bool) (accs : List Access) (extra : List Nat) : MemReq :=
  let deps := (s.depsOf g k (accs.map fun a => (a.pa, a.bytes)) ++ extra).eraseDups
  let hits := if deps.isEmpty then accs.map (s.hit g.core k) else accs
  { id := s.nextId, gid := g.gid, core := g.core, brick := g.brick,
    bricks := g.laneBricks (maskOf fun l => hits.any fun a => a.lane == l), asid := s.asidOf g.brick.wall, kind := k, dest := d,
    push := push, accs := hits, deps := deps, needs := [], rels := if k.writes then s.relsOf g k.release else [], ended := false,
    arrived := !push, early := s.accepts g.core k deps }

theorem State.entering_isNew (s : State) (g : Gang) (k : AccKind) (d : Dest) (push : Bool) (accs : List Access) (extra : List Nat) :
    (s.entering g k d push accs extra).IsNew s g k d push accs := by
  refine ⟨rfl, rfl, rfl, rfl, rfl, rfl, ?_⟩
  unfold State.entering
  dsimp only
  split
  · rw [List.map_map]
    exact List.map_congr_left fun a _ => by rw [Function.comp, State.hit_eq]
  · rfl

/-- The state with a new request, and no other change. -/
def State.withReq (s : State) (r : MemReq) : State := { s with nextId := s.nextId + 1, reqs := s.reqs ++ [r] }

/-- What `State.enter` gives for a request that is no store (08:R175): the request alone is new in the state. -/
theorem State.enter_eq (s : State) (g : Gang) {k : AccKind} (hk : k.stores = false) (d : Dest) (push : Bool) (accs : List Access)
    (extra : List Nat) :
    let t := s.withReq (s.entering g k d push accs extra)
    s.enter g k d push accs extra =
      (t, if k.acquire.isSome then { g with after := t.openOf g.after ++ [s.nextId] } else g, s.nextId) := by
  intro t
  have late : ({ s with nextId := s.nextId + 1 } : State).accepts g.core k
      (s.depsOf g k (accs.map fun a => (a.pa, a.bytes)) ++ extra).eraseDups = false := by
    simp [State.accepts, hk]
  unfold State.enter
  dsimp only [State.newId]
  rw [if_neg (by rw [late]; exact Bool.false_ne_true)]
  rfl

/-! ### Fences -/

theorem State.fence_eq (s : State) (g : Gang) (rel acq : Bool) (sc : Scope) (deps : List Nat) :
    let t := s.withReq (s.entering g (.fence rel acq sc) .none false [{ mkAcc 0 0 0 0 0 0 false 0 with bytes := 0 }] deps)
    s.fence g rel acq sc deps = (t, { g with
      after := if acq then t.openOf g.after ++ [s.nextId] else g.after
      afterSt := if rel then t.openOf g.afterSt ++ [s.nextId] else g.afterSt
      fences := if rel then (sc, t.relIds g sc) :: g.fences.filter (fun x => x.1 != sc) else g.fences }) := by
  intro t
  simp only [State.fence, State.enter_eq s g (k := .fence rel acq sc) rfl]
  rfl

/-- What a fence leaves, whatever it waits for. -/
theorem State.fence_done (s : State) (g : Gang) (rel acq : Bool) (sc : Scope) (deps : List Nat) :
    ∃ (t : State) (r : MemReq) (g1 : Gang), (s.fence g rel acq sc deps).1.done (s.fence g rel acq sc deps).2 = .next t ∧ s.IssueOnly t ∧
      t.reqs = s.reqs ++ [r] ∧ r.id = s.nextId ∧ r.gid = g.gid ∧ r.kind = .fence rel acq sc ∧ g.OrderOnly g1 ∧
      t.gangs = (s.setGang g1.advance).gangs ∧ (acq = true → s.nextId ∈ g1.after) ∧
      (rel = true → s.nextId ∈ g1.afterSt ∧ ∃ ids, (sc, ids) ∈ g1.fences) ∧ s.SameMem t := by
  refine ⟨_, s.entering g (.fence rel acq sc) .none false [{ mkAcc 0 0 0 0 0 0 false 0 with bytes := 0 }] deps,
    (s.fence g rel acq sc deps).2, rfl, ?_⟩
  rw [State.fence_eq]
  refine ⟨rfl, rfl, rfl, rfl, rfl, rfl, rfl, ?_, ?_, fun _ _ => rfl⟩
  · rintro rfl
    simp
  · rintro rfl
    simp

theorem State.once_fence {gd : Guard} {l : Nat} (once : s.Once g gd [] l) (rel acq : Bool) (sc : Scope) (deps : Gang → List Nat) :
    (s.once gd [] false fun G _ _ => let (s, G) := s.fence G rel acq sc (deps G); s.done G) =
      (s.fence g rel acq sc (deps g)).1.done (s.fence g rel acq sc (deps g)).2 :=
  once.runs false _

/-- Every write of a gang is acknowledged (08:R187), as the statements say it. -/
theorem State.acknowledged_iff (s : State) (gid : Nat) :
    ((s.undoneWrites gid).isEmpty && s.tagsIn gid && s.atHome gid) = true ↔
      s.undoneWrites gid = [] ∧ (∀ r ∈ s.reqs, r.gid = gid → r.kind = .posted → r.arrived = true) ∧
        ∀ w ∈ s.writes, w.gid = gid → w.order.isSome = true := by
  simp only [State.tagsIn, State.atHome, Bool.and_eq_true, List.isEmpty_iff, List.all_eq_true, Bool.or_eq_true, bne_iff_ne, and_assoc]
  refine and_congr_right fun _ => and_congr ?_ ?_
  · exact forall₂_congr fun r _ => by tauto
  · exact forall₂_congr fun w _ => by tauto

end Sys2Proof.Machine

open Sys2Proof Sys2Proof.Machine

/-- Settles O31: the three fences are one operation, with what each of them covers. -/
theorem fencesOrderAccesses : Obligations.FencesOrderAccesses := by
  unfold Obligations.FencesOrderAccesses
  refine ⟨fun gd sc s g l once i rel acq instr => ?_, fun gd s g l once => ?_⟩
  · rcases instr with ⟨rfl, rfl, rfl⟩ | ⟨rfl, rfl, rfl⟩ | ⟨rfl, rfl, rfl⟩
    · rw [show exec (.fenceAcq gd sc) s = _ from State.once_fence once false true sc fun G => (s.ownLoads G)]
      exact State.fence_done ..
    · rw [show exec (.fenceRel gd sc) s = _ from State.once_fence once true false sc fun G => (s.coveredAt G sc)]
      exact State.fence_done ..
    · rw [show exec (.fenceFull gd sc) s = _ from State.once_fence once true true sc fun G => ((s.ownLoads G ++ s.coveredAt G sc).eraseDups)]
      exact State.fence_done ..
  · intro all
    have runs := once.runs false fun G _ _ =>
      if (s.undoneWrites G.gid).isEmpty && s.tagsIn G.gid && s.atHome G.gid then s.done G else s.stall G
    refine ⟨fun yes => runs.trans (if_pos ((State.acknowledged_iff s g.gid).2 yes)), fun no => runs.trans (if_neg fun h => no ?_)⟩
    exact (State.acknowledged_iff s g.gid).1 h

end

section
/-! Settles O32: PREF, MIRROR.SYNC and CCTL (08:R177, R185, R186). -/

namespace Sys2Proof.Machine

open Sys2Proof

variable {s : State} {g : Gang}

/-! ### A request that neither stores nor acquires -/

theorem Gang.OrderOnly.refl (g : Gang) : g.OrderOnly g := rfl

theorem Gang.OrderOnly.trans {a b c : Gang} (h : a.OrderOnly b) (h' : b.OrderOnly c) : a.OrderOnly c := by
  unfold Gang.OrderOnly at *
  rw [h'.trans (by rw [h])]

theorem State.sawTags_orderOnly (s : State) (g : Gang) (bs : List BKey) (view pa n : Nat) (ts : List WTag) :
    g.OrderOnly (s.sawTags g bs view pa n ts) := rfl

theorem State.showHits_saw (s : State) (g : Gang) {k : AccKind} (hk : k.acquire = none) (accs : List Access) :
    (s.showHits g k accs).1 = s ∧ g.OrderOnly (s.showHits g k accs).2 := by
  refine List.foldlRecOn _ _ (motive := fun x : State × Gang => x.1 = s ∧ g.OrderOnly x.2) ⟨rfl, .refl g⟩ fun x h a _ => ?_
  obtain ⟨same, order⟩ := h
  dsimp only
  rw [hk]
  exact ⟨same, order.trans (x.1.sawTags_orderOnly ..)⟩

/-- Such a request enters, and its gang goes on. -/
theorem State.request_enters (s : State) (g : Gang) (m : Mask) {k : AccKind} (hs : k.stores = false) (ha : k.acquire = none) (d : Dest)
    (accs : List Access) : ∃ g1, g.OrderOnly g1 ∧
      s.request g m k d false accs = .next ((s.withReq (s.entering g k d false accs [])).setGang g1.advance) := by
  unfold State.request
  simp only [State.enter_eq s g hs, ha, Option.isSome_none, Bool.false_eq_true, if_false]
  obtain ⟨same, order⟩ := State.showHits_saw (s.withReq (s.entering g k d false accs [])) g ha
    ((((s.withReq (s.entering g k d false accs [])).reqs.find? fun r => r.id == s.nextId).map MemReq.accs).getD [])
  refine ⟨_, order, ?_⟩
  rw [same]
  rfl

theorem MemReq.IsNew.pas {r : MemReq} {k : AccKind} {d : Dest} {push : Bool} {accs : List Access} (h : r.IsNew s g k d push accs) :
    r.accs.map Access.pa = accs.map Access.pa := by
  have := congrArg (List.map fun x => x.2.2.1) h.accs
  simpa only [List.map_map, Function.comp_def] using this

/-! ### Pages of prefetches and cache operations -/

/-- The two states differ at most by translations: in the group TLBs and in what their reads of tables do. -/
def State.OnlyTranslates (s t : State) : Prop := t = { s with gtlb := t.gtlb, slices := t.slices, peers := t.peers, sent := t.sent }

theorem State.OnlyTranslates.trans {s t u : State} (h : s.OnlyTranslates t) (h' : t.OnlyTranslates u) : s.OnlyTranslates u := by
  unfold State.OnlyTranslates at *
  rw [h'.trans (by rw [h])]

theorem State.OnlyReads.onlyTranslates {s t : State} (h : s.OnlyReads t) : s.OnlyTranslates t := by
  unfold State.OnlyReads State.OnlyTranslates at *
  rw [h]

theorem State.translate_onlyTranslates {t : State} {e : TlbEntry} {group part asid va : Nat} {n : Need}
    (h : s.translate group part asid va n = some (e, t)) : s.OnlyTranslates t := by
  unfold State.translate at h
  split at h
  · cases h
    rfl
  · split at h
    · cases h
    · split at h
      · split at h
        · cases h
          exact (s.onlyReads_walkOut part asid va).onlyTranslates.trans rfl
        · cases h
      · cases h

theorem State.softPages_onlyTranslates (s : State) (g : Gang) (m : Mask) (va : Nat → Nat) : s.OnlyTranslates (s.softPages g m va).2 := by
  refine List.foldlRecOn _ _ (motive := fun x : List (Nat × TlbEntry) × State => s.OnlyTranslates x.2) rfl fun x h l _ => ?_
  split
  · exact h
  · split
    next ran => exact h.trans (State.translate_onlyTranslates ran)
    · exact h

/-- Every lane's page is in the core's TLBs. -/
def State.Mapped (s : State) (g : Gang) (n : Need) (va : Nat → Nat) (ps : List (Nat × TlbEntry)) : Prop :=
  ∀ p ∈ ps, s.lookup g.core (s.asidOf g.brick.wall) (va p.1) n = some p.2

theorem State.softPages_mapped {m : Mask} {va : Nat → Nat} {ps : List (Nat × TlbEntry)} (lanes : ps.map Prod.fst = lanesOf m)
    (mapped : s.Mapped g .read va ps) : s.softPages g m va = (ps, s) := by
  have each (done : List (Nat × TlbEntry)) : ∀ ps : List (Nat × TlbEntry), s.Mapped g .read va ps →
      (ps.map Prod.fst).foldl (fun (x : List (Nat × TlbEntry) × State) l =>
        match x.2.lookup g.core (s.asidOf g.brick.wall) (va l) .read with
        | some e => (x.1 ++ [(l, e)], x.2)
        | none =>
          match x.2.translate (groupOf g.core) (s.gangPart g) (s.asidOf g.brick.wall) (va l) .read with
          | some (e, s') => (x.1 ++ [(l, e)], s')
          | none => x) (done, s) = (done ++ ps, s) := by
    intro ps mapped
    induction ps generalizing done with
    | nil => simp
    | cons p r ih =>
      rw [List.map_cons, List.foldl_cons]
      simp only [mapped p List.mem_cons_self]
      rw [ih _ fun q hq => mapped q (List.mem_cons_of_mem _ hq), List.append_assoc]
      rfl
  have := each [] ps mapped
  rw [lanes] at this
  exact this

theorem State.softWaits_mapped {m : Mask} {va : Nat → Nat} {ps : List (Nat × TlbEntry)} (lanes : ps.map Prod.fst = lanesOf m)
    (mapped : s.Mapped g .read va ps) : s.softWaits g m va = false := by
  rw [State.softWaits, ← lanes, List.any_map, List.any_eq_false]
  intro p hp
  simp [mapped p hp]

/-- Pages that no TLB has and that no table maps are left out (08:R186). -/
theorem State.softPages_unmapped {m : Mask} {va : Nat → Nat}
    (none' : ∀ l ∈ lanesOf m, s.lookup g.core (s.asidOf g.brick.wall) (va l) .read = none ∧
      s.translate (groupOf g.core) (s.gangPart g) (s.asidOf g.brick.wall) (va l) .read = none) : s.softPages g m va = ([], s) := by
  refine List.foldlRecOn _ _ (motive := fun x : List (Nat × TlbEntry) × State => x = ([], s)) rfl fun x h l hl => ?_
  subst h
  simp only [none' l hl]

theorem State.lookupAll_mapped {n : Need} {va : Nat → Nat} {ps : List (Nat × TlbEntry)} (mapped : s.Mapped g n va ps) :
    s.lookupAll g.core (s.asidOf g.brick.wall) n ((ps.map Prod.fst).map va) = .ok (ps.map Prod.snd) := by
  induction ps with
  | nil => rfl
  | cons p r ih =>
    simp only [List.map_cons, State.lookupAll, mapped p List.mem_cons_self]
    rw [ih fun q hq => mapped q (List.mem_cons_of_mem _ hq)]

/-- Aligned accesses to pages that the TLBs have go on with them. -/
theorem State.withPages_mapped {m : Mask} {n : Need} {w : Nat} {va : Nat → Nat} {ps : List (Nat × TlbEntry)}
    (k : List (Nat × TlbEntry) → Out) (aligned : ∀ l < 32, m.getLsbD l = true → va l % w = 0) (lanes : ps.map Prod.fst = lanesOf m)
    (mapped : s.Mapped g n va ps) : s.withPages g m n w va k = k ps := by
  have fine : (maskOf fun l => m.getLsbD l && va l % w != 0) = 0 := by
    rw [maskOf_eq_zero]
    intro l hl
    cases acting : m.getLsbD l with
    | false => rfl
    | true => simp [aligned l hl acting]
  unfold State.withPages
  dsimp only
  rw [fine, show lowest 0 = none by decide, ← lanes]
  simp only [State.lookupAll_mapped mapped]
  rw [← List.unzip_fst, ← List.unzip_snd, List.zip_unzip]

/-! ### PREF -/

theorem execPref_waits {gd : Guard} {a : Opnd} {l2 : Bool} (hg : s.curGang = some g) (hr : g.Ready gd [a])
    (waits : s.softWaits g (g.acts gd) (fun l => bits (s.opnd g 0 a l) 0 56 / 128 * 128) = true) : execPref gd a l2 s = s.stall g :=
  (State.perLane_ready _ _ hg hr).trans (if_pos waits)

theorem execPref_goes {gd : Guard} {a : Opnd} {l2 : Bool} (hg : s.curGang = some g) (hr : g.Ready gd [a]) :
    let va := fun l => bits (s.opnd g 0 a l) 0 56 / 128 * 128
    let x := s.softPages g (g.acts gd) va
    let accs := x.1.map fun (l, e) => mkAcc l (va l) (e.phys (footOf g.core) (va l)) 128 0 0 e.mirror e.size
    s.softWaits g (g.acts gd) va = false →
      execPref gd a l2 s = if x.1.isEmpty then x.2.done g else x.2.request g (g.acts gd) (.prefetch l2) .none false accs := by
  intro va x accs goes
  exact (State.perLane_ready _ _ hg hr).trans (if_neg (ne_true_of_eq_false goes))

/-! ### MIRROR.SYNC -/

/-- The lines of a MIRROR.SYNC, each once. -/
def syncLines (l : List (Nat × Nat × Nat × Nat)) : List (Nat × Nat × Nat × Nat) :=
  l.foldl (fun acc x => if acc.any fun y => y.2.2.1 == x.2.2.1 then acc else acc ++ [x]) []

theorem syncLines_ne_nil {l : List (Nat × Nat × Nat × Nat)} (h : l ≠ []) : syncLines l ≠ [] := by
  cases l with
  | nil => exact absurd rfl h
  | cons x r =>
    refine List.foldlRecOn r _ (motive := fun acc => acc ≠ []) (by simp) fun acc hacc y _ => ?_
    split
    · exact hacc
    · simp

/-- The accesses of a MIRROR.SYNC: for each line a read of the local replica, then a write of each other one (08:R185). -/
def syncAccs (foot : Nat) (l : List (Nat × Nat × Nat × Nat)) : List Access :=
  (syncLines l).flatMap fun (l, v, pa, n) =>
    mkAcc l v pa 128 0 0 true n :: ((List.range 4).filter fun f => f != foot).map fun f => mkAcc l v (replica f pa) 128 0 0 true n

theorem syncAccs_isEmpty (foot : Nat) (l : List (Nat × Nat × Nat × Nat)) : (syncAccs foot l).isEmpty = l.isEmpty := by
  cases l with
  | nil => rfl
  | cons x r =>
    have some := syncLines_ne_nil (List.cons_ne_nil x r)
    cases lines : syncLines (x :: r) with
    | nil => exact absurd lines some
    | cons y q => simp [syncAccs, lines]

theorem execMirrorSync_mapped {gd : Guard} {a : Opnd} {ps : List (Nat × TlbEntry)} (hg : s.curGang = some g) (hr : g.Ready gd [a])
    (hm : g.acts gd ≠ 0) (lanes : ps.map Prod.fst = lanesOf (g.acts gd)) :
    let va := fun l => bits (s.opnd g 0 a l) 0 56 / 128 * 128
    let lines := (ps.filter fun x => x.2.mirror).map fun (l, e) => (l, va l, e.phys (footOf g.core) (va l), e.size)
    s.Mapped g .write va ps →
    execMirrorSync gd a s = if (syncAccs (footOf g.core) lines).isEmpty then s.done g
      else s.request g (g.acts gd) .mirrorSync .none false (syncAccs (footOf g.core) lines) := by
  intro va lines mapped
  exact ((State.perLane_ready _ _ hg hr).trans (if_neg hm)).trans
    (State.withPages_mapped _ (fun l _ _ => Nat.mul_mod_left ..) lanes mapped)

/-! ### CCTL.LINE -/

/-- The lines that leave a core's L1. -/
def State.dropLines (s : State) (core : Nat) (line : Nat × TlbEntry → Nat) (ps : List (Nat × TlbEntry)) : State :=
  ps.foldl (fun s p => (s.l1Drop core (line p) false).l1Drop core (line p) true) s

theorem State.dropLines_rest (s : State) (core : Nat) (line : Nat × TlbEntry → Nat) (ps : List (Nat × TlbEntry)) :
    s.dropLines core line ps = { s with l1 := (s.dropLines core line ps).l1 } := by
  unfold State.dropLines
  induction ps generalizing s with
  | nil => rfl
  | cons p r ih =>
    rw [List.foldl_cons, ih]
    rfl

theorem State.mem_dropLines (s : State) (core : Nat) (line : Nat × TlbEntry → Nat) (ps : List (Nat × TlbEntry)) (x : L1Line) :
    x ∈ (s.dropLines core line ps).l1 ↔ x ∈ s.l1 ∧ ¬ (x.core = core ∧ ∃ p ∈ ps, x.line = line p) := by
  unfold State.dropLines
  induction ps generalizing s with
  | nil => simp
  | cons p r ih =>
    have first : x ∈ ((s.l1Drop core (line p) false).l1Drop core (line p) true).l1 ↔ x ∈ s.l1 ∧ ¬ (x.core = core ∧ x.line = line p) := by
      cases ro : x.ro <;> simp [State.l1Drop, ro, imp_iff_not_or]
    rw [List.foldl_cons, ih, first, List.exists_mem_cons_iff, and_or_left, not_or, and_assoc]

theorem execCctlLine_waits {gd : Guard} {a : Opnd} (hg : s.curGang = some g) (hr : g.Ready gd [a])
    (waits : s.softWaits g (g.acts gd) (fun l => bits (s.opnd g 0 a l) 0 56) = true) : execCctlLine gd a s = s.stall g :=
  (State.perLane_ready _ _ hg hr).trans (if_pos waits)

theorem execCctlLine_goes {gd : Guard} {a : Opnd} (hg : s.curGang = some g) (hr : g.Ready gd [a]) :
    let va := fun l => bits (s.opnd g 0 a l) 0 56
    let x := s.softPages g (g.acts gd) va
    s.softWaits g (g.acts gd) va = false →
      execCctlLine gd a s = (x.2.dropLines g.core (fun p => p.2.phys (footOf g.core) (va p.1) / 128) x.1).done g := by
  intro va x goes
  exact (State.perLane_ready _ _ hg hr).trans (if_neg (ne_true_of_eq_false goes))

end Sys2Proof.Machine

open Sys2Proof Sys2Proof.Machine

/-- Settles O32: each instruction by whether a page of its lanes waits for a walk, and by the pages it then finds. -/
theorem cacheInstructionsRun : Obligations.CacheInstructionsRun := by
  unfold Obligations.CacheInstructionsRun
  refine ⟨fun gd a l2 s g current ready => ?_, fun gd a l2 s g ps current ready lanes => ?_, fun gd a l2 s g current ready => ?_,
    fun gd a s g ps current ready acts lanes => ?_, fun gd s g l once => ?_, fun gd a s g ps current ready lanes mapped => ?_,
    fun gd a s g current ready goes => ?_⟩
  · refine ⟨fun goes => ?_, execPref_waits current ready, execCctlLine_waits current ready⟩
    have only := s.softPages_onlyTranslates g (g.acts gd) fun l => bits (s.opnd g 0 a l) 0 56 / 128 * 128
    have ran : exec (.pref gd a l2) s = _ := execPref_goes current ready goes
    rw [ran]
    split
    · refine ⟨_, g, rfl, .refl g, ?_, ?_⟩
      · rw [only]
        rfl
      · rw [only]
        exact fun _ _ => rfl
    · obtain ⟨g1, order, entered⟩ := State.request_enters _ g (g.acts gd) (k := .prefetch l2) rfl rfl .none _
      refine ⟨_, g1, entered, order, ?_, ?_⟩
      · rw [only]
        rfl
      · rw [only]
        exact fun _ _ => rfl
  · intro va mapped
    have ran : exec (.pref gd a l2) s = _ := execPref_goes current ready (State.softWaits_mapped lanes mapped)
    rw [State.softPages_mapped lanes mapped] at ran
    rw [ran]
    cases ps with
    | nil => exact ⟨_, rfl, rfl, fun _ _ => rfl, fun _ => rfl, fun h => absurd rfl h⟩
    | cons p r =>
      obtain ⟨g1, order, entered⟩ := State.request_enters s g (g.acts gd) (k := .prefetch l2) rfl rfl .none
        ((p :: r).map fun (l, e) => mkAcc l (va l) (e.phys (footOf g.core) (va l)) 128 0 0 e.mirror e.size)
      refine ⟨_, entered, rfl, fun _ _ => rfl, fun h => absurd h (List.cons_ne_nil p r), fun _ => ⟨_, rfl, rfl, rfl, rfl, rfl, ?_⟩⟩
      rw [(State.entering_isNew ..).pas, List.map_map]
      rfl
  · intro unmapped
    have ran : exec (.pref gd a l2) s = _ := execPref_goes current ready ?_
    · rw [State.softPages_unmapped fun l hl => ⟨(unmapped l hl).1, (unmapped l hl).2.2⟩] at ran
      exact ran
    · rw [State.softWaits, List.any_eq_false]
      intro l hl
      have waits := (unmapped l hl).2.1
      rw [waits, Bool.and_false]
      exact Bool.false_ne_true
  · intro mapped
    have ran : exec (.mirrorSync gd a) s = _ := execMirrorSync_mapped current ready acts lanes mapped
    rw [ran, syncAccs_isEmpty, List.isEmpty_map]
    split
    next none =>
      have plain : ∀ p ∈ ps, p.2.mirror = false := by simpa using none
      refine ⟨_, g, rfl, .refl g, rfl, rfl, fun _ _ => rfl, fun _ => rfl, ?_⟩
      rintro ⟨p, hp, mirror⟩
      rw [plain p hp] at mirror
      cases mirror
    next some =>
      obtain ⟨g1, order, entered⟩ := State.request_enters s g (g.acts gd) (k := .mirrorSync) rfl rfl .none _
      refine ⟨_, g1, entered, order, rfl, rfl, fun _ _ => rfl, fun plain => absurd (by simpa using plain) some, fun _ => ⟨_, rfl, rfl⟩⟩
  · exact ⟨once.runs false fun G _ _ => (s.dropPlain G.core).done G,
      once.runs false fun G _ _ => ({ s with l1 := s.l1.filter fun x => x.core != G.core || !x.ro } : State).done G⟩
  · have pages : s.Mapped g .read (fun l => bits (s.opnd g 0 a l) 0 56) ps := mapped
    have ran : exec (.cctlLine gd a) s = _ := execCctlLine_goes current ready (State.softWaits_mapped lanes pages)
    rw [State.softPages_mapped lanes pages] at ran
    exact ⟨_, ran, State.dropLines_rest .., State.mem_dropLines s g.core _ ps⟩
  · have only := s.softPages_onlyTranslates g (g.acts gd) fun l => bits (s.opnd g 0 a l) 0 56
    refine ⟨_, execCctlLine_goes current ready goes, ?_, fun x hx => ?_⟩
    · rw [State.dropLines_rest, only]
    · have kept := ((State.mem_dropLines ..).1 hx).1
      rwa [only] at kept

end

section
/-! Settles O47: a store performed at its slice (08:R184, R188, 20:R387). -/

namespace Sys2Proof.Machine

open Sys2Proof

variable {s : State} {r : MemReq} {i : Nat} {a : Access} {id : Nat}

/-! ### An access reaches its slice -/

/-- The request with its accesses to slice `k` there (02:R17). -/
def MemReq.reached (r : MemReq) (s : State) (k : Nat) : MemReq :=
  { r with accs := r.accs.map fun a => if s.accSlice r a = k then { a with arr := s.arrival a } else a }

/-- An access with the cycle in which it reaches its slice. -/
def Access.reached (a : Access) (s : State) : Access := { a with arr := s.arrival a }

theorem MemReq.reached_accs (h : r.accs[i]? = some a) : (r.reached s (s.accSlice r a)).accs[i]? = some (a.reached s) := by
  simp [MemReq.reached, h, Access.reached]

theorem State.find_reach {k : Nat} (h : s.reqs.find? (fun x => x.id == id) = some r) :
    (s.reach r k).reqs.find? (fun x => x.id == r.id) = some (r.reached s k) := by
  have named : r.id = id := by simpa using List.find?_some h
  have same : (fun x : MemReq => x.id == r.id) ∘ (fun x => if s.reachesWith r x then x.reached s k else x) = fun x => x.id == id := by
    funext x
    rw [Function.comp, named]
    split <;> rfl
  have self : s.reachesWith r r = true := by simp [State.reachesWith]
  show (s.reqs.map fun x => if s.reachesWith r x then x.reached s k else x).find? (fun x => x.id == r.id) = _
  rw [List.find?_map, same, h, Option.map_some, if_pos self]

/-- A request that is no fence. -/
def AccKind.isFence : AccKind → Bool
  | .fence .. => true
  | _ => false

/-- An access that may be performed, of a request whose epoch need not end first, is at its slice. -/
theorem execSliceAccess_reaches (found : s.reqs.find? (fun x => x.id == id) = some r) (acc : r.accs[i]? = some a)
    (ready : s.accReady r i a = true) (free : a.arr = 0 → s.reachFree r (s.accSlice r a) = true) (kind : r.kind.isFence = false)
    (ended : r.endsEpoch = false) :
    exec (.sliceAccess id i) s =
      (s.reach r (s.accSlice r a)).atSlice (r.reached s (s.accSlice r a)) i (a.reached s) (a.arr == 0) := by
  have goes : ¬ (decide (a.arr = 0) && !s.reachFree r (s.accSlice r a)) = true := by
    by_cases h : a.arr = 0
    · simp [free h]
    · simp [h]
  show execSliceAccess id i s = _
  unfold execSliceAccess
  simp only [found, acc, State.sliceStep, ready, ended]
  rw [if_neg (by simp)]
  split
  next e =>
    rw [e] at kind
    cases kind
  next => simp only [Bool.false_eq_true, if_false, if_neg goes, State.find_reach found, MemReq.reached_accs acc]

theorem State.portOf_cachable {pa : Nat} (h : s.cachable pa = true) : s.portOf pa = none := by
  unfold State.cachable at h
  unfold State.portOf
  split at h
  next e => simp only [e]
  next => cases h

/-- An access to a line that its slice holds is performed there, but a read of a poisoned line (08:R176, 14:R297). -/
theorem State.atSlice_performs {new : Bool} (port : s.portOf a.pa = none) (line : s.holdsLine (s.accSlice r a) (a.pa / 128) = true)
    (sound : (AccKind.reads r.kind || r.kind == .mirrorSync && i % 4 == 0) = false ∨ s.poisoned a.pa = false) :
    s.atSlice r i a new = .next (s.doAccess r i a).tidy := by
  have sound : ((AccKind.reads r.kind || r.kind == .mirrorSync && i % 4 == 0) && s.poisoned a.pa) = false := by
    rcases sound with h | h <;> simp [h]
  unfold State.atSlice
  simp only [port, Option.map_none, line, sound]
  rfl

/-! ### Writes at a slice -/

theorem State.sameValues_l1Store (s : State) (core pa : Nat) (bs : List Byte) (t : WTag) : s.SameValues (s.l1Store core pa bs t) :=
  ⟨rfl, fun _ _ => rfl⟩

theorem State.sameValues_lateL1 (s : State) (r : MemReq) (l pa : Nat) (bs : List Byte) : s.SameValues (s.lateL1 r l pa bs) := by
  unfold State.lateL1
  split
  · exact .refl s
  · exact s.sameValues_l1Store ..

theorem State.sameValues_perform (s : State) (r : MemReq) (i : Nat) (a : Access) (v : Word) : s.SameValues (s.perform r i a v) :=
  ⟨rfl, fun _ _ => rfl⟩

/-- A write at a slice is in the view of the slice's footing, and in no other one's. -/
theorem State.read_doWrite {l foot pa : Nat} {bs : List Byte} {msg : Option (Nat → List (List Nat))} (h : s.cachable pa = true)
    (f x : Nat) : ((s.doWrite r l foot pa bs msg).mem f).read x =
      if f % 4 = foot % 4 ∧ pa ≤ x ∧ x < pa + bs.length then bs.getD (x - pa) 0 else (s.mem f).read x := by
  have written := State.read_putWrite (s := s.l1Pass (s.followedOn r) pa bs.length)
    (a := r.author (s.l1Pass (s.followedOn r) pa bs.length) l foot pa bs.length)
    (part := (s.l1Pass (s.followedOn r) pa bs.length).partOf (footOf r.core)) (bs := bs) (msg := msg) h f x
  unfold State.doWrite
  rw [(State.sameValues_raise ..).mem]
  exact written

/-- The bytes of a number, at an address. -/
theorem getD_natLe {n v k : Nat} (h : k < n) : (natLe n v).getD k 0 = BitVec.ofNat 8 (v / 256 ^ k) := by
  have inside : k < (natLe n v).length := by rw [length_natLe]; exact h
  rw [List.getD_eq_getElem _ _ inside, natLe_getElem]

/-- A plain store at its slice (08:R188). -/
theorem State.read_store {foot : Nat} {v : Word} (h : s.cachable a.pa = true) (f x : Nat) :
    let bs := natLe a.bytes a.b.toNat
    ((((s.doWrite r a.lane foot a.pa bs).lateL1 r a.lane a.pa bs).perform r i a v).mem f).read x =
      if f % 4 = foot % 4 ∧ a.pa ≤ x ∧ x < a.pa + a.bytes then a.b.extractLsb' (8 * (x - a.pa)) 8 else (s.mem f).read x := by
  intro bs
  refine (((State.sameValues_lateL1 ..).trans (State.sameValues_perform ..)).mem f x).trans ?_
  rw [State.read_doWrite h, length_natLe]
  split
  next inside => rw [getD_natLe (by omega), ofNat_div_pow]
  next => rfl

theorem State.read_doAccess_store (kind : r.kind = .store none ∨ r.kind = .posted ∨ r.kind = .storeMc) (h : s.cachable a.pa = true)
    (f x : Nat) : ((s.doAccess r i a).mem f).read x =
      if f % 4 = s.accFoot r a % 4 ∧ a.pa ≤ x ∧ x < a.pa + a.bytes then a.b.extractLsb' (8 * (x - a.pa)) 8 else (s.mem f).read x := by
  unfold State.doAccess
  rcases kind with e | e | e <;> simp only [e]
  · exact State.read_store h f x
  · generalize s.accFoot r a = foot
    generalize { vget s.slices (s.accSlice r a) with seq := (vget s.slices (s.accSlice r a)).seq + 1 } = y
    generalize hs : ({ s with slices := vset s.slices (s.accSlice r a) y } : State) = t
    have kept : t.cachable a.pa = true := by rw [← hs]; exact h
    have same : s.mem f = t.mem f := by rw [← hs]; rfl
    rw [same]
    exact State.read_store kept f x
  · exact State.read_store h f x

end Sys2Proof.Machine

open Sys2Proof Sys2Proof.Machine

/-- Settles O47: the store reaches its slice, whose line is there, and is performed. -/
theorem storesWriteTheirBytes : Obligations.StoresWriteTheirBytes := by
  unfold Obligations.StoresWriteTheirBytes
  intro s r i a id found acc kind ready free cached line _
  have plain : r.kind.isFence = false ∧ r.endsEpoch = false ∧ (AccKind.reads r.kind || r.kind == .mirrorSync && i % 4 == 0) = false := by
    rcases kind with h | h | h <;> simp [h, AccKind.isFence, MemReq.endsEpoch, AccKind.release, AccKind.reads]
  obtain ⟨noFence, noEpoch, noRead⟩ := plain
  exact ⟨_, (execSliceAccess_reaches found acc ready free noFence noEpoch).trans
    (State.atSlice_performs (State.portOf_cachable cached) line (.inl noRead)), State.read_doAccess_store kind cached⟩

end

section
/-! Settles O48: what the slices perform and return, fills, travelling writes and epochs (08:R175, R176, R188, R189, 20:R389). -/

namespace Sys2Proof.Machine

open Sys2Proof

variable {s : State} {r : MemReq} {i : Nat} {a : Access} {id : Nat}

/-! ### An access goes on at its slice, or misses there -/

theorem State.atSlice_next {new : Bool} (port : s.portOf a.pa = none)
    (room : s.holdsLine (s.accSlice r a) (a.pa / 128) = true ∨ (vget s.slices (s.accSlice r a)).misses.contains (a.pa / 128) = false ∧
      (vget s.slices (s.accSlice r a)).misses.length < 256) : ∃ t, s.atSlice r i a new = .next t := by
  unfold State.atSlice
  simp only [port, Option.map_none]
  cases line : s.holdsLine (s.accSlice r a) (a.pa / 128) with
  | true =>
    rw [if_pos rfl]
    split <;> exact ⟨_, rfl⟩
  | false =>
    obtain ⟨fresh, short⟩ := room.resolve_left (by rw [line]; exact Bool.false_ne_true)
    rw [if_neg Bool.false_ne_true, if_neg (by rw [fresh]; exact Bool.false_ne_true), if_neg (by omega)]
    exact ⟨_, rfl⟩

/-- A fence is performed without a line. -/
theorem execSliceAccess_fence (found : s.reqs.find? (fun x => x.id == id) = some r) (acc : r.accs[i]? = some a)
    (ready : s.accReady r i a = true) (kind : r.kind.isFence = true) : exec (.sliceAccess id i) s = .next (s.doAccess r i a).tidy := by
  show execSliceAccess id i s = _
  unfold execSliceAccess
  simp only [found, acc, State.sliceStep, ready]
  rw [if_neg (by simp)]
  split
  next => rfl
  next no =>
    unfold AccKind.isFence at kind
    split at kind
    next e => exact absurd e (no _ _ _)
    next => cases kind

/-- An epoch that a release ends ends first (20:R389). -/
theorem execSliceAccess_ends (found : s.reqs.find? (fun x => x.id == id) = some r) (acc : r.accs[i]? = some a)
    (ready : s.accReady r i a = true) (kind : r.kind.isFence = false) (ended : r.endsEpoch = true) :
    exec (.sliceAccess id i) s = .next (s.endFor r) := by
  show execSliceAccess id i s = _
  unfold execSliceAccess
  simp only [found, acc, State.sliceStep, ready, ended]
  rw [if_neg (by simp)]
  split
  next e =>
    rw [e] at kind
    cases kind
  next => rfl

theorem execSliceAccess_next (found : s.reqs.find? (fun x => x.id == id) = some r) (acc : r.accs[i]? = some a)
    (ready : s.accReady r i a = true) (free : a.arr = 0 → s.reachFree r (s.accSlice r a) = true) (port : s.portOf a.pa = none)
    (room : s.holdsLine (s.accSlice r a) (a.pa / 128) = true ∨ (vget s.slices (s.accSlice r a)).misses.contains (a.pa / 128) = false ∧
      (vget s.slices (s.accSlice r a)).misses.length < 256) : ∃ t, exec (.sliceAccess id i) s = .next t := by
  cases kind : r.kind.isFence with
  | true => exact ⟨_, execSliceAccess_fence found acc ready kind⟩
  | false =>
    cases ended : r.endsEpoch with
    | true => exact ⟨_, execSliceAccess_ends found acc ready kind ended⟩
    | false =>
      rw [execSliceAccess_reaches found acc ready free kind ended]
      exact State.atSlice_next (s := s.reach r (s.accSlice r a)) (r := r.reached s (s.accSlice r a)) (a := a.reached s) port room

/-! ### What a performed access leaves of late values and memory -/

theorem State.sameValues_taking {f : State → Gang → State × Gang} (h : ∀ t g, State.SameValues t (f t g).1) :
    s.SameValues (s.taking r f) := by
  unfold State.taking
  split
  · exact .refl s
  · exact (h s _).trans ⟨rfl, fun _ _ => rfl⟩

theorem State.sameValues_acquireTags (s : State) (g : Gang) (bs : List BKey) (sc : Scope) (ts : List WTag) :
    s.SameValues (s.acquireTags g bs sc ts).1 := by
  refine .trans (t := if Scope.far sc then s.observe (footOf g.core) ts else s) ?_ (State.sameValues_acquire ..)
  split
  · exact s.sameValues_observe ..
  · exact .refl s

theorem State.sameValues_homeSaw (s : State) (r : MemReq) (l home pa n : Nat) : s.SameValues (s.homeSaw r l home pa n) := by
  unfold State.homeSaw
  refine .trans ?_ (State.sameValues_taking fun t g => ?_)
  · split
    · exact ⟨rfl, fun _ _ => rfl⟩
    · exact .refl s
  · split
    · exact State.sameValues_acquireAt ..
    · exact .refl t

theorem State.sameValues_l1Drop (s : State) (core line : Nat) (ro : Bool) : s.SameValues (s.l1Drop core line ro) :=
  ⟨rfl, fun _ _ => rfl⟩

/-! ### Atomics (08:R189) -/

theorem State.read_doAccess_atom {op : AtomOp} {t : Ty} {sc : Scope} {o : Ord} (kind : r.kind = .atom op t sc o)
    (h : s.cachable a.pa = true) (f x : Nat) :
    ((s.doAccess r i a).mem f).read x =
      if f % 4 = s.accFoot r a % 4 ∧ a.pa ≤ x ∧ x < a.pa + a.bytes then
        BitVec.ofNat 8 (atomNew op t (leNat ((s.mem (s.accFoot r a)).readN a.pa a.bytes)) a.b.toNat a.c.toNat / 256 ^ (x - a.pa))
      else (s.mem f).read x := by
  unfold State.doAccess
  simp only [kind]
  rw [((State.sameValues_l1Drop ..).trans ((State.sameValues_perform ..).trans (State.sameValues_homeSaw ..))).mem,
    State.read_doWrite h, length_natLe]
  split
  next inside => rw [getD_natLe (by omega)]
  next => rfl

/-! ### The value that an access returns -/

/-- The request `id` holds a value for its access `i`, and is still to deliver it. -/
def State.Returned (s : State) (id i lane : Nat) (v : Word) : Prop :=
  (∃ x ∈ s.reqs, x.id = id) ∧
    ∀ x ∈ s.reqs, x.id = id → x.arrived = false ∧ ∃ b, x.accs[i]? = some b ∧ b.lane = lane ∧ b.done = true ∧ b.val = v

section
variable {t : State} {lane : Nat} {v : Word}

theorem State.Returned.of_reqs (h : s.Returned id i lane v) (e : t.reqs = s.reqs) : t.Returned id i lane v := by
  unfold State.Returned at *
  rwa [e]

/-- Changes of what requests follow. -/
theorem State.Returned.map (h : s.Returned id i lane v) {f : MemReq → MemReq} (e : t.reqs = s.reqs.map f)
    (kept : ∀ x, (f x).id = x.id ∧ (f x).arrived = x.arrived ∧ (f x).accs = x.accs) : t.Returned id i lane v := by
  obtain ⟨⟨x, hx, named⟩, all⟩ := h
  refine ⟨⟨f x, by rw [e]; exact List.mem_map_of_mem hx, (kept x).1.trans named⟩, fun y hy named => ?_⟩
  rw [e] at hy
  obtain ⟨x, hx, rfl⟩ := List.mem_map.1 hy
  rw [(kept x).2.1, (kept x).2.2]
  exact all x hx ((kept x).1.symm.trans named)

theorem State.Returned.tidy (h : s.Returned id i lane v) : s.tidy.Returned id i lane v := by
  obtain ⟨⟨x, hx, named⟩, all⟩ := h
  refine ⟨⟨x, List.mem_filter.2 ⟨hx, ?_⟩, named⟩, fun y hy => all y (List.mem_filter.1 hy).1⟩
  rw [(all x hx named).1]
  rfl

theorem State.Returned.taking (h : s.Returned id i lane v) {f : State → Gang → State × Gang} (hf : ∀ t g, (f t g).1.reqs = t.reqs) :
    (s.taking r f).Returned id i lane v := by
  unfold State.taking
  split
  · exact h
  next g _ =>
    refine (h.of_reqs (hf s g)).map (f := _) rfl fun x => ?_
    split <;> exact ⟨rfl, rfl, rfl⟩

theorem State.returned_perform (among : ∃ x ∈ s.reqs, x.id = r.id) (acc : (r.accs[i]?).isSome = true) (waits : r.arrived = false) :
    (s.perform r i a v).Returned r.id i a.lane v := by
  obtain ⟨x, hx, named⟩ := among
  have inside : i < r.accs.length := by simpa using acc
  have set : (s.perform r i a v).reqs = s.reqs.map fun x =>
      if x.id = r.id then r.setAcc i { a with done := true, reply := s.nextId, val := v } else x := rfl
  refine ⟨⟨_, by rw [set]; exact List.mem_map_of_mem hx, by rw [if_pos named]; rfl⟩, fun y hy own => ?_⟩
  rw [set] at hy
  obtain ⟨x, -, rfl⟩ := List.mem_map.1 hy
  split
  next =>
    refine ⟨waits, { a with done := true, reply := s.nextId, val := v }, ?_, rfl, rfl, rfl⟩
    simp [MemReq.setAcc, inside]
  next other =>
    rw [if_neg other] at own
    exact absurd own other

end

theorem State.raise_reqs (s : State) (f g n : Nat) : (s.raise f g n).reqs = s.reqs := by
  unfold State.raise
  split
  · rfl
  · dsimp only
    split <;> rfl

theorem State.observe_reqs (s : State) (foot : Nat) (ts : List WTag) : (s.observe foot ts).reqs = s.reqs :=
  List.foldlRecOn ts _ (motive := fun x : State => x.reqs = s.reqs) rfl fun x h _ _ => (x.raise_reqs ..).trans h

theorem State.doWrite_reqs {l foot pa : Nat} {bs : List Byte} {msg : Option (Nat → List (List Nat))} (h : s.cachable pa = true) :
    (s.doWrite r l foot pa bs msg).reqs = s.reqs := by
  have put (t : State) (w : Author) (part : Nat) (kept : t.cachable pa = true) : (t.putWrite w part pa bs msg).reqs = t.reqs := by
    simp only [State.putWrite, kept, Bool.not_true, Bool.false_eq_true, if_false]
    rfl
  unfold State.doWrite
  exact (State.raise_reqs ..).trans (put (s.l1Pass (s.followedOn r) pa bs.length) _ _ h)

theorem State.acquireTags_reqs (s : State) (g : Gang) (bs : List BKey) (sc : Scope) (ts : List WTag) :
    (s.acquireTags g bs sc ts).1.reqs = s.reqs := by
  have seen : (if Scope.far sc then s.observe (footOf g.core) ts else s).reqs = s.reqs := by
    split
    · exact s.observe_reqs ..
    · rfl
  unfold State.acquireTags
  generalize (if Scope.far sc then s.observe (footOf g.core) ts else s) = t at seen ⊢
  rw [← seen]
  unfold State.acquire
  dsimp only
  split <;> rfl

theorem State.Returned.homeSaw {lane : Nat} {v : Word} (h : s.Returned id i lane v) (l home pa n : Nat) :
    (s.homeSaw r l home pa n).Returned id i lane v := by
  unfold State.homeSaw
  refine State.Returned.taking ?_ fun t g => ?_
  · split
    next x found =>
      have own : x ∈ s.reqs := List.mem_of_find?_eq_some found
      obtain ⟨⟨w, hw, named⟩, all⟩ := h
      refine ⟨⟨_, List.mem_map_of_mem hw, ?_⟩, fun y hy same => ?_⟩
      · split
        next e => exact e.symm.trans named
        next => exact named
      · obtain ⟨z, hz, rfl⟩ := List.mem_map.1 hy
        split at same
        next e =>
          rw [if_pos e]
          exact all x own same
        next e =>
          rw [if_neg e]
          exact all z hz same
    next => exact h
  · split
    · exact State.acquireTags_reqs ..
    · rfl

theorem State.doAccess_atom_returned {op : AtomOp} {t : Ty} {sc : Scope} {o : Ord} (kind : r.kind = .atom op t sc o)
    (cached : s.cachable a.pa = true) (among : ∃ x ∈ s.reqs, x.id = r.id) (acc : (r.accs[i]?).isSome = true) (waits : r.arrived = false) :
    (s.doAccess r i a).Returned r.id i a.lane (tyReg t (leNat ((s.mem (s.accFoot r a)).readN a.pa a.bytes))) := by
  unfold State.doAccess
  simp only [kind]
  refine (State.returned_perform ?_ acc waits).homeSaw ..
  obtain ⟨x, hx, named⟩ := among
  exact ⟨x, by rw [State.l1Drop, State.doWrite_reqs cached]; exact hx, named⟩

/-! ### Loads (08:R175) -/

/-- The state in which a load reads: a miss in the L1 fills the line, a load of course scope or wider leaves the L1. -/
def State.loadFrom (s : State) (r : MemReq) (a : Access) (acq : Option Scope) (ro : Bool) (view : Nat) : State :=
  let part := s.partOf (footOf r.core)
  if acq.any Scope.wide then s.readOut part a.pa a.bytes
  else if (s.l1At r.core a.pa ro).isSome then s
  else (s.readOut part (a.pa / 128 * 128) 128).fillLine r.core r.asid view a.pa ro

/-- The bytes that a load returns there. -/
def State.loadBytes (s : State) (r : MemReq) (a : Access) (acq : Option Scope) (ro : Bool) (view : Nat) : List Byte :=
  match if acq.any Scope.wide then none else s.l1At r.core a.pa ro with
  | some x => lineBytes x.data a.pa a.bytes
  | none => (s.mem view).readN a.pa a.bytes

theorem State.readOut_reqs (s : State) (part pa n : Nat) : (s.readOut part pa n).reqs = s.reqs := by
  rw [s.onlyReads_readOut part pa n]

theorem State.loadFrom_reqs (s : State) (r : MemReq) (a : Access) (acq : Option Scope) (ro : Bool) (view : Nat) :
    (s.loadFrom r a acq ro view).reqs = s.reqs := by
  unfold State.loadFrom
  dsimp only
  split
  · exact State.readOut_reqs ..
  · split
    · rfl
    · exact State.readOut_reqs ..

theorem State.doLoad_returned {t : Ty} {acq : Option Scope} {ro : Bool} {view : Nat} (among : ∃ x ∈ s.reqs, x.id = r.id)
    (acc : (r.accs[i]?).isSome = true) (waits : r.arrived = false) :
    (s.doLoad r i a t acq ro view).Returned r.id i a.lane
      (loadVal t ((s.loadFrom r a acq ro view).loadBytes r a acq ro view)) := by
  have filled := s.loadFrom_reqs r a acq ro view
  rw [← filled] at among
  refine State.Returned.taking (State.returned_perform among acc waits) fun t g => ?_
  cases acq with
  | none => rfl
  | some sc => exact State.acquireTags_reqs ..

theorem State.doAccess_load_returned {t : Ty} {acq : Option Scope} {ro : Bool} (kind : r.kind = .load t acq ro)
    (sound : acq.any Scope.wide = true ∨ s.l1Bad r.core a.pa a.bytes ro = false) (among : ∃ x ∈ s.reqs, x.id = r.id)
    (acc : (r.accs[i]?).isSome = true) (waits : r.arrived = false) :
    (s.doAccess r i a).Returned r.id i a.lane
      (loadVal t ((s.loadFrom r a acq ro (s.accFoot r a)).loadBytes r a acq ro (s.accFoot r a))) := by
  unfold State.doAccess
  simp only [kind]
  rw [if_neg (by rcases sound with h | h <;> simp [h])]
  exact State.doLoad_returned among acc waits

/-- A load of course scope or wider reads at the slice. -/
theorem State.loadBytes_wide {acq : Option Scope} {ro : Bool} {view : Nat} (wide : acq.any Scope.wide = true) :
    (s.loadFrom r a acq ro view).loadBytes r a acq ro view = (s.mem view).readN a.pa a.bytes := by
  unfold State.loadBytes State.loadFrom
  simp only [wide, if_true]
  rw [(s.onlyReads_readOut ..).mem]

/-- Another load reads the line of the L1 where there is one. -/
theorem State.loadBytes_line {acq : Option Scope} {ro : Bool} {view : Nat} {x : L1Line} (narrow : acq.any Scope.wide = false)
    (line : s.l1At r.core a.pa ro = some x) :
    (s.loadFrom r a acq ro view).loadBytes r a acq ro view = lineBytes x.data a.pa a.bytes := by
  unfold State.loadBytes State.loadFrom
  simp only [narrow, line, Bool.false_eq_true, if_false, Option.isSome_some, if_true]

/-! ### The bytes of a line filled now (08:R175, 20:R384) -/

/-- The bytes of a line that no store lies over are those of the slice. -/
theorem State.getElem_overlay (s : State) (core pa : Nat) (bs : List Byte) (j : Nat)
    (clear : ∀ x ∈ s.reqs, s.onPath core x = true → ∀ b ∈ x.accs, b.done = false → ¬ (b.pa ≤ pa + j ∧ pa + j < b.pa + b.bytes)) :
    (s.overlay core pa bs)[j]? = bs[j]? := by
  refine List.foldlRecOn _ _ (motive := fun l : List Byte => l[j]? = bs[j]?) rfl fun l h x hx => ?_
  obtain ⟨own, accepted⟩ := List.mem_filter.1 hx
  refine List.foldlRecOn _ _ (motive := fun l : List Byte => l[j]? = bs[j]?) h fun l h b hb => ?_
  obtain ⟨acc, undone⟩ := List.mem_filter.1 hb
  have out := clear x own accepted b acc (by simpa using undone)
  rw [List.getElem?_mapIdx, h]
  simp [out]

theorem State.l1At_fillLine (s : State) (core asid view pa : Nat) (ro prio : Bool) :
    (s.fillLine core asid view pa ro prio).l1At core pa ro =
      some ⟨core, asid, pa / 128, ro, s.overlay core (pa / 128 * 128) ((s.mem view).readN (pa / 128 * 128) 128), prio, [], false,
        s.fillTags core view (pa / 128 * 128)⟩ := by
  simp [State.l1At, State.fillLine, State.l1Fill]

theorem Memory.getElem_readN (m : Memory) (pa n j : Nat) : (m.readN pa n)[j]? = if j < n then some (m.read (pa + j)) else none := by
  split
  next h => simp [Memory.readN, h]
  next h => simp [Memory.readN, h]

/-- A load that fills its line returns the bytes at the slice, where no accepted store of its core lies over them. -/
theorem State.loadBytes_fill {acq : Option Scope} {ro : Bool} {view : Nat} (narrow : acq.any Scope.wide = false)
    (miss : s.l1At r.core a.pa ro = none) (fits : a.pa % 128 + a.bytes ≤ 128)
    (clear : ∀ x ∈ s.reqs, s.onPath r.core x = true → ∀ b ∈ x.accs, b.done = false → b.pa + b.bytes ≤ a.pa ∨ a.pa + a.bytes ≤ b.pa) :
    (s.loadFrom r a acq ro view).loadBytes r a acq ro view = (s.mem view).readN a.pa a.bytes := by
  have read := s.onlyReads_readOut (s.partOf (footOf r.core)) (a.pa / 128 * 128) 128
  unfold State.loadBytes State.loadFrom
  simp only [narrow, miss, Bool.false_eq_true, if_false, Option.isSome_none, State.l1At_fillLine]
  generalize s.readOut (s.partOf (footOf r.core)) (a.pa / 128 * 128) 128 = t at read
  have same : t.mem view = s.mem view := read.mem view
  have clear : ∀ x ∈ t.reqs, t.onPath r.core x = true → ∀ b ∈ x.accs, b.done = false → b.pa + b.bytes ≤ a.pa ∨ a.pa + a.bytes ≤ b.pa := by
    rw [read]
    exact clear
  refine List.ext_getElem? fun j => ?_
  rw [same, lineBytes, Memory.getElem_readN, List.getElem?_take]
  split
  next inside =>
    rw [List.getElem?_drop, State.getElem_overlay, Memory.getElem_readN, if_pos (by omega)]
    · congr 2
      omega
    · intro x hx accepted b hb undone
      have := clear x hx accepted b hb undone
      omega
  next => rfl

/-! ### Accepted stores, once a request has reached its slice -/

theorem MemReq.reached_performed (x : MemReq) (k : Nat) : (x.reached s k).performed = x.performed := by
  simp only [MemReq.performed, MemReq.reached, List.all_map]
  congr 1
  funext b
  rw [Function.comp]
  split <;> rfl

theorem State.isOpen_reach (k j : Nat) : (s.reach r k).isOpen j = s.isOpen j := by
  show (s.reqs.map fun x => if s.reachesWith r x then x.reached s k else x).any (fun x => x.id == j && (s.reach r k).openReq x) = _
  rw [List.any_map]
  unfold State.isOpen
  congr 1
  funext x
  rw [Function.comp]
  split
  next =>
    show (x.id == j && (!(x.reached s k).performed || _)) = _
    rw [MemReq.reached_performed]
    rfl
  next => rfl

theorem State.waitsOn_reach (k : Nat) (x : MemReq) : (s.reach r k).waitsOn x = s.waitsOn x := by
  unfold State.waitsOn State.hidden
  congr 1
  funext j
  rw [State.isOpen_reach]
  rfl

/-- Stores that lie over no byte of a load do so where they are. -/
theorem State.clear_reach {k core lo hi : Nat}
    (clear : ∀ x ∈ s.reqs, s.onPath core x = true → ∀ b ∈ x.accs, b.done = false → b.pa + b.bytes ≤ lo ∨ hi ≤ b.pa) :
    ∀ x ∈ (s.reach r k).reqs, (s.reach r k).onPath core x = true → ∀ b ∈ x.accs, b.done = false → b.pa + b.bytes ≤ lo ∨ hi ≤ b.pa := by
  intro y hy accepted b hb undone
  obtain ⟨x, hx, rfl⟩ := List.mem_map.1 hy
  unfold State.onPath at accepted
  rw [State.waitsOn_reach] at accepted
  by_cases w : s.reachesWith r x = true
  · simp only [w, if_true] at accepted hb
    obtain ⟨c, hc, rfl⟩ := List.mem_map.1 hb
    have := clear x hx accepted c hc
    by_cases e : s.accSlice x c = k
    · simp only [e, if_true] at undone ⊢
      exact this undone
    · simp only [e, if_false] at undone ⊢
      exact this undone
  · simp only [w, Bool.false_eq_true, if_false] at accepted hb
    exact clear x hx accepted b hb undone

/-! ### A fill ends a miss (08:R176) -/

/-- The ways of a set for lines of the line's kind. -/
def State.waysFor (s : State) (k line : Nat) : Nat := if s.isLocal k line then 16 - (vget s.slices k).rways else (vget s.slices k).rways

/-- A fill changes one slice: the line leaves the miss table, and is there where its set has a way for it. -/
theorem State.slicePut_eq (s : State) (k line : Nat) : ∃ x : Slice, s.slicePut k line = { s with slices := vset s.slices k x } ∧
    line ∉ x.misses ∧ (s.waysFor k line ≠ 0 → (line, false) ∈ x.lines) := by
  by_cases cap : s.waysFor k line = 0
  · refine ⟨{ vget s.slices k with misses := (vget s.slices k).misses.filter (· != line) }, if_pos cap, by simp, fun no => absurd cap no⟩
  · exact ⟨_, if_neg cap, by simp, fun _ => List.mem_cons_self⟩

theorem State.waysFor_ne_zero {k line : Nat}
    (way : if s.isLocal k line then (vget s.slices k).rways < 16 else (vget s.slices k).rways ≠ 0) : s.waysFor k line ≠ 0 := by
  unfold State.waysFor
  split
  next here =>
    rw [if_pos here] at way
    omega
  next other =>
    rw [if_neg other] at way
    exact way

theorem execSliceMissFill_ends {k line : Nat} (inside : k < 96) (missed : (vget s.slices k).misses.contains line = true) :
    exec (.sliceMissFill k line) s = .next (s.slicePut k line) := by
  show execSliceMissFill k line s = _
  unfold execSliceMissFill
  rw [if_pos (by simp [inside, List.contains_iff_mem.1 missed])]

/-! ### A footing applies a travelling write (20:R387) -/

/-- The bytes of a travelling write in a footing's view. -/
def State.takeBytes (s : State) (d : Nat) (bs : List (Nat × Byte)) : State :=
  bs.foldl (fun s (b : Nat × Byte) => s.setMem d ((s.mem d).write b.1 [b.2])) s

theorem State.read_setByte (s : State) (d p : Nat) (v : Byte) (f x : Nat) :
    ((s.setMem d ((s.mem d).write p [v])).mem f).read x = if f % 4 = d % 4 ∧ p = x then v else (s.mem f).read x := by
  rw [State.mem_setMem]
  split
  next here =>
    have same : s.mem f = s.mem d := by simp only [State.mem, vget, here]
    rw [Memory.read_write, same]
    by_cases e : p = x
    · rw [if_pos (by simp [e]), if_pos ⟨here, e⟩, e]
      simp
    · rw [if_neg (by rw [List.length_singleton]; omega), if_neg (fun h => e h.2)]
  next other => rw [if_neg fun h => other h.1]

theorem State.read_takeBytes_other {d : Nat} {bs : List (Nat × Byte)} {f x : Nat} (out : f % 4 ≠ d % 4 ∨ ∀ b ∈ bs, b.1 ≠ x) :
    ((s.takeBytes d bs).mem f).read x = (s.mem f).read x := by
  refine List.foldlRecOn bs _ (motive := fun t : State => (t.mem f).read x = (s.mem f).read x) rfl fun t h b hb => ?_
  rw [State.read_setByte, if_neg, h]
  rintro ⟨here, e⟩
  exact out.elim (fun no => no here) fun no => no b hb e

/-- Bytes of different addresses are all there. -/
theorem State.read_takeBytes {d : Nat} {bs : List (Nat × Byte)} (apart : (bs.map Prod.fst).Nodup) :
    ∀ b ∈ bs, ((s.takeBytes d bs).mem d).read b.1 = b.2 := by
  induction bs generalizing s with
  | nil => simp
  | cons c rest ih =>
    rw [List.map_cons, List.nodup_cons] at apart
    intro b hb
    show ((State.takeBytes (s.setMem d ((s.mem d).write c.1 [c.2])) d rest).mem d).read b.1 = b.2
    rcases List.mem_cons.1 hb with rfl | hb
    · rw [State.read_takeBytes_other (.inr fun c hc e => apart.1 (List.mem_map.2 ⟨c, hc, e⟩)), State.read_setByte, if_pos ⟨rfl, rfl⟩]
    · exact ih apart.2 b hb

theorem State.sameValues_tagBytes (s : State) (t : WTag) : s.SameValues (s.tagBytes t) := ⟨rfl, fun _ _ => rfl⟩

theorem State.sameValues_dropPlain (s : State) (core : Nat) : s.SameValues (s.dropPlain core) := ⟨rfl, fun _ _ => rfl⟩

/-- The bytes of a travelling write that a footing takes: none of its own, all at their home. -/
def State.takenBytes (s : State) (w : RWrite) (d : Nat) : List (Nat × Byte) :=
  let n := w.order.getD s.orders
  let newer := s.writes.filter fun x => (x.src == d || !x.waits.contains d) && x.id != w.id && x.order.all fun m => decide (n < m)
  if d = w.src then []
  else if d = w.home then w.bytes
  else w.bytes.filter fun b => !(newer.any fun x => x.bytes.any fun c => c.1 == b.1)

theorem State.takenBytes_subset (s : State) (w : RWrite) (d : Nat) : ∀ b ∈ s.takenBytes w d, b ∈ w.bytes := by
  intro b hb
  unfold State.takenBytes at hb
  dsimp only at hb
  split at hb
  · cases hb
  · split at hb
    · exact hb
    · exact (List.mem_filter.1 hb).1

theorem State.takenBytes_home {w : RWrite} {d : Nat} (home : d = w.home) (other : d ≠ w.src) : s.takenBytes w d = w.bytes := by
  unfold State.takenBytes
  dsimp only
  rw [if_neg other, if_pos home]

/-- What a footing does beside taking the bytes leaves every view. -/
theorem State.sameValues_applyWrite (s : State) (w : RWrite) (d : Nat) :
    (s.takeBytes d (s.takenBytes w d)).SameValues (s.applyWrite w d) := by
  unfold State.applyWrite
  dsimp only
  refine .trans (t := if (s.takenBytes w d).isEmpty then s.takeBytes d (s.takenBytes w d)
    else (s.takeBytes d (s.takenBytes w d)).tagBytes ⟨d, w.lo, w.span, w.src, w.stamp.getD w.src 0, w.chain⟩) ?_ ?_
  · split
    · exact .refl _
    · exact State.sameValues_tagBytes ..
  · generalize hu : (if (s.takenBytes w d).isEmpty then s.takeBytes d (s.takenBytes w d)
      else (s.takeBytes d (s.takenBytes w d)).tagBytes ⟨d, w.lo, w.span, w.src, w.stamp.getD w.src 0, w.chain⟩) = u
    unfold State.takeBytes State.takenBytes at hu
    dsimp only at hu
    rw [hu]
    have dropped (t : State) (cs : List Nat) (e : u.SameValues t) : u.SameValues (cs.foldl State.dropPlain t) :=
      e.trans (State.SameValues.foldl State.sameValues_dropPlain cs t)
    split
    · refine .trans (.trans (dropped _ _ ?_) (State.onlyReads_touch ..).sameValues) ⟨rfl, fun _ _ => rfl⟩
      exact ⟨rfl, fun _ _ => rfl⟩
    · exact dropped _ _ ⟨rfl, fun _ _ => rfl⟩

theorem execRemoteWriteApply_next {w : RWrite} {d : Nat} (found : s.writes.find? (fun x => x.id == id) = some w)
    (may : s.canApply w d = true) : exec (.remoteWriteApply id d) s = .next (s.applyWrite w d) := by
  show execRemoteWriteApply id d s = _
  unfold execRemoteWriteApply
  simp only [found, may, if_true]

/-! ### An access performed at its slice, of a request that is not yet delivered -/

/-- Where the line is there and sound, a request that is no fence and ends no epoch is performed by one step. -/
theorem execSliceAccess_performs (found : s.reqs.find? (fun x => x.id == id) = some r) (acc : r.accs[i]? = some a)
    (ready : s.accReady r i a = true) (free : a.arr = 0 → s.reachFree r (s.accSlice r a) = true) (cached : s.cachable a.pa = true)
    (line : s.holdsLine (s.accSlice r a) (a.pa / 128) = true) (sound : s.poisoned a.pa = false) (kind : r.kind.isFence = false)
    (ended : r.endsEpoch = false) : exec (.sliceAccess id i) s =
      .next ((s.reach r (s.accSlice r a)).doAccess (r.reached s (s.accSlice r a)) i (a.reached s)).tidy :=
  (execSliceAccess_reaches found acc ready free kind ended).trans
    (State.atSlice_performs (s := s.reach r (s.accSlice r a)) (r := r.reached s (s.accSlice r a)) (a := a.reached s)
      (State.portOf_cachable cached) line (.inr sound))

/-- The request is among those that have reached their slice. -/
theorem State.among_reach {k : Nat} (found : s.reqs.find? (fun x => x.id == id) = some r) :
    ∃ x ∈ (s.reach r k).reqs, x.id = (r.reached s k).id :=
  ⟨_, List.mem_of_find?_eq_some (State.find_reach found), rfl⟩

/-- A value that a request holds is the one it is to deliver. -/
theorem State.Returned.holds {lane : Nat} {v : Word} (h : s.Returned id i lane v) :
    ∃ x ∈ s.reqs, x.id = id ∧ ∃ b : Access, x.accs[i]? = some b ∧ b.lane = lane ∧ b.done = true ∧ b.val = v := by
  obtain ⟨⟨x, hx, named⟩, all⟩ := h
  exact ⟨x, hx, named, (all x hx named).2⟩

end Sys2Proof.Machine

open Sys2Proof Sys2Proof.Machine

/-- An atomic without an acquire or a release leaves the new word at its slice, and every other byte (08:R189). -/
theorem sliceAtomicLeavesNewWord {s : State} {r : MemReq} {i : Nat} {a : Access} {id : Nat} {op : AtomOp} {t : Ty} {sc : Scope}
    (found : s.reqs.find? (fun x => x.id == id) = some r) (acc : r.accs[i]? = some a) (kind : r.kind = .atom op t sc .relaxed)
    (ready : s.accReady r i a = true) (free : a.arr = 0 → s.reachFree r (s.accSlice r a) = true) (cached : s.cachable a.pa = true)
    (line : s.holdsLine (s.accSlice r a) (a.pa / 128) = true) (sound : s.poisoned a.pa = false) :
    ∃ u : State, exec (.sliceAccess id i) s = .next u ∧ ∀ f x, (u.mem f).read x =
      if f % 4 = s.accFoot r a % 4 ∧ a.pa ≤ x ∧ x < a.pa + a.bytes then
        BitVec.ofNat 8 (atomNew op t (leNat ((s.mem (s.accFoot r a)).readN a.pa a.bytes)) a.b.toNat a.c.toNat / 256 ^ (x - a.pa))
      else (s.mem f).read x := by
  have noFence : r.kind.isFence = false := by rw [kind]; rfl
  have noEpoch : r.endsEpoch = false := by simp [MemReq.endsEpoch, kind, AccKind.release]
  exact ⟨_, execSliceAccess_performs found acc ready free cached line sound noFence noEpoch,
    State.read_doAccess_atom (s := s.reach r (s.accSlice r a)) (r := r.reached s (s.accSlice r a)) (a := a.reached s) kind cached⟩

/-- Settles O48: one lemma for each event, those of accesses about the state in which the request has reached its slice. -/
theorem slicesPerformAccesses : Obligations.SlicesPerformAccesses := by
  unfold Obligations.SlicesPerformAccesses
  refine ⟨fun s r i a id found acc ready free port room => execSliceAccess_next found acc ready free port room,
    fun s r i a id op t sc found acc kind ready free cached line sound =>
      sliceAtomicLeavesNewWord found acc kind ready free cached line sound,
    fun s r i a id found acc ready free cached line sound waits ended => ?_,
    fun s k line inside missed => ?_,
    fun s w d id found may => ⟨_, execRemoteWriteApply_next found may, fun f x out => ?_, fun home other apart b hb => ?_⟩,
    fun s f inside => ?_⟩
  · have named : (r.reached s (s.accSlice r a)).id = id := by
      simpa [MemReq.reached] using List.find?_some found
    have among := State.among_reach (k := s.accSlice r a) found
    have there : ((r.reached s (s.accSlice r a)).accs[i]?).isSome = true := by rw [MemReq.reached_accs acc]; rfl
    have delivers {v : Word} (noFence : r.kind.isFence = false)
        (h : ((s.reach r (s.accSlice r a)).doAccess (r.reached s (s.accSlice r a)) i (a.reached s)).Returned
          (r.reached s (s.accSlice r a)).id i a.lane v) :
        ∃ u : State, exec (.sliceAccess id i) s = .next u ∧
          ∃ x ∈ u.reqs, x.id = id ∧ ∃ b : Access, x.accs[i]? = some b ∧ b.lane = a.lane ∧ b.done = true ∧ b.val = v := by
      rw [named] at h
      exact ⟨_, execSliceAccess_performs found acc ready free cached line sound noFence ended, h.tidy.holds⟩
    refine ⟨fun op t sc o kind => delivers (by rw [kind]; rfl) ?_, fun t acq ro kind => ?_⟩
    · exact State.doAccess_atom_returned (a := a.reached s) kind cached among there waits
    · have loads := fun h => State.doAccess_load_returned (s := s.reach r (s.accSlice r a)) (a := a.reached s)
        (r := r.reached s (s.accSlice r a)) kind h among there waits
      have noFence : r.kind.isFence = false := by rw [kind]; rfl
      refine ⟨fun wide => delivers noFence ?_, fun x narrow held good => delivers noFence ?_,
        fun narrow miss fits clear => delivers noFence ?_⟩
      · have h := loads (.inl wide)
        rwa [State.loadBytes_wide wide] at h
      · have h := loads (.inr good)
        rwa [State.loadBytes_line (s := s.reach r (s.accSlice r a)) (r := r.reached s (s.accSlice r a)) (a := a.reached s) narrow held] at h
      · have good : s.l1Bad r.core a.pa a.bytes ro = false := by
          unfold State.l1Bad
          rw [miss]
          rfl
        have h := loads (.inr good)
        rwa [State.loadBytes_fill (s := s.reach r (s.accSlice r a)) (r := r.reached s (s.accSlice r a)) (a := a.reached s) narrow miss fits
          (State.clear_reach clear)] at h
  · obtain ⟨x, put, gone, held⟩ := s.slicePut_eq k line
    refine ⟨_, execSliceMissFill_ends inside missed, by rw [put], ?_, fun way => ?_⟩
    · rw [put, vget_vset_same]
      exact gone
    · rw [put, vget_vset_same]
      exact held (State.waysFor_ne_zero way)
  · refine ((State.sameValues_applyWrite s w d).mem f x).trans (State.read_takeBytes_other ?_)
    exact out.imp_right fun no b hb => no b (s.takenBytes_subset w d b hb)
  · refine ((State.sameValues_applyWrite s w d).mem d b.1).trans ?_
    rw [State.takenBytes_home home other]
    exact State.read_takeBytes apart b hb
  · show execEpochEnd f s = _
    unfold execEpochEnd
    rw [if_pos inside]
    rfl

end

section
/-! Settles O53: invalidations of translations, and the end of a walk (08:R177-R179, 14:R297, 22:R417, R424). -/

namespace Sys2Proof.Machine

open Sys2Proof

variable {s : State} {v n id va : Nat} {w : Walk} {g : Gang} {need : Need}

/-! ### Invalidations -/

/-- The word of TLBINV, by its KIND. -/
def tlbinvWord (v k : Nat) : Nat := v % 2 ^ 11 + k * 2 ^ 11 + v / 2 ^ 16 % 2 ^ 40 * 2 ^ 16

/-- Whether the invalidation takes an entry, by its KIND. -/
theorem TlbEntry.struck_tlbinvWord (e : TlbEntry) (v : Nat) {k : Nat} (kind : k < 3) : e.struck (tlbinvWord v k) = true ↔
    k = 0 ∧ e.covers (v % 2 ^ 11) (v / 2 ^ 16 % 2 ^ 40 * 2 ^ 16) = true ∨ k = 1 ∧ e.asid = v % 2 ^ 11 ∨ k = 2 := by
  have field : tlbinvWord v k / 2 ^ 11 % 4 = k := by
    unfold tlbinvWord
    omega
  have space : tlbinvWord v k % 2 ^ 11 = v % 2 ^ 11 := by
    unfold tlbinvWord
    omega
  have page : tlbinvWord v k / 65536 % 2 ^ 40 * 65536 = v / 2 ^ 16 % 2 ^ 40 * 2 ^ 16 := by
    unfold tlbinvWord
    omega
  unfold TlbEntry.struck
  rw [field, space, page]
  rcases k with _ | _ | _ | k
  · simp
  · simp
  · simp
  · omega

theorem tlbinv_eq {k : Nat} (kind : k < 3) :
    let keep := fun (x : Nat × TlbEntry) => decide (¬ (k = 0 ∧ x.2.covers (v % 2 ^ 11) (v / 2 ^ 16 % 2 ^ 40 * 2 ^ 16) = true ∨
      k = 1 ∧ x.2.asid = v % 2 ^ 11 ∨ k = 2))
    s.tlbinv (tlbinvWord v k) = .next { s with
      tlb := s.tlb.filter keep, gtlb := s.gtlb.filter keep
      sys := { s.sys with tlbinvReg := tlbinvWord v k, tlbinv := s.sys.tlbinv ++ [(tlbinvWord v k, s.nextId)], tlbBusy := true, tlbBad := false } } := by
  intro keep
  have same : (fun x : Nat × TlbEntry => !x.2.struck (tlbinvWord v k)) = keep := by
    funext x
    simp only [keep, ← TlbEntry.struck_tlbinvWord x.2 v kind]
    simp
  unfold State.tlbinv
  rw [same]

/-- The state once the oldest invalidation has taken its entries. -/
def State.invalidated (s : State) (v : Nat) (rest : List (Nat × Nat)) : State :=
  let keep := fun (x : Nat × TlbEntry) => !x.2.struck v
  { s with tlb := s.tlb.filter keep, gtlb := s.gtlb.filter keep, sys := { s.sys with tlbinv := rest, tlbBusy := !rest.isEmpty } }

theorem execInvalidationComplete_early {rest : List (Nat × Nat)} (oldest : s.sys.tlbinv = (v, n) :: rest)
    (early : (∃ r ∈ s.reqs, oldAccess v n r = true) ∨ s.oldWrite n = true) : exec .invalidationComplete s = .refused .cannotOccur := by
  have early : (s.reqs.any (oldAccess v n) || s.oldWrite n || s.courses.any (s.holdsSpill v)) = true := by
    rw [← List.any_eq_true] at early
    rcases early with h | h <;> simp only [h, Bool.or_true, Bool.true_or]
  show execInvalidationComplete s = _
  unfold execInvalidationComplete
  simp only [oldest, early, if_true]

theorem execInvalidationComplete_done {rest : List (Nat × Nat)} (oldest : s.sys.tlbinv = (v, n) :: rest)
    (accs : ∀ r ∈ s.reqs, oldAccess v n r = false) (writes : s.oldWrite n = false) (spills : ∀ c ∈ s.courses, s.holdsSpill v c = false) :
    exec .invalidationComplete s =
      .next (if rest.isEmpty then (s.invalidated v rest).msix none 9 else s.invalidated v rest) := by
  have done : (s.reqs.any (oldAccess v n) || s.oldWrite n || s.courses.any (s.holdsSpill v)) = false := by
    rw [writes, Bool.or_false, Bool.or_eq_false_iff]
    exact ⟨by simpa using accs, by simpa using spills⟩
  show execInvalidationComplete s = _
  unfold execInvalidationComplete
  simp only [oldest, done]
  rfl

theorem mem_filter_not_struck (l : List (Nat × TlbEntry)) (x : Nat × TlbEntry) :
    x ∈ l.filter (fun x => !x.2.struck v) ↔ x ∈ l ∧ x.2.struck v = false := by
  rw [List.mem_filter, Bool.not_eq_true']

/-- A message leaves the queue of invalidations. -/
theorem Sys.raise_tlbinv (y : Sys) (x : Nat × Nat) : (y.raise x).tlbinv = y.tlbinv ∧ (y.raise x).tlbBusy = y.tlbBusy := by
  unfold Sys.raise
  split <;> exact ⟨rfl, rfl⟩

theorem State.msix_tlbinv (s : State) (part : Option Nat) (v : Nat) :
    (s.msix part v).sys.tlbinv = s.sys.tlbinv ∧ (s.msix part v).sys.tlbBusy = s.sys.tlbBusy :=
  List.foldlRecOn _ _ (motive := fun y : Sys => y.tlbinv = s.sys.tlbinv ∧ y.tlbBusy = s.sys.tlbBusy) ⟨rfl, rfl⟩
    fun y h _ _ => ⟨(y.raise_tlbinv _).1.trans h.1, (y.raise_tlbinv _).2.trans h.2⟩

/-! ### The end of a walk -/

/-- The state without the walk. -/
def State.unwalked (s : State) (id : Nat) : State := { s with walks := s.walks.filter fun x => x.id != id }

/-- What a walk that ends does for the one gang that waits for it. -/
def State.walkEnds (s : State) (g : Gang) (w : Walk) (va : Nat) (need : Need) (cause : Nat) (entry : Option TlbEntry) : State :=
  match entry with
  | some e => if e.allows need then (s.fillTlb (some g.core) w.group e).setGang { g with wait := .stalled }
    else s.holdGang g 0x40 (BitVec.ofNat 64 va) true
  | none => s.holdGang g cause (BitVec.ofNat 64 va) (cause != 0x4D)

/-- What a walk meets, which does not wait for a port, ends it. -/
theorem State.walk_meets {part asid pa : Nat} (meets : s.walkMeets part asid va = some pa) (free : s.walkHeld part asid va = false) :
    s.walkShut part asid va = true ∧ s.walkCause part asid va = if s.portShut pa then 0x4E else 0x4D := by
  have idle : s.portBusy pa = false := by
    rw [State.walkHeld, meets] at free
    exact free
  simp [State.walkShut, State.walkCause, meets, idle]

/-- A walk that meets nothing reads its tables. -/
theorem State.walk_clear {part asid : Nat} (clear : s.walkMeets part asid va = none) :
    s.walkShut part asid va = false ∧ s.walkCause part asid va = 0x40 := by
  simp [State.walkShut, State.walkCause, clear]

theorem State.walkEnds_allowed {e : TlbEntry} {cause : Nat} (may : e.allows need = true) :
    s.walkEnds g w va need cause (some e) = (s.fillTlb (some g.core) w.group e).setGang { g with wait := .stalled } := if_pos may

theorem State.walkEnds_none {cause : Nat} :
    s.walkEnds g w va need cause none = s.holdGang g cause (BitVec.ofNat 64 va) (cause != 0x4D) := rfl

/-- A walk whose page is not there or may not be used so holds its gang with 0x40 (08:R178). -/
theorem State.walkEnds_refused {entry : Option TlbEntry} (none : ∀ e, entry = some e → e.allows need = false) :
    s.walkEnds g w va need 0x40 entry = s.holdGang g 0x40 (BitVec.ofNat 64 va) true := by
  cases entry with
  | none => rfl
  | some e => exact if_neg (by rw [none e rfl]; exact Bool.false_ne_true)

theorem execTranslationWalkDone_one (found : s.walks.find? (fun x => x.id == id) = some w) (one : w.gids = [(g.gid, va, need)])
    (there : s.gang? g.gid = some g) (waits : g.wait = .walk id) (free : s.walkHeld (s.partOf w.foot) w.asid w.va = false) :
    let shut := s.walkShut (s.partOf w.foot) w.asid w.va
    exec (.translationWalkDone id) s =
      .next ((if shut then s.unwalked id else (s.unwalked id).walkOut (s.partOf w.foot) w.asid w.va).walkEnds g w va need
        (s.walkCause (s.partOf w.foot) w.asid w.va) (if shut then none else s.walkPage (s.partOf w.foot) w.asid w.va)) := by
  intro shut
  have still : (if shut then s.unwalked id else (s.unwalked id).walkOut (s.partOf w.foot) w.asid w.va).gang? g.gid = some g := by
    split
    · exact there
    · rw [State.onlyReads_walkOut]
      exact there
  show execTranslationWalkDone id s = _
  unfold execTranslationWalkDone
  simp only [found, free, Bool.false_eq_true, if_false, one, List.foldl_cons, List.foldl_nil]
  change Host.Outcome.next (match (if shut then s.unwalked id else (s.unwalked id).walkOut (s.partOf w.foot) w.asid w.va).gang? g.gid with
    | none => _
    | some g => _) = _
  rw [still]
  simp only [waits, BEq.rfl, Bool.not_true, Bool.false_eq_true, if_false]
  unfold State.walkEnds State.walkFault
  simp only [waits]
  change Host.Outcome.next (match (if shut then none else s.walkPage (s.partOf w.foot) w.asid w.va : Option TlbEntry) with
    | some e => _
    | none => _) = _
  generalize (if shut then none else s.walkPage (s.partOf w.foot) w.asid w.va : Option TlbEntry) = entry
  cases entry <;> rfl

end Sys2Proof.Machine

open Sys2Proof Sys2Proof.Machine

/-- Settles O53: each invalidation by its KIND, its completion before and after what it waits for, and a walk by what it meets. -/
theorem translationsInvalidated : Obligations.TranslationsInvalidated := by
  unfold Obligations.TranslationsInvalidated
  refine ⟨fun s v k i kind => ?_, fun s v => rfl, fun s v n rest oldest => ⟨execInvalidationComplete_early oldest, fun accs writes spills => ?_⟩,
    fun s w g va id need found one there waits free => ⟨fun pa meets => ?_, fun clear => ⟨fun e page may => ?_, fun none => ?_⟩⟩⟩
  · rcases kind with ⟨rfl, rfl⟩ | ⟨rfl, rfl⟩ | ⟨rfl, rfl⟩
    · exact tlbinv_eq (k := 0) (by omega)
    · exact tlbinv_eq (k := 1) (by omega)
    · exact tlbinv_eq (k := 2) (by omega)
  · refine ⟨_, execInvalidationComplete_done oldest accs writes spills, ?_⟩
    split
    next empty =>
      have kept := (s.invalidated v rest).msix_tlbinv none 9
      exact ⟨kept.1, kept.2, mem_filter_not_struck s.tlb, mem_filter_not_struck s.gtlb, fun _ _ => rfl⟩
    next => exact ⟨rfl, rfl, mem_filter_not_struck s.tlb, mem_filter_not_struck s.gtlb, fun _ _ => rfl⟩
  · obtain ⟨shut, cause⟩ := State.walk_meets meets free
    rw [execTranslationWalkDone_one found one there waits free, if_pos shut, if_pos shut, cause, State.walkEnds_none]
    cases s.portShut pa <;> rfl
  · obtain ⟨shut, -⟩ := State.walk_clear clear
    have reads := (s.unwalked id).onlyReads_walkOut (s.partOf w.foot) w.asid w.va
    refine ⟨_, execTranslationWalkDone_one found one there waits free, ?_⟩
    rw [if_neg (by simp [shut]), if_neg (by simp [shut]), page, State.walkEnds_allowed may]
    generalize (s.unwalked id).walkOut (s.partOf w.foot) w.asid w.va = t at reads
    refine ⟨?_, List.mem_cons_self, ?_, fun f a => ?_⟩
    · rw [State.setGang_walks, reads]
      rfl
    · rw [reads]
      rfl
    · rw [reads]
      rfl
  · obtain ⟨shut, cause⟩ := State.walk_clear clear
    rw [execTranslationWalkDone_one found one there waits free, if_neg (by simp [shut]), if_neg (by simp [shut]), cause,
      State.walkEnds_refused none]
    rfl

end

section
/-! What the operations that copies share leave of a state: watermarks, tokens, the end of a copy, the empty iterations of a loop
(09:R195, R203, R205, R209). -/

namespace Sys2Proof.Machine

open Sys2Proof

variable {s : State} {k : BKey} {b : Brick}

/-! ### States with the same footings, a gang that issues -/

theorem State.sameMem_of_foots {t : State} (h : t.foots = s.foots) : s.SameMem t := fun f a => by simp only [State.mem, h]

theorem State.brickOpt_key (h : s.brick? k = some b) : b.key = k := by simpa using List.find?_some h

/-- A brick found under some key is found under its own. -/
theorem State.brickOpt_self (h : s.brick? k = some b) : s.brick? b.key = some b := by rwa [State.brickOpt_key h]

theorem State.mem_of_curGang {g : Gang} (h : s.curGang = some g) : g ∈ s.gangs := List.mem_of_find?_eq_some h

theorem State.gangOpt_setGang_mem {g g' : Gang} (h : g ∈ s.gangs) (hid : g'.gid = g.gid) : (s.setGang g').gang? g.gid = some g' := by
  obtain ⟨x, hx⟩ := Option.isSome_iff_exists.1 (State.gangOpt_of_mem h)
  have same : x.gid = g.gid := by simpa using List.find?_some hx
  exact State.gangOpt_setGang hx (hid.trans same.symm)

/-! ### Watermarks (09:R195) -/

theorem vset_vget {α : Type} {n : Nat} (v : Vector α (n + 1)) (i : Nat) : vset v i (vget v i) = v := by simp [vset, vget]

theorem State.wmark_of_brick (h : s.brick? k = some b) (i : Nat) : s.wmark k i = vget b.w i := by simp only [State.wmark, h]

theorem State.setWmark_of_brick (h : s.brick? k = some b) (i : Nat) (f : Wmark → Wmark) :
    s.setWmark k i f = s.setBrick { b with w := vset b.w i (f (vget b.w i)) } := by simp only [State.setWmark, h]

theorem State.setWmark_brick (h : s.brick? k = some b) (i : Nat) (f : Wmark → Wmark) :
    (s.setWmark k i f).brick? k = some { b with w := vset b.w i (f (vget b.w i)) } := by
  rw [State.setWmark_of_brick h]
  exact State.brickOpt_setBrick h (show b.key = k from State.brickOpt_key h)

theorem State.setWmark_rest (s : State) (k : BKey) (i : Nat) (f : Wmark → Wmark) :
    s.setWmark k i f = { s with bricks := (s.setWmark k i f).bricks } := by
  unfold State.setWmark
  split <;> rfl

/-! ### Tokens (11:R233) -/

/-- A token armed and completed again is as before. -/
theorem State.complete_arm {g : Gang} (h : g ∈ s.gangs) (tok : Tok) : (s.setGang (g.arm tok)).complete g.gid tok = s.setGang g := by
  cases tok with
  | none => rfl
  | some j =>
    have count : g.outOf j + 1 - 1 = g.outOf j := BitVec.add_sub_cancel ..
    have found : (s.setGang (g.arm (some j))).gang? g.gid = some (g.arm (some j)) := State.gangOpt_setGang_mem h (g.arm_gid _)
    have back : ({ g.arm (some j) with out := vset (g.arm (some j)).out j.toNat ((g.arm (some j)).outOf j - 1) } : Gang) = g := by
      simp only [Gang.arm, Gang.outOf, vget_vset_same, vset_vset] at count ⊢
      rw [count, vset_vget]
    simp only [State.complete, found, back]
    exact State.setGang_setGang s (g.arm_gid _).symm

/-! ### The end of a copy (09:R203, R205) -/

theorem State.complete_gangs {t : State} (h : t.gangs = s.gangs) (gid : Nat) (tok : Tok) :
    (t.complete gid tok).gangs = (s.complete gid tok).gangs := by
  simp only [State.complete, State.gang?, h]
  split
  · split <;> simp only [State.setGang, h]
  · exact h

theorem State.endCopy_gangs (s : State) (c : CopyOp) : (s.endCopy c).gangs = (s.complete c.gid c.tok).gangs := by
  unfold State.endCopy
  exact State.complete_gangs (by rfl) ..

theorem State.endCopy_brick (s : State) (c : CopyOp) : (s.endCopy c).brick? k = s.brick? k := State.complete_brickOpt ..

theorem State.endCopy_foots (s : State) (c : CopyOp) : (s.endCopy c).foots = s.foots := by
  unfold State.endCopy
  rw [State.complete_rest]
  rfl

/-- A plain copy that completes leaves VALUE at END and the next GEN. -/
theorem State.completeCopy_brick {c : CopyOp} (h : s.brick? c.brick = some b) : (s.completeCopy c).brick? c.brick =
    some { b with w := vset b.w c.w { vget b.w c.w with value := (vget b.w c.w).limit, gen := (vget b.w c.w).gen + 1 } } := by
  unfold State.completeCopy
  rw [State.endCopy_brick]
  exact State.setWmark_brick h ..

theorem State.completeCopy_foots (s : State) (c : CopyOp) : (s.completeCopy c).foots = s.foots := by
  unfold State.completeCopy
  rw [State.endCopy_foots, State.setWmark_rest]

theorem State.completeCopy_gangs (s : State) (c : CopyOp) : (s.completeCopy c).gangs = (s.complete c.gid c.tok).gangs := by
  unfold State.completeCopy
  rw [State.endCopy_gangs, State.setWmark_rest]
  exact State.complete_gangs (by rfl) ..

/-! ### The empty iterations of a loop (09:R209) -/

/-- A loop's watermark after `n` more empty iterations: each ends where it began, at BASE. -/
def Wmark.landedEmpty (w : Wmark) (n : Nat) : Wmark :=
  { w with landed := w.landed + BitVec.ofNat 20 n, gen := w.gen + BitVec.ofNat 16 n }

theorem Wmark.landedEmpty_zero (w : Wmark) : w.landedEmpty 0 = w := by simp [Wmark.landedEmpty]

theorem Wmark.landedEmpty_succ (w : Wmark) (n : Nat) : (w.landedEmpty 1).landedEmpty n = w.landedEmpty (n + 1) := by
  simp only [Wmark.landedEmpty, BitVec.add_assoc, ← BitVec.ofNat_add, Nat.add_comm 1 n]

theorem CopyOp.start_of_isEmpty {c : CopyOp} (h : c.isEmpty = true) : c.start = c.base := by
  have stage : stageSize 0 = 0 := rfl
  simp [CopyOp.start, h, stage]

theorem State.landEmpty_foots (s : State) (c : CopyOp) (n : Nat) : (s.landEmpty c n).1.foots = s.foots := by
  induction n generalizing s c with
  | zero => rfl
  | succ n ih =>
    simp only [State.landEmpty]
    split
    · rfl
    · split
      · rw [State.endCopy_foots, State.setWmark_rest]
      · rw [ih, State.setWmark_rest]

/-- The next empty iteration of a loop lands where its ring has room. -/
theorem State.landEmpty_succ {c : CopyOp} (h : s.brick? c.brick = some b) (empty : c.isEmpty = true)
    (room : c.iter < (vget b.w c.w).released.toNat + c.nstg + 1) (atEnd : (vget b.w c.w).value = (vget b.w c.w).limit)
    (atBase : (vget b.w c.w).limit = BitVec.ofNat 20 c.base) (n : Nat) :
    let t := s.setBrick { b with w := vset b.w c.w ((vget b.w c.w).landedEmpty 1) }
    s.landEmpty c (n + 1) = if c.iter + 1 = c.iters then (t.endCopy { c with iter := c.iter + 1 }, { c with iter := c.iter + 1 })
      else t.landEmpty { c with iter := c.iter + 1 } n := by
  have value : (if c.iter + 1 = c.iters then (vget b.w c.w).limit else BitVec.ofNat 20 { c with iter := c.iter + 1 }.start) =
      (vget b.w c.w).value := by
    rw [CopyOp.start_of_isEmpty (c := { c with iter := c.iter + 1 }) empty, atEnd]
    split
    · rfl
    · exact atBase.symm
  have goes : (!c.isEmpty || !decide (c.iter < (s.wmark c.brick c.w).released.toNat + c.nstg + 1)) = false := by
    simp [State.wmark_of_brick h, empty, room]
  simp only [State.landEmpty, goes, Bool.false_eq_true, if_false, State.setWmark_of_brick h, value]
  rfl

/-- As many empty iterations of a loop land as are left and as its ring has room for. -/
theorem State.landEmpty_brick {c : CopyOp} {n : Nat} (h : s.brick? c.brick = some b) (empty : c.isEmpty = true)
    (room : c.iter + n ≤ (vget b.w c.w).released.toNat + c.nstg + 1) (left : c.iter < c.iters)
    (atEnd : (vget b.w c.w).value = (vget b.w c.w).limit) (atBase : (vget b.w c.w).limit = BitVec.ofNat 20 c.base) :
    (s.landEmpty c n).1.brick? c.brick =
      some { b with w := vset b.w c.w ((vget b.w c.w).landedEmpty (Nat.min (c.iters - c.iter) n)) } := by
  induction n generalizing s b c with
  | zero =>
    simp only [State.landEmpty, Nat.min_zero, Wmark.landedEmpty_zero, vset_vget, h]
  | succ n ih =>
    have next := State.brickOpt_setBrick (b' := { b with w := vset b.w c.w ((vget b.w c.w).landedEmpty 1) }) h
      (show b.key = c.brick from State.brickOpt_key h)
    rw [State.landEmpty_succ h empty (by omega) atEnd atBase n]
    split
    next last =>
      have one : Nat.min (c.iters - c.iter) (n + 1) = 1 := by
        show min _ _ = _
        omega
      rw [State.endCopy_brick, next, one]
    next more =>
      have rest : Nat.min (c.iters - c.iter) (n + 1) = Nat.min (c.iters - (c.iter + 1)) n + 1 := by
        show min _ _ = min _ _ + 1
        omega
      refine (ih (c := { c with iter := c.iter + 1 }) next empty ?_ ?_ ?_ ?_).trans ?_
      · simp only [vget_vset_same, Wmark.landedEmpty]
        omega
      · show c.iter + 1 < c.iters
        omega
      · simpa only [vget_vset_same, Wmark.landedEmpty] using atEnd
      · simpa only [vget_vset_same, Wmark.landedEmpty] using atBase
      · simp only [vget_vset_same, vset_vset, Wmark.landedEmpty_succ, rest]

end Sys2Proof.Machine

end

section
/-! The checks of COPY, COPYL and MC.LD in their order, and what one that passes them leaves, for O36 (09:R196-R205, R209, R213). -/

namespace Sys2Proof.Machine

open Sys2Proof

variable {i : Instr} {f : CopyForm} {s : State} {g : Gang} {l : Nat} {bk : Brick} {x : Box}

/-! ### Descriptors (09:R198-R200) -/

theorem Brick.descOk_eq_false (b : Brick) (bv : Word) (n : Nat) : b.descOk bv n = false ↔
    bits bv 19 45 ≠ 0 ∨ bits bv 0 19 % 8 ≠ 0 ∨ b.size < bits bv 0 19 + n ∨ b.allWritten (bits bv 0 19) n = false := by
  simp only [Brick.descOk, Bool.and_eq_false_iff, beq_eq_false_iff_ne, decide_eq_false_iff_not, Nat.not_le, or_assoc]

/-- A plain one-dimension copy has its box in operand B; every other reads a descriptor there. -/
def CopyForm.Plain (f : CopyForm) : Prop := f.n = 1 ∧ f.loop = false

/-- No uncorrectable word stands in the descriptor, where one is read. -/
def CopyForm.Clean (f : CopyForm) (s : State) (bk : Brick) (bv : Word) : Prop :=
  f.Plain ∨ bk.descOk bv (16 * f.n) = false ∨ s.badSpad bk (bits bv 0 19) (16 * f.n) = none

theorem CopyForm.Clean.unmarked {bv : Word} (h : f.Clean s bk bv) : (if f.n = 1 ∧ (!f.loop) = true ∨
    (!bk.descOk bv (16 * f.n)) = true then none else s.badSpad bk (bits bv 0 19) (16 * f.n)) = none := by
  simp only [Bool.not_eq_true']
  rcases h with plain | unread | sound
  · exact if_pos (.inl plain)
  · exact if_pos (.inr unread)
  · rw [sound, ite_self]

theorem CopyForm.boxAt_plain (h : f.Plain) {av bv : Word} (wide : bits bv 20 44 ≠ 0 ∨ 524288 < bits bv 0 20) :
    bk.boxAt f.loop f.n av bv = .error av := by
  simp only [Brick.boxAt, h.1, h.2, Bool.not_false, and_self, if_true]
  exact if_pos wide

theorem CopyForm.boxAt_unread (h : ¬ f.Plain) {av bv : Word} (unread : bk.descOk bv (16 * f.n) = false) :
    bk.boxAt f.loop f.n av bv = .error (BitVec.ofNat 64 (bits bv 0 19)) := by
  have read : ¬ (f.n = 1 ∧ (!f.loop) = true) := by simpa [CopyForm.Plain] using h
  unfold Brick.boxAt
  rw [if_neg read, unread]
  rfl

theorem CopyForm.boxAt_bad (h : ¬ f.Plain) {av bv : Word} (bad : boxOf f.loop (bk.words (bits bv 0 19) (2 * f.n)) = none) :
    bk.boxAt f.loop f.n av bv = .error (BitVec.ofNat 64 (bits bv 0 19)) := by
  have read : ¬ (f.n = 1 ∧ (!f.loop) = true) := by simpa [CopyForm.Plain] using h
  unfold Brick.boxAt
  rw [if_neg read]
  simp only [bad, ite_self]

/-- A loop has an iteration at least (09:R199). -/
theorem boxOf_iters {ws : List Word} (h : boxOf true ws = some x) : x.iters ≠ 0 := by
  simp only [boxOf, if_true] at h
  split at h
  · cases h
  next ok =>
    obtain ⟨ds, -, rfl⟩ := Option.map_eq_some_iff.1 h
    simp only [Bool.not_eq_true', Bool.not_eq_false, Bool.and_eq_true, bne_iff_ne] at ok
    exact ok.2

theorem Brick.boxAt_loop_iters {n : Nat} {av bv : Word} (h : bk.boxAt true n av bv = .ok x) : x.iters ≠ 0 := by
  simp only [Brick.boxAt, Bool.not_true, Bool.false_eq_true, and_false, if_false] at h
  split at h
  · cases h
  · split at h
    next found =>
      cases h
      exact boxOf_iters found
    · cases h

/-! ### The checks in their order (09:R200, R213) -/

/-- A copy past all checks and interlocks: its token armed, itself in the pipe. -/
def CopyForm.started (f : CopyForm) (s : State) (g : Gang) (l : Nat) (bk : Brick) (x : Box) : State :=
  (s.setGang (g.arm f.tok)).startCopy (g.arm f.tok) bk f.tok f.w f.sp (s.opnd g 0 f.a l) f.base x f.loop f.grp

/-- What a copy whose box is known does. -/
def CopyForm.boxed (f : CopyForm) (s : State) (g : Gang) (l : Nat) (bk : Brick) (x : Box) : Out :=
  if bk.size < f.limit x ∨ (f.loop = true ∨ f.grp.isSome = true) ∧ f.base % 32 ≠ 0 ∨
      s.sourceOk bk f.sp (s.opnd g 0 f.a l) x = false then s.trapEm g 0x21 (s.opnd g 0 f.a l)
  else if (vget bk.w f.w).loop = true ∧ (vget bk.w f.w).landed.toNat < (vget bk.w f.w).iters.toNat then s.trapEm g 0x22 (s.opnd g 0 f.a l)
  else if f.grp.any (fun n => !s.enrolled bk n) = true then s.trapEm g 0x24 (s.opnd g 0 f.a l)
  else if (vget bk.w f.w).landing = true ∨ 32 ≤ s.copiesOn g.core ∨ g.tokFull f.tok = true then s.stall g
  else (f.started s g l bk x).done (((f.started s g l bk x).gang? g.gid).getD (g.arm f.tok))

/-- What a copy does by its box, or by the value that its descriptor's trap reports. -/
def CopyForm.answers (f : CopyForm) (s : State) (g : Gang) (l : Nat) (bk : Brick) : Except Word Box → Out
  | .error v => s.trapEm g 0x20 v
  | .ok x => f.boxed s g l bk x

theorem CopyForm.exec_eq (form : copyForm i = some f) (once : s.Once g f.gd [f.a, f.b] l) (brick : s.brick? (g.lane l).brick = some bk)
    (clean : f.Clean s bk (s.opnd g 0 f.b l)) : exec i s =
      f.answers s g l bk (bk.boxAt f.loop f.n (s.opnd g 0 f.a l) (s.opnd g 0 f.b l)) := by
  have copyOp (m : Nat) (hm : f.n = m + 1) : s.copyOp f.gd f.tok f.w f.sp m f.a f.b f.base f.loop f.grp =
      f.answers s g l bk (bk.boxAt f.loop f.n (s.opnd g 0 f.a l) (s.opnd g 0 f.b l)) := by
    refine (once.runs false _).trans ?_
    simp only [brick, ← hm, clean.unmarked]
    cases bk.boxAt f.loop f.n (s.opnd g 0 f.a l) (s.opnd g 0 f.b l) with
    | error v => rfl
    | ok x =>
      have limit : f.limit x = f.base + if f.loop = true then (x.nstg + 1) * stageSize x.span else x.span := rfl
      simp only [← limit, Gang.arm_gid, State.wmark_of_brick (State.brickOpt_self brick), Bool.and_eq_true, decide_eq_true_eq,
        Bool.not_eq_true', Bool.or_eq_true, or_assoc]
      rfl
  unfold copyForm at form
  split at form <;> cases form <;> exact copyOp _ rfl

/-! ### A copy that enters its pipe (09:R196, R205, R209) -/

theorem CopyForm.arm_eq (f : CopyForm) (w : Wmark) (id : Nat) (x : Box) : w.arm id f.base
    (if f.loop = true then f.base + (x.nstg + 1) * stageSize x.span else f.base + x.span)
    (if f.loop = true then some (x.iters, x.nstg) else none) = f.armed w id x := by
  cases h : f.loop <;> simp [Wmark.arm, CopyForm.armed, CopyForm.limit, h, stageSize]

theorem State.engDeps_arm (s : State) (g : Gang) (tok : Tok) : (s.setGang (g.arm tok)).engDeps (g.arm tok) = s.engDeps g := by
  show s.engDeps (g.arm tok) = _
  simp only [State.engDeps, Gang.arm_gid, Gang.arm_after, Gang.arm_hb]

theorem Gang.arm_core (g : Gang) (tok : Tok) : (g.arm tok).core = g.core := by simp only [Gang.core, Gang.arm_place]

/-- The copy in its pipe; a fill waits where there is something to fill. -/
def CopyForm.piped (f : CopyForm) (s : State) (g : Gang) (l : Nat) (bk : Brick) (x : Box) : CopyOp :=
  { f.op s g l bk x with waiting := f.grp.isSome && !x.empty }

theorem CopyForm.piped_arm (f : CopyForm) (s : State) (g : Gang) (l : Nat) (bk : Brick) (x : Box) :
    { f.piped (s.setGang (g.arm f.tok)) (g.arm f.tok) l bk x with src := s.opnd g 0 f.a l } = f.piped s g l bk x := by
  simp only [CopyForm.piped, CopyForm.op, Gang.arm_gid, Gang.arm_core, State.engDeps_arm, State.setGang_nextId, State.setGang_asidOf]

/-- The state with the copy in its pipe and its watermark armed. -/
def CopyForm.entered (f : CopyForm) (s : State) (g : Gang) (l : Nat) (bk : Brick) (x : Box) : State :=
  let u := (s.setGang (g.arm f.tok)).newId.2.setWmark bk.key f.w fun y => f.armed y s.nextId x
  { u with copies := u.copies ++ [f.piped s g l bk x] }

/-- A fill's request leaves. -/
def CopyForm.asks (f : CopyForm) (s : State) (g : Gang) (l : Nat) (bk : Brick) (x : Box) (u : State) : State :=
  match f.grp with
  | some n => { u with mcreqs := u.mcreqs ++
      [⟨s.nextId, false, bk.key, n, (BitVec.ofNat 64 (bits (s.opnd g 0 f.a l) 0 56), x.e0, x.dims.map fun d => (d.e, d.s))⟩] }
  | none => u

theorem CopyForm.started_eq (f : CopyForm) (s : State) (g : Gang) (l : Nat) (bk : Brick) (x : Box) : f.started s g l bk x =
    let u := f.entered s g l bk x
    let v := u.landEmpty (f.piped s g l bk x) (x.nstg + 1)
    if x.empty = true then
      if (!f.loop) = true then u.completeCopy (f.piped s g l bk x)
      else if v.2.iter = v.2.iters then v.1 else v.1.setCopy v.2
    else f.asks s g l bk x u := by
  have arm : (fun y => f.armed y s.nextId x) = fun y : Wmark => y.arm s.nextId f.base
      (if f.loop = true then f.base + (x.nstg + 1) * stageSize x.span else f.base + x.span)
      (if f.loop = true then some (x.iters, x.nstg) else none) := funext fun y => (f.arm_eq y s.nextId x).symm
  unfold CopyForm.entered
  rw [arm, ← CopyForm.piped_arm]
  rfl

theorem CopyForm.piped_filled (filled : x.empty = false) : f.piped s g l bk x = f.op s g l bk x := by
  simp only [CopyForm.piped, filled, Bool.not_false, Bool.and_true]
  rfl

theorem CopyForm.entered_brick (brick : s.brick? bk.key = some bk) : (f.entered s g l bk x).brick? bk.key =
    some { bk with w := vset bk.w f.w (f.armed (vget bk.w f.w) s.nextId x) } :=
  State.setWmark_brick (s := (s.setGang (g.arm f.tok)).newId.2) brick ..

theorem CopyForm.entered_rest (f : CopyForm) (s : State) (g : Gang) (l : Nat) (bk : Brick) (x : Box) : f.entered s g l bk x =
    { (s.setGang (g.arm f.tok)).newId.2 with
      bricks := (f.entered s g l bk x).bricks, copies := s.copies ++ [f.piped s g l bk x] } := by
  unfold CopyForm.entered
  rw [State.setWmark_rest]
  rfl

theorem CopyForm.asks_rest (f : CopyForm) (s : State) (g : Gang) (l : Nat) (bk : Brick) (x : Box) (u : State) :
    f.asks s g l bk x u = { u with mcreqs := (f.asks s g l bk x u).mcreqs } := by
  unfold CopyForm.asks
  split <;> rfl

/-- The issuing gang goes on from the record that the rest of its instruction has left. -/
theorem State.advanced_gangs {t : State} {g' : Gang} (mem : g ∈ s.gangs) (gid : g'.gid = g.gid) (h : t.gangs = (s.setGang g').gangs)
    (d : Gang) : (t.setGang ((t.gang? g.gid).getD d).advance).gangs = (s.setGang g'.advance).gangs := by
  have found : t.gang? g.gid = some g' := by
    rw [State.gang?, h]
    exact State.gangOpt_setGang_mem mem gid
  rw [found, ← State.setGang_setGang s g'.advance_gid]
  simp only [State.setGang, h, Option.getD_some]

/-- A copy of an empty box ends where it begins. -/
theorem CopyForm.limit_empty (empty : x.empty = true) : f.limit x = f.base := by
  have span : x.span = 0 := if_pos empty
  simp [CopyForm.limit, span]

theorem CopyForm.armed_limit (f : CopyForm) (w : Wmark) (id : Nat) (x : Box) :
    (f.armed w id x).limit = BitVec.ofNat 20 (f.limit x) := by
  unfold CopyForm.armed
  split <;> rfl

theorem CopyForm.armed_gen (f : CopyForm) (w : Wmark) (id : Nat) (x : Box) : (f.armed w id x).gen = w.gen := by
  unfold CopyForm.armed
  split <;> rfl

/-- The watermark of a loop of empty iterations as it is armed. -/
theorem CopyForm.armed_loop (loop : f.loop = true) (empty : x.empty = true) (w : Wmark) (id : Nat) :
    (f.armed w id x).armed = true ∧ (f.armed w id x).loop = true ∧ (f.armed w id x).value = (f.armed w id x).limit ∧
      (f.armed w id x).limit = BitVec.ofNat 20 f.base ∧ (f.armed w id x).landed = 0 ∧ (f.armed w id x).released = 0 := by
  simp [CopyForm.armed, loop, CopyForm.limit_empty empty]

/-- A loop of empty iterations lands as many at once as its ring has stages for. -/
theorem CopyForm.started_loop_brick (brick : s.brick? bk.key = some bk) (loop : f.loop = true) (empty : x.empty = true)
    (some_iter : x.iters ≠ 0) : (f.started s g l bk x).brick? bk.key = some { bk with
      w := vset bk.w f.w ((f.armed (vget bk.w f.w) s.nextId x).landedEmpty (Nat.min x.iters (x.nstg + 1))) } := by
  obtain ⟨-, -, atEnd, atBase, -, released⟩ := CopyForm.armed_loop loop empty (vget bk.w f.w) s.nextId
  have entered := CopyForm.entered_brick (f := f) (g := g) (l := l) (x := x) brick
  have landed := State.landEmpty_brick (c := f.piped s g l bk x) (n := x.nstg + 1) entered empty
    (by simp [CopyForm.piped, CopyForm.op, released]) (Nat.pos_of_ne_zero some_iter)
    (by simpa [CopyForm.piped, CopyForm.op] using atEnd) (by simpa [CopyForm.piped, CopyForm.op] using atBase)
  simp only [CopyForm.piped, CopyForm.op, vget_vset_same, vset_vset, Nat.sub_zero] at landed
  rw [CopyForm.started_eq]
  simp only [empty, loop, if_true, Bool.not_true, Bool.false_eq_true, if_false]
  split <;> exact landed

theorem CopyForm.started_foots (f : CopyForm) (s : State) (g : Gang) (l : Nat) (bk : Brick) (x : Box) :
    (f.started s g l bk x).foots = s.foots := by
  have entered : (f.entered s g l bk x).foots = s.foots := by
    rw [CopyForm.entered_rest]
    rfl
  rw [CopyForm.started_eq]
  dsimp only
  split
  · split
    · rw [State.completeCopy_foots, entered]
    · split
      · rw [State.landEmpty_foots, entered]
      · exact (State.landEmpty_foots ..).trans entered
  · rw [CopyForm.asks_rest, entered]

/-- A copy of an empty box under a plain watermark completes at its issue (09:R205). -/
theorem CopyForm.started_plain (loop : f.loop = false) (empty : x.empty = true) :
    f.started s g l bk x = (f.entered s g l bk x).completeCopy (f.piped s g l bk x) := by
  rw [CopyForm.started_eq]
  simp only [empty, loop, Bool.not_false, if_true]

theorem CopyForm.started_filled (filled : x.empty = false) : f.started s g l bk x = f.asks s g l bk x (f.entered s g l bk x) := by
  rw [CopyForm.started_eq]
  simp only [filled, Bool.false_eq_true, if_false]

theorem CopyForm.started_plain_brick (brick : s.brick? bk.key = some bk) (loop : f.loop = false) (empty : x.empty = true) :
    (f.started s g l bk x).brick? bk.key = some { bk with w := vset bk.w f.w { f.armed (vget bk.w f.w) s.nextId x with
      value := BitVec.ofNat 20 (f.limit x), gen := (vget bk.w f.w).gen + 1 } } := by
  rw [CopyForm.started_plain loop empty]
  refine (State.completeCopy_brick (c := f.piped s g l bk x) (CopyForm.entered_brick brick)).trans ?_
  simp only [CopyForm.piped, CopyForm.op, vget_vset_same, vset_vset, CopyForm.armed_limit, CopyForm.armed_gen]

theorem CopyForm.started_plain_gangs (mem : g ∈ s.gangs) (loop : f.loop = false) (empty : x.empty = true) :
    (f.started s g l bk x).gangs = (s.setGang g).gangs := by
  rw [CopyForm.started_plain loop empty, State.completeCopy_gangs, ← State.complete_arm mem f.tok, CopyForm.entered_rest]
  exact State.complete_gangs (by rfl) ..

/-! ### What passes the checks, and what a check refuses -/

/-- The window and the source of a copy are in range. -/
def CopyForm.Fits (f : CopyForm) (s : State) (g : Gang) (l : Nat) (bk : Brick) (x : Box) : Prop :=
  f.limit x ≤ bk.size ∧ (f.loop = true ∨ f.grp.isSome = true → f.base % 32 = 0) ∧ s.sourceOk bk f.sp (s.opnd g 0 f.a l) x = true

/-- Its watermark is that of a loop whose iterations still land. -/
def CopyForm.Rings (f : CopyForm) (bk : Brick) : Prop :=
  (vget bk.w f.w).loop = true ∧ (vget bk.w f.w).landed.toNat < (vget bk.w f.w).iters.toNat

theorem CopyForm.unfit_iff : (bk.size < f.limit x ∨ (f.loop = true ∨ f.grp.isSome = true) ∧ f.base % 32 ≠ 0 ∨
    s.sourceOk bk f.sp (s.opnd g 0 f.a l) x = false) ↔ ¬ f.Fits s g l bk x := by
  rw [CopyForm.Fits, not_and_or, not_and_or, Nat.not_le, Classical.not_imp, Bool.not_eq_true]

theorem CopyForm.boxed_unfit (unfit : ¬ f.Fits s g l bk x) : f.boxed s g l bk x = s.trapEm g 0x21 (s.opnd g 0 f.a l) :=
  if_pos (CopyForm.unfit_iff.2 unfit)

theorem CopyForm.boxed_rings (fits : f.Fits s g l bk x) (rings : f.Rings bk) : f.boxed s g l bk x = s.trapEm g 0x22 (s.opnd g 0 f.a l) :=
  (if_neg fun unfit => CopyForm.unfit_iff.1 unfit fits).trans (if_pos rings)

theorem CopyForm.boxed_stranger {n : Nat} (fits : f.Fits s g l bk x) (rests : ¬ f.Rings bk) (grp : f.grp = some n)
    (stranger : s.enrolled bk n = false) : f.boxed s g l bk x = s.trapEm g 0x24 (s.opnd g 0 f.a l) :=
  (if_neg fun unfit => CopyForm.unfit_iff.1 unfit fits).trans ((if_neg rests).trans (if_pos (by simp [grp, stranger])))

theorem CopyForm.Goes.exec_eq (form : copyForm i = some f) (h : f.Goes s g l bk x) : exec i s =
    .next ((f.started s g l bk x).setGang (((f.started s g l bk x).gang? g.gid).getD (g.arm f.tok)).advance) := by
  have clean : f.Clean s bk (s.opnd g 0 f.b l) := h.sound.imp_right .inr
  have enrolled : ¬ f.grp.any (fun n => !s.enrolled bk n) = true := by
    simp only [Option.any_eq_true, not_exists, not_and, Bool.not_eq_true', Bool.not_eq_false]
    exact h.member
  have goes : ¬ ((vget bk.w f.w).landing = true ∨ 32 ≤ s.copiesOn g.core ∨ g.tokFull f.tok = true) := by
    simp only [h.free, h.token, Bool.false_eq_true, or_false, false_or, Nat.not_le]
    exact h.places
  have fits : f.Fits s g l bk x := ⟨h.room, h.aligned, h.source⟩
  have rests : ¬ f.Rings bk := fun rings => absurd (h.idle rings.1) (Nat.not_le.2 rings.2)
  rw [CopyForm.exec_eq form h.once h.brick clean, h.box]
  exact (if_neg fun unfit => CopyForm.unfit_iff.1 unfit fits).trans ((if_neg rests).trans ((if_neg enrolled).trans (if_neg goes)))

end Sys2Proof.Machine

open Sys2Proof Sys2Proof.Machine

/-- Settles O36: a copy past its checks by what its box holds, and each check in its order. -/
theorem copiesStart : Obligations.CopiesStart := by
  unfold Obligations.CopiesStart
  refine ⟨fun i f s g l bk x _ form goes => ?_, fun i f s g l bk _ form once brick => ?_⟩
  · have mem := State.mem_of_curGang goes.once.cur
    have self := State.brickOpt_self goes.brick
    have mem_ok (g' : Gang) : s.SameMem ((f.started s g l bk x).setGang g') := State.sameMem_of_foots (f.started_foots s g l bk x)
    refine ⟨fun filled => ⟨_, goes.exec_eq form, ?_, ?_, ?_, ?_, mem_ok _⟩,
      fun empty => ⟨_, goes.exec_eq form, mem_ok _, fun loop => ⟨?_, ?_⟩, fun loop => ?_⟩⟩
    · rw [State.setGang_copies, CopyForm.started_filled filled, CopyForm.asks_rest, CopyForm.entered_rest, CopyForm.piped_filled filled]
    · refine State.advanced_gangs mem (g.arm_gid _) ?_ _
      rw [CopyForm.started_filled filled, CopyForm.asks_rest, CopyForm.entered_rest]
      rfl
    · rw [State.setGang_brickOpt, CopyForm.started_filled filled, CopyForm.asks_rest]
      exact CopyForm.entered_brick (l := l) self
    · rw [State.setGang_mcreqs, CopyForm.started_filled filled, CopyForm.entered_rest]
      unfold CopyForm.asks
      cases f.grp with
      | none => exact (List.append_nil _).symm
      | some n => rfl
    · exact State.advanced_gangs mem rfl (CopyForm.started_plain_gangs mem loop empty) _
    · exact (State.setGang_brickOpt ..).trans (CopyForm.started_plain_brick self loop empty)
    · obtain ⟨armed, isLoop, atEnd, -, landed, -⟩ := CopyForm.armed_loop loop empty (vget bk.w f.w) s.nextId
      have some_iter : x.iters ≠ 0 := by
        have box := goes.box
        rw [loop] at box
        exact Brick.boxAt_loop_iters box
      have brick := CopyForm.started_loop_brick (f := f) (g := g) (l := l) self loop empty some_iter
      refine ⟨_, (State.setGang_brickOpt ..).trans brick, armed, isLoop, atEnd, ?_, ?_⟩
      · simp [Wmark.landedEmpty, landed]
      · simp only [Wmark.landedEmpty, CopyForm.armed_gen]
  · intro av bv off n plain unread
    have desc : bk.descOk bv (16 * f.n) = false ↔ unread := bk.descOk_eq_false bv (16 * f.n)
    have runs (clean : f.Clean s bk bv) : exec i s = f.answers s g l bk (bk.boxAt f.loop f.n av bv) :=
      CopyForm.exec_eq form once brick clean
    refine ⟨fun isPlain wide => ?_, fun reads bad => ?_, fun reads good sound bad => ?_, fun x sound box => ⟨fun unfit => ?_,
      fun fits rings => ?_, fun k fits rests grp stranger => ?_⟩⟩
    · rw [runs (.inl isPlain), CopyForm.boxAt_plain isPlain wide]
      rfl
    · rw [runs (.inr (.inl (desc.2 bad))), CopyForm.boxAt_unread reads (desc.2 bad)]
      rfl
    · rw [runs (.inr (.inr sound)), CopyForm.boxAt_bad reads bad]
      rfl
    all_goals rw [runs (sound.imp_right .inr), box]
    · exact CopyForm.boxed_unfit unfit
    · exact CopyForm.boxed_rings fits rings
    · exact CopyForm.boxed_stranger fits rests grp stranger

end

section
/-! Stages freed and awaited, and the members of a multicast group, for O37 (09:R210-R212). -/

namespace Sys2Proof.Machine

open Sys2Proof

variable {s : State} {g : Gang} {gd : Guard} {l : Nat} {b : Brick}

/-! ### WMARK.REL and WMARK.WAITG (09:R210, R211) -/

theorem execWmarkRel_once {w : BitVec 3} (once : s.Once g gd [] l) (brick : s.brick? (g.lane l).brick = some b) :
    let x := vget b.w w.toNat
    execWmarkRel gd w s =
      if x.loop = false ∨ x.released = x.iters then s.trapEm g 0x23 0
      else if x.released = x.landed then s.stall g
      else (s.setBrick { b with w := vset b.w w.toNat { x with
        released := x.released + 1
        rels := x.rels ++ [⟨x.released.toNat + x.nstg.toNat + 1, g.gid, s.nextId⟩] } }).done g := by
  refine (once.runs false _).trans ?_
  simp only [State.wmark_of_brick brick, State.setWmark_of_brick brick, Bool.or_eq_true, Bool.not_eq_true', beq_iff_eq]

theorem execWmarkWaitg_once {w : BitVec 3} {a : Opnd} (once : s.Once g gd [a] l) (brick : s.brick? (g.lane l).brick = some b) :
    execWmarkWaitg gd w a s =
      if ((vget b.w w.toNat).gen - (s.opnd g 0 a l).setWidth 16).toNat < 2 ^ 15 then s.done g else s.stall g := by
  refine (once.runs false _).trans ?_
  simp only [State.wmark_of_brick brick]

/-! ### The record of a group (09:R195, R212) -/

theorem State.mcGroup_setMcGroup (s : State) (foot grp : Nat) (x : McGroup) : (s.setMcGroup foot grp x).mcGroup foot grp = x := by
  simp only [State.mcGroup, State.setMcGroup, State.setFoot, vget_vset_same]

theorem State.mcGroup_of_foots {t : State} (h : t.foots = s.foots) (foot grp : Nat) : t.mcGroup foot grp = s.mcGroup foot grp := by
  simp only [State.mcGroup, h]

theorem State.grant_foots (s : State) (copies : List Nat) : (s.grant copies false).foots = s.foots := by
  unfold State.grant
  exact (foldl_foots (fun _ _ => by rfl) _ _).trans rfl

theorem State.checkHolds_foots (s : State) (foot grp : Nat) : (s.checkHolds foot grp).foots = s.foots := by
  simp only [State.checkHolds, List.partition_eq_filter_filter]
  exact foldl_foots (f := fun (u : State) (h : McHold) => (u.grant h.copies false).tested h) (fun u h => u.grant_foots h.copies) ..

theorem State.setEnrolled_foots (s : State) (k : BKey) (f : BitVec 64 → BitVec 64) : (s.setEnrolled k f).foots = s.foots := by
  unfold State.setEnrolled
  split <;> rfl

/-- A brick that may join a group is one of its members then; an empty group takes its owner and its timer. -/
theorem State.mcJoin_takes {k : BKey} {foot grp t asid : Nat}
    (own : (s.mcGroup foot grp).members = [] ∨ (s.mcGroup foot grp).owner = asid)
    (room : (s.mcGroup foot grp).members.length < 64) (low : 0 < t) (high : t ≤ 20312) :
    ∃ u : State, s.mcJoin k foot grp t asid = some u ∧ k ∈ (u.mcGroup foot grp).members ∧
      (∀ j ∈ (s.mcGroup foot grp).members, j ∈ (u.mcGroup foot grp).members) ∧
      ((s.mcGroup foot grp).members = [] → (u.mcGroup foot grp).timer = t ∧ (u.mcGroup foot grp).owner = asid) := by
  have may : ¬ (((s.mcGroup foot grp).owner != asid && (s.mcGroup foot grp).members != []) = true ∨
      64 ≤ (s.mcGroup foot grp).members.length ∨ t = 0 ∨ 20312 < t) := by
    simp only [Bool.and_eq_true, bne_iff_ne]
    rintro (⟨other, taken⟩ | full | none | long)
    · exact own.elim taken other
    · omega
    · omega
    · omega
  by_cases inside : (s.mcGroup foot grp).members.contains k = true
  · refine ⟨s, (if_neg (by simpa [and_assoc] using may)).trans (if_pos inside), List.contains_iff_mem.1 inside, fun _ h => h,
      fun none => ?_⟩
    rw [none] at inside
    cases inside
  · refine ⟨_, (if_neg (by simpa [and_assoc] using may)).trans (if_neg inside), ?_⟩
    rw [State.mcGroup_setMcGroup]
    refine ⟨List.mem_append_right _ (List.mem_singleton_self k), fun j h => List.mem_append_left _ ?_, fun none => ?_⟩
    · split
      · exact h
      · exact h
    · simp only [none, if_true, and_self]

theorem State.mcLeave_leaves (s : State) (k : BKey) (foot grp : Nat) : k ∉ ((s.mcLeave k foot grp).mcGroup foot grp).members := by
  unfold State.mcLeave
  dsimp only
  split
  · rw [State.mcGroup_of_foots (State.checkHolds_foots ..), State.mcGroup_setMcGroup]
    simp
  next outside => exact fun inside => outside (List.contains_iff_mem.2 inside)

theorem execMcJoin_once {tok : Tok} {a c : Opnd} {u : State} (once : s.Once g gd [a, c] l)
    (brick : s.brick? (g.lane l).brick = some b) (group : bits (s.opnd g 0 a l) 6 58 = 0) (token : g.tokFull tok = false)
    (joins : s.mcJoin b.key (footOf b.core) (bits (s.opnd g 0 a l) 0 6) (bits (s.opnd g 0 c l) 0 15) (s.asidOf b.key.wall) = some u) :
    execMcJoin gd tok a c s =
      .next ((u.setEnrolled b.key (· ||| BitVec.ofNat 64 (2 ^ bits (s.opnd g 0 a l) 0 6))).setGang g.advance) := by
  rw [State.brickOpt_key brick] at joins ⊢
  refine (once.runs false _).trans ?_
  simp only [brick, if_neg (not_not.2 group), joins, token, Bool.false_eq_true, if_false]
  rfl

theorem execMcLeave_once {tok : Tok} {a : Opnd} (once : s.Once g gd [a] l) (brick : s.brick? (g.lane l).brick = some b)
    (group : bits (s.opnd g 0 a l) 6 58 = 0) (token : g.tokFull tok = false) :
    execMcLeave gd tok a s = .next (((s.mcLeave b.key (footOf b.core) (bits (s.opnd g 0 a l) 0 6)).setEnrolled b.key
      (· &&& ~~~(BitVec.ofNat 64 (2 ^ bits (s.opnd g 0 a l) 0 6)))).setGang g.advance) := by
  rw [State.brickOpt_key brick]
  refine (once.runs false _).trans ?_
  simp only [brick, if_neg (not_not.2 group), token, Bool.false_eq_true, if_false]
  rfl

end Sys2Proof.Machine

open Sys2Proof Sys2Proof.Machine

/-- Settles O37: a stage freed, awaited or refused by the counts of its watermark, and a brick in and out of a group. -/
theorem watermarksAndGroups : Obligations.WatermarksAndGroups := by
  unfold Obligations.WatermarksAndGroups
  refine ⟨fun gd w s g l b once brick => ?_, fun gd w a s g l b once brick => ?_,
    fun gd tok a c s g l b once brick => ?_, fun gd tok a s g l b once brick group token => ?_⟩
  · intro x
    have runs : exec (.wmarkRel gd w) s = _ := execWmarkRel_once once brick
    refine ⟨fun loop left landed => ?_, fun refused => ?_, fun loop left none => ?_⟩
    · have may : ¬ (x.loop = false ∨ x.released = x.iters) := not_or.2 ⟨by simp [loop], left⟩
      exact runs.trans ((if_neg may).trans (if_neg landed))
    · exact runs.trans (if_pos refused)
    · have may : ¬ (x.loop = false ∨ x.released = x.iters) := not_or.2 ⟨by simp [loop], left⟩
      exact runs.trans ((if_neg may).trans (if_pos none))
  · intro ahead
    have runs : exec (.wmarkWaitg gd w a) s = _ := execWmarkWaitg_once once brick
    rw [runs]
    split <;> rfl
  · intro grp r t group own room low high token
    obtain ⟨u, joins, inside, kept, fresh⟩ := State.mcJoin_takes (k := b.key) own room low high
    refine ⟨_, execMcJoin_once once brick group token joins, ?_⟩
    rw [State.mcGroup_of_foots (State.setEnrolled_foots ..)]
    exact ⟨inside, kept, fresh⟩
  · intro grp
    refine ⟨_, execMcLeave_once once brick group token, ?_⟩
    rw [State.mcGroup_of_foots (State.setEnrolled_foots ..)]
    exact s.mcLeave_leaves b.key (footOf b.core) grp

end

section
/-! Pieces of copies, requests and hold entries of fills, and elements of gathers and scatters, for O52 (09:R197, R205, R209, R213, R214,
12:R246, R247). -/

namespace Sys2Proof.Machine

open Sys2Proof

variable {s u : State} {c : CopyOp} {b : Brick} {n id : Nat} {bs : List Byte}

/-! ### Where a piece lands (09:R197, R209) -/

theorem CopyOp.isEmpty_eq_false (bytes : c.e0 ≠ 0) (rows : ∀ d ∈ c.dims, d.e ≠ 0) : c.isEmpty = false := by
  simp only [CopyOp.isEmpty, Bool.or_eq_false_iff, beq_eq_false_iff_ne, List.any_eq_false, beq_iff_eq]
  exact ⟨bytes, rows⟩

/-- An iteration of a loop starts at the stage that its number gives (09:R209). -/
theorem CopyOp.start_of_loop (loop : c.loop = true) (filled : c.isEmpty = false) :
    c.start = c.base + c.iter % (c.nstg + 1) * ((spanFrom c.e0 c.dims + 31) / 32 * 32) := by
  simp [CopyOp.start, loop, filled, stageSize]

theorem CopyOp.nextPiece_last (bytes : c.e0 ≤ c.x + n) (rows : rowsOf c.dims ≤ c.row + 1) : c.nextPiece n = none :=
  (if_neg (Nat.not_lt.2 bytes)).trans (if_neg (Nat.not_lt.2 rows))

/-- A copy in its pipe that may land now: not finished, granted, not frozen, of a brick whose engines work and a gang that is not held. -/
structure State.Pipes (s : State) (id : Nat) (c : CopyOp) : Prop where
  found : s.copies.find? (fun x => x.id == id) = some c
  ongoing : c.finished = false
  granted : c.waiting = false
  thawed : c.frozen = none
  working : s.working c.brick = true
  free : s.gangHeld c.gid = false

/-- The copy's next piece comes to its place, and the copy goes on. -/
theorem State.Pipes.lands (h : s.Pipes id c) (filled : c.isEmpty = false)
    (ring : c.loop = true → c.iter < (s.wmark c.brick c.w).released.toNat + c.nstg + 1) (free : s.refillHeld c = false)
    (piece : s.pieceBytes c (c.step * c.iter + rowOff Dim.s c.dims c.row + c.x) (Nat.min (c.e0 - c.x) (32 - c.dst c.row c.x % 32)) =
      .ok bs u) :
    execCopyPieceLand id s = .next ((u.landBytes c.brick c.id (c.dst c.row c.x) bs).afterPiece c
      (Nat.min (c.e0 - c.x) (32 - c.dst c.row c.x % 32))) := by
  have may : (c.loop && !decide (c.iter < (s.wmark c.brick c.w).released.toNat + c.nstg + 1)) = false := by
    cases loop : c.loop with
    | false => rfl
    | true => simp [ring loop]
  simp only [execCopyPieceLand, h.found, h.ongoing, h.granted, h.thawed, h.working, h.free, may, free, filled, piece, Option.isSome_none,
    Bool.not_true, Bool.or_self, Bool.false_eq_true, if_false]

/-- An iteration whose stage is not free waits (09:R209). -/
theorem execCopyPieceLand_waits (found : s.copies.find? (fun x => x.id == id) = some c) (loop : c.loop = true)
    (full : (s.wmark c.brick c.w).released.toNat + c.nstg + 1 ≤ c.iter) : execCopyPieceLand id s = .refused .cannotOccur := by
  have wait : (c.loop && !decide (c.iter < (s.wmark c.brick c.w).released.toNat + c.nstg + 1)) = true := by
    simp only [loop, Bool.true_and, Bool.not_eq_true', decide_eq_false_iff_not]
    omega
  simp only [execCopyPieceLand, found, wait, if_true, ite_self]

/-! ### The last piece (09:R205, R209) -/

theorem State.afterPiece_completes (brick : s.brick? c.brick = some b) (loop : c.loop = false) (last : c.nextPiece n = none) :
    (s.afterPiece c n).brick? c.brick =
      some { b with w := vset b.w c.w { vget b.w c.w with value := (vget b.w c.w).limit, gen := (vget b.w c.w).gen + 1 } } := by
  simp only [State.afterPiece, last, loop, Bool.not_false, if_true]
  exact State.completeCopy_brick brick

/-- The last piece of an iteration: the next one begins where its stage does. -/
theorem State.afterPiece_iterates (brick : s.brick? c.brick = some b) (loop : c.loop = true) (last : c.nextPiece n = none) :
    (s.afterPiece c n).brick? c.brick = some { b with w := vset b.w c.w { vget b.w c.w with
      landed := (vget b.w c.w).landed + 1, gen := (vget b.w c.w).gen + 1
      value := if c.iter + 1 = c.iters then (vget b.w c.w).limit
        else BitVec.ofNat 20 { c with iter := c.iter + 1, row := 0, x := 0 }.start } } := by
  simp only [State.afterPiece, last, loop, Bool.not_true, Bool.false_eq_true, if_false]
  split
  · rw [State.endCopy_brick]
    exact State.setWmark_brick brick ..
  · exact State.setWmark_brick brick ..

/-! ### Hold entries (09:R214) -/

/-- Entries that members have still to ask for stay. -/
theorem State.checkHolds_of_open (foot grp : Nat) (waits : ∀ h ∈ s.mcholds, s.allAsked h = false) : s.checkHolds foot grp = s := by
  have none : s.mcholds.filter (fun h => !h.tail && h.foot == foot && h.grp == grp && s.allAsked h) = [] := by
    rw [List.filter_eq_nil_iff]
    intro h inside
    simp [waits h inside]
  have all : s.mcholds.filter (not ∘ fun h => !h.tail && h.foot == foot && h.grp == grp && s.allAsked h) = s.mcholds := by
    rw [List.filter_eq_self]
    intro h inside
    simp [waits h inside]
  simp only [State.checkHolds, List.partition_eq_filter_filter, none, all, List.foldl_nil]

/-- The first request of a fill takes a hold entry and sets its timer, where its group has another member. -/
theorem State.atHold_first {r : McReq} {foot slice : Nat} (unused : s.mcholds = [])
    (untested : s.mctests.contains (foot, slice, r.grp) = false)
    (other : ∃ k ∈ (s.mcGroup foot r.grp).members, k ≠ r.brick) :
    s.atHold r foot slice = some { s with
      mcreqs := s.mcreqs.filter fun x => x.copy != r.copy
      mcholds := [⟨foot, slice, r.grp, r.key, [r.brick], [r.copy], s.cycle + 64 * (s.mcGroup foot r.grp).timer, false⟩] } := by
  obtain ⟨k, member, ne⟩ := other
  simp only [State.atHold, untested, unused, Bool.false_eq_true, if_false, List.find?_nil, State.holdFree, List.nil_append]
  congr 1
  refine State.checkHolds_of_open _ _ fun h inside => ?_
  rw [List.mem_singleton.1 inside]
  simp only [State.allAsked, List.all_eq_false]
  exact ⟨k, member, by simpa using ne⟩

theorem execMcRequest_reaches {r : McReq} {f : Nat → Nat} (asked : s.mcreqs.find? (fun x => x.copy == id) = some r)
    (found : s.copies.find? (fun x => x.id == id) = some c) (thawed : c.frozen = none) (working : s.working c.brick = true)
    (pages : s.engPages c.core c.asid (bits c.src 0 56) 1 .read = .ok f u)
    (ahead : u.mcBehind r c (u.sliceOf (footOf c.core) (f 0)) = false) {v : State}
    (held : u.atHold r (footOf c.core) (u.sliceOf (footOf c.core) (f 0)) = some v) : execMcRequest id s = .next v := by
  simp only [execMcRequest, asked, found, thawed, working, pages, ahead, held, Option.isSome_none, Bool.not_true, Bool.or_self,
    Bool.false_eq_true, if_false]

/-! ### Copies granted (09:R214, R215) -/

/-- A copy of this id lands now. -/
def State.Granted (s : State) (i : Nat) : Prop := ∃ d ∈ s.copies, d.id = i ∧ d.waiting = false

/-- Each copy stays where one is replaced, or is that one. -/
theorem State.setCopy_mem {d : CopyOp} (h : d ∈ s.copies) (c : CopyOp) :
    ∃ d' ∈ (s.setCopy c).copies, d'.id = d.id ∧ d' = if d.id = c.id then c else d := by
  refine ⟨_, List.mem_map_of_mem h, ?_, rfl⟩
  split
  next same => exact same.symm
  next => rfl

theorem State.Granted.setCopy {i : Nat} (h : s.Granted i) (granted : c.waiting = false) : (s.setCopy c).Granted i := by
  obtain ⟨d, mem, rfl, now⟩ := h
  obtain ⟨d', mem', same, is⟩ := State.setCopy_mem mem c
  refine ⟨d', mem', same, ?_⟩
  rw [is]
  split
  · exact granted
  · exact now

/-- Every copy of a list that is granted may land. -/
theorem State.granted_of_mem {fill : Nat} {l : List CopyOp} (mem : c ∈ l) {d : CopyOp} (inside : d ∈ s.copies) (same : d.id = c.id) :
    (l.foldl (fun s x => s.setCopy { x with waiting := false, fill := fill }) s).Granted c.id := by
  induction l generalizing s d with
  | nil => cases mem
  | cons x r ih =>
    obtain ⟨d', mem', same', is⟩ := State.setCopy_mem inside { x with waiting := false, fill := fill }
    rcases List.mem_cons.1 mem with rfl | later
    · have now : (s.setCopy { c with waiting := false, fill := fill }).Granted c.id := by
        refine ⟨d', mem', same'.trans same, ?_⟩
        rw [is, if_pos same]
      exact List.foldlRecOn r _ (motive := fun t : State => t.Granted c.id) now fun t h y _ => h.setCopy rfl
    · exact ih later mem' (same'.trans same)

theorem State.grant_granted (s : State) {copies : List Nat} (mem : c ∈ s.copies) (named : c.id ∈ copies) :
    (s.grant copies false).Granted c.id :=
  State.granted_of_mem (s := { s.newId.2 with fills := ⟨s.newId.1, []⟩ :: s.fills })
    (List.mem_filter.2 ⟨mem, List.contains_iff_mem.2 named⟩) mem rfl

theorem State.grant_mcholds (s : State) (copies : List Nat) : (s.grant copies false).mcholds = s.mcholds := by
  unfold State.grant
  exact List.foldlRecOn _ _ (motive := fun t : State => t.mcholds = s.mcholds) rfl fun t h y _ => h

/-- A hold entry whose timer has run out: its copies may land, and it stays as a tail (09:R214). -/
theorem execMcHoldExpiry_grants {h : McHold} (one : s.mcholds = [h]) (held : h.tail = false) (due : h.expiry ≤ s.cycle) :
    execMcHoldExpiry h.foot h.slice h.grp s =
      .next { (s.grant h.copies false).tested h with mcholds := [{ h with tail := true, copies := [] }] } := by
  have found : s.mcholds.find? (fun x => x.foot == h.foot && x.slice == h.slice && x.grp == h.grp && !x.tail) = some h := by
    simp [one, held]
  have kept : ((s.grant h.copies false).tested h).mcholds = [h] := (s.grant_mcholds h.copies).trans one
  simp only [execMcHoldExpiry, found, if_neg (Nat.not_lt.2 due), kept, List.map_cons, List.map_nil, if_true]

/-! ### Elements of gathers and scatters (12:R246, R247) -/

variable {i : IdxOp} {e : Nat}

/-- A read of the scratchpad changes nothing. -/
theorem State.engSpad_state {gid k off : Nat} {key : BKey} (h : s.engSpad gid k key off n = .ok bs u) : u = s := by
  unfold State.engSpad at h
  split at h
  · cases h
    rfl
  · split at h
    · cases h
    · split at h <;> cases h
      rfl

theorem State.readList_state {r : List Nat × List Bool} (h : s.readList i = .ok r u) : u = s := by
  unfold State.readList at h
  split at h
  next list =>
    split at h
    · cases h
      exact State.engSpad_state list
    · split at h
      next mask =>
        cases h
        exact (State.engSpad_state mask).trans (State.engSpad_state list)
      all_goals cases h
  all_goals cases h

/-- The first step of an operation reads its list and its mask. -/
theorem State.idxStart_reads {r : List Nat × List Bool} (list : s.readList i = .ok r u) :
    s.idxStart i = .next (s.idxGo { i with read := some r }) := by
  cases State.readList_state list
  simp only [State.idxStart, list]

theorem execGatherElementReturn_starts (found : s.idxops.find? (fun x => x.id == id && x.gather) = some i) (live : s.idxLive i = true)
    (unread : i.read = none) : execGatherElementReturn id e s = s.idxStart i := by
  simp only [execGatherElementReturn, found, live, unread, Bool.not_true, Bool.false_eq_true, if_false, Option.isNone_none, if_true]

theorem execScatterElementAck_starts (found : s.idxops.find? (fun x => x.id == id && !x.gather) = some i) (live : s.idxLive i = true)
    (unread : i.read = none) : execScatterElementAck id e s = s.idxStart i := by
  simp only [execScatterElementAck, found, live, unread, Bool.not_true, Bool.false_eq_true, if_false, Option.isNone_none, if_true]

theorem execGatherElementReturn_returns (found : s.idxops.find? (fun x => x.id == id && x.gather) = some i) (live : s.idxLive i = true)
    (read : i.read ≠ none) (todo : i.todo e = true) (element : s.engRead i.gid i.core i.asid (i.addr e) i.t.bytes i.deps = .ok bs u) :
    execGatherElementReturn id e s = .next (u.idxGo { i with got := i.got ++ [(e, true, bs)] }) := by
  have read : i.read.isNone = false := Option.isNone_eq_false_iff.2 (Option.isSome_iff_ne_none.2 read)
  simp only [execGatherElementReturn, found, live, read, todo, element, Bool.not_true, Bool.false_eq_true, if_false]

/-- An element of a scatter is acknowledged once no earlier one has to go to its slice (12:R247). -/
theorem execScatterElementAck_acks {v : State} (found : s.idxops.find? (fun x => x.id == id && !x.gather) = some i)
    (live : s.idxLive i = true) (read : i.read ≠ none) (todo : i.todo e = true)
    (first : ∀ j < e, i.todo j = true → s.elemSlice i j ≠ s.elemSlice i e)
    (bytes : s.engSpad i.gid i.id i.brick (i.base + e * i.t.bytes) i.t.bytes = .ok bs u)
    (written : (if i.add then u.addElem i e bs else u.engWrite ⟨i.id, i.gid, i.core⟩ i.asid (i.addr e) bs i.deps) = .ok () v) :
    execScatterElementAck id e s = .next ((v.dropElem i e).idxGo { i with got := i.got ++ [(e, true, [])] }) := by
  have read : i.read.isNone = false := Option.isNone_eq_false_iff.2 (Option.isSome_iff_ne_none.2 read)
  have none : (List.range e).any (fun j => i.todo j && s.elemSlice i j == s.elemSlice i e) = false := by
    simp only [List.any_eq_false, List.mem_range, Bool.and_eq_true, beq_iff_eq, not_and]
    exact first
  simp only [execScatterElementAck, found, live, read, todo, none, bytes, written, Bool.not_true, Bool.and_false, Bool.false_eq_true,
    if_false]

end Sys2Proof.Machine

open Sys2Proof Sys2Proof.Machine

/-- Settles O52: a piece by its copy and its stage, the last piece by its watermark, a fill's request and its hold entry, and an element
by its operation's list. -/
theorem copiesAndGathersLand : Obligations.CopiesAndGathersLand := by
  unfold Obligations.CopiesAndGathersLand
  refine ⟨fun s u c id bs found ongoing granted thawed working free loop bytes rows => ?_, fun s c n b brick loop bytes rows => ?_,
    fun s u c id bs b found ongoing granted thawed working free loop bytes rows brick => ?_, ?_, ?_, ?_, ?_, ?_⟩
  · intro off n piece
    have refill : s.refillHeld c = false := by simp only [State.refillHeld, loop, Bool.false_and]
    exact State.Pipes.lands ⟨found, ongoing, granted, thawed, working, free⟩ (CopyOp.isEmpty_eq_false bytes rows)
      (fun isLoop => by simp [loop] at isLoop) refill piece
  · exact State.afterPiece_completes brick loop (CopyOp.nextPiece_last bytes rows)
  · intro w stage off n
    have filled := CopyOp.isEmpty_eq_false bytes rows
    have place : off = c.dst c.row c.x := by
      unfold CopyOp.dst
      rw [CopyOp.start_of_loop loop filled]
    have mark := State.wmark_of_brick brick c.w
    refine ⟨fun ring refill piece => ?_, fun full => ?_, fun lastBytes lastRow => ?_⟩
    · simp only [n, place] at piece ⊢
      exact State.Pipes.lands ⟨found, ongoing, granted, thawed, working, free⟩ filled (fun _ => mark ▸ ring) refill piece
    · exact execCopyPieceLand_waits found loop (mark ▸ full)
    · refine (State.afterPiece_iterates brick loop (CopyOp.nextPiece_last lastBytes lastRow)).trans ?_
      rw [CopyOp.start_of_loop (c := { c with iter := c.iter + 1, row := 0, x := 0 }) loop filled]
  · intro s u r c id f asked found thawed working pages ahead unused untested other
    exact execMcRequest_reaches asked found thawed working pages ahead (State.atHold_first unused untested other)
  · rintro s h f k n one rfl rfl rfl held due
    exact ⟨_, execMcHoldExpiry_grants one held due, rfl, fun c mem named => s.grant_granted mem named⟩
  · intro s u c id gather found live unread r list e
    cases gather with
    | true =>
      simp only [beq_true] at found
      exact (execGatherElementReturn_starts found live unread).trans (State.idxStart_reads list)
    | false =>
      simp only [beq_false] at found
      exact (execScatterElementAck_starts found live unread).trans (State.idxStart_reads list)
  · intro s u c id e bs found live read todo element
    exact execGatherElementReturn_returns found live read todo element
  · intro s u v c id e bs found live read todo first bytes written
    exact execScatterElementAck_acks found live read todo first bytes written

end
